-- ==== Sys2Proof/Word.lean ====
section
/-! DEFINITION. The words of the part: a byte, the 48-bit tick (R157) and the 64-bit wall time (R158). -/

namespace Sys2Proof

/-- One byte. -/
abbrev Byte := BitVec 8

/-- The tick counter and every tick stamp (R157: 48 bits, wraps to 0). -/
abbrev Tick := BitVec 48

/-- Wall time in milliseconds (R158: unsigned 64-bit). -/
abbrev WallTime := BitVec 64

end Sys2Proof
end

