-- ==== Sys2Proof/Syntax.lean ====
section
/-! DEFINITION. The commands the part takes: one constructor of `Instr` per row of spec/opcode_table.json. -/

namespace Sys2Proof

/-- The six request ports (section 0.2.1). -/
inductive Port where
  | s0 | s1 | s2 | s3 | mgt | svc
  deriving DecidableEq, Repr

/-- The fault lines FLT0 to FLT3 and FLTB (Table 10.1). -/
inductive FaultLine where
  | flt0 | flt1 | flt2 | flt3 | fltb
  deriving DecidableEq, Repr

/-- The six discrete inputs that the Trigger Unit filters (R1). -/
inductive Line where
  | fault (f : FaultLine)
  | pwrwarn
  deriving DecidableEq, Repr

/-- The outcome of a PROGRAM (R57). -/
inductive ProgramOutcome where
  | ok | programFail
  deriving DecidableEq, Repr

/-- The outcome of an ERASE (R58). -/
inductive EraseOutcome where
  | ok | eraseFail
  deriving DecidableEq, Repr

/-- The commands. A request row carries the port, the tag and the payload of a frame whose check is good (R169); the
code is the row's own (Table 13.3). -/
inductive Instr where
  -- requests
  | openStream (port : Port) (tag : Byte) (payload : List Byte)
  | append (port : Port) (tag : Byte) (payload : List Byte)
  | withdraw (port : Port) (tag : Byte) (payload : List Byte)
  | logEvent (port : Port) (tag : Byte) (payload : List Byte)
  | declare (port : Port) (tag : Byte) (payload : List Byte)
  | getStatus (port : Port) (tag : Byte) (payload : List Byte)
  | nextNotice (port : Port) (tag : Byte) (payload : List Byte)
  | readParams (port : Port) (tag : Byte) (payload : List Byte)
  | listIncidents (port : Port) (tag : Byte) (payload : List Byte)
  | readIncident (port : Port) (tag : Byte) (payload : List Byte)
  | readStream (port : Port) (tag : Byte) (payload : List Byte)
  | readMore (port : Port) (tag : Byte) (payload : List Byte)
  | readHistory (port : Port) (tag : Byte) (payload : List Byte)
  | release (port : Port) (tag : Byte) (payload : List Byte)
  | hold (port : Port) (tag : Byte) (payload : List Byte)
  | unhold (port : Port) (tag : Byte) (payload : List Byte)
  | locate (port : Port) (tag : Byte) (payload : List Byte)
  | setWalltime (port : Port) (tag : Byte) (payload : List Byte)
  | getSettings (port : Port) (tag : Byte) (payload : List Byte)
  | putSettings (port : Port) (tag : Byte) (payload : List Byte)
  | saveSettings (port : Port) (tag : Byte) (payload : List Byte)
  -- frames and links
  | unknownRequest (port : Port) (code tag : Byte) (payload : List Byte)
  | frameError (port : Port) (frame : List Byte)
  | overlapFrame (port : Port) (frame : List Byte)
  | fetch (port : Port) (count : Nat)
  | linkReset (port : Port)
  | svcFrameGap
  -- supply and reset; the straps MA0 and MA1 are sampled then (Table 10.1)
  | powerUp (ma0 ma1 : Bool)
  | deviceReset (ma0 ma1 : Bool)
  -- lines and deadlines
  | lineChange (line : Line) (asserted : Bool)
  | filterExpiry (line : Line)
  | captureWindowExpiry
  | captureLimitExpiry
  | holdupDeadlineExpiry
  | rechargeExpiry
  | flushIntervalExpiry
  | locateExpiry
  -- the array
  | eraseRunTimer
  | eraseSuspended
  | arbiterGrant
  | commitProgramDone (outcome : ProgramOutcome)
  | voidMarkDone (outcome : ProgramOutcome)
  | journalProgramDone (outcome : ProgramOutcome)
  | imageProgramDone (outcome : ProgramOutcome)
  | historyFlushDone (outcome : ProgramOutcome)
  | settingsProgramDone (outcome : ProgramOutcome)
  | reclaimEraseDone (outcome : EraseOutcome)
  | ringEraseDone (outcome : EraseOutcome)
  | spareZoneEraseDone (outcome : EraseOutcome)
  | settingsZoneEraseDone (outcome : EraseOutcome)
  | streamReadDone
  | historyReadDone
  | recoveryReadDone
  -- the part's own moments
  | captureWaiterServed
  | maintenanceWaiterAccepted
  | streamRelease (slot : Fin 16)
  | incidentKept
  | passToClosing
  | loadPoint
  | compactionStart
  | reclaimStart
  | powerLoss
  deriving DecidableEq, Repr

end Sys2Proof
end

