-- ==== Sys2Proof/Decode.lean ====
section
/-! DEFINITION. Words to commands. The rows of spec/opcode_table.json give no bits: commands come as frames and events,
not as words. -/

namespace Sys2Proof

/-- The command that a word of the table spells: none, since no row gives bits. -/
def decodeTableWord (_nbits _w : Nat) : Option Instr := none

end Sys2Proof
end

