-- ==== Sys2Proof/Config.lean ====
section
/-! DEFINITION. What the part fixes (Table 12.2 and the rules named) and the free values: constants with no body, so
that no proof can see what they are. -/

namespace Sys2Proof.Config

/-- Pages in a zone (R49). -/
abbrev pagesPerZone : Nat := 32
/-- Data bytes of a page (R49). -/
abbrev pageData : Nat := 1024
/-- Data and spare bytes of a page together (R49). -/
abbrev pageBytes : Nat := 1088
/-- The first pool zone (Table 3.1). -/
abbrev firstPoolZone : Nat := 19
/-- Pool zones (Table 3.1). -/
abbrev poolZones : Nat := 237
/-- The first history zone (Table 3.1). -/
abbrev firstRingZone : Nat := 3
/-- Staging blocks and their size (R30). -/
abbrev stagingBlocks : Nat := 64
abbrev blockSize : Nat := 1024
/-- Streams an incident may hold (R27). -/
abbrev streamsPerIncident : Nat := 12
/-- Places of the directory queue, and the depth below which non-capture and maintenance entries enter (R93). -/
abbrev queueDepth : Nat := 80
abbrev housekeepingDepth : Nat := 16
/-- Entry slots of a directory zone (Table 3.1) and the free slots below which compaction is due (R99). -/
abbrev journalSlots : Nat := 512
abbrev compactionMargin : Nat := 32
/-- Places of the intake queue (R108). -/
abbrev intakeDepth : Nat := 32
/-- The pin limit (R124). -/
abbrev pinLimit : Nat := 12
/-- The greatest 32-bit number: incident numbers, sequence numbers, epochs, generations (R18, R107, R109). -/
abbrev max32 : Nat := 4294967295
/-- The defect count at which the part enters STORE_FAILED (R67). -/
abbrev defectLimit : Nat := 33
/-- The longest payload of a frame (R169) and the most data bytes of an APPEND and of a read reply (R35, R184). -/
abbrev maxPayload : Nat := 520
abbrev maxData : Nat := 512
/-- Ticks of a millisecond (R160), of the least run of an erase (R60) and of the locate times (R166). -/
abbrev ticksPerMs : Nat := 1000
abbrev eraseMinRun : Nat := 1000
abbrev locateRun : Nat := 10000000
abbrev locateMax : Nat := 60000000
/-- The UART of SVC in 36ths of a microsecond (R176): a tick, and the ten bits of a byte at 115,200 baud. -/
abbrev uartTick : Nat := 36
abbrev uartByte : Nat := 3125

/-- FREE VALUE. Byte `a` of the array as the `n`-th failed or interrupted operation left it, where the manual fixes
only a bound (R57, R58, R69; log entry 3). -/
opaque freeByte : Nat → Nat → Byte

/-- FREE VALUE. The check-word column of data bit `i` of a chunk (R54; log entry 6): `Machine.eccColumn` uses it when
it is a single-correct, double-detect code. -/
opaque eccColumn : Nat → BitVec 16

end Sys2Proof.Config
end

