-- ==== Sys2Proof/Machine/State.lean ====
section
/-! DEFINITION. The state of the part: every block of Table 1.1 with the state it owns, as plain data, and the state
right after power-up. -/

namespace Sys2Proof.Machine

/-! ### Keyed data in one canonical form -/

/-- Sparse data by key: a list of keys and values. Its canonical form is `SMap.wf` (Machine/Ops.lean): keys strictly
rising, no entry equal to what an unlisted key reads as. -/
abbrev SMap (α : Type) := List (Nat × α)

/-- The flash array's bytes by address (R49); an unlisted byte reads FFH. -/
abbrev Memory := List Host.Cell

/-! ### Names shared by the blocks -/

abbrev Zone := Fin 256
abbrev PageNo := Fin 32
abbrev DirSlot := Fin 32
abbrev StreamIdx := Fin 16
/-- Ring zone `k` is zone 3 + k (Table 3.1). -/
abbrev RingIdx := Fin 16

/-- A page of the array (R49). -/
structure PageAddr where
  zone : Zone
  page : PageNo
  deriving DecidableEq, Repr

/-- Operating modes (Table 7.1). -/
inductive Mode where
  | start | normal | holdup | exhausted
  deriving DecidableEq, Repr

/-- What began the closing phase (Table 7.1). -/
inductive ClosingCause where
  | reserve | deadline
  deriving DecidableEq, Repr

/-- The status of a reply (Table 13.4). -/
inductive Status where
  | ok | frameError | unknownRequest | badLength | badValue | noRight | starting | power | exhausted | storeFailed
  | noIncident | windowClosed | streamLimit | noSlot | badHandle | notOwner | endedAlready | misaligned | overrun
  | stagingFull | dropped | notFound | gone | notKept | held | directoryBusy | noCursor | none
  deriving DecidableEq, Repr

/-- The rights (R191, from bit 0 upwards). -/
inductive Right where
  | capture | event | declare | read | release | hold | config | locate
  deriving DecidableEq, Repr

/-! ### Incidents, triggers and streams (chapters 1 and 2) -/

/-- Trigger causes (Table 1.4); `none` is the code 0 of Table 13.6, which only an entry read back can carry. -/
inductive Cause where
  | none
  | fault (f : FaultLine)
  | power
  | declared (p : Port)
  deriving DecidableEq, Repr

/-- A trigger record (R5). -/
structure TriggerRecord where
  cause : Cause
  tick : Tick
  wall : Option WallTime
  snapshot : Byte
  deriving DecidableEq, Repr

/-- What ICT did with a trigger (Table 1.7). -/
inductive Disposition where
  | opened | secondary | refused
  deriving DecidableEq, Repr

/-- The state of a slot that holds a record (Table 1.6). -/
inductive SlotState where
  | recording | closing | kept
  deriving DecidableEq, Repr

inductive Completeness where
  | full | partly | noData | interrupted
  deriving DecidableEq, Repr

/-- Reasons of a cut (Table 2.1). -/
inductive Reason where
  | limit | power | storeFull | media
  deriving DecidableEq, Repr

/-- End kinds of a stream record (Table 13.6). -/
inductive EndKind where
  | open | ended | truncated | abandoned | interrupted
  deriving DecidableEq, Repr

/-- The pending end kind of a slot that has left OPEN, with its reason (Table 2.1). -/
inductive PendingEnd where
  | ended
  | truncated (r : Reason)
  | abandoned
  deriving DecidableEq, Repr

/-- The code `port or source` of Table 13.6: the source of a history entry (R113), and of a stream record as an entry
read back may name it. -/
inductive Source where
  | port (p : Port)
  | internal
  deriving DecidableEq, Repr

/-- A stream record of the Incident Directory (R25). -/
structure StreamRec where
  number : Nat
  source : Source
  cls : Nat
  label : BitVec 64
  declared : Option Nat
  accepted : Nat
  committed : Nat
  pages : Nat
  endKind : EndKind
  reason : Option Reason
  short : Bool
  deriving DecidableEq, Repr

/-- An incident record (Table 1.5). -/
structure Incident where
  state : SlotState
  number : Nat
  epoch : Nat
  primary : TriggerRecord
  secondary : List (Cause × Tick)
  overflow : Nat
  streams : List StreamRec
  windowFirst : Nat
  windowLast : Nat
  shortened : Bool
  completeness : Option Completeness
  held : Bool
  retrieved : Bool
  deriving DecidableEq, Repr

/-- A staging block in use (section 2.3). Its fill count is the length of its data. -/
structure Block where
  id : Nat
  slot : StreamIdx
  gen : Byte
  incident : Nat
  stream : Nat
  cls : Nat
  seq : Nat
  data : List Byte
  deriving DecidableEq, Repr

/-- The fields of a taken stream slot (Table 2.1). `ending` is absent while the slot is OPEN. -/
structure StreamBody where
  incident : Nat
  stream : Nat
  owner : Port
  cls : Nat
  declared : Option Nat
  accepted : Nat
  committed : Nat
  pages : Nat
  nextSeq : Nat
  fill : Option Block
  queued : Nat
  ending : Option PendingEnd
  short : Bool
  deriving DecidableEq, Repr

/-- A slot of the Stream Table: its generation and, unless it is FREE, its fields (R23). -/
structure StreamSlot where
  gen : Byte
  body : Option StreamBody
  deriving DecidableEq, Repr

/-! ### The journal (chapter 5) -/

/-- Journal entries (Table 5.2), with the fields of Table 13.8. `incidentSummary` carries a record with an empty list
of streams and the number of streams. -/
inductive JEntry where
  | incidentOpen (slot : Nat) (number epoch : Nat) (t : TriggerRecord) (first last : Nat) (shortened : Bool)
  | triggerAdd (number : Nat) (cause : Cause) (tick : Tick)
  | streamOpen (number stream : Nat) (source : Source) (cls : Nat) (label : BitVec 64) (declared : Option Nat)
  | streamEnd (number stream : Nat) (endKind : EndKind) (reason : Option Reason) (short : Bool)
      (accepted committed pages : Nat)
  | incidentClose (number : Nat) (completeness : Option Completeness) (overflow : Nat)
  | retrieved (number : Nat)
  | holdSet (number : Nat)
  | holdClear (number : Nat)
  | release (number : Nat)
  | reclaimStart (zone : Zone)
  | reclaimDone (zone : Zone)
  | zoneDefect (zone : Zone)
  | epoch (epoch : Nat)
  | compactHead (generation epoch nextIncident : Nat)
  | incidentSummary (slot : Nat) (record : Incident) (streams : Nat)
  | streamSummary (number : Nat) (record : StreamRec)
  | compactTail (generation count : Nat)
  deriving DecidableEq, Repr

/-- Capture requesters waiting for places in the directory queue (R95). -/
inductive CapWaiter where
  | opening
  | triggerAdd (number : Nat) (cause : Cause) (tick : Tick)
  | openStream (port : Port) (cls : Nat) (label : BitVec 64) (declared : Option Nat)
  | streamEnd (slot : StreamIdx)
  | incidentClose
  | recovery (entry : JEntry)
  deriving DecidableEq, Repr

/-- Spare zone states (Table 5.3). -/
inductive SpareState where
  | erased | image | dirty | erasing
  deriving DecidableEq, Repr

/-- States of the two writers that program flash in batches (Tables 5.1 and 6.1). -/
inductive WriterState where
  | idle | waitGrant | programming
  deriving DecidableEq, Repr

/-- The compaction copy (R100): the directory, the defect set and the unfinished reclaim, with the counters of the
head. -/
structure CompactionCopy where
  dir : Vector (Option Incident) 32
  defects : List Zone
  unfinished : Option Zone
  generation : Nat
  epoch : Nat
  nextIncident : Nat
  deriving DecidableEq, Repr

/-! ### History entries (chapter 6) -/

/-- Formats F0 to F6 with their fields (Table 6.2). -/
inductive HBody where
  | plain
  | data8 (d : BitVec 64)
  | data24 (d : BitVec 192)
  | gap
  | trigger (incident : Nat) (cause : Cause) (tick : Tick) (snapshot : Byte) (disposition : Disposition)
  | wallmark (w : WallTime)
  | start (epoch interrupted torn : Nat)
  deriving DecidableEq, Repr

/-- A history entry (R113). -/
structure HEntry where
  body : HBody
  severity : Nat
  source : Source
  code : Nat
  seq : Nat
  tick : Tick
  deriving DecidableEq, Repr

/-- Ring zone states (Table 6.4). -/
inductive RingState where
  | erased | active | filled | erasing | defective
  deriving DecidableEq, Repr

/-- A ring index entry (R119). -/
structure RingZone where
  state : RingState
  range : Option (Nat × Nat)
  pins : List Nat
  deriving DecidableEq, Repr

/-- The write page of the History Unit (Table 6.1). -/
structure WritePage where
  zone : RingIdx
  page : PageNo
  programmed : Nat
  deriving DecidableEq, Repr

/-! ### The pool (chapter 4) -/

inductive PoolState where
  | free | filling | full | retired | erasing | defective
  deriving DecidableEq, Repr

/-- A Zone Table entry (R81). -/
structure ZoneEntry where
  state : PoolState
  nextPage : Nat
  holders : List Nat
  deriving DecidableEq, Repr

/-- A Page Map entry (Table 4.3). -/
inductive PageEntry where
  | erased
  | programming
  | live (incident stream seq fill : Nat)
  | torn
  | void
  | dead
  deriving DecidableEq, Repr

/-- The reclaim process (Table 4.4). -/
inductive ReclaimStep where
  | idle
  | startWait (z : Zone)
  | eraseWait (z : Zone)
  | eraseRun (z : Zone)
  | doneQueue (z : Zone)
  | doneWait (z : Zone)
  deriving DecidableEq, Repr

/-- Commit Engine states (Table 4.1). -/
inductive CmeState where
  | idle | waitGrant | programming | voidWait | voiding
  deriving DecidableEq, Repr

/-! ### The array (chapter 3) -/

/-- Who holds an array request (Table 3.6). -/
inductive Requester where
  | journal | image
  | commit | voidMark
  | flush
  | rtu (p : Port) | scanner
  | save
  | ringPrep | dirErase | settingsErase | reclaim
  deriving DecidableEq, Repr

/-- What a request asks of the array: a READ of ranges of one page, a PROGRAM of bytes of one page, an ERASE of one
zone (R51, R56 to R58). Offsets count from the start of the data area and of the spare area. -/
inductive Job where
  | read (page : PageAddr) (dataAt dataLen spareAt spareLen : Nat)
  | program (page : PageAddr) (dataAt : Nat) (data : List Byte) (spareAt : Nat) (spare : List Byte)
  | erase (zone : Zone)
  deriving DecidableEq, Repr

/-- A request in the arbiter's waiting set, or the operation in progress (R59, R62). -/
structure ArrReq where
  who : Requester
  job : Job
  deriving DecidableEq, Repr

inductive ErasePhase where
  | running | suspending | suspended
  deriving DecidableEq, Repr

/-- The erase that exists, if one does (R59). -/
structure EraseOp where
  phase : ErasePhase
  zone : Zone
  who : Requester
  deriving DecidableEq, Repr

/-! ### Settings (chapter 12) -/

/-- A settings record (Table 12.1). `rights` holds S0 to S3 and MGT, `filters` FLT0 to FLT3, FLTB and PWRWARN. -/
structure Settings where
  window : Nat
  limit : Nat
  historyWindow : Nat
  flushInterval : Nat
  credits : Nat
  reserve : Nat
  holdupDeadline : Nat
  recharge : Nat
  powerTrigger : Nat
  lineEnables : Byte
  filters : Vector Nat 6
  class0Reserve : Nat
  rollOldest : Nat
  poolLow : Nat
  rights : Vector Byte 5
  deriving DecidableEq, Repr

/-- The rights of S0 to S3 and MGT when the settings hold none (Table 10.5). -/
def defaultRights : Vector Byte 5 := #v[0x07, 0x07, 0x07, 0x07, 0xDE]

/-- The defaults of Table 12.1. -/
def Settings.defaults : Settings where
  window := 5000
  limit := 120000
  historyWindow := 1024
  flushInterval := 1000
  credits := 32
  reserve := 6
  holdupDeadline := 60
  recharge := 2000
  powerTrigger := 1
  lineEnables := 0x1F
  filters := Vector.replicate 6 50
  class0Reserve := 8
  rollOldest := 0
  poolLow := 16
  rights := defaultRights

/-- The outcome a save is answered with (Table 13.6). -/
inductive SaveOutcome where
  | saved (page : Nat)
  | notSaved
  deriving DecidableEq, Repr

/-- A save waiting in SST's list (R194): the port to answer (absent after a link reset), the record and the number of
its failed programs. -/
structure Save where
  port : Option Port
  record : Settings
  fails : Nat
  deriving DecidableEq, Repr

/-! ### Notices (chapter 9) -/

/-- Notice causes in order of priority (Table 9.2). -/
inductive NoticeCause where
  | storeFailed | powerWarn | incidentOpened | incidentKept | triggerRefused | streamCut | historyHalted | historyLost
  | integrity | poolLow | settingsDefaulted | recoveryDone
  deriving DecidableEq, Repr

structure Notice where
  cause : NoticeCause
  detail : BitVec 32
  repeats : Nat
  deriving DecidableEq, Repr

/-- Indicator patterns (Table 9.3). -/
inductive IndPattern where
  | locate | steady | fast | slow | dark
  deriving DecidableEq, Repr

/-! ### Replies (chapters 10, 11 and 13) -/

/-- The fields of a GET_STATUS reply (Table 9.4). -/
structure StatusFields where
  mode : Mode
  storeFailed : Bool
  closingPhase : Bool
  halted : Bool
  locating : Bool
  recording : Nat
  closing : Nat
  freeBlocks : Nat
  freeZones : Nat
  credits : Nat
  notices : Nat
  epoch : Nat
  wallValid : Bool
  lost : Nat
  defects : Nat
  queueDepth : Nat
  deriving DecidableEq, Repr

/-- The payload of a reply, by the fields its request's rule lists. -/
inductive ReplyBody where
  | empty
  | opened (slot : StreamIdx) (gen : Byte) (incident stream : Nat)
  | appended (accepted : Nat) (draining : Bool)
  | endedAlready (ending : PendingEnd) (accepted : Nat)
  | accepted (n : Nat)
  | logged (seq : Nat)
  | dropped (lost : Nat)
  | declared (disposition : Disposition) (incident : Nat)
  | status (f : StatusFields)
  | notice (n : Notice) (left : Nat)
  | params
  | incidents (l : List Incident)
  | incident (r : Incident)
  | stream (offset : Nat) (data : List Byte) (corrected uncorrectable : Nat)
  | history (entries : List Byte) (omitted : Nat)
  | heldFlag (held : Bool)
  | locateTime (ms : Nat)
  | settings (record : Settings) (loadDue : Bool) (savePos : Nat)
  | badIndex (index : Nat)
  | save (outcome : SaveOutcome)
  deriving DecidableEq, Repr

/-- A reply (Table 13.2). -/
structure Reply where
  code : Byte
  tag : Byte
  status : Status
  flags : Byte
  body : ReplyBody
  deriving DecidableEq, Repr

/-- Exchange states of a port (Table 10.2). -/
inductive Exchange where
  | empty
  | outstanding (code tag : Byte)
  | ready (code tag : Byte) (reply : Reply)
  deriving DecidableEq, Repr

/-- The state PIF keeps for a port (R168), and the bytes the port last sent (R174 to R176). -/
structure PortState where
  exchange : Exchange
  rx : List Byte
  overlap : Nat
  sent : List Byte
  deriving DecidableEq, Repr

def PortState.reset : PortState := ⟨.empty, [], 0, []⟩

/-! ### Reading (chapter 11) -/

/-- A read cursor (R180). -/
inductive Cursor where
  | empty
  | stream (incident stream offset : Nat) (gone : Bool)
  | history (next : Nat)
  deriving DecidableEq, Repr

/-- What a walk of the ring has met: the zone with its first stored number then, and the entry with its number, or no
number and no bytes for an entry that is omitted (R186). -/
structure Found where
  zone : RingIdx
  zoneFirst : Nat
  seq : Option Nat
  bytes : List Byte
  deriving DecidableEq, Repr

/-- A READ_HISTORY in hand: the start, what the walk has met so far, the page being read with the first stored number of
its zone when the read was placed, and whether a zone lost its entries during the walk (R186). -/
structure HistoryRead where
  start : Nat
  found : List Found
  zone : RingIdx
  page : PageNo
  zoneFirst : Nat
  skipped : Bool
  deriving DecidableEq, Repr

/-- A read request in hand: a stream reply fixed at the taking (R184), or a walk of the ring (R186). -/
inductive ReadKind where
  | stream (incident stream offset len : Nat) (more : Bool) (page : PageAddr)
  | history (h : HistoryRead)
  deriving DecidableEq, Repr

/-- A read request of a port, the cursor the port had before it (R181) and whether its present array read has been
granted (R187). -/
structure ReadJob where
  kind : ReadKind
  prior : Cursor
  granted : Bool
  deriving DecidableEq, Repr

/-! ### Recovery (chapter 8) -/

/-- The scan position (R144): the phase, the zone and the page whose read is waiting or in progress. A pool page is
read by its header first and in full when that header reads ERASED (R150); `poolDecode` lists the last pages of the
runs that R151 decodes. -/
inductive ScanPos where
  | idle
  | settings (page : PageNo)
  | directory (page : PageAddr)
  | poolHeader (page : PageAddr)
  | poolFull (page : PageAddr)
  | poolDecode (page : PageAddr) (rest : List PageAddr)
  | ring (page : PageAddr)
  deriving DecidableEq, Repr

/-- What phase 2 found (R146 to R149). -/
structure JournalScan where
  dir : Vector (Option Incident) 32
  active : Option Zone
  spare : Option SpareState
  pos : Nat
  journalOpen : Bool
  generation : Nat
  defects : List Zone
  unfinished : List Zone
  topEpoch : Option Nat
  headNext : Option Nat
  topIncident : Option Nat
  storeFailed : Option (BitVec 32)
  deriving DecidableEq, Repr

/-- What phase 3 found (R150 to R152): the directory with the counts of R151, the tables, the streams shortened, the
torn-page count and the highest epoch and incident number of the GOOD headers. -/
structure PoolScan where
  dir : Vector (Option Incident) 32
  zones : SMap ZoneEntry
  pages : SMap PageEntry
  fillZone : Option Zone
  cursor : Zone
  reErase : List Zone
  shortened : List Nat
  torn : Nat
  topEpoch : Option Nat
  topIncident : Option Nat
  deriving DecidableEq, Repr

/-- What phase 5 found (R154, R155). -/
structure RingScan where
  ring : Vector RingZone 16
  target : Option WritePage
  newest : RingIdx
  nextSeq : Nat
  topEpoch : Option Nat
  deriving DecidableEq, Repr

/-! ### The blocks (Table 1.1) -/

/-- A reply that SVC is sending (R176): the bytes behind the one on the line, how long that one has been on the line, in
36ths of a microsecond, and whether the port still keeps the reply, which it does while the start byte is on the line
and no frame has come since. -/
structure Sending where
  rest : List Byte
  phase : Nat
  kept : Bool
  deriving DecidableEq, Repr

/-- PIF: the ports, the UART receiver's hunt and the reply being sent (R176), and the I2C address sampled from the
straps (Table 10.1). -/
structure Pif where
  ports : Vector PortState 6
  svcHunting : Bool
  svcOut : Option Sending
  i2cAddr : BitVec 7
  deriving DecidableEq, Repr

/-- RQD: the working Port Rights Table of S0 to S3 and MGT (R178). -/
structure Rqd where
  rights : Vector Byte 5
  deriving DecidableEq, Repr

/-- TRU: the input levels, the qualified levels, the filter states (true: TIMING) and the latches (R1, R20). -/
structure Tru where
  levels : Vector Bool 6
  qualified : Vector Bool 6
  timing : Vector Bool 6
  latches : Vector (Option TriggerRecord) 5
  deriving DecidableEq, Repr

/-- A trigger that joined the pending opening, and the port whose DECLARE waits for it (R12). -/
structure Joined where
  trigger : TriggerRecord
  port : Option Port
  deriving DecidableEq, Repr

/-- The pending opening (R12). -/
structure Opening where
  trigger : TriggerRecord
  port : Option Port
  joined : List Joined
  deriving DecidableEq, Repr

/-- ICT (R22). -/
structure Ict where
  recording : Option DirSlot
  closing : Option DirSlot
  windowExpired : Bool
  opening : Option Opening
  attn : Vector Bool 4
  deriving DecidableEq, Repr

/-- CPM (R23). -/
structure Cpm where
  slots : Vector StreamSlot 16
  deriving DecidableEq, Repr

/-- STB: the free list, by block number, and the commit queue, head first (R30, R33). -/
structure Stb where
  free : List Nat
  queue : List Block
  deriving DecidableEq, Repr

/-- CME (R70). `dropping` marks a program that was in progress at the entry to the closing phase: its failure is
followed by no void mark and no retry (R80). -/
structure Cme where
  state : CmeState
  block : Option Block
  page : Option PageAddr
  retry : Nat
  dropping : Bool
  deriving DecidableEq, Repr

/-- PLM: the Zone Table by zone number, the Page Map by entry number, the fill zone, the cursor and the reclaim
process (R72, R81, R84, R85). -/
structure Plm where
  zones : SMap ZoneEntry
  pages : SMap PageEntry
  fillZone : Option Zone
  cursor : Zone
  reclaim : ReclaimStep
  reclaimAsked : Option Zone
  reErase : List Zone
  deriving DecidableEq, Repr

/-- ARC (R59, R62, R66, R68). -/
structure Arc where
  op : Option ArrReq
  erase : Option EraseOp
  runTimer : Nat
  waiting : List ArrReq
  defects : List Zone
  storeFailed : Bool
  deriving DecidableEq, Repr

/-- DRM (Table 5.1). `recoveryHeld` is set from an entry to NORMAL that finds a DIRTY spare and a compaction due until
a compaction starts: the entries of recovery wait for it (R156; log entry 49). -/
structure Drm where
  dir : Vector (Option Incident) 32
  queue : List JEntry
  maintWaiters : List JEntry
  captureWaiters : List CapWaiter
  active : Option Zone
  spare : Option SpareState
  pos : Nat
  journalOpen : Bool
  writer : WriterState
  batch : Nat
  copy : Option CompactionCopy
  imagePos : Nat
  absorbed : List JEntry
  generation : Nat
  epoch : Nat
  nextIncident : Nat
  recoveryHeld : Bool
  deriving DecidableEq, Repr

/-- HIU (Table 6.1). `target` is absent while the write target is AWAITING_ZONE. -/
structure Hiu where
  intake : List HEntry
  nextSeq : Nat
  lost : Nat
  staging : List HEntry
  target : Option WritePage
  newest : RingIdx
  closed : Bool
  mark : Option Nat
  writer : WriterState
  flushing : Nat
  ring : Vector RingZone 16
  deferred : List Nat
  prep : Option RingIdx
  halted : Bool
  deriving DecidableEq, Repr

/-- HUM (Table 7.1); the closing phase flag is set while `closing` is present. -/
structure Hum where
  mode : Mode
  credits : Nat
  closing : Option ClosingCause
  deriving DecidableEq, Repr

/-- The wall time last given, the tick at which it was taken, and the ticks passed since (R158, R159). -/
structure WallClock where
  value : WallTime
  tick : Tick
  passed : Nat
  deriving DecidableEq, Repr

/-- The twelve deadline slots: DISARMED, or ARMED with the expiry tick (R160). -/
structure Deadlines where
  window : Option Tick
  limit : Option Tick
  holdup : Option Tick
  recharge : Option Tick
  flush : Option Tick
  locate : Option Tick
  filters : Vector (Option Tick) 6
  deriving DecidableEq, Repr

/-- TMB (R157 to R160). -/
structure Tmb where
  tick : Tick
  wall : Option WallClock
  deadlines : Deadlines
  deriving DecidableEq, Repr

/-- NTU: the two notice sets in order of priority, the pattern shown and the ticks that have passed since it began
(R162, R165; the count is the model's own measure, log entry 43). -/
structure Ntu where
  management : List Notice
  service : List Notice
  ind : IndPattern
  indTicks : Nat
  deriving DecidableEq, Repr

/-- RTU (R180, R181). -/
structure Rtu where
  cursors : Vector Cursor 6
  jobs : Vector (Option ReadJob) 6
  deriving DecidableEq, Repr

/-- SST (R190, R194). -/
structure Sst where
  working : Settings
  pending : Settings
  loadDue : Bool
  savePos : Nat
  saves : List Save
  busy : Bool
  deriving DecidableEq, Repr

/-- RCS (R144). -/
structure Rcs where
  pos : ScanPos
  settingsDefaulted : Bool
  journal : Option JournalScan
  pool : Option PoolScan
  ring : Option RingScan
  interrupted : Nat
  torn : Nat
  deriving DecidableEq, Repr

/-- The volatile state of the part, block by block (Table 1.1). -/
structure Dev where
  pif : Pif
  rqd : Rqd
  tru : Tru
  ict : Ict
  cpm : Cpm
  stb : Stb
  cme : Cme
  plm : Plm
  arc : Arc
  drm : Drm
  hiu : Hiu
  hum : Hum
  tmb : Tmb
  ntu : Ntu
  rtu : Rtu
  sst : Sst
  rcs : Rcs
  deriving DecidableEq, Repr

/-- The state of the machine. `powered` says whether the part runs (R141, R142); `flash` outlives it; `freeCount` is
the model's own counter, the argument of the free values. -/
structure State where
  pending : List Instr
  powered : Bool
  flash : Memory
  freeCount : Nat
  dev : Dev
  deriving DecidableEq, Repr

/-- Why a step stops. -/
inductive Fault where
  /-- An access to an address outside the 256 zones of the array (R49). No command raises it: zones and pages are
  bounded types, so every access of this model names a byte that exists. Safe. -/
  | outsideArray
  deriving DecidableEq, Repr

/-- Why a command has no meaning. -/
inductive Refusal where
  /-- The command of this mnemonic has no meaning in this model. Raised by `exec`'s refused arms alone (at present by
  none). Safe. -/
  | notModelled (mnemonic : String)
  deriving DecidableEq, Repr

/-! ### Reset -/

/-- The reset value of every block (R142 and the rules named in INVENTORY.md), for the input levels and the straps
as they stand. -/
def Dev.reset (levels : Vector Bool 6) (i2cAddr : BitVec 7) : Dev where
  pif := { ports := Vector.replicate 6 PortState.reset, svcHunting := true, svcOut := none, i2cAddr }
  rqd := { rights := defaultRights }
  tru := { levels, qualified := Vector.replicate 6 false, timing := Vector.replicate 6 false,
           latches := Vector.replicate 5 none }
  ict := { recording := none, closing := none, windowExpired := false, opening := none,
           attn := Vector.replicate 4 false }
  cpm := { slots := Vector.replicate 16 ⟨0, none⟩ }
  stb := { free := List.range Config.stagingBlocks, queue := [] }
  cme := { state := .idle, block := none, page := none, retry := 0, dropping := false }
  plm := { zones := [], pages := [], fillZone := none, cursor := 255, reclaim := .idle, reclaimAsked := none,
           reErase := [] }
  arc := { op := none, erase := none, runTimer := 0, waiting := [], defects := [], storeFailed := false }
  drm := { dir := Vector.replicate 32 none, queue := [], maintWaiters := [], captureWaiters := [], active := none,
           spare := none, pos := 0, journalOpen := true, writer := .idle, batch := 0, copy := none, imagePos := 0,
           absorbed := [], generation := 0, epoch := 0, nextIncident := 1, recoveryHeld := false }
  hiu := { intake := [], nextSeq := 1, lost := 0, staging := [], target := none, newest := 15, closed := false,
           mark := none, writer := .idle, flushing := 0, ring := Vector.replicate 16 ⟨.erased, none, []⟩,
           deferred := [], prep := none, halted := false }
  hum := { mode := .start, credits := 0, closing := none }
  tmb := { tick := 0, wall := none,
           deadlines := { window := none, limit := none, holdup := none, recharge := none, flush := none,
                          locate := none, filters := Vector.replicate 6 none } }
  ntu := { management := [], service := [], ind := .dark, indTicks := 0 }
  rtu := { cursors := Vector.replicate 6 .empty, jobs := Vector.replicate 6 none }
  sst := { working := Settings.defaults, pending := Settings.defaults, loadDue := false, savePos := 0, saves := [],
           busy := false }
  rcs := { pos := .idle, settingsDefaulted := false, journal := none, pool := none, ring := none, interrupted := 0,
           torn := 0 }

/-- The first read of the recovery scan (R144, R145): page 0 of zone 0, whole. -/
def firstScanRead : ArrReq :=
  ⟨.scanner, .read ⟨0, 0⟩ 0 Config.pageData 0 (Config.pageBytes - Config.pageData)⟩

/-- The machine right after power-up (R142), the array blank, every input DEASSERTED and the straps low (log
entry 5): every block at its reset value and the Recovery Scanner's first read placed. -/
def State.reset : State where
  pending := []
  powered := true
  flash := []
  freeCount := 0
  dev :=
    let d := Dev.reset (Vector.replicate 6 false) 0x34
    { d with
      arc := { d.arc with waiting := [firstScanRead] }
      rcs := { d.rcs with pos := .settings 0 } }

end Sys2Proof.Machine
end

