-- ==== Sys2Proof/Machine/Ops.lean ====
section
/-! DEFINITION. The named operations every block uses: sparse data, the array's bytes (R49, R57, R58, R69),
little-endian fields, the CRC-16 (R170), and tick arithmetic (R160). -/

namespace Sys2Proof.Machine

/-! ### Sparse data -/

/-- The value of key `i`; `d` where no entry stands. -/
def SMap.get {α : Type} (d : α) : SMap α → Nat → α
  | [], _ => d
  | (k, v) :: m, i => if k = i then v else SMap.get d m i

/-- Gives key `i` the value `v`, keeping the canonical form: an entry equal to the default `d` is not listed. -/
def SMap.set {α : Type} [DecidableEq α] (d : α) (m : SMap α) (i : Nat) (v : α) : SMap α :=
  m.filter (·.1 < i) ++ (if v = d then [] else [(i, v)]) ++ m.filter (i < ·.1)

/-- The canonical form: keys strictly rising, no entry equal to the default. -/
abbrev SMap.wf {α : Type} [DecidableEq α] (d : α) (m : SMap α) : Prop :=
  (m.map (·.1)).Pairwise (· < ·) ∧ ∀ e ∈ m, e.2 ≠ d

/-! ### The array's bytes -/

/-- What a byte reads until it is programmed (R49). -/
abbrev erasedByte : Byte := 0xFF

/-- The byte at an address. -/
def Memory.read (m : Memory) (a : Nat) : Byte := SMap.get erasedByte m a

/-- The canonical form of the array's bytes. -/
abbrev Memory.wf (m : Memory) : Prop := SMap.wf erasedByte m

/-- `n` bytes from an address up. -/
def Memory.readRange (m : Memory) (a n : Nat) : List Byte := (List.range' a n).map m.read

/-- Rewrites the `n` bytes from address `a` up: byte `x`, holding `old`, becomes `g x old`. -/
def Memory.remap (m : Memory) (a n : Nat) (g : Nat → Byte → Byte) : Memory :=
  m.filter (·.1 < a)
    ++ (List.range' a n).filterMap (fun x =>
        let b := g x (m.read x)
        if b = erasedByte then none else some (x, b))
    ++ m.filter (a + n ≤ ·.1)

/-- Puts every one of the `n` bytes from address `a` up to FFH. -/
def Memory.clear (m : Memory) (a n : Nat) : Memory := m.filter (fun e => e.1 < a || a + n ≤ e.1)

/-- Byte `x` of a list of bytes that stands at address `a`. -/
def byteAt (a : Nat) (bs : List Byte) (x : Nat) : Byte := bs.getD (x - a) erasedByte

/-- A PROGRAM of `bs` at address `a`: the array stores the bits that are zero in either value (R49). -/
def Memory.program (m : Memory) (a : Nat) (bs : List Byte) : Memory :=
  m.remap a bs.length fun x old => old &&& byteAt a bs x

/-- A PROGRAM that fails or is cut short (R57, R69): a bit that was to be zero may be zero or one. R194 says that a
settings page that failed and reads valid holds the record requested; the model follows R57 alone, so bits that CRC-16
does not tell from a good record may leave another valid one (a choice of the model, log entry 50). -/
def Memory.programFail (m : Memory) (nonce a : Nat) (bs : List Byte) : Memory :=
  m.remap a bs.length fun x old => old &&& (byteAt a bs x ||| Config.freeByte nonce x)

/-- The verify of a PROGRAM (R57): whether the bytes read back as requested. That a byte already programmed is judged
by R57 alone, and not by the last words of R49, is the model's choice (log entry 33). -/
def Memory.verifies (m : Memory) (a : Nat) (bs : List Byte) : Bool :=
  (m.program a bs).readRange a bs.length == bs

/-- Bytes of a zone. -/
abbrev zoneBytes : Nat := Config.pagesPerZone * Config.pageBytes

/-- The address of a zone's first byte. -/
def zoneBase (z : Zone) : Nat := z.val * zoneBytes

/-- The address of a page's first data byte. -/
def PageAddr.base (p : PageAddr) : Nat := (p.zone.val * Config.pagesPerZone + p.page.val) * Config.pageBytes

/-- The address of a page's first spare byte. -/
def PageAddr.spareBase (p : PageAddr) : Nat := p.base + Config.pageData

/-- An ERASE that completes with OK (R58). -/
def Memory.eraseZone (m : Memory) (z : Zone) : Memory := m.clear (zoneBase z) zoneBytes

/-- An ERASE that fails (R58): the content of the zone is undetermined. -/
def Memory.eraseZoneFail (m : Memory) (nonce : Nat) (z : Zone) : Memory :=
  m.remap (zoneBase z) zoneBytes fun x _ => Config.freeByte nonce x

/-- An ERASE that is cut short (R69): each bit is as it was or set to one. -/
def Memory.eraseZoneCut (m : Memory) (nonce : Nat) (z : Zone) : Memory :=
  m.remap (zoneBase z) zoneBytes fun x old => old ||| Config.freeByte nonce x

/-- Data bytes of a page. -/
def Memory.pageData (m : Memory) (p : PageAddr) (at_ len : Nat) : List Byte := m.readRange (p.base + at_) len

/-- Spare bytes of a page. -/
def Memory.spare (m : Memory) (p : PageAddr) (at_ len : Nat) : List Byte := m.readRange (p.spareBase + at_) len

/-- The spare bytes a page header fills (section 3.2). -/
abbrev headerBytes : Nat := 32

/-- A page's header as stored. -/
def Memory.header (m : Memory) (p : PageAddr) : List Byte := m.spare p 0 headerBytes

/-- Every page of a zone, in order. -/
def zonePages (z : Zone) : List PageAddr := (List.finRange 32).map fun p => ⟨z, p⟩

/-! ### Fields -/

/-- `n` bytes of a number, least significant byte first. -/
def leBytes : Nat → Nat → List Byte
  | 0, _ => []
  | n + 1, v => BitVec.ofNat 8 v :: leBytes n (v / 256)

/-- The number that bytes spell, least significant byte first. -/
def leNat : List Byte → Nat
  | [] => 0
  | b :: bs => b.toNat + 256 * leNat bs

/-- The `len` bytes at offset `at_`. -/
def slice (bs : List Byte) (at_ len : Nat) : List Byte := (bs.drop at_).take len

/-- The field of `len` bytes at offset `at_`. -/
def field (bs : List Byte) (at_ len : Nat) : Nat := leNat (slice bs at_ len)

/-- One byte as a number. -/
def byte (bs : List Byte) (at_ : Nat) : Nat := (bs.getD at_ 0).toNat

/-- Bit `i` of a number. -/
def bit (n i : Nat) : Bool := n.testBit i

/-- A flag as a number. -/
def flag (b : Bool) : Nat := if b then 1 else 0

/-! ### CRC-16 (R170) -/

/-- One bit of the register: x^16 + x^12 + x^5 + 1. -/
def crcBit (r : BitVec 16) : BitVec 16 := if r.msb then (r <<< 1) ^^^ 0x1021#16 else r <<< 1

/-- One byte, most significant bit first. -/
def crcByte (r : BitVec 16) (b : Byte) : BitVec 16 :=
  Nat.repeat crcBit 8 (r ^^^ (b.setWidth 16 <<< 8))

/-- The CRC-16 of bytes: the register starts at FFFFH and its final value stands. -/
def crc16 (bs : List Byte) : BitVec 16 := bs.foldl crcByte 0xFFFF#16

/-- The two bytes of a CRC-16, least significant byte first. -/
def crcBytes (bs : List Byte) : List Byte := leBytes 2 (crc16 bs).toNat

/-- Bytes followed by their CRC-16. -/
def withCrc (bs : List Byte) : List Byte := bs ++ crcBytes bs

/-! ### Vectors, lists, counts -/

/-- Puts `x` at place `i`. -/
def put {α : Type} {n : Nat} (v : Vector α n) (i : Fin n) (x : α) : Vector α n := v.set i.val x i.isLt

/-- Rewrites place `i`. -/
def modify {α : Type} {n : Nat} (v : Vector α n) (i : Fin n) (f : α → α) : Vector α n := put v i (f v[i])

/-- The first place of `n` that satisfies a test. -/
def firstFin (n : Nat) (p : Fin n → Bool) : Option (Fin n) := (List.finRange n).find? p

/-- A count increased by one, up to a limit. -/
def bump (limit n : Nat) : Nat := min limit (n + 1)

/-- The greatest of a list of numbers. -/
def listMax (l : List Nat) : Option Nat := l.foldl (fun a n => some (max n (a.getD 0))) none

/-- The greater of two numbers of which either may be absent. -/
def optMax : Option Nat → Option Nat → Option Nat
  | some a, some b => some (max a b)
  | some a, none => some a
  | none, b => b

/-- The number of ports, sockets and lines: their places in the tables. -/
def Port.idx : Port → Fin 6
  | .s0 => 0 | .s1 => 1 | .s2 => 2 | .s3 => 3 | .mgt => 4 | .svc => 5

/-- The ports in the order of their codes. -/
def allPorts : List Port := [.s0, .s1, .s2, .s3, .mgt, .svc]

def FaultLine.idx : FaultLine → Fin 5
  | .flt0 => 0 | .flt1 => 1 | .flt2 => 2 | .flt3 => 3 | .fltb => 4

def Line.idx : Line → Fin 6
  | .fault .flt0 => 0 | .fault .flt1 => 1 | .fault .flt2 => 2 | .fault .flt3 => 3 | .fault .fltb => 4
  | .pwrwarn => 5

/-- The lines in the order of their bits in a snapshot. -/
def allLines : List Line := [.fault .flt0, .fault .flt1, .fault .flt2, .fault .flt3, .fault .fltb, .pwrwarn]

/-! ### Ticks -/

/-- The tick `us` microseconds after the present one (R157, R160). -/
def Dev.after (d : Dev) (us : Nat) : Tick := d.tmb.tick + BitVec.ofNat 48 us

/-- Whether an armed deadline has reached its expiry tick (R160). -/
def Dev.due (d : Dev) (slot : Option Tick) : Bool := slot == some d.tmb.tick

/-! ### Running a meaning -/

/-- A command that acts on the volatile state of a part that runs; an unpowered part does nothing (R141). -/
def State.act (f : Dev → Dev) (s : State) : Host.Outcome State Fault Refusal :=
  if s.powered then .next { s with dev := f s.dev } else .next s

end Sys2Proof.Machine
end

