-- ==== Sys2Proof/Machine/Operands.lean ====
section
/-! DEFINITION. The codes of Tables 13.3, 13.4 and 13.6, frames (R169, R196), and the operands of a request. -/

namespace Sys2Proof.Machine

/-! ### Field codes (Table 13.6) -/

def Port.code (p : Port) : Nat := (Port.idx p).val

def portOfCode : Nat → Option Port
  | 0 => some .s0 | 1 => some .s1 | 2 => some .s2 | 3 => some .s3 | 4 => some .mgt | 5 => some .svc
  | _ => none

def Source.code : Source → Nat
  | .port p => Port.code p
  | .internal => 6

def sourceOfCode (n : Nat) : Option Source := if n = 6 then some .internal else (portOfCode n).map .port

def Cause.code : Cause → Nat
  | .none => 0
  | .fault .flt0 => 1 | .fault .flt1 => 2 | .fault .flt2 => 3 | .fault .flt3 => 4 | .fault .fltb => 5
  | .power => 6
  | .declared .s0 => 7 | .declared .s1 => 8 | .declared .s2 => 9 | .declared .s3 => 10
  | .declared .mgt => 11 | .declared .svc => 12

def causeOfCode : Nat → Option Cause
  | 0 => some .none
  | 1 => some (.fault .flt0) | 2 => some (.fault .flt1) | 3 => some (.fault .flt2) | 4 => some (.fault .flt3)
  | 5 => some (.fault .fltb) | 6 => some .power | 7 => some (.declared .s0) | 8 => some (.declared .s1)
  | 9 => some (.declared .s2) | 10 => some (.declared .s3) | 11 => some (.declared .mgt)
  | 12 => some (.declared .svc) | _ => none

def SlotState.code : SlotState → Nat
  | .recording => 1 | .closing => 2 | .kept => 3

def slotStateOfCode : Nat → Option SlotState
  | 1 => some .recording | 2 => some .closing | 3 => some .kept | _ => none

def Completeness.code : Completeness → Nat
  | .full => 1 | .partly => 2 | .noData => 3 | .interrupted => 4

def completenessOfCode : Nat → Option Completeness
  | 1 => some .full | 2 => some .partly | 3 => some .noData | 4 => some .interrupted | _ => none

def EndKind.code : EndKind → Nat
  | .open => 0 | .ended => 1 | .truncated => 2 | .abandoned => 3 | .interrupted => 4

def endKindOfCode : Nat → Option EndKind
  | 0 => some .open | 1 => some .ended | 2 => some .truncated | 3 => some .abandoned | 4 => some .interrupted
  | _ => none

def Reason.code : Reason → Nat
  | .limit => 1 | .power => 2 | .storeFull => 3 | .media => 4

def reasonOfCode : Nat → Option Reason
  | 1 => some .limit | 2 => some .power | 3 => some .storeFull | 4 => some .media | _ => none

/-- A code of an optional field: 0 when absent. -/
def optCode {α : Type} (code : α → Nat) : Option α → Nat
  | none => 0
  | some a => code a

/-- An optional field: 0 reads absent, any other code must be one of the table's. -/
def optOfCode {α : Type} (ofCode : Nat → Option α) (n : Nat) : Option (Option α) :=
  if n = 0 then some none else (ofCode n).map some

def Disposition.code : Disposition → Nat
  | .opened => 1 | .secondary => 2 | .refused => 3

def Mode.code : Mode → Nat
  | .start => 0 | .normal => 1 | .holdup => 2 | .exhausted => 3

/-- The priority of a notice's cause (Table 9.2), which is its code. -/
def NoticeCause.code : NoticeCause → Nat
  | .storeFailed => 1 | .powerWarn => 2 | .incidentOpened => 3 | .incidentKept => 4 | .triggerRefused => 5
  | .streamCut => 6 | .historyHalted => 7 | .historyLost => 8 | .integrity => 9 | .poolLow => 10
  | .settingsDefaulted => 11 | .recoveryDone => 12

def ClosingCause.code : ClosingCause → Nat
  | .reserve => 1 | .deadline => 2

/-- The end kind and the reason of a pending end (Table 2.1). -/
def PendingEnd.kind : PendingEnd → EndKind
  | .ended => .ended | .truncated _ => .truncated | .abandoned => .abandoned

def PendingEnd.reason : PendingEnd → Option Reason
  | .truncated r => some r
  | _ => none

/-! ### Request and status codes (Tables 13.3 and 13.4) -/

/-- The 21 requests. -/
inductive Request where
  | openStream | append | withdraw | logEvent | declare | getStatus | nextNotice | readParams | listIncidents
  | readIncident | readStream | readMore | readHistory | release | hold | unhold | locate | setWalltime
  | getSettings | putSettings | saveSettings
  deriving DecidableEq, Repr

def Request.code : Request → Byte
  | .openStream => 0x01 | .append => 0x02 | .withdraw => 0x03 | .logEvent => 0x04 | .declare => 0x05
  | .getStatus => 0x10 | .nextNotice => 0x11 | .readParams => 0x12
  | .listIncidents => 0x20 | .readIncident => 0x21 | .readStream => 0x22 | .readMore => 0x23 | .readHistory => 0x24
  | .release => 0x30 | .hold => 0x31 | .unhold => 0x32
  | .locate => 0x40 | .setWalltime => 0x41
  | .getSettings => 0x50 | .putSettings => 0x51 | .saveSettings => 0x52

def allRequests : List Request :=
  [.openStream, .append, .withdraw, .logEvent, .declare, .getStatus, .nextNotice, .readParams, .listIncidents,
   .readIncident, .readStream, .readMore, .readHistory, .release, .hold, .unhold, .locate, .setWalltime,
   .getSettings, .putSettings, .saveSettings]

/-- Whether a code byte names a request. -/
def knownCode (c : Byte) : Bool := allRequests.any fun r => Request.code r == c

def Status.code : Status → Byte
  | .ok => 0x00 | .frameError => 0x01 | .unknownRequest => 0x02 | .badLength => 0x03 | .badValue => 0x04
  | .noRight => 0x05 | .starting => 0x06 | .power => 0x07 | .exhausted => 0x08 | .storeFailed => 0x09
  | .noIncident => 0x0A | .windowClosed => 0x0B | .streamLimit => 0x0C | .noSlot => 0x0D | .badHandle => 0x0E
  | .notOwner => 0x0F | .endedAlready => 0x10 | .misaligned => 0x11 | .overrun => 0x12 | .stagingFull => 0x13
  | .dropped => 0x14 | .notFound => 0x15 | .gone => 0x16 | .notKept => 0x17 | .held => 0x18
  | .directoryBusy => 0x19 | .noCursor => 0x1A | .none => 0x1B

/-- Reply flags (Table 13.5). -/
def flagOverlap : Byte := 0x01
def flagMore : Byte := 0x02
def flagEnd : Byte := 0x04
def flagSkipped : Byte := 0x08

/-! ### Frames -/

/-- A request frame (Table 13.1). -/
def requestFrame (code tag : Byte) (payload : List Byte) : List Byte :=
  withCrc ([code, tag] ++ leBytes 2 payload.length ++ payload)

/-- The payload length a frame's header gives. -/
def frameLength (f : List Byte) : Nat := field f 2 2

/-- The tests of R169. -/
def framePasses (f : List Byte) : Bool :=
  6 ≤ f.length && frameLength f ≤ Config.maxPayload && f.length == 6 + frameLength f
    && slice f (4 + frameLength f) 2 == crcBytes (f.take (4 + frameLength f))

/-- The code, tag and payload of a frame. -/
def frameFields (f : List Byte) : Byte × Byte × List Byte :=
  (f.getD 0 0, f.getD 1 0, slice f 4 (frameLength f))

end Sys2Proof.Machine
end

