-- ==== Sys2Proof/Machine/Layouts.lean ====
section
/-! DEFINITION. The byte layouts: page headers (Table 13.7), journal entries (Tables 13.8 to 13.10), history entries
(Tables 13.11 to 13.13), settings records (Table 12.1), summaries (Table 13.14) and replies (Table 13.2; payload
layouts that chapter 13 does not give: log entry 7). -/

namespace Sys2Proof.Machine

/-! ### Page headers -/

abbrev kindDump : Nat := 1
abbrev kindHistory : Nat := 2
abbrev kindDirectory : Nat := 3
abbrev kindSettings : Nat := 4

/-- Page header fields but for the void mark and the CRC (Table 3.2). -/
structure Header where
  kind : Nat
  epoch : Nat
  incident : Nat := 0
  stream : Nat := 0
  seq : Nat := 0
  fill : Nat := 0
  firstSeq : Nat := 0
  deriving DecidableEq, Repr

/-- Spare bytes 0 to 28. -/
def Header.fields (h : Header) : List Byte :=
  leBytes 1 h.kind ++ leBytes 4 h.epoch ++ leBytes 4 h.incident ++ leBytes 1 h.stream ++ leBytes 2 h.seq
    ++ leBytes 2 h.fill ++ leBytes 4 h.firstSeq ++ List.replicate 11 0

/-- The 32 header bytes as the first PROGRAM names them: the void mark stays FFH (R52). -/
def Header.bytes (h : Header) : List Byte := h.fields ++ [0xFF] ++ crcBytes h.fields

/-- Header outcomes (Table 3.3). -/
inductive HeaderOutcome where
  | erased | void
  | good (h : Header)
  | bad
  deriving DecidableEq, Repr

/-- The outcome of 32 header bytes (R53). -/
def headerOutcome (b : List Byte) : HeaderOutcome :=
  if b = List.replicate 32 0xFF then .erased
  else if b.getD 29 0xFF ≠ 0xFF then .void
  else if slice b 30 2 = crcBytes (b.take 29) then
    .good { kind := byte b 0, epoch := field b 1 4, incident := field b 5 4, stream := byte b 9, seq := field b 10 2,
            fill := field b 12 2, firstSeq := field b 14 4 }
  else .bad

/-! ### Journal entries (R198) -/

abbrev jBody : Nat := 61
abbrev jEntryBytes : Nat := 64

/-- Bytes filled with 00H up to `n`. -/
def padTo (n : Nat) (bs : List Byte) : List Byte := bs ++ List.replicate (n - bs.length) 0

/-- A trigger record's cause, tick stamp, wall time and line snapshot. -/
def TriggerRecord.bytes (t : TriggerRecord) : List Byte :=
  leBytes 6 t.tick.toNat ++ leBytes 8 ((t.wall.getD 0).toNat) ++ [t.snapshot]

/-- The causes of secondary triggers, four bits each from bit 0 (Table 13.9). One that replay took with cause 0 is
written as cause 0 in its place (log entry 45). -/
def secondaryCauses (l : List (Cause × Tick)) : Nat :=
  (l.take 4).foldr (fun e n => Cause.code e.1 + 16 * n) 0

/-- Bytes 1 to 61 of INCIDENT_SUMMARY (Table 13.9). -/
def summaryBody (slot : Nat) (r : Incident) (streams : Nat) : List Byte :=
  leBytes 1 (slot + 32 * SlotState.code r.state) ++ leBytes 4 r.number ++ leBytes 4 r.epoch
    ++ leBytes 1 (Cause.code r.primary.cause + 16 * streams) ++ TriggerRecord.bytes r.primary
    ++ leBytes 1 (flag r.primary.wall.isSome + 2 * flag r.shortened + 4 * flag r.held + 8 * flag r.retrieved
        + 16 * optCode Completeness.code r.completeness)
    ++ leBytes 1 r.overflow ++ leBytes 4 r.windowFirst ++ leBytes 4 r.windowLast
    ++ leBytes 2 (secondaryCauses r.secondary)
    ++ padTo 24 ((r.secondary.take 4).flatMap fun e => leBytes 6 e.2.toNat)

/-- Bytes 5 to 32 of STREAM_SUMMARY (Table 13.10). -/
def streamBody (r : StreamRec) : List Byte :=
  leBytes 1 r.number ++ leBytes 1 (Source.code r.source) ++ leBytes 1 r.cls ++ leBytes 1 (EndKind.code r.endKind)
    ++ leBytes 1 (optCode Reason.code r.reason) ++ leBytes 1 (flag r.declared.isSome + 2 * flag r.short)
    ++ leBytes 8 r.label.toNat ++ leBytes 4 (r.declared.getD 0) ++ leBytes 4 r.accepted ++ leBytes 4 r.committed
    ++ leBytes 2 r.pages

/-- The kind and the named body bytes of an entry (Table 13.8). -/
def JEntry.head : JEntry → List Byte
  | .incidentOpen slot number ep t first last shortened =>
      [0x01] ++ leBytes 1 slot ++ leBytes 4 number ++ leBytes 4 ep ++ leBytes 1 (Cause.code t.cause)
        ++ TriggerRecord.bytes t ++ leBytes 1 (flag t.wall.isSome + 2 * flag shortened)
        ++ leBytes 4 first ++ leBytes 4 last
  | .triggerAdd number cause tick =>
      [0x02] ++ leBytes 4 number ++ leBytes 1 (Cause.code cause) ++ leBytes 6 tick.toNat
  | .streamOpen number stream source cls label declared =>
      [0x03] ++ leBytes 4 number ++ leBytes 1 stream ++ leBytes 1 (Source.code source) ++ leBytes 1 cls
        ++ leBytes 1 (flag declared.isSome) ++ leBytes 8 label.toNat ++ leBytes 4 (declared.getD 0)
  | .streamEnd number stream endKind reason short accepted committed pages =>
      [0x04] ++ leBytes 4 number ++ leBytes 1 stream ++ leBytes 1 (EndKind.code endKind)
        ++ leBytes 1 (optCode Reason.code reason) ++ leBytes 1 (2 * flag short) ++ leBytes 4 accepted
        ++ leBytes 4 committed ++ leBytes 2 pages
  | .incidentClose number completeness overflow =>
      [0x05] ++ leBytes 4 number ++ leBytes 1 (optCode Completeness.code completeness) ++ leBytes 1 overflow
  | .retrieved number => [0x06] ++ leBytes 4 number
  | .holdSet number => [0x07] ++ leBytes 4 number
  | .holdClear number => [0x08] ++ leBytes 4 number
  | .release number => [0x09] ++ leBytes 4 number
  | .reclaimStart zone => [0x0A] ++ leBytes 1 zone.val
  | .reclaimDone zone => [0x0B] ++ leBytes 1 zone.val
  | .zoneDefect zone => [0x0C] ++ leBytes 1 zone.val
  | .epoch ep => [0x0D] ++ leBytes 4 ep
  | .compactHead generation ep next =>
      [0x0E] ++ leBytes 4 generation ++ leBytes 4 ep ++ leBytes 8 next
  | .incidentSummary slot record streams => [0x0F] ++ summaryBody slot record streams
  | .streamSummary number record => [0x10] ++ leBytes 4 number ++ streamBody record
  | .compactTail generation count => [0x11] ++ leBytes 4 generation ++ leBytes 2 count

/-- The 64 bytes of an entry. -/
def JEntry.bytes (e : JEntry) : List Byte := withCrc (padTo (jBody + 1) e.head)

/-- Whether 64 bytes hold a good entry (R147): the CRC matches. -/
def jGood (b : List Byte) : Bool := slice b 62 2 == crcBytes (b.take 62)

/-- A trigger record whose tick stamp stands at `at_`. -/
def triggerAt (b : List Byte) (cause : Cause) (at_ : Nat) (wall : Bool) : TriggerRecord :=
  { cause, tick := BitVec.ofNat 48 (field b at_ 6)
    wall := if wall then some (BitVec.ofNat 64 (field b (at_ + 6) 8)) else none
    snapshot := b.getD (at_ + 14) 0 }

/-- The secondary triggers of Table 13.9: the records whose cause is not 0, in order; none when a code is no cause. -/
def secondaryAt (b : List Byte) : Option (List (Cause × Tick)) :=
  (List.range 4).foldr (fun k acc =>
    let c := field b 36 2 / 16 ^ k % 16
    if c = 0 then acc
    else match causeOfCode c, acc with
      | some cause, some l => some ((cause, BitVec.ofNat 48 (field b (38 + 6 * k) 6)) :: l)
      | _, _ => none) (some [])

/-- A declared length and its presence flag. -/
def declaredAt (b : List Byte) (present : Bool) (at_ : Nat) : Option Nat := if present then some (field b at_ 4) else none

/-- The incident and the count of streams of an INCIDENT_SUMMARY, by Table 13.9. -/
def summaryAt (b : List Byte) : Option JEntry := do
  let state ← slotStateOfCode (byte b 1 / 32 % 4)
  let cause ← causeOfCode (byte b 10 % 16)
  let completeness ← optOfCode completenessOfCode (byte b 26 / 16 % 8)
  let secondary ← secondaryAt b
  pure (.incidentSummary (byte b 1 % 32)
    { state, number := field b 2 4, epoch := field b 6 4, primary := triggerAt b cause 11 (bit (byte b 26) 0)
      secondary, overflow := byte b 27, streams := [], windowFirst := field b 28 4, windowLast := field b 32 4
      shortened := bit (byte b 26) 1, completeness, held := bit (byte b 26) 2, retrieved := bit (byte b 26) 3 }
    (byte b 10 / 16))

/-- The stream record of a STREAM_SUMMARY, by Table 13.10. -/
def streamAt (b : List Byte) : Option JEntry := do
  let source ← sourceOfCode (byte b 6)
  let endKind ← endKindOfCode (byte b 8)
  let reason ← optOfCode reasonOfCode (byte b 9)
  pure (.streamSummary (field b 1 4)
    { number := byte b 5, source, cls := byte b 7, label := BitVec.ofNat 64 (field b 11 8)
      declared := declaredAt b (bit (byte b 10) 0) 19, accepted := field b 23 4, committed := field b 27 4
      pages := field b 31 2, endKind, reason, short := bit (byte b 10) 1 })

/-- The entry that 64 bytes hold; none where the kind or a code has no value in the tables (R198). -/
def JEntry.decode (b : List Byte) : Option JEntry :=
  match byte b 0 with
  | 0x01 => do
      let cause ← causeOfCode (byte b 10)
      pure (.incidentOpen (byte b 1) (field b 2 4) (field b 6 4) (triggerAt b cause 11 (bit (byte b 26) 0))
        (field b 27 4) (field b 31 4) (bit (byte b 26) 1))
  | 0x02 => do
      let cause ← causeOfCode (byte b 5)
      pure (.triggerAdd (field b 1 4) cause (BitVec.ofNat 48 (field b 6 6)))
  | 0x03 => do
      let source ← sourceOfCode (byte b 6)
      pure (.streamOpen (field b 1 4) (byte b 5) source (byte b 7) (BitVec.ofNat 64 (field b 9 8))
        (declaredAt b (bit (byte b 8) 0) 17))
  | 0x04 => do
      let endKind ← endKindOfCode (byte b 6)
      let reason ← optOfCode reasonOfCode (byte b 7)
      pure (.streamEnd (field b 1 4) (byte b 5) endKind reason (bit (byte b 8) 1) (field b 9 4) (field b 13 4)
        (field b 17 2))
  | 0x05 => do
      let completeness ← optOfCode completenessOfCode (byte b 5)
      pure (.incidentClose (field b 1 4) completeness (byte b 6))
  | 0x06 => some (.retrieved (field b 1 4))
  | 0x07 => some (.holdSet (field b 1 4))
  | 0x08 => some (.holdClear (field b 1 4))
  | 0x09 => some (.release (field b 1 4))
  | 0x0A => some (.reclaimStart (Fin.ofNat 256 (byte b 1)))
  | 0x0B => some (.reclaimDone (Fin.ofNat 256 (byte b 1)))
  | 0x0C => some (.zoneDefect (Fin.ofNat 256 (byte b 1)))
  | 0x0D => some (.epoch (field b 1 4))
  | 0x0E => some (.compactHead (field b 1 4) (field b 5 4) (field b 9 8))
  | 0x0F => summaryAt b
  | 0x10 => streamAt b
  | 0x11 => some (.compactTail (field b 1 4) (field b 5 2))
  | _ => none

/-! ### History entries -/

/-- The format number and the size of an entry (Table 6.2). -/
def HBody.format : HBody → Nat
  | .plain => 0 | .data8 _ => 1 | .data24 _ => 2 | .gap => 3 | .trigger .. => 4 | .wallmark _ => 5 | .start .. => 6

def HBody.size : HBody → Nat
  | .plain => 16 | .data8 _ => 24 | .data24 _ => 40 | .gap => 16 | .trigger .. => 32 | .wallmark _ => 24
  | .start .. => 24

/-- The fields from byte 14 (Table 13.12). -/
def HBody.bytes : HBody → List Byte
  | .plain | .gap => []
  | .data8 d => leBytes 8 d.toNat
  | .data24 d => leBytes 24 d.toNat
  | .trigger incident cause tick snapshot disposition =>
      leBytes 4 incident ++ leBytes 1 (Cause.code cause) ++ leBytes 6 tick.toNat ++ [snapshot]
        ++ leBytes 1 (Disposition.code disposition) ++ [0, 0, 0]
  | .wallmark w => leBytes 8 w.toNat
  | .start epoch interrupted torn => leBytes 4 epoch ++ leBytes 1 interrupted ++ leBytes 1 torn ++ [0, 0]

/-- The stored form of an entry (Tables 13.11 and 13.12). -/
def HEntry.bytes (e : HEntry) : List Byte :=
  withCrc (leBytes 1 (HBody.format e.body + 8 * e.severity)
    ++ leBytes 1 (Source.code e.source + 8 * (HBody.size e.body / 8))
    ++ leBytes 2 e.code ++ leBytes 4 e.seq ++ leBytes 6 e.tick.toNat ++ HBody.bytes e.body)

/-- F1 data bytes, completed with 00H (Table 13.13). -/
def f1 (bs : List Byte) : HBody := .data8 (BitVec.ofNat 64 (leNat bs))

/-- Internal event codes (Table 13.13). -/
abbrev evTrigger : Nat := 0x0001
abbrev evPowerWarn : Nat := 0x0002
abbrev evClosingPhase : Nat := 0x0003
abbrev evZoneDefect : Nat := 0x0004
abbrev evStreamCut : Nat := 0x0005
abbrev evIntegrity : Nat := 0x0006
abbrev evIncidentKept : Nat := 0x0007
abbrev evPowerReturn : Nat := 0x0008
abbrev evSettingsDefaulted : Nat := 0x0009
abbrev evReleased : Nat := 0x000A
abbrev evStart : Nat := 0x000B
abbrev evSettingsLoaded : Nat := 0x000C
abbrev evWallmark : Nat := 0x000D

/-! ### Settings records (Table 12.1) -/

def Settings.bytes (s : Settings) : List Byte :=
  leBytes 2 s.window ++ leBytes 4 s.limit ++ leBytes 2 s.historyWindow ++ leBytes 2 s.flushInterval
    ++ leBytes 2 s.credits ++ leBytes 1 s.reserve ++ leBytes 2 s.holdupDeadline ++ leBytes 2 s.recharge
    ++ leBytes 1 s.powerTrigger ++ [s.lineEnables] ++ s.filters.toList.flatMap (leBytes 2 ·)
    ++ leBytes 1 s.class0Reserve ++ leBytes 1 s.rollOldest ++ leBytes 1 s.poolLow ++ s.rights.toList

abbrev settingsBytes : Nat := 39

def settingsOfBytes (b : List Byte) : Settings where
  window := field b 0 2
  limit := field b 2 4
  historyWindow := field b 6 2
  flushInterval := field b 8 2
  credits := field b 10 2
  reserve := byte b 12
  holdupDeadline := field b 13 2
  recharge := field b 15 2
  powerTrigger := byte b 17
  lineEnables := b.getD 18 0
  filters := Vector.ofFn fun k : Fin 6 => field b (19 + 2 * k.val) 2
  class0Reserve := byte b 31
  rollOldest := byte b 32
  poolLow := byte b 33
  rights := Vector.ofFn fun k : Fin 5 => b.getD (34 + k.val) 0

/-- The bit of the HOLD right (R191). -/
abbrev holdBit : Nat := 5

/-- Whether the field of an index is in range (Table 12.1, R192): index 6 also asks that the closing reserve lie
below the credits, and a rights field that it not set HOLD. -/
def Settings.fieldOk (s : Settings) : Nat → Bool
  | 1 => 100 ≤ s.window && s.window ≤ 60000
  | 2 => 1000 ≤ s.limit && s.limit ≤ 600000
  | 3 => s.historyWindow ≤ 4096
  | 4 => 10 ≤ s.flushInterval && s.flushInterval ≤ 10000
  | 5 => 8 ≤ s.credits && s.credits ≤ 1000
  | 6 => 2 ≤ s.reserve && s.reserve ≤ 32 && s.reserve < s.credits
  | 7 => 1 ≤ s.holdupDeadline && s.holdupDeadline ≤ 1000
  | 8 => s.recharge ≤ 60000
  | 9 => s.powerTrigger ≤ 1
  | 10 => s.lineEnables.toNat < 32
  | 17 => s.class0Reserve ≤ 16
  | 18 => s.rollOldest ≤ 1
  | 19 => s.poolLow ≤ 64
  | 20 => !s.rights[0].getLsbD holdBit
  | 21 => !s.rights[1].getLsbD holdBit
  | 22 => !s.rights[2].getLsbD holdBit
  | 23 => !s.rights[3].getLsbD holdBit
  | 24 => !s.rights[4].getLsbD holdBit
  | _ => true

/-- The index of the first field that is out of range (R192). -/
def Settings.firstBad (s : Settings) : Option Nat := (List.range' 1 24).find? fun i => !s.fieldOk i

/-- The settings record and its CRC as a page of zone 0 holds them (R191, R194). -/
def Settings.pageBytes (s : Settings) : List Byte := withCrc s.bytes

/-! ### Replies -/

/-- The completeness a record shows: absent while it is not KEPT (R182, R183). -/
def Incident.shownCompleteness (r : Incident) : Option Completeness :=
  if r.state = .kept then r.completeness else none

/-- The 16-byte summary of Table 13.14. -/
def Incident.summary (r : Incident) : List Byte :=
  leBytes 4 r.number ++ leBytes 4 r.epoch ++ leBytes 1 (SlotState.code r.state)
    ++ leBytes 1 (optCode Completeness.code r.shownCompleteness)
    ++ leBytes 1 (flag r.held + 2 * flag r.retrieved) ++ leBytes 1 r.streams.length
    ++ leBytes 1 (Cause.code r.primary.cause) ++ [0, 0, 0]

/-- The parameter table (Table 12.2). -/
def paramsBytes : List Byte :=
  [0x46, 0x44, 0x43, 0x32, 1, 0]
    ++ [6, 16, 64, 1024, 32, 12, 256, 32, 1024, 237, 16, 12, 32, 520, 512, 80].flatMap (leBytes 2)

/-- The payload of a GET_STATUS reply (Table 9.4). -/
def StatusFields.bytes (f : StatusFields) : List Byte :=
  leBytes 1 (Mode.code f.mode)
    ++ leBytes 1 (flag f.storeFailed + 2 * flag f.closingPhase + 4 * flag f.halted + 8 * flag f.locating)
    ++ leBytes 4 f.recording ++ leBytes 4 f.closing ++ leBytes 1 f.freeBlocks ++ leBytes 1 f.freeZones
    ++ leBytes 2 f.credits ++ leBytes 1 f.notices ++ leBytes 4 f.epoch ++ leBytes 1 (flag f.wallValid)
    ++ leBytes 2 f.lost ++ leBytes 2 f.defects ++ leBytes 1 f.queueDepth

/-- The payload of a reply: its fields in the order its request's rule names them. The widths that no table gives, and
the codes 0 (OPEN) and 1 (DRAINING) of the slot state in the reply to an APPEND, are the model's choice (log entry 7). -/
def ReplyBody.bytes : ReplyBody → List Byte
  | .empty => []
  | .opened slot gen inc n => leBytes 1 slot.val ++ [gen] ++ leBytes 4 inc ++ leBytes 1 n
  | .appended n draining => leBytes 4 n ++ leBytes 1 (flag draining)
  | .endedAlready e n =>
      leBytes 1 (EndKind.code e.kind) ++ leBytes 1 (optCode Reason.code e.reason) ++ leBytes 4 n
  | .accepted n => leBytes 4 n
  | .logged seq => leBytes 4 seq
  | .dropped lost => leBytes 2 lost
  | .declared d inc => leBytes 1 (Disposition.code d) ++ leBytes 4 inc
  | .status f => f.bytes
  | .notice n left =>
      leBytes 1 (NoticeCause.code n.cause) ++ leBytes 4 n.detail.toNat ++ leBytes 1 n.repeats ++ leBytes 1 left
  | .params => paramsBytes
  | .incidents l => l.flatMap Incident.summary
  | .incident r =>
      summaryBody 0 { r with completeness := r.shownCompleteness } r.streams.length ++ r.streams.flatMap streamBody
  | .stream offset data corrected uncorrectable =>
      leBytes 4 offset ++ data ++ leBytes 1 corrected ++ leBytes 1 uncorrectable
  | .history entries omitted => entries ++ leBytes 2 omitted
  | .heldFlag held => leBytes 1 (flag held)
  | .locateTime ms => leBytes 4 ms
  | .settings record loadDue savePos => record.bytes ++ leBytes 1 (flag loadDue) ++ leBytes 1 savePos
  | .badIndex index => leBytes 1 index
  | .save (.saved page) => leBytes 1 1 ++ leBytes 1 page
  | .save .notSaved => leBytes 1 2

/-- A reply frame (Table 13.2). -/
def Reply.frame (r : Reply) : List Byte :=
  withCrc ([r.code, r.tag, Status.code r.status, r.flags] ++ leBytes 2 r.body.bytes.length ++ r.body.bytes)

end Sys2Proof.Machine
end

