-- ==== Sys2Proof/Machine/Flags.lean ====
section
/-! DEFINITION. Rights and the decoding tests of Table 10.3 (R171, R178, R179), the indicator pattern (Table 9.3) and
the fields of GET_STATUS (Table 9.4): every computation of a flag or a condition that more than one block reads. -/

namespace Sys2Proof.Machine

/-! ### Rights -/

/-- The bit of a right (R191). -/
def Right.bit : Right → Nat
  | .capture => 0 | .event => 1 | .declare => 2 | .read => 3 | .release => 4 | .hold => 5 | .config => 6
  | .locate => 7

/-- The rights byte of a port: SVC holds every right (R178, Table 10.5). -/
def Rqd.of (r : Rqd) : Port → Byte
  | .s0 => r.rights[0] | .s1 => r.rights[1] | .s2 => r.rights[2] | .s3 => r.rights[3] | .mgt => r.rights[4]
  | .svc => 0xFF

/-- Whether a port holds a right. -/
def Dev.holds (d : Dev) (p : Port) (r : Right) : Bool := (d.rqd.of p).getLsbD (Right.bit r)

/-- The right a request needs (Table 10.4). -/
def Request.right : Request → Option Right
  | .openStream | .append | .withdraw => some .capture
  | .logEvent => some .event
  | .declare => some .declare
  | .listIncidents | .readIncident | .readStream | .readMore | .readHistory => some .read
  | .release => some .release
  | .hold | .unhold => some .hold
  | .locate => some .locate
  | .setWalltime | .getSettings | .putSettings | .saveSettings => some .config
  | .nextNotice | .getStatus | .readParams => none

/-- The ports from which Table 10.4 allows a request. -/
def Request.allowsPort : Request → Port → Bool
  | .hold, p | .unhold, p => p == .svc
  | .nextNotice, p => p == .mgt || p == .svc
  | _, _ => true

/-- The requests that the STORE_FAILED condition refuses (Table 10.6). -/
def Request.refusedByStoreFailed : Request → Bool
  | .openStream | .append | .withdraw | .declare | .saveSettings => true
  | _ => false

/-! ### Form tests (steps 3 and 4 of Table 10.3) -/

/-- A refusal: its status and the payload its reply carries. -/
abbrev Refused := Option (Status × ReplyBody)

/-- Refuses where a condition fails. -/
def need (ok : Bool) (s : Status) : Refused := if ok then none else some (s, .empty)

/-- The first refusal of two. -/
def Refused.orElse' (a b : Refused) : Refused := match a with
  | some r => some r
  | none => b

/-- The length tests, with the allowed lengths of each request's rule. -/
def lengthOk (r : Request) (n : Nat) : Bool :=
  match r with
  | .openStream => n == 9 || n == 13
  | .append => 4 ≤ n && n ≤ 3 + Config.maxData
  | .withdraw => n == 2
  | .logEvent => n == 3 || n == 11 || n == 27
  | .declare | .getStatus | .nextNotice | .readParams | .listIncidents | .readMore | .saveSettings => n == 0
  | .readIncident | .readHistory | .release | .hold | .unhold => n == 4
  | .readStream => n == 9
  | .locate | .getSettings => n == 1
  | .setWalltime => n == 8
  | .putSettings => n == settingsBytes

/-- The range tests of the fields (R26, R35, R112, R166, R183, R184, R188, R189, R192). -/
def valueTest (r : Request) (b : List Byte) : Refused :=
  match r with
  | .openStream => need (byte b 0 ≤ 3 && (b.length == 9 || field b 9 4 != 0)) .badValue
  | .append => need (byte b 2 ≤ 1) .badValue
  | .logEvent => need (byte b 0 ≤ 7) .badValue
  | .readIncident | .release | .hold | .unhold => need (field b 0 4 != 0) .badValue
  | .readStream => need (field b 0 4 != 0 && byte b 4 ≤ 11) .badValue
  | .locate => need (byte b 0 ≤ 1) .badValue
  | .getSettings => need (byte b 0 ≤ 1) .badValue
  | .putSettings => (settingsOfBytes b).firstBad.map fun i => (.badValue, .badIndex i)
  | _ => none

/-- The right and the port (step 5); a PUT_SETTINGS that changes the rights fields is SVC's alone (R179). -/
def rightTest (d : Dev) (p : Port) (r : Request) (b : List Byte) : Refused :=
  let held := match r.right with
    | some x => d.holds p x
    | none => true
  let fields := r != .putSettings || p == .svc || (settingsOfBytes b).rights == d.sst.pending.rights
  need (held && r.allowsPort p && fields) .noRight

/-- The mode and the STORE_FAILED condition (steps 6 to 8). GET_STATUS and READ_PARAMS have the length test alone. -/
def modeTest (d : Dev) (r : Request) : Refused :=
  if r = .getStatus ∨ r = .readParams then none
  else if d.hum.mode = .start then some (.starting, .empty)
  else if d.hum.mode = .exhausted then some (.exhausted, .empty)
  else need (!(d.arc.storeFailed && r.refusedByStoreFailed)) .storeFailed

/-- Steps 3 to 8 of Table 10.3: the first test that fails decides the status. -/
def judge (d : Dev) (p : Port) (r : Request) (b : List Byte) : Refused :=
  (need (lengthOk r b.length) .badLength).orElse'
    ((valueTest r b).orElse' ((rightTest d p r b).orElse' (modeTest d r)))

/-! ### Counts and views -/

/-- The incident records of the directory, in slot order. -/
def Drm.records (m : Drm) : List Incident := m.dir.toList.filterMap id

/-- The slot that holds an incident number. -/
def Drm.slotOf (m : Drm) (number : Nat) : Option DirSlot :=
  firstFin 32 fun i => (m.dir[i]).any (·.number == number)

/-- The record of an incident number. -/
def Drm.find (m : Drm) (number : Nat) : Option Incident := (m.slotOf number).bind fun i => m.dir[i]

/-- The record a reference names. -/
def Drm.at? (m : Drm) (ref : Option DirSlot) : Option Incident := ref.bind fun i => m.dir[i]

/-- The pool zones. -/
def poolZoneList : List Nat := List.range' Config.firstPoolZone Config.poolZones

/-- The Zone Table entry of a zone that nothing has touched (R81). -/
def ZoneEntry.fresh : ZoneEntry := ⟨.free, 0, []⟩

/-- A Zone Table entry. -/
def Plm.zone (m : Plm) (z : Nat) : ZoneEntry := SMap.get ZoneEntry.fresh m.zones z

/-- The number of FREE pool zones (R81). -/
def Plm.freeZones (m : Plm) : Nat := (poolZoneList.filter fun z => (m.zone z).state == .free).length

/-- The pattern of the first line of Table 9.3 whose condition holds. -/
def Dev.pattern (d : Dev) : IndPattern :=
  if d.tmb.deadlines.locate.isSome then .locate
  else if d.arc.storeFailed then .steady
  else if d.drm.records.any (·.state != .kept) then .fast
  else if d.drm.records.any (!·.retrieved) then .slow
  else .dark

/-- The notices a port may fetch: MGT's set, SVC's, and none for a socket (R163, Table 9.4). -/
def Ntu.setOf (n : Ntu) : Port → List Notice
  | .mgt => n.management
  | .svc => n.service
  | _ => []

/-- The ALERT output (R164). -/
def Ntu.alert (n : Ntu) : Bool := !n.management.isEmpty

/-- The number of an incident a reference names, or 0. -/
def Dev.refNumber (d : Dev) (ref : Option DirSlot) : Nat := ((d.drm.at? ref).map (·.number)).getD 0

/-- The fields of GET_STATUS, all at one moment (R167). -/
def Dev.status (d : Dev) (p : Port) : StatusFields where
  mode := d.hum.mode
  storeFailed := d.arc.storeFailed
  closingPhase := d.hum.closing.isSome
  halted := d.hiu.halted
  locating := d.tmb.deadlines.locate.isSome
  recording := d.refNumber d.ict.recording
  closing := d.refNumber d.ict.closing
  freeBlocks := d.stb.free.length
  freeZones := d.plm.freeZones
  credits := d.hum.credits
  notices := (d.ntu.setOf p).length
  epoch := d.drm.epoch
  wallValid := d.tmb.wall.isSome
  lost := d.hiu.lost
  defects := d.arc.defects.length
  queueDepth := d.drm.queue.length

end Sys2Proof.Machine
end

