-- ==== Sys2Proof/Machine/TimeBase.lean ====
section
/-! DEFINITION. TMB and NTU: wall time (R159), deadline slots (R160), trigger stamps (R5), notices (R162) and the
indicator (R165). -/

namespace Sys2Proof.Machine

/-- Rewrites the deadline slots. -/
def Dev.deadlines (d : Dev) (f : Deadlines → Deadlines) : Dev :=
  { d with tmb := { d.tmb with deadlines := f d.tmb.deadlines } }

/-- The tick `ms` milliseconds after the present one (R160). -/
def Dev.afterMs (d : Dev) (ms : Nat) : Tick := d.after (ms * Config.ticksPerMs)

/-- The wall time now: W plus the whole milliseconds passed, modulo 2^64 (R159). -/
def Dev.wallNow (d : Dev) : Option WallTime :=
  d.tmb.wall.map fun w => w.value + BitVec.ofNat 64 (w.passed / Config.ticksPerMs)

/-- The line snapshot: the qualified levels (R5, section 13.2). -/
def Dev.snapshot (d : Dev) : Byte :=
  BitVec.ofNat 8 (allLines.foldr (fun l n => flag d.tru.qualified[Line.idx l] + 2 * n) 0)

/-- A trigger record that arises now (R5). -/
def Dev.triggerNow (d : Dev) (cause : Cause) : TriggerRecord :=
  { cause, tick := d.tmb.tick, wall := d.wallNow, snapshot := d.snapshot }

/-- One more tick of the counter, of the wall clock's count and of the pattern that IND shows, and of the run timer of a
RUNNING erase (R157, R159, R165, R59). -/
def Dev.tickOnce (d : Dev) : Dev :=
  let running := d.arc.erase.any (·.phase == .running)
  { d with
    tmb := { d.tmb with
      tick := d.tmb.tick + 1
      wall := d.tmb.wall.map fun w => { w with passed := w.passed + 1 } }
    arc := { d.arc with runTimer := if running then d.arc.runTimer + 1 else d.arc.runTimer }
    ntu := { d.ntu with indTicks := d.ntu.indTicks + 1 } }

/-! ### Notices -/

/-- A raise reaches one set (R162): a notice of the cause takes the detail and counts a repeat, else one joins, in
order of priority. -/
def raiseIn (l : List Notice) (c : NoticeCause) (detail : BitVec 32) : List Notice :=
  if l.any (·.cause == c) then
    l.map fun n => if n.cause = c then { n with detail, repeats := bump 255 n.repeats } else n
  else
    l.filter (fun n => NoticeCause.code n.cause < NoticeCause.code c) ++ [⟨c, detail, 0⟩]
      ++ l.filter (fun n => NoticeCause.code c < NoticeCause.code n.cause)

/-- A notice raised in both sets. -/
def Dev.raise (d : Dev) (c : NoticeCause) (detail : Nat) : Dev :=
  { d with ntu := { d.ntu with
      management := raiseIn d.ntu.management c (BitVec.ofNat 32 detail)
      service := raiseIn d.ntu.service c (BitVec.ofNat 32 detail) } }

/-- The pattern is chosen again; a new pattern starts at its lit part (R165). -/
def Dev.showInd (d : Dev) : Dev :=
  if d.pattern = d.ntu.ind then d
  else { d with ntu := { d.ntu with ind := d.pattern, indTicks := 0 } }

/-- Whether a pattern is lit `n` ticks after it began (the drive of Table 9.3). -/
def IndPattern.lit (p : IndPattern) (n : Nat) : Bool :=
  match p with
  | .locate => let k := n % 1000000; k < 100000 || (200000 ≤ k && k < 300000)
  | .steady => true
  | .fast => n % 250000 < 125000
  | .slow => n % 2000000 < 1000000
  | .dark => false

/-- The level of the IND output (R165): its pattern's, by the ticks that have passed since the pattern began. They are
counted across a return of the tick counter to 0, so an unchanged pattern runs on without a break (log entry 43). -/
def Dev.indLit (d : Dev) : Bool := d.ntu.ind.lit d.ntu.indTicks

end Sys2Proof.Machine
end

