-- ==== Sys2Proof/Machine/Ports.lean ====
section
/-! DEFINITION. PIF: exchange states and replies (R168, R172, R173, R176), the arrival of a request (R169, R171). -/

namespace Sys2Proof.Machine

/-- The state of a port. -/
def Dev.port (d : Dev) (p : Port) : PortState := d.pif.ports[Port.idx p]

/-- Rewrites the state of a port. -/
def Dev.setPort (d : Dev) (p : Port) (x : PortState) : Dev :=
  { d with pif := { d.pif with ports := put d.pif.ports (Port.idx p) x } }

/-- The start byte of SVC's frames (section 13.1). -/
abbrev startByte : Byte := 0xA5

/-- Whether a port is a socket port. -/
def Port.isSocket : Port → Bool
  | .mgt | .svc => false
  | _ => true

/-- The byte a port sends where it has nothing to send (R174). -/
abbrev idleByte : Byte := 0xFF

/-- A frame of `n` bytes comes in at a port: during a request transaction a socket port sends FFH (R174). -/
def Dev.hearFrame (d : Dev) (p : Port) (n : Nat) : Dev :=
  if Port.isSocket p then d.setPort p { d.port p with sent := List.replicate n idleByte } else d

/-- A sending whose reply the port no longer keeps. -/
def Sending.alone (o : Sending) : Sending := { o with kept := false }

/-- What SVC sends once a frame takes the place of the reply kept at a port: the sending runs to its end (R176). -/
def Dev.lineAfter (d : Dev) (p : Port) : Option Sending :=
  if p = .svc then d.pif.svcOut.map Sending.alone else d.pif.svcOut

/-- A frame takes the place of the reply kept at a port (R169, R176). -/
def Dev.letGo (d : Dev) (p : Port) : Dev := { d with pif := { d.pif with svcOut := d.lineAfter p } }

/-- SVC begins to send the reply it keeps: the start byte is on the line, and the port stays READY (R176). -/
def Dev.beginSending (d : Dev) (r : Reply) : Dev :=
  let d := d.setPort .svc { d.port .svc with sent := [startByte] }
  { d with pif := { d.pif with svcOut := some ⟨r.frame, 0, true⟩ } }

/-- A reply at its building, to a request of a code: the port is READY and keeps it for fetching; on SVC it is sent at
once, unless the line still sends another (R168, R173, R176; log entry 9). -/
def Dev.deliver (d : Dev) (p : Port) (code : Byte) (r : Reply) : Dev :=
  let d := d.setPort p { d.port p with exchange := .ready code r.tag r }
  if p = .svc ∧ d.pif.svcOut = none then d.beginSending r else d

/-- The exchange of SVC when a byte behind the start byte goes on the line: with the first one, the code byte, the
reply counts as fetched and the port becomes EMPTY, unless a frame has taken the reply's place (R176). -/
def Sending.fetched (o : Sending) (x : Exchange) : Exchange := if o.kept then .empty else x

/-- One tick of SVC's line (R176): the next byte follows when the present one has been on the line for ten bits, and
after the last one a reply that has waited for the line is sent. -/
def Dev.sendTick (d : Dev) : Dev :=
  match d.pif.svcOut with
  | none => d
  | some o =>
    let phase := o.phase + Config.uartTick
    if phase < Config.uartByte then { d with pif := { d.pif with svcOut := some { o with phase } } }
    else match o.rest with
      | b :: rest =>
        let x := d.port .svc
        let d := d.setPort .svc { x with exchange := o.fetched x.exchange, sent := x.sent ++ [b] }
        { d with pif := { d.pif with svcOut := some ⟨rest, phase - Config.uartByte, false⟩ } }
      | [] =>
        let d := { d with pif := { d.pif with svcOut := none } }
        match (d.port .svc).exchange with
        | .ready _ _ r => d.beginSending r
        | _ => d

/-- Builds the reply to the outstanding request of a port (R173); nothing where none is outstanding. -/
def Dev.reply (d : Dev) (p : Port) (status : Status) (flags : Byte) (body : ReplyBody) : Dev :=
  match (d.port p).exchange with
  | .outstanding code tag =>
    let overlap := if 0 < (d.port p).overlap then flagOverlap else 0
    d.deliver p code
      { code := if status = .unknownRequest then 0 else code, tag, status, flags := flags ||| overlap, body }
  | _ => d

/-- The port's reply, where the port still waits for one. -/
def Dev.replyTo (d : Dev) (p : Option Port) (status : Status) (flags : Byte) (body : ReplyBody) : Dev :=
  match p with
  | some p => d.reply p status flags body
  | none => d

/-- The reply to a frame that fails R169. -/
def frameErrorReply : Reply := ⟨0, 0, .frameError, 0, .empty⟩

/-- A frame that fails R169 at a port that is not OUTSTANDING: its FRAME_ERROR reply takes the place of any kept reply. -/
def Dev.refuseFrame (d : Dev) (p : Port) : Dev := (d.letGo p).deliver p 0 frameErrorReply

/-- Bytes of a frame beside its payload (Table 13.1). -/
abbrev frameOverhead : Nat := 6

/-- A frame that passes R169 arrives at a port that is not OUTSTANDING: the port is OUTSTANDING with its code and tag,
its overlap count 0, any kept reply discarded. -/
def Dev.acceptFrame (d : Dev) (p : Port) (code tag : Byte) : Dev :=
  (d.letGo p).setPort p { d.port p with exchange := .outstanding code tag, overlap := 0, rx := [] }

/-- A frame at an OUTSTANDING port (R172). -/
def Dev.countOverlap (d : Dev) (p : Port) : Dev :=
  d.setPort p { d.port p with overlap := bump 255 (d.port p).overlap }

/-- Whether a request is outstanding at a port. -/
def Dev.isOutstanding (d : Dev) (p : Port) : Bool :=
  match (d.port p).exchange with
  | .outstanding _ _ => true
  | _ => false

/-- A frame of a code, a tag and a payload is taken as the request of its port. -/
def Dev.takeFrame (d : Dev) (p : Port) (code tag : Byte) (payload : List Byte) : Dev :=
  (d.hearFrame p (frameOverhead + payload.length)).acceptFrame p code tag

/-- A frame of a code, a tag and a payload whose check is good arrives (R169, R172): at an OUTSTANDING port it is
discarded and counted, with a payload past 520 bytes it fails R169 (log entry 29), else it is the port's request, and
`act` follows. -/
def Dev.arriveFrame (d : Dev) (p : Port) (code tag : Byte) (payload : List Byte) (act : Dev → Dev) : Dev :=
  if d.isOutstanding p then (d.hearFrame p (frameOverhead + payload.length)).countOverlap p
  else if Config.maxPayload < payload.length then (d.hearFrame p (frameOverhead + payload.length)).refuseFrame p
  else act (d.takeFrame p code tag payload)

/-- A request arrives (R171): the tests of Table 10.3 refuse it or pass it to its owner, `serve`. -/
def Dev.arrive (d : Dev) (p : Port) (r : Request) (tag : Byte) (payload : List Byte)
    (serve : Dev → Dev) : Dev :=
  d.arriveFrame p r.code tag payload fun d =>
    match judge d p r payload with
    | some (status, body) => d.reply p status 0 body
    | none => serve d

end Sys2Proof.Machine
end

