-- ==== Sys2Proof/Machine/Arbiter.lean ====
section
/-! DEFINITION. ARC's waiting set and what it may grant (R60 to R65, Tables 3.6 and 3.7). -/

namespace Sys2Proof.Machine

/-- The zone a request names. -/
def Job.zone : Job → Zone
  | .read p .. => p.zone
  | .program p .. => p.zone
  | .erase z => z

def Job.isErase : Job → Bool
  | .erase _ => true
  | _ => false

def Job.isProgram : Job → Bool
  | .program .. => true
  | _ => false

/-- The grant order of a requester: the class, and within ERASE the requester (Table 3.6). -/
def Requester.order : Requester → Nat
  | .journal | .image => 10
  | .commit | .voidMark => 20
  | .flush => 30
  | .rtu _ | .scanner => 40
  | .save => 50
  | .ringPrep => 60
  | .dirErase => 61
  | .settingsErase => 62
  | .reclaim => 63

/-- A request joins the waiting set (R62). -/
def Dev.place (d : Dev) (who : Requester) (job : Job) : Dev :=
  { d with arc := { d.arc with waiting := d.arc.waiting ++ [⟨who, job⟩] } }

/-- A requester withdraws its waiting request (R62). -/
def Dev.withdraw (d : Dev) (who : Requester) : Dev :=
  { d with arc := { d.arc with waiting := d.arc.waiting.filter (·.who != who) } }

/-- Whether a requester has a request waiting. -/
def Arc.waits (a : Arc) (who : Requester) : Bool := a.waiting.any (·.who == who)

/-- Whether the mode, the closing phase and the STORE_FAILED condition allow a class (Table 3.7, R65). -/
def Dev.modeAllows (d : Dev) (who : Requester) : Bool :=
  match d.hum.mode with
  | .start => who.order == 40
  | .normal => !(d.arc.storeFailed && 60 ≤ who.order)
  | .holdup => who.order == 10 || (who.order == 20 && d.hum.closing.isNone) || who.order == 30
  | .exhausted => false

/-- A credit to be had for a PROGRAM in HOLDUP (R64). -/
def Dev.creditFor (d : Dev) (j : Job) : Bool := d.hum.mode != .holdup || !j.isProgram || 1 ≤ d.hum.credits

/-- Whether a request is grantable: its zone bears no defect mark (R66) and is not the erase's, the mode allows its
class, and a credit is to be had (R63). -/
def Dev.grantable (d : Dev) (r : ArrReq) : Bool :=
  !d.arc.defects.contains r.job.zone && d.arc.erase.all (·.zone != r.job.zone) && d.modeAllows r.who
    && d.creditFor r.job

/-- The first request of the lowest order. -/
def lowest : List ArrReq → Option ArrReq
  | [] => none
  | r :: l =>
    match lowest l with
    | some x => if x.who.order < r.who.order then some x else some r
    | none => some r

/-- The READ and PROGRAM requests that R63 would grant were the array free for them. -/
def Dev.grantableOps (d : Dev) : List ArrReq := d.arc.waiting.filter fun r => !r.job.isErase && d.grantable r

/-- The grant that R63 makes now. -/
def Dev.nextGrant (d : Dev) : Option ArrReq :=
  if d.arc.op.isSome then none
  else if d.arc.erase.any (·.phase != .suspended) then none
  else match lowest d.grantableOps with
    | some r => some r
    | none =>
      if d.arc.erase.isSome then none
      else lowest (d.arc.waiting.filter fun r => r.job.isErase && d.grantable r)

/-- Whether a suspension of the RUNNING erase is wanted (R60). -/
def Dev.suspendWanted (d : Dev) : Bool :=
  !d.grantableOps.isEmpty || d.hum.mode == .holdup || d.hum.mode == .exhausted

/-- The erase in a phase. -/
def Dev.erasePhase (d : Dev) (p : ErasePhase) : Dev :=
  { d with arc := { d.arc with erase := d.arc.erase.map fun e => { e with phase := p } } }

/-- ARC asks for the suspension of a RUNNING erase (R60) or resumes a SUSPENDED one (R61). -/
def Dev.arcSettle (d : Dev) : Dev :=
  match d.arc.erase with
  | some ⟨.running, _, _⟩ =>
    if Config.eraseMinRun ≤ d.arc.runTimer && d.suspendWanted then d.erasePhase .suspending else d
  | some ⟨.suspended, _, _⟩ =>
    if d.arc.op.isNone && d.grantableOps.isEmpty && d.hum.mode == .normal && !d.arc.storeFailed then
      let d := d.erasePhase .running
      { d with arc := { d.arc with runTimer := 0 } }
    else d
  | _ => d

end Sys2Proof.Machine
end

