-- ==== Sys2Proof/Machine/History.lean ====
section
/-! DEFINITION. HIU: taking entries (R109 to R111), staging (R115, R116), the ring (R119 to R121), halting (R122) and
pinning (R123 to R125). -/

namespace Sys2Proof.Machine

def HEntry.size (e : HEntry) : Nat := e.body.size

/-- Bytes of a list of entries. -/
def entriesSize (l : List HEntry) : Nat := (l.map HEntry.size).sum

/-- The pending bytes of the staging block. -/
def Hiu.pendingBytes (h : Hiu) : Nat := entriesSize h.staging

def Dev.setHiu (d : Dev) (f : Hiu → Hiu) : Dev := { d with hiu := f d.hiu }

/-! ### The ring -/

/-- Ring zone `k` of the array (Table 3.1). -/
def ringZone (k : RingIdx) : Zone := Fin.ofNat 256 (Config.firstRingZone + k.val)

/-- The ring zones after `k` in ring order, ending with `k` itself. -/
def ringAfter (k : RingIdx) : List RingIdx := (List.range' 1 16).map fun i => k + Fin.ofNat 16 i

/-- The successor: the first usable, unpinned zone after the newest (R120). -/
def Hiu.successor (h : Hiu) : Option RingIdx :=
  (ringAfter h.newest).find? fun k => (h.ring[k]).state != .defective && (h.ring[k]).pins.isEmpty

/-- Usable ring zones with an empty pin set (R122). -/
def Hiu.unpinnedZones (h : Hiu) : Nat :=
  (h.ring.toList.filter fun z => z.state != .defective && z.pins.isEmpty).length

/-- Ring preparation requests an erase of a zone: it is ERASING and holds no stored entry (R119, R121). -/
def Dev.prepare (d : Dev) (k : RingIdx) : Dev :=
  (d.setHiu fun h =>
    { h with prep := some k, ring := modify h.ring k fun z => { z with state := .erasing, range := none } }).place
    .ringPrep (.erase (ringZone k))

/-- The test of ring preparation (R121): a zone that recovery left ERASING first, the lowest-numbered of several (log
entry 36), else a FILLED successor. -/
def Dev.prepTest (d : Dev) : Dev :=
  if d.hiu.prep.isSome then d
  else match firstFin 16 (fun k => (d.hiu.ring[k]).state == .erasing) with
    | some k => d.prepare k
    | none =>
      match d.hiu.successor with
      | some k => if (d.hiu.ring[k]).state = RingState.filled then d.prepare k else d
      | none => d

/-- The halted flag is set when fewer than 2 usable zones are unpinned (R122). The test raises its notice where it sets
the flag, and not where the flag already stands for an exhausted sequence number (log entry 35). -/
def Dev.haltTest (d : Dev) : Dev :=
  let n := d.hiu.unpinnedZones
  if n < 2 ∧ d.hiu.halted = false then
    (d.setHiu fun h => { h with halted := true }).raise .historyHalted n
  else d

/-- A zone becomes ACTIVE (R120): the write target is its page 0, and the deferred pins move into its pin set, which is
a pinning that R122 tests (R124). -/
def Dev.activate (d : Dev) (k : RingIdx) : Dev :=
  (d.setHiu fun h =>
    { h with
      ring := modify h.ring k fun z => { z with state := .active, pins := h.deferred ++ z.pins }
      deferred := []
      target := some ⟨k, 0, 0⟩
      newest := k
      closed := false }).haltTest

/-- The ring advances after its ACTIVE zone has filled (R120). -/
def Dev.ringAdvance (d : Dev) (filled : RingIdx) : Dev :=
  let d := d.setHiu fun h =>
    { h with
      ring := modify h.ring filled fun z => { z with state := .filled }
      newest := filled
      target := none
      closed := false }
  let d := match d.hiu.successor with
    | some k => if (d.hiu.ring[k]).state = RingState.erased ∧ k ≠ filled then d.activate k else d
    | none => d
  d.prepTest

/-- The page advances (R117). -/
def Dev.pageAdvance (d : Dev) : Dev :=
  match d.hiu.target with
  | none => d
  | some t =>
    if t.page = 31 then d.ringAdvance t.zone
    else d.setHiu fun h => { h with target := some { t with page := t.page + 1, programmed := 0 }, closed := false }

/-! ### Taking and staging -/

/-- The flush mark rises to a number (R116). -/
def Hiu.markTo (h : Hiu) (n : Nat) : Hiu := if n = 0 then h else { h with mark := some (max n (h.mark.getD 0)) }

/-- The flush interval deadline is armed unless it is armed already (R116). -/
def Dev.armFlush (d : Dev) : Dev :=
  if d.tmb.deadlines.flush.isSome then d
  else d.deadlines fun t => { t with flush := some (d.afterMs d.sst.working.flushInterval) }

/-- The last entry of the write page: the last staged, else the last programmed in the zone (R116). -/
def Hiu.lastInPage (h : Hiu) (k : RingIdx) : Nat :=
  match h.staging.getLast? with
  | some e => e.seq
  | none => ((h.ring[k]).range.map (·.2)).getD 0

/-- Numbers and stamps an entry and puts it at the end of the intake queue (R109); in the closing phase it requests a
flush with its own number (R135). The last number halts the history without a notice (log entry 35). -/
def Dev.takeEntry (d : Dev) (body : HBody) (severity : Nat) (source : Source) (code : Nat) : Dev :=
  d.setHiu fun h =>
    let h := { h with
      intake := h.intake ++ [⟨body, severity, source, code, h.nextSeq, d.tmb.tick⟩]
      nextSeq := h.nextSeq + 1
      halted := h.halted || Config.max32 < h.nextSeq + 1 }
    if d.hum.closing.isSome then h.markTo (h.nextSeq - 1) else h

/-- Whether an entry can be taken (R109). -/
def Hiu.canTake (h : Hiu) : Bool :=
  h.intake.length < Config.intakeDepth && !h.halted && h.nextSeq ≤ Config.max32

/-- The GAP entry of R111, taken when losses are counted and an entry can be taken. -/
def Dev.gapTest (d : Dev) : Dev :=
  if d.hiu.lost ≠ 0 ∧ d.hiu.canTake then
    let lost := d.hiu.lost
    (d.takeEntry .gap 3 .internal lost).setHiu fun h => { h with lost := 0 }
  else d

/-- The head of the intake queue joins the staging block and leaves its place (R115, R111). -/
def Dev.stageHead (d : Dev) (e : HEntry) (rest : List HEntry) : Dev :=
  let d := if d.hiu.staging.isEmpty then d.armFlush else d
  (d.setHiu fun h => { h with intake := rest, staging := h.staging ++ [e] }).gapTest

/-- One move of R115: the head joins the staging block, or closes the page; none when nothing can move. -/
def Dev.moveOnce (d : Dev) : Option Dev :=
  match d.hiu.intake with
  | [] => none
  | e :: rest =>
    match d.hiu.target with
    | none => if d.hiu.pendingBytes + e.size ≤ Config.pageData then some (d.stageHead e rest) else none
    | some t =>
      if d.hiu.closed then none
      else if t.programmed + d.hiu.pendingBytes + e.size ≤ Config.pageData then some (d.stageHead e rest)
      else
        let d := d.setHiu fun h => { h.markTo (h.lastInPage t.zone) with closed := true }
        some (if d.hiu.staging.isEmpty then d.pageAdvance else d)

/-- Moves until nothing more can move. Each page takes 1024 bytes, so the bound is never met. -/
def Dev.moveLoop : Nat → Dev → Dev
  | 0, d => d
  | n + 1, d =>
    match d.moveOnce with
    | some d' => Dev.moveLoop n d'
    | none => d

/-- The test of R115. -/
def Dev.hiuMove (d : Dev) : Dev := d.moveLoop 256

/-- What became of an offer: the number it was given, or its loss. -/
structure Offered where
  dev : Dev
  seq : Option Nat

/-- An entry is offered for intake: taken (R109) or lost (R110). -/
def Dev.offerSeq (d : Dev) (body : HBody) (severity : Nat) (source : Source) (code : Nat) : Offered :=
  if d.hiu.canTake then
    ⟨(d.takeEntry body severity source code).hiuMove, some d.hiu.nextSeq⟩
  else
    let lost := bump 65535 d.hiu.lost
    ⟨(d.setHiu fun h => { h with lost }).raise .historyLost lost, none⟩

/-- An internal event is offered (R114). -/
def Dev.event (d : Dev) (code severity : Nat) (body : HBody) : Dev := (d.offerSeq body severity .internal code).dev

/-- An internal event that requests a flush (R116): the mark takes its number, or the last entry taken. -/
def Dev.markedEvent (d : Dev) (code severity : Nat) (body : HBody) : Offered :=
  let o := d.offerSeq body severity .internal code
  let n := o.seq.getD (d.hiu.nextSeq - 1)
  ⟨o.dev.setHiu (·.markTo n), o.seq⟩

/-- While AWAITING_ZONE, the test of the successor; a zone that becomes ACTIVE takes the staged bytes (R120). -/
def Dev.awaitTest (d : Dev) : Dev :=
  if d.hiu.target.isSome then d
  else match d.hiu.successor with
    | some k => if (d.hiu.ring[k]).state = RingState.erased then (d.activate k).prepTest.hiuMove else d
    | none => d

/-! ### Flushing -/

/-- Whether an entry numbered at or below a mark is among some entries. -/
def coveredBy (mark : Option Nat) (l : List HEntry) : Bool := mark.any fun m => l.any (·.seq ≤ m)

/-- Whether a flush is due (R117). -/
def Hiu.flushDue (h : Hiu) : Bool :=
  h.target.isSome && !h.staging.isEmpty && (512 ≤ h.pendingBytes || coveredBy h.mark h.staging || h.closed)

/-- The page of a write target. -/
def WritePage.addr (t : WritePage) : PageAddr := ⟨ringZone t.zone, t.page⟩

/-- The PROGRAM of a flush as it would be fixed now: the pending bytes behind the programmed count, with the page
header when the count is 0 (R117). -/
def Dev.flushJob (d : Dev) (t : WritePage) : Job :=
  let header := match t.programmed, d.hiu.staging with
    | 0, e :: _ =>
      ({ kind := kindHistory, epoch := d.drm.epoch, firstSeq := e.seq } : Header).bytes
    | _, _ => []
  .program t.addr t.programmed (d.hiu.staging.flatMap HEntry.bytes) 0 header

/-- HIU's writer places its request (R117). -/
def Dev.hiuWrite (d : Dev) : Dev :=
  match d.hiu.writer, d.hiu.target with
  | .idle, some t =>
    if d.hum.mode ≠ .start ∧ d.hiu.flushDue then
      (d.setHiu fun h => { h with writer := .waitGrant }).place .flush (d.flushJob t)
    else d
  | _, _ => d

/-! ### Halting -/

/-- The halted flag clears at a release that leaves 2 or more (R122, R125); an exhausted sequence number keeps it
(R109). -/
def Dev.resumeTest (d : Dev) : Dev :=
  if 2 ≤ d.hiu.unpinnedZones ∧ d.hiu.halted ∧ d.hiu.nextSeq ≤ Config.max32 then
    (d.setHiu fun h => { h with halted := false }).gapTest.hiuMove.awaitTest
  else d

/-! ### Pinning -/

/-- Where a window's entries stand: a ring zone, or the zone that will next become ACTIVE. -/
inductive WindowZone where
  | ring (k : RingIdx)
  | deferred
  deriving DecidableEq, Repr

/-- A history window (R123). -/
structure Window where
  first : Nat
  last : Nat
  shortened : Bool
  deriving DecidableEq, Repr

/-- The oldest entry not yet programmed. -/
def Hiu.oldestStaged (h : Hiu) : Option Nat := ((h.staging ++ h.intake).head?).map (·.seq)

/-- The oldest stored entry (R119). -/
def Hiu.oldestStored (h : Hiu) : Option Nat :=
  (h.ring.toList.filterMap fun z => z.range.map (·.1)).foldl (fun a n => some (min n (a.getD n))) none

/-- The oldest entry of either kind (R123). -/
def Hiu.oldest (h : Hiu) : Option Nat :=
  match h.oldestStored, h.oldestStaged with
  | some a, some b => some (min a b)
  | some a, none => some a
  | none, b => b

/-- The zones that hold entries `first` to `last`, from the newest back through the ring (R123, R124). -/
def Hiu.windowZones (h : Hiu) (first last : Nat) : List WindowZone :=
  let staged := (h.staging ++ h.intake).any fun e => first ≤ e.seq && e.seq ≤ last
  let back := (ringAfter h.newest).reverse
  let holding := back.filter fun k => (h.ring[k]).range.any fun r => first ≤ r.2 && r.1 ≤ last
  match h.target with
  | some t => if staged then .ring t.zone :: (holding.filter (· != t.zone)).map .ring else holding.map .ring
  | none => if staged then .deferred :: holding.map .ring else holding.map .ring

/-- The zones counted against the pin limit (R124). -/
def Hiu.pinCount (h : Hiu) : Nat :=
  (h.ring.toList.filter (!·.pins.isEmpty)).length + (if h.deferred.isEmpty then 0 else 1)

/-- Pins one zone for an incident; none when the pin limit forbids it (R124). -/
def Hiu.pinZone (h : Hiu) (number : Nat) : WindowZone → Option Hiu
  | .ring k =>
    if (h.ring[k]).pins.isEmpty && Config.pinLimit ≤ h.pinCount then none
    else some { h with ring := modify h.ring k fun z => { z with pins := number :: z.pins.filter (· != number) } }
  | .deferred =>
    if h.deferred.isEmpty && Config.pinLimit ≤ h.pinCount then none
    else some { h with deferred := number :: h.deferred.filter (· != number) }

/-- The first sequence number of a zone; that of the oldest entry not yet programmed where it holds none. -/
def Hiu.zoneFirst (h : Hiu) : WindowZone → Nat
  | .ring k => match (h.ring[k]).range with
    | some r => r.1
    | none => h.oldestStaged.getD 0
  | .deferred => h.oldestStaged.getD 0

/-- Pins zones from the newest; answers the first number of the oldest one pinned when the limit stops it. `reached`
is that number so far, the entry T alone while nothing is pinned (R124). The oldest one is the one pinned last, the
farthest back in ring order (log entry 37). -/
def Hiu.pinAll (number : Nat) : Hiu → List WindowZone → Nat → Hiu × Option Nat
  | h, [], _ => (h, none)
  | h, z :: zs, reached =>
    match h.pinZone number z with
    | some h' => Hiu.pinAll number h' zs (h'.zoneFirst z)
    | none => (h, some reached)

/-- Whether a number is that of a stored entry or of one not yet programmed. -/
def Hiu.holdsSeq (h : Hiu) (n : Nat) : Bool :=
  h.ring.toList.any (fun z => z.range.any fun r => r.1 ≤ n && n ≤ r.2) || (h.staging ++ h.intake).any (·.seq == n)

/-- How many entries a window holds: those of its numbers whose entry stands in a ring zone, in the staging block or in
the intake queue (R123). -/
def Hiu.windowSize (h : Hiu) (first last : Nat) : Nat :=
  ((List.range' first (last + 1 - first)).filter h.holdsSeq).length

/-- The window of an incident and its pins (R123, R124), then the test of R122, made once behind the last pinning of
the window (R124's 'after every pinning' read so is a choice of the model, log entry 48). `trigger` is the number of
the TRIGGER entry, absent when it was lost. The shortened flag is set where the window holds fewer than W + 1 entries.
A window of which nothing is stored or staged is the entry T alone (log entry 19). -/
def Dev.pinWindow (d : Dev) (number : Nat) (trigger : Option Nat) : Dev × Window :=
  let h := d.hiu
  let last := trigger.getD (h.nextSeq - 1)
  if last = 0 then (d, ⟨1, 0, true⟩)
  else
    let w := d.sst.working.historyWindow
    let first := match h.oldest with
      | some o => if o ≤ last then max (last - w) o else last
      | none => last
    let (h', cut) := Hiu.pinAll number h (h.windowZones first last) last
    let first' := cut.getD first
    ({ d with hiu := h' }.haltTest, ⟨first', last, trigger.isNone || cut.isSome || h.windowSize first' last < w + 1⟩)

/-- An incident's number leaves every pin set and the deferred pins (R125). -/
def Hiu.dropPins (h : Hiu) (number : Nat) : Hiu :=
  { h with
    ring := h.ring.map fun z => { z with pins := z.pins.filter (· != number) }
    deferred := h.deferred.filter (· != number) }

/-- Unpins an incident at its release, then the tests of R120, R121 and R122 (R125). -/
def Dev.unpin (d : Dev) (number : Nat) : Dev := (d.setHiu (·.dropPins number)).awaitTest.prepTest.resumeTest

end Sys2Proof.Machine
end

