-- ==== Sys2Proof/Machine/Directory.lean ====
section
/-! DEFINITION. DRM: the directory queue (R92 to R95), the journal writer (R96 to R98) and compaction (R99 to R102). -/

namespace Sys2Proof.Machine

def Dev.setDrm (d : Dev) (f : Drm → Drm) : Dev := { d with drm := f d.drm }

/-! ### Records -/

/-- Rewrites the record in a slot. -/
def Dev.modSlot (d : Dev) (i : DirSlot) (f : Incident → Incident) : Dev :=
  d.setDrm fun m => { m with dir := modify m.dir i (Option.map f) }

/-- Rewrites the record of an incident number. -/
def Dev.modIncident (d : Dev) (number : Nat) (f : Incident → Incident) : Dev :=
  match d.drm.slotOf number with
  | some i => d.modSlot i f
  | none => d

/-- Rewrites a stream record. -/
def Incident.modStream (r : Incident) (n : Nat) (f : StreamRec → StreamRec) : Incident :=
  { r with streams := r.streams.map fun s => if s.number = n then f s else s }

/-! ### The queue -/

/-- An entry joins the queue (R92). -/
def Dev.queueEntry (d : Dev) (e : JEntry) : Dev := d.setDrm fun m => { m with queue := m.queue ++ [e] }

/-- Whether `n` capture entries are accepted now: no requester waits ahead and places are free (R93, R95). -/
def Drm.capRoom (m : Drm) (n : Nat) : Bool :=
  m.captureWaiters.isEmpty && m.queue.length + n ≤ Config.queueDepth

/-- Whether a non-capture entry is accepted now (R93). -/
def Drm.hasRoom (m : Drm) : Bool := m.queue.length < Config.housekeepingDepth

/-- A capture requester joins the end of its list (R95). -/
def Dev.addWaiter (d : Dev) (w : CapWaiter) : Dev :=
  d.setDrm fun m => { m with captureWaiters := m.captureWaiters ++ [w] }

/-- A slot or an incident that already waits does not join the list again. -/
def Dev.waitCapture (d : Dev) (w : CapWaiter) : Dev :=
  if d.drm.captureWaiters.contains w then d else d.addWaiter w

/-! ### The journal writer -/

/-- Entries of a page of a directory zone. -/
abbrev slotsPerPage : Nat := 16

/-- The entries a batch would hold now (R96). -/
def Drm.batchNow (m : Drm) : List JEntry := m.queue.take (slotsPerPage - m.pos % slotsPerPage)

/-- The header of a directory page. -/
def Drm.header (m : Drm) : List Byte := ({ kind := kindDirectory, epoch := m.epoch } : Header).bytes

/-- The page of an entry slot of a directory zone. -/
def slotPage (z : Zone) (slot : Nat) : PageAddr := ⟨z, Fin.ofNat 32 (slot / slotsPerPage)⟩

/-- The PROGRAM of a batch (R96). -/
def Drm.batchJob (m : Drm) (z : Zone) : Job :=
  .program (slotPage z m.pos) (jEntryBytes * (m.pos % slotsPerPage)) (m.batchNow.flatMap JEntry.bytes) 0
    (if m.pos % slotsPerPage = 0 then m.header else [])

/-! ### Compaction -/

/-- Whether compaction is due (R99). -/
def Drm.compactionDue (m : Drm) : Bool :=
  m.active.isSome && (Config.journalSlots - m.pos < Config.compactionMargin || !m.journalOpen)

/-- Whether a due compaction starts now (R99). -/
def Dev.compactionReady (d : Dev) : Bool :=
  d.drm.compactionDue && d.hum.mode == .normal && !d.arc.storeFailed && d.drm.spare == some .erased
    && d.drm.writer == .idle && d.drm.generation < Config.max32 && d.drm.copy.isNone

/-- The summary entries of a record in a slot (R100). -/
def summaryEntries (slot : Nat) (r : Incident) : List JEntry :=
  .incidentSummary slot { r with streams := [], completeness := r.shownCompleteness } r.streams.length
    :: r.streams.map (.streamSummary r.number)

/-- The image between its head and its tail, in the order of R100. -/
def CompactionCopy.middle (c : CompactionCopy) : List JEntry :=
  ((List.finRange 32).flatMap fun i => match c.dir[i] with
    | some r => summaryEntries i.val r
    | none => [])
  ++ ((List.finRange 256).filter (c.defects.contains ·)).map .zoneDefect
  ++ (c.unfinished.map .reclaimStart).toList

/-- The image (R100). -/
def CompactionCopy.image (c : CompactionCopy) : List JEntry :=
  [.compactHead (c.generation + 1) c.epoch c.nextIncident] ++ c.middle
    ++ [.compactTail (c.generation + 1) (c.middle.length + 2)]

/-- The zone that is not the active one. -/
def Drm.spareZone (m : Drm) : Zone := if m.active = some 1 then 2 else 1

/-- The entries of the next image page. -/
def Drm.imageNow (m : Drm) : List JEntry :=
  match m.copy with
  | some c => (c.image.drop m.imagePos).take slotsPerPage
  | none => []

/-- The PROGRAM of the next image page (R101). -/
def Drm.imageJob (m : Drm) : Job :=
  .program (slotPage m.spareZone m.imagePos) 0 (m.imageNow.flatMap JEntry.bytes) 0 m.header

/-- Whether an entry to NORMAL in this state leaves the entries of recovery to a compaction (R156): the spare is DIRTY
and a compaction is due. At the last generation none would follow (R99). -/
def Drm.holdsRecovery (m : Drm) : Bool :=
  m.compactionDue && m.spare == some .dirty && m.generation < Config.max32

/-- Whether the journal writer waits for the compaction that makes the entries of recovery durable (R156). Under
STORE_FAILED no compaction follows, and the active zone takes entries while it has room (R99, R103). That this comes
before R96 is the model's choice (log entry 49). -/
def Dev.journalHeld (d : Dev) : Bool := d.drm.recoveryHeld && !d.arc.storeFailed

/-- DRM's writers place their request: the image page of a compaction in progress, else the next batch (R96, R101),
unless the entries of recovery wait for a compaction (R156). A due compaction that can start comes first (R99). -/
def Dev.drmWrite (d : Dev) : Dev :=
  if d.hum.mode = .start ∨ d.drm.writer ≠ .idle ∨ d.compactionReady then d
  else if d.drm.copy.isSome then
    (d.setDrm fun m => { m with writer := .waitGrant }).place .image d.drm.imageJob
  else match d.drm.active with
    | some z =>
      if d.drm.journalOpen ∧ d.drm.queue ≠ [] ∧ d.drm.absorbed = [] ∧ d.drm.pos < Config.journalSlots
          ∧ d.journalHeld = false then
        (d.setDrm fun m => { m with writer := .waitGrant }).place .journal (d.drm.batchJob z)
      else d
    | none => d

/-- The unfinished reclaim (R100): ERASING, its RECLAIM_START queued or durable, no RECLAIM_DONE queued. -/
def ReclaimStep.unfinished : ReclaimStep → Option Zone
  | .startWait z | .eraseWait z | .eraseRun z | .doneQueue z => some z
  | .idle | .doneWait _ => none

/-- A due compaction starts (R100). A zone left for re-erase is an unfinished reclaim too (R88). The entries of recovery
that waited for it are absorbed with the queue (R156). -/
def Dev.startCompaction (d : Dev) : Dev :=
  d.setDrm fun m => { m with
    copy := some
      { dir := m.dir, defects := d.arc.defects
        unfinished := match d.plm.reclaim.unfinished with
          | some z => some z
          | none => d.plm.reErase.head?
        generation := m.generation, epoch := m.epoch, nextIncident := m.nextIncident }
    imagePos := 0
    absorbed := m.absorbed ++ m.queue
    queue := []
    spare := some .image
    recoveryHeld := false }

/-- DRM requests the erase of the spare zone; a request that names a zone with a defect mark does not wait (R66). -/
def Dev.eraseSpare (d : Dev) : Dev :=
  if d.arc.defects.contains d.drm.spareZone then d else d.place .dirErase (.erase d.drm.spareZone)

/-- The spare zone is DIRTY, and DRM requests its erase (R101, R102). -/
def Dev.dirtySpare (d : Dev) : Dev := (d.setDrm fun m => { m with spare := some .dirty }).eraseSpare

end Sys2Proof.Machine
end

