-- ==== Sys2Proof/Machine/Pool.lean ====
section
/-! DEFINITION. PLM: page allocation (R72, R73), the Zone Table and the Page Map (R81 to R84), reclaim (R85 to R88)
and POOL_LOW (R89). -/

namespace Sys2Proof.Machine

def Dev.setPlm (d : Dev) (f : Plm → Plm) : Dev := { d with plm := f d.plm }

/-- The entry of a page in the Page Map (R84). -/
def pageEntry (p : PageAddr) : Nat := Config.pagesPerZone * (p.zone.val - Config.firstPoolZone) + p.page.val

/-- The page of an entry of the Page Map. -/
def entryPage (n : Nat) : PageAddr :=
  ⟨Fin.ofNat 256 (n / Config.pagesPerZone + Config.firstPoolZone), Fin.ofNat 32 n⟩

/-- A Page Map entry. -/
def Plm.page (m : Plm) (p : PageAddr) : PageEntry := SMap.get .erased m.pages (pageEntry p)

def Plm.setPage (m : Plm) (p : PageAddr) (e : PageEntry) : Plm :=
  { m with pages := SMap.set .erased m.pages (pageEntry p) e }

def Plm.setZone (m : Plm) (z : Zone) (e : ZoneEntry) : Plm :=
  { m with zones := SMap.set ZoneEntry.fresh m.zones z.val e }

def Plm.modZone (m : Plm) (z : Zone) (f : ZoneEntry → ZoneEntry) : Plm := m.setZone z (f (m.zone z.val))

/-- Every Page Map entry of a zone takes one state. -/
def Plm.setZonePages (m : Plm) (z : Zone) (e : PageEntry) : Plm :=
  (zonePages z).foldl (fun m p => m.setPage p e) m

/-- POOL_LOW, when the FREE count is below the threshold in force (R89). -/
def Dev.poolLowTest (d : Dev) : Dev :=
  if d.plm.freeZones < d.sst.working.poolLow then d.raise .poolLow d.plm.freeZones else d

/-- The pool zones in the order of the search of R73: from the zone after the cursor, ending at the cursor. -/
def searchOrder (cursor : Zone) : List Nat :=
  poolZoneList.filter (cursor.val < ·) ++ poolZoneList.filter (· ≤ cursor.val)

/-- A new fill zone (R73); FREE zones fall by one, so POOL_LOW is tested (R89). -/
def Dev.newFillZone (d : Dev) : Option Dev :=
  (searchOrder d.plm.cursor).find? (fun z => (d.plm.zone z).state == .free) |>.map fun z =>
    let z := Fin.ofNat 256 z
    (d.setPlm fun m => { (m.setZone z ⟨.filling, 0, []⟩) with fillZone := some z, cursor := z }).poolLowTest

/-- The fill zone, when it has a page left to give. -/
def Plm.givable (m : Plm) : Option Zone := m.fillZone.filter fun z => (m.zone z.val).nextPage < Config.pagesPerZone

/-- Gives the fill zone's next erased page (R72). -/
def Dev.giveFrom (d : Dev) (z : Zone) : PageAddr × Dev :=
  let p : PageAddr := ⟨z, Fin.ofNat 32 (d.plm.zone z.val).nextPage⟩
  (p, d.setPlm fun m => (m.modZone z fun e => { e with nextPage := e.nextPage + 1 }).setPage p .programming)

/-- A page for the Commit Engine (R72, R73); none when no zone is FREE. -/
def Dev.givePage (d : Dev) : Option (PageAddr × Dev) :=
  match d.plm.givable with
  | some z => some (d.giveFrom z)
  | none =>
    match d.newFillZone with
    | some d' => d'.plm.givable.map d'.giveFrom
    | none => none

/-- Undoes an assignment (R72, R80). -/
def Plm.undoPage (m : Plm) (p : PageAddr) : Plm :=
  (m.setPage p .erased).modZone p.zone fun e => { e with nextPage := p.page.val }

/-- The fill zone leaves FILLING once its pages are given and settled (R82). -/
def Plm.usedUpTest (m : Plm) : Plm :=
  match m.fillZone with
  | some z =>
    let e := m.zone z.val
    if e.nextPage = Config.pagesPerZone then
      { (m.setZone z { e with state := if e.holders.isEmpty then .retired else .full }) with fillZone := none }
    else m
  | none => m

/-- A page becomes LIVE and its incident a holder of its zone (R75). -/
def Plm.setLive (m : Plm) (p : PageAddr) (b : Block) : Plm :=
  (m.setPage p (.live b.incident b.stream b.seq b.data.length)).modZone p.zone fun e =>
    { e with holders := b.incident :: e.holders.filter (· != b.incident) }

/-- A release makes the incident's pages DEAD and retires FULL zones that no incident holds any more (R83). -/
def Plm.retire (m : Plm) (number : Nat) : Plm :=
  { m with
    pages := m.pages.map fun e => match e.2 with
      | .live inc _ _ _ => if inc = number then (e.1, .dead) else e
      | _ => e
    zones := m.zones.map fun e =>
      let holders := e.2.holders.filter (· != number)
      (e.1, { e.2 with
        holders
        state := if e.2.state = .full ∧ e.2.holders.contains number ∧ holders = [] then .retired else e.2.state }) }

/-- The LIVE page of a page sequence of a stream (R84). -/
def Plm.livePage (m : Plm) (incident stream seq : Nat) : Option (PageAddr × Nat) :=
  m.pages.findSome? fun e => match e.2 with
    | .live i s q fill => if i = incident ∧ s = stream ∧ q = seq then some (entryPage e.1, fill) else none
    | _ => none

/-! ### Reclaim -/

/-- The lowest-numbered RETIRED zone (R85). -/
def Plm.retiredZone (m : Plm) : Option Zone :=
  (poolZoneList.find? fun z => (m.zone z).state == .retired).map (Fin.ofNat 256)

/-- Whether the reclaim process starts a reclaim now (R85). -/
def Dev.reclaimReady (d : Dev) : Bool :=
  d.plm.reclaim == .idle && d.plm.reclaimAsked.isNone && (!d.plm.reErase.isEmpty || d.plm.retiredZone.isSome)
    && d.hum.mode == .normal && !d.arc.storeFailed

/-- A maintenance entry enters the queue, and its originator goes on (R94, R85, R86). -/
def Dev.acceptMaint (d : Dev) (e : JEntry) : Dev :=
  let d := d.queueEntry e
  match e with
  | .reclaimStart z => d.setPlm fun m =>
      { (m.modZone z fun e => { e with state := .erasing }) with reclaim := .startWait z, reclaimAsked := none }
  | .reclaimDone z => d.setPlm fun m => { m with reclaim := .doneWait z }
  | _ => d

/-- A maintenance entry is accepted, or joins the waiters behind those that began before it (R93, R94). -/
def Dev.maintEntry (d : Dev) (e : JEntry) : Dev :=
  if d.drm.hasRoom ∧ d.drm.maintWaiters = [] then d.acceptMaint e
  else d.setDrm fun m => { m with maintWaiters := m.maintWaiters ++ [e] }

/-- The reclaim process places its ERASE and waits for the grant (R86, R88). -/
def Dev.reclaimErase (d : Dev) (z : Zone) : Dev :=
  (d.setPlm fun m => { m with reclaim := .eraseWait z }).place .reclaim (.erase z)

/-- The reclaim process starts: a zone left for re-erase first, else the lowest RETIRED zone (R85, R88). -/
def Dev.startReclaim (d : Dev) : Dev :=
  match d.plm.reErase with
  | z :: rest => (d.setPlm fun m => { m with reErase := rest }).reclaimErase z
  | [] =>
    match d.plm.retiredZone with
    | some z => (d.setPlm fun m => { m with reclaimAsked := some z }).maintEntry (.reclaimStart z)
    | none => d

/-- A durability report reaches the reclaim process (R86, R92). -/
def Dev.reportDurable (d : Dev) (e : JEntry) : Dev :=
  match e with
  | .reclaimStart z => if d.plm.reclaim = .startWait z then d.reclaimErase z else d
  | .reclaimDone z =>
    if d.plm.reclaim = .doneWait z then
      d.setPlm fun m => { (m.setZone z ZoneEntry.fresh) with reclaim := .idle }
    else d
  | _ => d

end Sys2Proof.Machine
end

