-- ==== Sys2Proof/Machine/Capture.lean ====
section
/-! DEFINITION. CPM and STB: stream slots (R23 to R25), the commit queue (R32, R33), endings and cuts (R38 to R46),
release (R47); and ICT's close of an incident (R13, R15, R16). -/

namespace Sys2Proof.Machine

def Dev.setStb (d : Dev) (f : Stb → Stb) : Dev := { d with stb := f d.stb }
def Dev.setIct (d : Dev) (f : Ict → Ict) : Dev := { d with ict := f d.ict }

/-! ### Stream slots -/

/-- The fields of a slot that is taken. -/
def Dev.body (d : Dev) (i : StreamIdx) : Option StreamBody := (d.cpm.slots[i]).body

/-- Rewrites the fields of a taken slot. -/
def Dev.modBody (d : Dev) (i : StreamIdx) (f : StreamBody → StreamBody) : Dev :=
  { d with cpm := { d.cpm with slots := modify d.cpm.slots i fun s => { s with body := s.body.map f } } }

def StreamBody.isOpen (b : StreamBody) : Bool := b.ending.isNone

/-- The taken slots, in order of their numbers. -/
def Dev.takenSlots (d : Dev) : List StreamIdx := (List.finRange 16).filter fun i => (d.body i).isSome

/-- The OPEN slots that satisfy a test, in order of their numbers. -/
def Dev.openSlots (d : Dev) (p : StreamBody → Bool) : List StreamIdx :=
  (List.finRange 16).filter fun i => (d.body i).any fun b => b.isOpen && p b

/-- The directory's record of a stream follows its slot (R25). -/
def Dev.syncRecord (d : Dev) (i : StreamIdx) : Dev :=
  match d.body i with
  | some b => d.modIncident b.incident (·.modStream b.stream fun r =>
      { r with accepted := b.accepted, committed := b.committed, pages := b.pages })
  | none => d

/-! ### Staging blocks -/

/-- A block joins the commit queue: behind every block of its own class or a lower class number (R33). -/
def joinQueue (q : List Block) (b : Block) : List Block :=
  q.filter (·.cls ≤ b.cls) ++ [b] ++ q.filter (b.cls < ·.cls)

/-- Blocks return to the free list (R30). -/
def Dev.freeBlocks (d : Dev) (ids : List Nat) : Dev := d.setStb fun s => { s with free := s.free ++ ids }

/-- The fill block of a slot joins the commit queue (R32). -/
def Dev.queueFill (d : Dev) (i : StreamIdx) : Dev :=
  match (d.body i).bind (·.fill) with
  | some f =>
    (d.setStb fun s => { s with queue := joinQueue s.queue f }).modBody i fun b =>
      { b with fill := none, queued := b.queued + 1 }
  | none => d

/-- Discards the fill block of a slot and its blocks in the commit queue (R43 to R45). -/
def Dev.discardBlocks (d : Dev) (i : StreamIdx) : Dev :=
  let mine := d.stb.queue.filter (·.slot == i)
  let fill := ((d.body i).bind (·.fill)).toList
  ((d.setStb fun s => { s with queue := s.queue.filter (·.slot != i) }).freeBlocks
      ((mine ++ fill).map (·.id))).modBody i fun b =>
    { b with fill := none, queued := b.queued - mine.length }

/-- A slot leaves OPEN; the fill block, if any, joins the commit queue (R32). -/
def Dev.leaveOpen (d : Dev) (i : StreamIdx) (e : PendingEnd) : Dev :=
  (d.modBody i fun b => { b with ending := some e }).queueFill i

/-- A cut is reported: the STREAM_CUT event and notice (R46). -/
def Dev.reportCut (d : Dev) (b : StreamBody) (r : Reason) : Dev :=
  (d.event evStreamCut 2 (f1 (leBytes 4 b.incident ++ leBytes 1 b.stream ++ leBytes 1 (Reason.code r)))).raise
    .streamCut b.incident

/-! ### The close of an incident -/

/-- Every ATTN line is deasserted (R13, R14, R17, R19). -/
def Dev.attnOff (d : Dev) : Dev := d.setIct fun c => { c with attn := Vector.replicate 4 false }

/-- The window and limit deadlines are cancelled (R14, R15, R17). -/
def Dev.cancelCapture (d : Dev) : Dev := d.deadlines fun t => { t with window := none, limit := none }

/-- The RECORDING incident's window is expired (R13, R14, R17). -/
def Dev.expireWindow (d : Dev) : Dev := (d.setIct fun c => { c with windowExpired := true }).attnOff

/-- The passage of R15 is possible: window expired, no OPEN stream, no other incident CLOSING. -/
def Dev.passes (d : Dev) : Option (DirSlot × Incident) :=
  if d.ict.windowExpired ∧ d.ict.closing = none then
    match d.ict.recording, d.drm.at? d.ict.recording with
    | some s, some r => if d.openSlots (·.incident == r.number) = [] then some (s, r) else none
    | _, _ => none
  else none

/-- A RECORDING incident passes to CLOSING (R15). -/
def Dev.tryPass (d : Dev) : Dev :=
  match d.passes with
  | some (s, _) =>
    ((d.modSlot s fun r => { r with state := .closing }).showInd.setIct fun c =>
      { c with recording := none, closing := some s, windowExpired := false }).attnOff.cancelCapture
  | none => d

/-- The completeness of R16. -/
def Incident.closeCompleteness (r : Incident) : Completeness :=
  if r.streams = [] then .noData
  else if r.streams.all (·.endKind == .ended) then .full
  else .partly

/-- The CLOSING incident that holds no stream slot (R16). -/
def Dev.keepable (d : Dev) : Option (DirSlot × Incident) :=
  match d.ict.closing, d.drm.at? d.ict.closing with
  | some s, some r =>
    if d.takenSlots.any (fun i => (d.body i).any (·.incident == r.number)) then none else some (s, r)
  | _, _ => none

/-- The CLOSING incident becomes KEPT (R16). -/
def Dev.keep (d : Dev) (s : DirSlot) (r : Incident) : Dev :=
  let c := r.closeCompleteness
  let d := d.queueEntry (.incidentClose r.number (some c) r.overflow)
  let d := (d.modSlot s fun r => { r with state := .kept, completeness := some c }).showInd
  let d := d.setIct fun x => { x with closing := none }
  (d.event evIncidentKept 3 (f1 (leBytes 4 r.number ++ leBytes 1 (Completeness.code c)))).raise .incidentKept r.number

/-- The test of R16; without a place in the queue INCIDENT_CLOSE waits. -/
def Dev.tryKeep (d : Dev) : Dev :=
  match d.keepable with
  | some (s, r) => if d.drm.capRoom 1 then d.keep s r else d.waitCapture .incidentClose
  | none => d

/-- The tests of R15 and R16, one incident after the other. -/
def Dev.closeRun (d : Dev) : Dev := d.tryPass.tryKeep.tryPass.tryKeep

/-! ### Release of a slot -/

/-- Whether a slot is to be released: DRAINING, no fill block, no block queued or under program (R47). -/
def StreamBody.drained (b : StreamBody) : Option PendingEnd :=
  if b.fill.isNone && b.queued == 0 then b.ending else none

/-- A slot is released: STREAM_END is queued, the record takes its values, the slot is FREE (R47). -/
def Dev.releaseSlot (d : Dev) (i : StreamIdx) (b : StreamBody) (e : PendingEnd) : Dev :=
  let d := d.queueEntry (.streamEnd b.incident b.stream e.kind e.reason b.short b.accepted b.committed b.pages)
  let d := d.modIncident b.incident (·.modStream b.stream fun r =>
    { r with accepted := b.accepted, committed := b.committed, pages := b.pages, endKind := e.kind
             reason := e.reason, short := b.short })
  { d with cpm := { d.cpm with slots := modify d.cpm.slots i fun s => { s with body := none } } }

/-- The release of a slot and its report to ICT, without the passage of R15: the CLOSING incident may become KEPT
(R43, R47). Without a place in the queue the slot waits. -/
def Dev.releaseKeeping (d : Dev) (i : StreamIdx) : Dev :=
  match d.body i with
  | some b =>
    match b.drained with
    | some e => if d.drm.capRoom 1 then (d.releaseSlot i b e).tryKeep else d.waitCapture (.streamEnd i)
    | none => d
  | none => d

/-- The test of R47 for a slot, with the tests of R15 and R16 that follow it. -/
def Dev.tryRelease (d : Dev) (i : StreamIdx) : Dev := (d.releaseKeeping i).closeRun

/-! ### Cuts that discard -/

/-- The pending end kind after a cut of R44 or R45: an OPEN or ENDED stream is TRUNCATED with the reason; another kind
stays. -/
def cutEnding (r : Reason) : Option PendingEnd → PendingEnd
  | none | some .ended => .truncated r
  | some e => e

/-- The cut of R44 and R45: the stream's fill block and queued blocks are discarded, the cut is reported, and the
slot's release follows. -/
def Dev.cutDiscard (d : Dev) (i : StreamIdx) (r : Reason) : Dev :=
  match d.body i with
  | some b =>
    let d := d.modBody i fun b => { b with ending := some (cutEnding r b.ending) }
    ((d.discardBlocks i).reportCut b r).closeRun.tryRelease i
  | none => d

end Sys2Proof.Machine
end

