-- ==== Sys2Proof/Machine/Ecc.lean ====
section
/-! DEFINITION. The check words of a DUMP page (R54) and the integrity decode (R55). The manual names the kind of
code and not the code: its columns are free values (log entry 6). -/

namespace Sys2Proof.Machine

/-- Bytes, data bits and check bits of a chunk (R54). -/
abbrev chunkBytes : Nat := 64
abbrev chunkBits : Nat := 512
abbrev checkBits : Nat := 16

/-- Column `i` of the code: a data bit's, or the unit column of a check bit. -/
def codeColumn (col : Nat → BitVec 16) (i : Nat) : BitVec 16 :=
  if i < chunkBits then col i else 1#16 <<< (i - chunkBits)

/-- A single-correct, double-detect code: no column is zero, two columns differ, and the sum of two is no third. -/
abbrev SecDed (col : Nat → BitVec 16) : Prop :=
  (∀ i < chunkBits + checkBits, codeColumn col i ≠ 0) ∧
  (∀ i < chunkBits + checkBits, ∀ j < i, codeColumn col i ≠ codeColumn col j) ∧
  (∀ i < chunkBits + checkBits, ∀ j < i, ∀ k < j, codeColumn col i ^^^ codeColumn col j ≠ codeColumn col k)

/-- Ones among the low nine bits. -/
def ones9 (i : Nat) : Nat := ((List.range 9).filter i.testBit).length

/-- A code of the kind R54 names: every column has an odd number of ones. -/
def oddColumn (i : Nat) : BitVec 16 :=
  BitVec.ofNat 16 (i ||| 0x6000 ||| (if ones9 i % 2 = 0 then 0x8000 else 0))

/-- The column of data bit `i`: the free code's, when it is of the kind R54 names. -/
def eccColumn (i : Nat) : BitVec 16 := if SecDed Config.eccColumn then Config.eccColumn i else oddColumn i

/-- Data bit `i` of a chunk. -/
def chunkBit (bs : List Byte) (i : Nat) : Bool := (bs.getD (i / 8) 0).getLsbD (i % 8)

/-- The check word of a chunk. -/
def checkWord (bs : List Byte) : BitVec 16 :=
  (List.range chunkBits).foldl (fun w i => if chunkBit bs i then w ^^^ eccColumn i else w) 0

/-- Chunk outcomes (Table 3.4). -/
inductive ChunkOutcome where
  | clean | corrected | uncorrectable
  deriving DecidableEq, Repr

/-- Inverts data bit `i`. -/
def flipBit (bs : List Byte) (i : Nat) : List Byte :=
  bs.set (i / 8) (bs.getD (i / 8) 0 ^^^ (1#8 <<< (i % 8)))

/-- Decodes a chunk against its check word (R55, Table 3.4). -/
def decodeChunk (bs : List Byte) (word : BitVec 16) : ChunkOutcome × List Byte :=
  let syndrome := checkWord bs ^^^ word
  if syndrome = 0 then (.clean, bs)
  else match (List.range chunkBits).find? (fun i => eccColumn i = syndrome) with
    | some i => (.corrected, flipBit bs i)
    | none =>
      if (List.range checkBits).any (fun k => 1#16 <<< k == syndrome) then (.corrected, bs)
      else (.uncorrectable, bs)

/-- Data bytes as a DUMP page stores them: a chunk that the fill count cuts through is completed with FFH (R54). -/
def paddedData (data : List Byte) : List Byte :=
  data ++ List.replicate ((chunkBytes - data.length % chunkBytes) % chunkBytes) erasedByte

/-- Chunk `k` of stored data. -/
def chunkOf (stored : List Byte) (k : Nat) : List Byte := slice stored (k * chunkBytes) chunkBytes

/-- The 32 check bytes of a DUMP page; FFFFH for a chunk at or beyond the fill count (R54). -/
def checkWords (data : List Byte) : List Byte :=
  (List.range 16).flatMap fun k =>
    if k * chunkBytes < data.length then leBytes 2 (checkWord (chunkOf (paddedData data) k)).toNat
    else leBytes 2 0xFFFF

/-- The bytes of a range decoded, with the CORRECTED and UNCORRECTABLE counts. -/
structure Decoded where
  data : List Byte
  corrected : Nat
  uncorrectable : Nat
  deriving DecidableEq, Repr

/-- A read of `len` data bytes at `at_` of a DUMP page of the given fill count, decoded by R55. -/
def decodeRead (m : Memory) (p : PageAddr) (fill at_ len : Nat) : Decoded :=
  let chunks := (List.range 16).filter fun k =>
    at_ < (k + 1) * chunkBytes && k * chunkBytes < at_ + len && k * chunkBytes < fill
  let outcome k := decodeChunk (m.pageData p (k * chunkBytes) chunkBytes)
    (BitVec.ofNat 16 (leNat (m.spare p (32 + 2 * k) 2)))
  { data := (List.range' at_ len).map fun x =>
      if (x / chunkBytes) ∈ chunks then (outcome (x / chunkBytes)).2.getD (x % chunkBytes) erasedByte
      else m.read (p.base + x)
    corrected := (chunks.filter fun k => (outcome k).1 = .corrected).length
    uncorrectable := (chunks.filter fun k => (outcome k).1 = .uncorrectable).length }

end Sys2Proof.Machine
end

