-- ==== Sys2Proof/Machine/Commit.lean ====
section
/-! DEFINITION. CME: taking blocks (R71), the PROGRAM of a page (R74), store exhaustion (R79), and the endings of a
stream that put a block on the commit queue (R38 to R42). -/

namespace Sys2Proof.Machine

def Dev.setCme (d : Dev) (f : Cme → Cme) : Dev := { d with cme := f d.cme }

/-- CME is IDLE with nothing in hand (R70). -/
def Cme.rest : Cme := ⟨.idle, none, none, 0, false⟩

/-- The PROGRAM of a block: data completed to a chunk, header and check words (R54, R74). -/
def commitJob (epoch : Nat) (p : PageAddr) (b : Block) : Job :=
  .program p 0 (paddedData b.data) 0
    (({ kind := kindDump, epoch, incident := b.incident, stream := b.stream, seq := b.seq, fill := b.data.length }
        : Header).bytes ++ checkWords b.data)

/-- The PROGRAM of a page's void mark (R52, R76). -/
def voidJob (p : PageAddr) : Job := .program p 0 [] 29 [0x00]

/-- CME holds a block and a page and waits for the grant (R71, R77). -/
def Dev.commitOn (d : Dev) (b : Block) (p : PageAddr) (retry : Nat) : Dev :=
  (d.setCme fun _ => ⟨.waitGrant, some b, some p, retry, false⟩).place .commit (commitJob d.drm.epoch p b)

/-- Whether the mode lets CME take blocks (R71). -/
def Dev.commits (d : Dev) : Bool :=
  d.hum.mode == .normal || (d.hum.mode == .holdup && d.hum.closing.isNone)

/-- One try of R71: the head block is taken with a page, or finds none and its stream is cut STORE_FULL (R79). -/
def Dev.cmeOnce (d : Dev) : Dev :=
  match d.stb.queue with
  | [] => d
  | b :: rest =>
    match d.givePage with
    | some (p, d) => (d.setStb fun s => { s with queue := rest }).commitOn b p 0
    | none => d.cutDiscard b.slot .storeFull

/-- The tests of R71, until a block is taken or the queue is empty; each cut takes one block at least. -/
def Dev.cmeLoop : Nat → Dev → Dev
  | 0, d => d
  | n + 1, d =>
    if d.cme.state = .idle ∧ d.commits ∧ d.stb.queue ≠ [] then Dev.cmeLoop n d.cmeOnce else d

/-- The test of R71. -/
def Dev.cmeTest (d : Dev) : Dev := d.cmeLoop (d.stb.queue.length + 1)

/-- A stream leaves OPEN with its blocks kept: reported as a cut when it is one, reported to ICT, its block taken, and
released when it holds none (R38 to R42, R47). -/
def Dev.endStream (d : Dev) (i : StreamIdx) (e : PendingEnd) : Dev :=
  match d.body i with
  | some b =>
    if b.isOpen then
      let d := d.leaveOpen i e
      let d := match e.reason with
        | some r => d.reportCut b r
        | none => d
      d.closeRun.cmeTest.tryRelease i
    else d
  | none => d

/-- Every OPEN stream that satisfies a test leaves OPEN (R40 to R42), one after another in slot order: the order is the
model's choice (log entry 17). -/
def Dev.endStreams (d : Dev) (p : StreamBody → Bool) (e : PendingEnd) : Dev :=
  (d.openSlots p).foldl (fun d i => d.endStream i e) d

/-- A block leaves program without a commit: it returns to the free list and its stream counts it as discarded
(R78, R80). -/
def Dev.dropUnderProgram (d : Dev) : Dev :=
  match d.cme.block with
  | some b => ((d.setCme fun c => { c with block := none }).freeBlocks [b.id]).modBody b.slot fun x =>
      { x with queued := x.queued - 1 }
  | none => d

end Sys2Proof.Machine
end

