-- ==== Sys2Proof/Machine/Cursors.lean ====
section
/-! DEFINITION. RTU: read cursors and read requests in hand (R180, R181), the withdrawal of waiting reads (R65) and
reads against a release (R187). -/

namespace Sys2Proof.Machine

def Dev.setRtu (d : Dev) (f : Rtu → Rtu) : Dev := { d with rtu := f d.rtu }

def Dev.cursor (d : Dev) (p : Port) : Cursor := d.rtu.cursors[Port.idx p]
def Dev.job (d : Dev) (p : Port) : Option ReadJob := d.rtu.jobs[Port.idx p]

def Dev.setCursor (d : Dev) (p : Port) (c : Cursor) : Dev :=
  d.setRtu fun r => { r with cursors := put r.cursors (Port.idx p) c }

def Dev.setJob (d : Dev) (p : Port) (j : Option ReadJob) : Dev :=
  d.setRtu fun r => { r with jobs := put r.jobs (Port.idx p) j }

/-- A stream cursor on a released incident takes the gone mark (R187). -/
def Cursor.markGone (number : Nat) : Cursor → Cursor
  | .stream inc s o gone => .stream inc s o (gone || inc == number)
  | c => c

/-- A waiting read of a port is withdrawn from the arbiter and from RTU's hands. -/
def Dev.dropRead (d : Dev) (p : Port) : Dev := (d.withdraw (.rtu p)).setJob p none

/-- At the entry to HOLDUP a waiting read is withdrawn and answered POWER, its cursor as it was before the request
(R65, R181). -/
def Dev.withdrawRead (d : Dev) (p : Port) : Dev :=
  match d.job p with
  | some j =>
    if d.arc.waits (.rtu p) then ((d.dropRead p).setCursor p j.prior).reply p .power 0 .empty else d
  | none => d

/-- Whether a read request in hand concerns an incident. -/
def ReadJob.concerns (j : ReadJob) (number : Nat) : Bool :=
  match j.kind with
  | .stream inc .. => inc == number
  | .history _ => false

/-- A release reaches one port's read and cursor (R187): a read that still waits is withdrawn and answered GONE. -/
def Dev.goneFor (d : Dev) (number : Nat) (p : Port) : Dev :=
  let d := d.setCursor p ((d.cursor p).markGone number)
  match d.job p with
  | some j =>
    if j.concerns number ∧ j.granted = false then (d.dropRead p).reply p .gone 0 .empty
    else d.setJob p (some { j with prior := j.prior.markGone number })
  | none => d

end Sys2Proof.Machine
end

