-- ==== Sys2Proof/Machine/Incidents.lean ====
section
/-! DEFINITION. ICT: the release of an incident (R9, R104), openings (R8, R12), dispositions (Table 1.7, R10, R11),
latches (R20, R21). -/

namespace Sys2Proof.Machine

/-- A KEPT incident is released with the effects of R104: its RELEASE entry is queued, its slot is FREE, and its
neighbours act on its number. -/
def Dev.releaseIncident (d : Dev) (s : DirSlot) (number : Nat) (source : Source) : Dev :=
  let d := d.queueEntry (.release number)
  let d := (d.setDrm fun m => { m with dir := put m.dir s none }).showInd
  let d := d.setPlm (·.retire number)
  let d := d.unpin number
  let d := allPorts.foldl (fun d p => d.goneFor number p) d
  d.event evReleased 5 (f1 (leBytes 4 number ++ leBytes 1 (Source.code source)))

/-- The lowest-numbered FREE slot. -/
def Drm.freeSlot (m : Drm) : Option DirSlot := firstFin 32 fun i => (m.dir[i]).isNone

/-- The KEPT incident of the lowest number whose held flag is clear (R9). -/
def Drm.rollCandidate (m : Drm) : Option Incident :=
  (m.records.filter fun r => r.state == .kept && !r.held).foldl (fun a r => match a with
    | some x => if r.number < x.number then some r else some x
    | none => some r) none

/-- The TRIGGER event of a trigger (R7): it requests a flush (R116). -/
def Dev.triggerEvent (d : Dev) (t : TriggerRecord) (number : Nat) (x : Disposition) : Offered :=
  d.markedEvent evTrigger 0 (.trigger number t.cause t.tick t.snapshot x)

/-- The answer to the DECLARE of a trigger, if a port waits for one (R4). -/
def Dev.answer (d : Dev) (p : Option Port) (x : Disposition) (number : Nat) : Dev :=
  d.replyTo p .ok 0 (.declared x number)

/-- A refused trigger (R10). -/
def Dev.refuseTrigger (d : Dev) (t : TriggerRecord) (p : Option Port) : Dev :=
  let e := (d.triggerEvent t 0 .refused).dev
  let e := if d.arc.storeFailed then e else e.raise .triggerRefused 0
  e.answer p .refused 0

/-- The record of an opening (R8). -/
def openRecord (number epoch : Nat) (t : TriggerRecord) (w : Window) : Incident :=
  { state := .recording, number, epoch, primary := t, secondary := [], overflow := 0, streams := []
    windowFirst := w.first, windowLast := w.last, shortened := w.shortened, completeness := none
    held := false, retrieved := false }

/-- The sockets, whose ports have ATTN lines. -/
def sockets : List Port := [.s0, .s1, .s2, .s3]

/-- The ATTN lines that an opening asserts: those of the sockets that hold CAPTURE (R19). -/
def Dev.attnAtOpening (d : Dev) : Vector Bool 4 :=
  #v[d.holds .s0 .capture, d.holds .s1 .capture, d.holds .s2 .capture, d.holds .s3 .capture]

/-- An opening takes effect in a FREE slot (R8). -/
def Dev.openIncident (d : Dev) (s : DirSlot) (t : TriggerRecord) (p : Option Port) : Dev :=
  let number := d.drm.nextIncident
  let epoch := d.drm.epoch
  let o := d.triggerEvent t number .opened
  let (d, w) := o.dev.pinWindow number o.seq
  let d := d.queueEntry (.incidentOpen s.val number epoch t w.first w.last w.shortened)
  let d := d.setDrm fun m =>
    { m with dir := put m.dir s (some (openRecord number epoch t w)), nextIncident := number + 1 }
  let d := d.showInd
  let d := d.setIct fun c => { c with recording := some s, windowExpired := false, attn := d.attnAtOpening }
  let d := d.deadlines fun x =>
    { x with window := some (d.afterMs d.sst.working.window), limit := some (d.afterMs d.sst.working.limit) }
  (d.raise .incidentOpened number).answer p .opened number

/-- How an opening stands by the last four rows of Table 1.7. -/
inductive OpeningWay where
  | slot (s : DirSlot)
  | roll (s : DirSlot) (number : Nat)
  | refused
  deriving DecidableEq, Repr

/-- The last four rows of Table 1.7. -/
def Dev.openingWay (d : Dev) : OpeningWay :=
  if Config.max32 < d.drm.nextIncident then .refused
  else match d.drm.freeSlot with
    | some s => .slot s
    | none =>
      if d.sst.working.rollOldest = 1 then
        match d.drm.rollCandidate with
        | some r =>
          match firstFin 32 fun i => d.drm.dir[i] == some r with
          | some s => .roll s r.number
          | none => .refused
        | none => .refused
      else .refused

/-- The places in the directory queue that an opening needs (R9, R12). -/
def OpeningWay.places : OpeningWay → Nat
  | .slot _ => 1
  | .roll _ _ => 2
  | .refused => 0

/-- The opening goes the way that stands; the release of roll-oldest comes first (R9). -/
def Dev.openBy (d : Dev) (w : OpeningWay) (t : TriggerRecord) (p : Option Port) : Dev :=
  match w with
  | .slot s => d.openIncident s t p
  | .roll s number => (d.releaseIncident s number .internal).openIncident s t p
  | .refused => d.refuseTrigger t p

/-- Whether a waiter is a TRIGGER_ADD of an incident. -/
def CapWaiter.addsTo (number : Nat) : CapWaiter → Bool
  | .triggerAdd n _ _ => n == number
  | _ => false

/-- Secondary triggers recorded or waiting (R11). -/
def Dev.secondaryCount (d : Dev) (r : Incident) : Nat :=
  r.secondary.length + (d.drm.captureWaiters.filter (CapWaiter.addsTo r.number)).length

/-- TRIGGER_ADD is queued and the trigger joins the record (R11). -/
def Dev.addSecondary (d : Dev) (number : Nat) (cause : Cause) (tick : Tick) : Dev :=
  (d.queueEntry (.triggerAdd number cause tick)).modIncident number fun r =>
    { r with secondary := r.secondary ++ [(cause, tick)] }

/-- A trigger becomes a secondary trigger of an incident of which `n` are recorded or waiting (R11): one of the first
four joins the record with its TRIGGER_ADD, which waits at the end of the capture waiters where it finds no place or
others wait (R95); a later one increases the overflow count. -/
def Dev.secondaryOf (d : Dev) (number n : Nat) (t : TriggerRecord) (p : Option Port) : Dev :=
  let e := (d.triggerEvent t number .secondary).dev
  let e :=
    if n < 4 then
      if d.drm.capRoom 1 then e.addSecondary number t.cause t.tick
      else e.addWaiter (.triggerAdd number t.cause t.tick)
    else e.modIncident number fun x => { x with overflow := bump 255 x.overflow }
  e.answer p .secondary number

/-- A trigger becomes a secondary trigger of the RECORDING incident, or increases its overflow count (R11). -/
def Dev.secondaryTrigger (d : Dev) (r : Incident) (t : TriggerRecord) (p : Option Port) : Dev :=
  d.secondaryOf r.number (d.secondaryCount r) t p

/-- A trigger joins the pending opening (R12). -/
def Dev.joinOpening (d : Dev) (o : Opening) (t : TriggerRecord) (p : Option Port) : Dev :=
  d.setIct fun c => { c with opening := some { o with joined := o.joined ++ [⟨t, p⟩] } }

/-- ICT takes a trigger by Table 1.7 (R7); an opening that lacks room waits (R12). -/
def Dev.takeTrigger (d : Dev) (t : TriggerRecord) (p : Option Port) : Dev :=
  if d.arc.storeFailed then d.refuseTrigger t p
  else match d.drm.at? d.ict.recording, d.ict.opening with
    | some r, _ => d.secondaryTrigger r t p
    | none, some o => d.joinOpening o t p
    | none, none =>
      let w := d.openingWay
      if w.places = 0 ∨ d.drm.capRoom w.places then d.openBy w t p
      else (d.setIct fun c => { c with opening := some ⟨t, p, []⟩ }).addWaiter .opening

/-- The joined triggers of an opening that took place are secondary triggers of it, in the order in which they joined
(R12; log entry 15), `n` of them before these. Each TRIGGER_ADD is a new requester: while others wait it joins the end
of their list, even when places are free (R95). -/
def Dev.joinedSecondary (number : Nat) (d : Dev) : List Joined → Nat → Dev
  | [], _ => d
  | j :: js, n => Dev.joinedSecondary number (d.secondaryOf number n j.trigger j.port) js (n + 1)

/-- The pending opening is judged again when it is served (R12). -/
def Dev.serveOpening (d : Dev) (o : Opening) : Dev :=
  let d := d.setIct fun c => { c with opening := none }
  let w := if d.arc.storeFailed then .refused else d.openingWay
  if w = .refused then
    o.joined.foldl (fun d j => d.takeTrigger j.trigger j.port) (d.refuseTrigger o.trigger o.port)
  else
    Dev.joinedSecondary d.drm.nextIncident (d.openBy w o.trigger o.port) o.joined 0

/-! ### Latches -/

/-- A fault trigger in START or EXHAUSTED is held in its latch, when that is empty (R20). -/
def Dev.latch (d : Dev) (f : FaultLine) (t : TriggerRecord) : Dev :=
  if (d.tru.latches[FaultLine.idx f]).isSome then d
  else { d with tru := { d.tru with latches := put d.tru.latches (FaultLine.idx f) (some t) } }

/-- The full latch of the lowest tick stamp; of equal stamps the first in the order of R21. -/
def earliestLatch (l : Vector (Option TriggerRecord) 5) : Option (Fin 5 × TriggerRecord) :=
  (List.finRange 5).foldl (fun a i => match l[i], a with
    | some t, some (j, u) => if t.tick < u.tick then some (i, t) else some (j, u)
    | some t, none => some (i, t)
    | none, a => a) none

/-- The latched triggers are taken one after another (R21); there are five latches. -/
def Dev.emptyLatches : Nat → Dev → Dev
  | 0, d => d
  | n + 1, d =>
    match earliestLatch d.tru.latches with
    | some (i, t) =>
      let d := { d with tru := { d.tru with latches := put d.tru.latches i none } }
      Dev.emptyLatches n (d.takeTrigger t none)
    | none => d

end Sys2Proof.Machine
end

