-- ==== Sys2Proof/Machine/Holdup.lean ====
section
/-! DEFINITION. HUM: the warning (R129 to R131), credits (R132), the closing phase (R134), exhaustion (R136), power
return (R137, R138), recharge (R139); and TRU's lines (R1 to R3). -/

namespace Sys2Proof.Machine

def Dev.setHum (d : Dev) (f : Hum → Hum) : Dev := { d with hum := f d.hum }

/-- The part of an F1 entry that carries a credit count (Table 13.13). -/
def Dev.creditBytes (d : Dev) : List Byte := leBytes 2 d.hum.credits

/-! ### The closing phase -/

/-- CME at the beginning of the closing phase (R80, R65): a waiting request is withdrawn and its block dropped; a program
in progress is marked, so that its failure drops its block too. -/
def Dev.cmeClosing (d : Dev) : Dev :=
  match d.cme.state with
  | .waitGrant =>
    let d := d.withdraw .commit
    let d := match d.cme.page with
      | some p => d.setPlm (·.undoPage p)
      | none => d
    d.dropUnderProgram.setCme fun _ => Cme.rest
  | .voidWait => ((d.withdraw .voidMark).setPlm Plm.usedUpTest).dropUnderProgram.setCme fun _ => Cme.rest
  | .programming | .voiding => d.setCme fun c => { c with dropping := true }
  | .idle => d

/-- ICT at the beginning of the closing phase (R17). -/
def Dev.ictClosing (d : Dev) : Dev :=
  if d.ict.recording.isSome then d.cancelCapture.expireWindow else d

/-- A stream is cut at the closing phase: its end alone, and the report (R43, R46). -/
def Dev.cutClosing (d : Dev) (i : StreamIdx) : Dev :=
  match d.body i with
  | some b => (d.modBody i fun b => { b with ending := some (.truncated .power) }).reportCut b .power
  | none => d

/-- CPM at the beginning of the closing phase (R43): every OPEN stream is cut, every queued and fill block discarded,
each slot then empty released in slot order. That the cuts go in slot order too is the model's choice (log entry 17). -/
def Dev.cpmClosing (d : Dev) : Dev :=
  let d := (d.openSlots fun _ => true).foldl Dev.cutClosing d
  let d := d.takenSlots.foldl Dev.discardBlocks d
  d.takenSlots.foldl Dev.releaseKeeping d

/-- The closing phase begins (R134). -/
def Dev.beginClosing (d : Dev) (cause : ClosingCause) : Dev :=
  let d := d.setHum fun h => { h with closing := some cause }
  let d := d.deadlines fun t => { t with holdup := none }
  let d := d.cmeClosing.ictClosing.cpmClosing.closeRun
  (d.markedEvent evClosingPhase 1 (f1 (d.creditBytes ++ leBytes 1 (ClosingCause.code cause)))).dev

/-- The test of the count against the closing reserve (R130, R132). -/
def Dev.reserveTest (d : Dev) : Dev :=
  if d.hum.closing.isNone ∧ d.hum.credits ≤ d.sst.working.reserve then d.beginClosing .reserve else d

/-- A count of 0 makes the mode EXHAUSTED (R132, R136, R140). -/
def Dev.exhaustTest (d : Dev) : Dev :=
  if d.hum.mode = .holdup ∧ d.hum.credits = 0 then d.setHum fun h => { h with mode := .exhausted } else d

/-- A credit is spent for a PROGRAM grant made in HOLDUP (R132). -/
def Dev.spendCredit (d : Dev) : Dev := d.setHum fun h => { h with credits := h.credits - 1 }

/-! ### The warning -/

/-- The entry to HOLDUP (R129, R130). -/
def Dev.enterHoldup (d : Dev) : Dev :=
  let d := d.deadlines fun t =>
    { t with recharge := none, holdup := some (d.afterMs d.sst.working.holdupDeadline) }
  let d := d.setHum fun h => { h with closing := none, mode := .holdup }
  let tick := d.triggerNow .power
  let d := d.endStreams (2 ≤ ·.cls) (.truncated .power)
  let d := allPorts.foldl Dev.withdrawRead d
  let d := (d.markedEvent evPowerWarn 1 (f1 d.creditBytes)).dev
  let d := d.raise .powerWarn d.hum.credits
  let d := if d.sst.working.powerTrigger = 1 then d.takeTrigger tick none else d
  d.reserveTest.exhaustTest

/-! ### Recharge and return -/

/-- The credit count takes the setting in force when the recharge deadline expires (R139). -/
def Dev.rechargeNow (d : Dev) : Dev :=
  (d.deadlines fun t => { t with recharge := none }).setHum fun h => { h with credits := d.sst.working.credits }

/-- The recharge deadline is armed; a time of 0 expires at the arming (R139, R160). -/
def Dev.armRecharge (d : Dev) : Dev :=
  if d.sst.working.recharge = 0 then d.rechargeNow
  else d.deadlines fun t => { t with recharge := some (d.afterMs d.sst.working.recharge) }

/-- Whether the pending settings become working now (R193). -/
def Dev.loadReady (d : Dev) : Bool :=
  d.sst.loadDue && d.hum.mode == .normal && d.ict.recording.isNone && d.ict.closing.isNone

/-- The load (R193), with the credit count of R139. -/
def Dev.load (d : Dev) : Dev :=
  let new := d.sst.pending
  let d := { d with sst := { d.sst with working := new, loadDue := false }, rqd := ⟨new.rights⟩ }
  let d := d.setHum fun h =>
    { h with credits := if d.tmb.deadlines.recharge.isSome then min h.credits new.credits else new.credits }
  d.poolLowTest.event evSettingsLoaded 6 .plain

/-- A test whose action follows where it holds. -/
def Dev.onlyIf (d : Dev) (b : Bool) (f : Dev → Dev) : Dev := if b then f d else d

/-- The tests of compaction, reclaim and the load point that R137 and R138 name in their step 4. -/
def Dev.returnTests (d : Dev) : Dev :=
  let d := d.onlyIf d.compactionReady Dev.startCompaction
  let d := d.onlyIf d.reclaimReady Dev.startReclaim
  d.onlyIf d.loadReady Dev.load

/-- A power return edge in HOLDUP or EXHAUSTED (R137, R138); the latches of EXHAUSTED are emptied after step 4. -/
def Dev.powerReturn (d : Dev) : Dev :=
  let exhausted := d.hum.mode == .exhausted
  let d := d.setHum fun h => { h with mode := .normal, closing := none }
  let d := (d.deadlines fun t => { t with holdup := none }).armRecharge
  let d := d.cmeTest
  let d := d.event evPowerReturn 4 (f1 d.creditBytes)
  if exhausted then Dev.emptyLatches 5 d.returnTests else d

/-! ### Lines -/

/-- A qualified edge of PWRWARN reaches HUM (R3, R128). -/
def Dev.powerEdge (d : Dev) (asserted : Bool) : Dev :=
  match d.hum.mode, asserted with
  | .normal, true => d.enterHoldup
  | .holdup, false | .exhausted, false => d.powerReturn
  | _, _ => d

/-- A qualified assertion of a fault line whose enable is on is a trigger; in START and EXHAUSTED it is latched
(R2, R20). -/
def Dev.faultEdge (d : Dev) (f : FaultLine) (asserted : Bool) : Dev :=
  if asserted ∧ d.sst.working.lineEnables.getLsbD (FaultLine.idx f).val then
    let t := d.triggerNow (.fault f)
    if d.hum.mode = .normal ∨ d.hum.mode = .holdup then d.takeTrigger t none else d.latch f t
  else d

def Dev.setTru (d : Dev) (f : Tru → Tru) : Dev := { d with tru := f d.tru }

/-- The filter slot of a line. -/
def Dev.setFilter (d : Dev) (l : Line) (x : Option Tick) : Dev :=
  (d.deadlines fun t => { t with filters := put t.filters (Line.idx l) x }).setTru fun t =>
    { t with timing := put t.timing (Line.idx l) x.isSome }

/-- A line is qualified at the input's level, and its edge is delivered (R1 to R3). -/
def Dev.qualify (d : Dev) (l : Line) : Dev :=
  let level := d.tru.levels[Line.idx l]
  let d := (d.setFilter l none).setTru fun t => { t with qualified := put t.qualified (Line.idx l) level }
  match l with
  | .fault f => d.faultEdge f level
  | .pwrwarn => d.powerEdge level

/-- The input's level is set against the qualified level (R1): a difference starts the filter, a return cancels it; a
filter time of 0 qualifies at the change. -/
def Dev.filterLine (d : Dev) (l : Line) : Dev :=
  let differs := d.tru.levels[Line.idx l] != d.tru.qualified[Line.idx l]
  let timing := d.tru.timing[Line.idx l]
  if differs ∧ timing = false then
    if d.sst.working.filters[Line.idx l] = 0 then d.qualify l
    else d.setFilter l (some (d.after d.sst.working.filters[Line.idx l]))
  else if differs = false ∧ timing then d.setFilter l none
  else d

end Sys2Proof.Machine
end

