-- ==== Sys2Proof/Machine/Retrieval.lean ====
section
/-! DEFINITION. RTU: reading a stream (R184, R185) and the history (R186). -/

namespace Sys2Proof.Machine

/-! ### Streams -/

/-- What the Retrieval Unit fixes at the taking of a stream read (R184): the range's end and the flag. -/
def streamRange (r : StreamRec) (offset : Nat) : Nat × Bool :=
  let pageEnd := (offset / Config.pageData + 1) * Config.pageData
  let stop := if r.committed ≤ offset then offset else min (offset + Config.maxData) (min pageEnd r.committed)
  (stop, stop < r.committed || r.endKind == .open)

/-- The MORE or END flag of a stream reply. -/
def streamFlag (more : Bool) : Byte := if more then flagMore else flagEnd

/-- A READ_STREAM is taken: the cursor stands at the offset; a range that is not empty is read from its one page, an
empty one is answered at once (R184). -/
def Dev.serveStream (d : Dev) (p : Port) (incident : Nat) (r : StreamRec) (offset : Nat) : Dev :=
  let prior := d.cursor p
  let (stop, more) := streamRange r offset
  let d := d.setCursor p (.stream incident r.number offset false)
  let page := if offset < stop then d.plm.livePage incident r.number (offset / Config.pageData) else none
  match page with
  | some (addr, _) =>
    ((d.setJob p (some ⟨.stream incident r.number offset (stop - offset) more addr, prior, false⟩)).place (.rtu p)
      (.read addr (offset % Config.pageData) (stop - offset) 0 0)).arcSettle
  | none => d.reply p .ok (streamFlag more) (.stream offset [] 0 0)

/-- The fill count by which ARC decodes a page: that of a GOOD DUMP header; a page without one is not decoded (R55). -/
def dumpFill (m : Memory) (p : PageAddr) : Nat :=
  match headerOutcome (m.header p) with
  | .good h => if h.kind = kindDump then h.fill else 0
  | _ => 0

/-- INTEGRITY, when a reply counts UNCORRECTABLE chunks (R185). -/
def Dev.integrity (d : Dev) (incident stream bad : Nat) : Dev :=
  if bad = 0 then d
  else (d.event evIntegrity 2 (f1 (leBytes 4 incident ++ leBytes 1 stream ++ leBytes 2 bad))).raise .integrity incident

/-- A stream page read completes: the reply is built and the cursor moves to the range's end (R184, R185). -/
def Dev.streamDone (d : Dev) (flash : Memory) (p : Port) (incident stream offset len : Nat) (more : Bool)
    (page : PageAddr) : Dev :=
  let x := decodeRead flash page (dumpFill flash page) (offset % Config.pageData) len
  let gone := match d.cursor p with
    | .stream _ _ _ g => g
    | _ => false
  let d := (d.setJob p none).setCursor p (.stream incident stream (offset + len) gone)
  let d := d.integrity incident stream x.uncorrectable
  d.reply p .ok (streamFlag more) (.stream offset x.data x.corrected x.uncorrectable)

/-! ### History -/

/-- Where a walk of the ring stands in one page. -/
structure PageWalk where
  read : HistoryRead
  full : Bool
  deriving DecidableEq, Repr

/-- The entries gathered for the reply. -/
def HistoryRead.entries (h : HistoryRead) : List Byte := h.found.flatMap (·.bytes)

/-- The count of entries omitted. -/
def HistoryRead.omitted (h : HistoryRead) : Nat := (h.found.filter (·.seq.isNone)).length

/-- The number of the first entry gathered. -/
def HistoryRead.firstSeq (h : HistoryRead) : Option Nat := (h.found.filterMap (·.seq)).head?

/-- The number of the last entry gathered. -/
def HistoryRead.lastSeq (h : HistoryRead) : Option Nat := (h.found.filterMap (·.seq)).getLast?

/-- The lowest number the walk still wants. -/
def HistoryRead.wanted (h : HistoryRead) : Nat := match h.lastSeq with
  | some l => l + 1
  | none => h.start

/-- The length that an entry's common part gives (Table 13.11). -/
def entryLength (bs : List Byte) : Nat := byte bs 1 / 8 % 16 * 8

/-- A length that an entry may have and that lies within the page (R186). -/
def lengthFits (bs : List Byte) : Bool :=
  let n := entryLength bs
  (n == 16 || n == 24 || n == 32 || n == 40) && n ≤ bs.length

/-- Whether the CRC of the entry at the head of some bytes matches. -/
def entryGood (bs : List Byte) : Bool :=
  lengthFits bs && slice bs (entryLength bs - 2) 2 == crcBytes (bs.take (entryLength bs - 2))

/-- The walk meets something in the zone being read. -/
def HistoryRead.meets (h : HistoryRead) (seq : Option Nat) (bs : List Byte) : HistoryRead :=
  { h with found := h.found ++ [⟨h.zone, h.zoneFirst, seq, bs⟩] }

/-- An entry joins the reply. -/
def HistoryRead.add (h : HistoryRead) (seq : Nat) (bs : List Byte) : HistoryRead := h.meets (some seq) bs

/-- An entry is omitted and counted. -/
def HistoryRead.omit (h : HistoryRead) : HistoryRead := h.meets none []

/-- Whether a reply has no room for a further entry, which is 16 bytes at least (R186; log entry 20). -/
def HistoryRead.isFull (h : HistoryRead) : Bool := Config.maxData < h.entries.length + 16

/-- Gathers the entries of a page until the reply is full or a good entry does not fit (R186). `limit` is the last stored
number of its zone; entries are 16 bytes at least, so 64 rounds reach the end of a page. -/
def walkPage (limit : Nat) : Nat → HistoryRead → List Byte → PageWalk
  | 0, h, _ => ⟨h, false⟩
  | fuel + 1, h, bs =>
    if bs.getD 0 erasedByte = erasedByte then ⟨h, false⟩
    else if entryGood bs then
      let n := entryLength bs
      let seq := field bs 4 4
      if seq < h.wanted ∨ limit < seq then walkPage limit fuel h (bs.drop n)
      else if h.entries.length + n ≤ Config.maxData then
        let h' := h.add seq (bs.take n)
        if h'.isFull then ⟨h', true⟩ else walkPage limit fuel h' (bs.drop n)
      else ⟨h, true⟩
    else if lengthFits bs then walkPage limit fuel h.omit (bs.drop (entryLength bs))
    else ⟨h.omit, false⟩

/-- The last page that a zone has in use. -/
def Hiu.lastPage (h : Hiu) (k : RingIdx) : Nat :=
  match h.target with
  | some t => if t.zone = k then t.page.val else 31
  | none => 31

/-- The page of a zone that holds a number, found by the page headers; page 0 where none is at or below it (log
entry 20). -/
def holdingPage (m : Memory) (k : RingIdx) (seq : Nat) : PageNo :=
  ((List.finRange 32).filter fun p =>
    match headerOutcome (m.header ⟨ringZone k, p⟩) with
    | .good h => h.kind == kindHistory && h.firstSeq ≤ seq
    | _ => false).getLast?.getD 0

/-- The zone of the lowest stored range that reaches a number or beyond, with `after` below its first number. -/
def Hiu.zoneFor (h : Hiu) (seq : Nat) : Option RingIdx :=
  (List.finRange 16).foldl (fun a k =>
    match (h.ring[k]).range, a with
    | some r, some j => if seq ≤ r.2 ∧ r.1 < (((h.ring[j]).range.map (·.1)).getD 0) then some k else some j
    | some r, none => if seq ≤ r.2 then some k else none
    | none, a => a) (none : Option RingIdx)

/-- The greatest stored number. -/
def Hiu.newestStored (h : Hiu) : Nat := (listMax (h.ring.toList.filterMap fun z => z.range.map (·.2))).getD 0

/-- The first stored number of a ring zone; 0 where it stores none. -/
def Hiu.firstOf (h : Hiu) (k : RingIdx) : Nat := ((h.ring[k]).range.map (·.1)).getD 0

/-- RTU places the read of a page of the ring. -/
def Dev.placeHistory (d : Dev) (p : Port) (prior : Cursor) (h : HistoryRead) : Dev :=
  (d.setJob p (some ⟨.history { h with zoneFirst := d.hiu.firstOf h.zone }, prior, false⟩)).place (.rtu p)
    (.read ⟨ringZone h.zone, h.page⟩ 0 Config.pageData 0 0)

/-- The reply to a READ_HISTORY (R186). `full` says that the reply is full. A walk that found no further good entry
gives no MORE, though omitted ones may lie above the last one returned (log entry 44). -/
def Dev.historyReply (d : Dev) (p : Port) (h : HistoryRead) (full : Bool) : Dev :=
  let more := full && h.lastSeq.any (· < d.hiu.newestStored)
  let skipped := h.skipped || h.firstSeq.any (h.start < ·)
  let d := (d.setJob p none).setCursor p (.history h.wanted)
  d.reply p .ok ((if more then flagMore else 0) ||| (if skipped then flagSkipped else 0)) (.history h.entries h.omitted)

/-- The walk goes on in the zone of the lowest stored range that reaches a number; without one the reply is built
(R186). -/
def Dev.historyZone (d : Dev) (flash : Memory) (p : Port) (prior : Cursor) (h : HistoryRead) (least : Nat) : Dev :=
  match d.hiu.zoneFor least with
  | some k => d.placeHistory p prior { h with zone := k, page := holdingPage flash k h.wanted }
  | none => d.historyReply p h false

/-- The walk goes on behind a page of a zone whose last stored number is `last`: in the zone's next page, or in the next
zone in sequence order (R186). -/
def Dev.historyNext (d : Dev) (flash : Memory) (p : Port) (prior : Cursor) (h : HistoryRead) (last : Nat) : Dev :=
  if h.page.val < d.hiu.lastPage h.zone ∧ h.wanted ≤ last then d.placeHistory p prior { h with page := h.page + 1 }
  else d.historyZone flash p prior h (max h.wanted (last + 1))

/-- A READ_HISTORY is taken (R186); without a stored entry at or above the number it is answered at once. -/
def Dev.serveHistory (d : Dev) (flash : Memory) (p : Port) (start : Nat) : Dev :=
  let prior := d.cursor p
  let d := d.setCursor p (.history start)
  let h : HistoryRead := ⟨start, [], 0, 0, 0, false⟩
  match d.hiu.zoneFor start with
  | some k => (d.placeHistory p prior { h with zone := k, page := holdingPage flash k start }).arcSettle
  | none => d.historyReply p h false

/-- The stored range of a ring zone, while the zone still stores the entries it stored at a moment when its first number
was `first` (R186): numbers do not come again, so a zone erased meanwhile has another first number or none. -/
def Hiu.stillStored (h : Hiu) (k : RingIdx) (first : Nat) : Option (Nat × Nat) :=
  (h.ring[k]).range.filter (·.1 == first)

/-- Whether the zone of something that a walk has met still stores it. -/
def Hiu.keeps (h : Hiu) (x : Found) : Bool := (h.stillStored x.zone x.zoneFirst).isSome

/-- A walk without what it has met in zones that have lost their entries since: those are not returned nor counted, and
the reply will carry SKIPPED (R186; that this reaches the zones it has left behind, too, is log entry 46). -/
def Hiu.leaves (h : Hiu) (r : HistoryRead) : HistoryRead :=
  { r with found := r.found.filter h.keeps, skipped := r.skipped || r.found.any (!h.keeps ·) }

/-- The walk goes on behind the zone that it reads, which has lost its entries (R186). -/
def Dev.historyLoss (d : Dev) (flash : Memory) (p : Port) (prior : Cursor) (h : HistoryRead) : Dev :=
  let h := { d.hiu.leaves h with skipped := true }
  d.historyZone flash p prior h (max h.wanted h.zoneFirst)

/-- A page read of the ring completes (R186): while its zone stores its entries, they are gathered and the walk goes on
behind them. -/
def Dev.historyDone (d : Dev) (flash : Memory) (p : Port) (prior : Cursor) (h : HistoryRead) : Dev :=
  match d.hiu.stillStored h.zone h.zoneFirst with
  | some r =>
    let w := walkPage r.2 64 (d.hiu.leaves h) (flash.pageData ⟨ringZone h.zone, h.page⟩ 0 Config.pageData)
    if w.full then d.historyReply p w.read true else d.historyNext flash p prior w.read r.2
  | none => d.historyLoss flash p prior h

/-- A waiting read of a zone whose defect mark is set completes as DEFECTIVE (R66): a walk of the ring goes on as over a
zone that has lost its entries. -/
def Dev.defectiveRead (d : Dev) (flash : Memory) (z : Zone) (p : Port) : Dev :=
  match d.job p with
  | some ⟨.history h, prior, false⟩ =>
    if ringZone h.zone = z then (d.dropRead p).historyLoss flash p prior h else d
  | _ => d

/-! ### READ_MORE -/

/-- Reads are refused POWER while the mode is HOLDUP (R181). -/
def Dev.readGate (d : Dev) (p : Port) (serve : Dev → Dev) : Dev :=
  if d.hum.mode = .holdup then d.reply p .power 0 .empty else serve d

/-- A stream read of an incident and a stream that the directory holds; NOT_FOUND else (R184). -/
def Dev.readStreamAt (d : Dev) (p : Port) (incident stream offset : Nat) : Dev :=
  match (d.drm.find incident).bind (·.streams.find? (·.number == stream)) with
  | some r => d.serveStream p incident r offset
  | none => d.reply p .notFound 0 .empty

/-- READ_MORE by the port's cursor (R184, R186, R187). -/
def Dev.readOn (d : Dev) (flash : Memory) (p : Port) : Dev :=
  match d.cursor p with
  | .empty => d.reply p .noCursor 0 .empty
  | .stream _ _ _ true => d.reply p .gone 0 .empty
  | .stream incident stream offset false => d.readStreamAt p incident stream offset
  | .history next => d.serveHistory flash p next

end Sys2Proof.Machine
end

