-- ==== Sys2Proof/Machine/SettingsStore.lean ====
section
/-! DEFINITION. SST: the list of saves (R194); the STORE_FAILED condition and zone defects (R66 to R68). -/

namespace Sys2Proof.Machine

def Dev.setSst (d : Dev) (f : Sst → Sst) : Dev := { d with sst := f d.sst }

/-- The PROGRAM of a save (R194). -/
def saveJob (epoch page : Nat) (s : Settings) : Job :=
  .program ⟨0, Fin.ofNat 32 page⟩ 0 s.pageBytes 0 ({ kind := kindSettings, epoch } : Header).bytes

/-- Every save is answered STORE_FAILED and dropped (R194). -/
def Dev.dropSaves (d : Dev) : Dev :=
  let saves := d.sst.saves
  let d := d.setSst fun s => { s with saves := [], busy := false }
  saves.foldl (fun d s => d.replyTo s.port .storeFailed 0 .empty) d

/-- SST serves the save at the front: its program, or first the erase of zone 0 when the position is 32 (R194). Under
the STORE_FAILED condition a save that needs the erase is dropped (log entry 18). -/
def Dev.sstServe (d : Dev) : Dev :=
  if d.sst.busy then d
  else match d.sst.saves with
    | [] => d
    | s :: _ =>
      if d.sst.savePos < Config.pagesPerZone then
        (d.setSst fun x => { x with busy := true }).place .save (saveJob d.drm.epoch d.sst.savePos s.record)
      else if d.arc.storeFailed then d.dropSaves
      else (d.setSst fun x => { x with busy := true }).place .settingsErase (.erase 0)

/-- The save at the front is answered and leaves the list; the next is served (R194). -/
def Dev.saveAnswered (d : Dev) (o : SaveOutcome) : Dev :=
  match d.sst.saves with
  | s :: rest =>
    ((d.setSst fun x => { x with saves := rest, busy := false }).replyTo s.port .ok 0 (.save o)).sstServe
  | [] => d

/-- A save's program completes (R194): the position advances in either case. -/
def Dev.saveDone (d : Dev) (ok : Bool) : Dev :=
  let page := d.sst.savePos
  let d := d.setSst fun x => { x with savePos := page + 1 }
  if ok then d.saveAnswered (.saved page)
  else match d.sst.saves with
    | s :: rest =>
      if s.fails = 0 then
        (d.setSst fun x => { x with saves := { s with fails := 1 } :: rest, busy := false }).sstServe
      else d.saveAnswered .notSaved
    | [] => d

/-- The STORE_FAILED condition is entered (R68); a save whose erase still waits is dropped with every save behind it
(R194). -/
def Dev.enterStoreFailed (d : Dev) (detail : Nat) : Dev :=
  if d.arc.storeFailed then d
  else
    let d := { d with arc := { d.arc with storeFailed := true } }
    let d := d.showInd.raise .storeFailed detail
    if d.arc.waits .settingsErase then (d.withdraw .settingsErase).dropSaves else d

/-- ARC's part of an ERASE_FAIL (R66, R67): the mark, the ZONE_DEFECT entry and event, the waiting reads of the zone. -/
def Dev.markDefect (d : Dev) (flash : Memory) (z : Zone) : Dev :=
  let d := { d with arc := { d.arc with defects := z :: d.arc.defects.filter (· != z) } }
  let d := d.maintEntry (.zoneDefect z)
  let d := d.event evZoneDefect 1 (f1 (leBytes 1 z.val))
  allPorts.foldl (fun d p => d.defectiveRead flash z p) d

/-- The STORE_FAILED tests of R67: a directory or settings zone, or the 33rd defect. -/
def Dev.defectTest (d : Dev) (z : Zone) : Dev :=
  if z.val < Config.firstRingZone ∨ d.arc.defects.length = Config.defectLimit then d.enterStoreFailed z.val else d

end Sys2Proof.Machine
end

