-- ==== Sys2Proof/Machine/Recovery.lean ====
section
/-! DEFINITION. RCS: the scan of the array in START (R144), what each phase finds (R145 to R155) and the entry to NORMAL
(R156). No phase changes the array, so a phase's result is computed when its last read completes (log entry 12). -/

namespace Sys2Proof.Machine

/-- Whether every byte of a range reads FFH. -/
def Memory.blank (m : Memory) (a n : Nat) : Bool := m.all fun e => e.1 < a || a + n ≤ e.1 || e.2 == erasedByte

def Memory.blankPage (m : Memory) (p : PageAddr) : Bool := m.blank p.base Config.pageBytes
def Memory.blankZone (m : Memory) (z : Zone) : Bool := m.blank (zoneBase z) zoneBytes

/-! ### Phase 1: settings (R145) -/

/-- The valid record of a page of zone 0 (R191). -/
def settingsAt (m : Memory) (p : PageAddr) : Option Settings :=
  let b := m.pageData p 0 (settingsBytes + 2)
  match headerOutcome (m.header p) with
  | .good h =>
    let s := settingsOfBytes b
    if h.kind = kindSettings ∧ slice b settingsBytes 2 = crcBytes (b.take settingsBytes) ∧ s.firstBad = none
    then some s else none
  | _ => none

/-- The record of the highest-numbered page that holds a valid one. -/
def settingsFound (m : Memory) : Option Settings := (zonePages 0).reverse.findSome? (settingsAt m)

/-- The page after the highest-numbered page that is not wholly erased. -/
def savePosition (m : Memory) : Nat := (listMax (((zonePages 0).filter (!m.blankPage ·)).map (·.page.val + 1))).getD 0

/-- The settings that recovery makes working (R145); the Port Rights Table takes their rights (R178). -/
def Dev.adoptSettings (d : Dev) (s : Settings) (pos : Nat) (defaulted : Bool) : Dev :=
  { d with
    sst := { d.sst with working := s, pending := s, savePos := pos }
    rqd := ⟨s.rights⟩
    rcs := { d.rcs with settingsDefaulted := defaulted } }

/-- The end of phase 1. -/
def Dev.settingsPhase (d : Dev) (m : Memory) : Dev :=
  match settingsFound m with
  | some s => d.adoptSettings s (savePosition m) false
  | none => d.adoptSettings Settings.defaults (savePosition m) true

/-! ### Phase 2: journal (R146 to R149) -/

/-- The 64 bytes of an entry slot. -/
def slotBytes (m : Memory) (z : Zone) (k : Nat) : List Byte :=
  m.pageData (slotPage z k) (jEntryBytes * (k % slotsPerPage)) jEntryBytes

/-- The entry of a slot that holds a good one. -/
def goodEntry (m : Memory) (z : Zone) (k : Nat) : Option JEntry :=
  let b := slotBytes m z k
  if jGood b then JEntry.decode b else none

/-- The most entries of an image (section 5.5). -/
abbrev imageMax : Nat := 451

/-- The generation of the complete image a zone holds (R146). -/
def completeImage (m : Memory) (z : Zone) : Option Nat :=
  match goodEntry m z 0 with
  | some (.compactHead g _ _) =>
    if (List.range' 2 (imageMax - 1)).any (fun n => goodEntry m z (n - 1) == some (.compactTail g n)) then some g
    else none
  | _ => none

/-- The directory under replay and what replay gathers beside it. -/
structure Replay where
  dir : Vector (Option Incident) 32
  defects : List Zone
  unfinished : List Zone
  topEpoch : Option Nat
  headNext : Option Nat
  topIncident : Option Nat
  deriving DecidableEq, Repr

def Replay.blank : Replay := ⟨Vector.replicate 32 none, [], [], none, none, none⟩

/-- Rewrites the record of an incident number, where a slot holds it. -/
def Replay.modify (r : Replay) (number : Nat) (f : Incident → Incident) : Replay :=
  { r with dir := r.dir.map fun x => x.map fun i => if i.number = number then f i else i }

/-- Places a record in the slot an entry names, when that slot exists and is FREE. -/
def Replay.placeRecord (r : Replay) (slot : Nat) (i : Incident) : Replay :=
  if h : slot < 32 then
    if (r.dir[slot]'h).isNone then { r with dir := r.dir.set slot (some i) h } else r
  else r

/-- Appends a stream record, when the incident's list has room. -/
def Incident.addStream (r : Incident) (s : StreamRec) : Incident :=
  if r.streams.length < Config.streamsPerIncident then { r with streams := r.streams ++ [s] } else r

/-- The effect of an entry (Table 8.3, R148). A TRIGGER_ADD with cause 0 joins like any other (log entry 45). -/
def Replay.effect (r : Replay) : JEntry → Replay
  | .compactHead _ _ next => { r with headNext := some next }
  | .incidentSummary slot record _ => r.placeRecord slot record
  | .streamSummary number s => r.modify number (·.addStream s)
  | .compactTail _ _ => r
  | .incidentOpen slot number ep t first last shortened =>
      r.placeRecord slot { openRecord number ep t ⟨first, last, shortened⟩ with state := .recording }
  | .triggerAdd number cause tick => r.modify number fun i =>
      if i.secondary.length < 4 then { i with secondary := i.secondary ++ [(cause, tick)] } else i
  | .streamOpen number stream source cls label declared => r.modify number
      (·.addStream ⟨stream, source, cls, label, declared, 0, 0, 0, .open, none, false⟩)
  | .streamEnd number stream endKind reason short accepted committed pages => r.modify number
      (·.modStream stream fun s => { s with endKind, reason, short, accepted, committed, pages })
  | .incidentClose number completeness overflow => r.modify number fun i =>
      { i with state := .kept, completeness, overflow }
  | .release number => { r with dir := r.dir.map fun x => x.filter (·.number != number) }
  | .holdSet number => r.modify number fun i => { i with held := true }
  | .holdClear number => r.modify number fun i => { i with held := false }
  | .retrieved number => r.modify number fun i => { i with retrieved := true }
  | .reclaimStart z => { r with unfinished := z :: r.unfinished.filter (· != z) }
  | .reclaimDone z => { r with unfinished := r.unfinished.filter (· != z) }
  | .zoneDefect z => { r with defects := z :: r.defects.filter (· != z) }
  | .epoch _ => r

/-- The incident number in the 64 bytes of a good entry, by the layout of its kind (R149, Table 13.8). -/
def incidentIn (b : List Byte) : Option Nat :=
  match byte b 0 with
  | 0x01 | 0x0F => some (field b 2 4)
  | 0x02 | 0x03 | 0x04 | 0x05 | 0x06 | 0x07 | 0x08 | 0x09 | 0x10 => some (field b 1 4)
  | _ => none

/-- The epoch in the 64 bytes of a good entry, by the layout of its kind (R149, Table 13.8). -/
def epochIn (b : List Byte) : Option Nat :=
  match byte b 0 with
  | 0x01 | 0x0F => some (field b 6 4)
  | 0x0D => some (field b 1 4)
  | 0x0E => some (field b 5 4)
  | _ => none

/-- A good entry is replayed. One whose kind or codes have no value in the tables has no effect (R198), and its numbers
count all the same (R149). -/
def Replay.apply (r : Replay) (b : List Byte) : Replay :=
  { (match JEntry.decode b with
      | some e => r.effect e
      | none => r) with
    topEpoch := optMax r.topEpoch (epochIn b)
    topIncident := optMax r.topIncident (incidentIn b) }

/-- The first slot that is not good (R147). -/
def firstNotGood (m : Memory) (z : Zone) : Nat :=
  ((List.range Config.journalSlots).find? fun k => !jGood (slotBytes m z k)).getD Config.journalSlots

/-- The journal position and whether the journal is OPEN, for a replay that stops at slot `k` (R147). -/
def journalEnd (m : Memory) (z : Zone) (k : Nat) : Nat × Bool :=
  if k = Config.journalSlots then (k, true)
  else if (slotBytes m z k).all (· == erasedByte) then
    let at_ := jEntryBytes * (k % slotsPerPage)
    let tail := m.blank ((slotPage z k).base + at_) (Config.pageData - at_)
    let head := k % slotsPerPage ≠ 0 || headerOutcome (m.header (slotPage z k)) == .erased
    (k, tail && head)
  else ((k / slotsPerPage + 1) * slotsPerPage, false)

/-- The epoch of a GOOD header. -/
def headerEpoch (m : Memory) (p : PageAddr) : Option Nat :=
  match headerOutcome (m.header p) with
  | .good h => some h.epoch
  | _ => none

/-- The highest epoch of the GOOD headers of some pages. -/
def topHeaderEpoch (m : Memory) (l : List PageAddr) : Option Nat := listMax (l.filterMap (headerEpoch m))

/-- The detail with which STORE_FAILED is entered for a defect set, if it is (R149). -/
def defectDetail (defects : List Zone) : Option (BitVec 32) :=
  match ([0, 1, 2] : List Zone).find? (defects.contains ·) with
  | some z => some (BitVec.ofNat 32 z.val)
  | none =>
    if 32 < defects.length then (listMax (defects.map (·.val))).map (BitVec.ofNat 32 ·) else none

/-- The result of phase 2 for an active zone. The numbers of the entries replayed count, and not those behind the slot at
which replay stops (log entry 39). -/
def replayZone (m : Memory) (z : Zone) (generation : Nat) (spare : SpareState) (epochs : Option Nat) : JournalScan :=
  let k := firstNotGood m z
  let r := ((List.range k).map (slotBytes m z)).foldl Replay.apply Replay.blank
  let (pos, journalOpen) := journalEnd m z k
  { dir := r.dir, active := some z, spare := some spare, pos, journalOpen, generation, defects := r.defects
    unfinished := r.unfinished, topEpoch := optMax r.topEpoch epochs, headNext := r.headNext
    topIncident := r.topIncident, storeFailed := defectDetail r.defects }

/-- A store without a journal to replay: blank (line 3 of Table 8.2) or unreadable (line 4). -/
def noJournal (active : Option Zone) (spare : Option SpareState) (failed : Option (BitVec 32)) (epochs : Option Nat) :
    JournalScan :=
  { dir := Vector.replicate 32 none, active, spare, pos := if active.isSome then Config.journalSlots else 0
    journalOpen := active.isNone, generation := 0, defects := [], unfinished := [], topEpoch := epochs
    headNext := none, topIncident := none, storeFailed := failed }

/-- Phase 2 (Table 8.2). -/
def journalPhase (m : Memory) : JournalScan :=
  let epochs := topHeaderEpoch m (zonePages 1 ++ zonePages 2)
  let spareOf (z : Zone) : SpareState := if m.blankZone z then .erased else .dirty
  match completeImage m 1, completeImage m 2 with
  | some g1, some g2 => if g2 ≤ g1 then replayZone m 1 g1 .dirty epochs else replayZone m 2 g2 .dirty epochs
  | some g, none => replayZone m 1 g (spareOf 2) epochs
  | none, some g => replayZone m 2 g (spareOf 1) epochs
  | none, none =>
    if m.blankZone 1 ∧ m.blankZone 2 then noJournal (some 2) (some .erased) none epochs
    else noJournal none none (some 0xFFFFFFFF) epochs

/-- The end of phase 2: a defective zone 0 takes the settings away (R145). -/
def Dev.journalDone (d : Dev) (m : Memory) : Dev :=
  let j := journalPhase m
  let d := { d with rcs := { d.rcs with journal := some j } }
  if j.defects.contains 0 then d.adoptSettings Settings.defaults Config.pagesPerZone true else d

/-! ### Phase 3: pool (R150 to R152) -/

/-- Classes of a pool page (Table 8.4). -/
inductive PageClass where
  | erased | torn | void
  | candidate (h : Header)
  deriving DecidableEq, Repr

/-- The class of a page that is read (lines 3 to 8). -/
def classify (m : Memory) (p : PageAddr) : PageClass :=
  match headerOutcome (m.header p) with
  | .erased => if m.blankPage p then .erased else .torn
  | .void => .void
  | .bad => .torn
  | .good h =>
    if h.kind ≠ kindDump ∨ 11 < h.stream ∨ h.fill = 0 ∨ Config.pageData < h.fill then .torn else .candidate h

/-- A candidate page. -/
structure Candidate where
  page : PageAddr
  h : Header
  deriving DecidableEq, Repr

/-- Whether two candidates name one page sequence of one stream. -/
def Candidate.same (a b : Candidate) : Bool :=
  a.h.incident == b.h.incident && a.h.stream == b.h.stream && a.h.seq == b.h.seq

/-- The record of a candidate's stream in the rebuilt directory. -/
def streamOf (dir : Vector (Option Incident) 32) (c : Candidate) : Option StreamRec :=
  (dir.toList.findSome? fun x => x.filter (·.number == c.h.incident)).bind
    (·.streams.find? (·.number == c.h.stream))

/-- Classified pages of the zones that phase 3 reads. -/
structure PoolPages where
  classes : List (PageAddr × PageClass)
  known : List Candidate
  deriving DecidableEq, Repr

/-- The zones that phase 3 reads: neither defective nor left for re-erase (Table 8.4). -/
def poolToRead (j : JournalScan) : List Zone :=
  (poolZoneList.map (Fin.ofNat 256)).filter fun z => !j.defects.contains z && !j.unfinished.contains z

/-- The classes of the pages read, and the candidates of a stream in the directory, of each page sequence the one of
the highest entry number (R150, R151). -/
def poolPages (m : Memory) (j : JournalScan) : PoolPages :=
  let classes := ((poolToRead j).flatMap zonePages).map fun p => (p, classify m p)
  let found := classes.filterMap fun e => match e.2 with
    | .candidate h => some (⟨e.1, h⟩ : Candidate)
    | _ => none
  let known := found.filter fun c => (streamOf j.dir c).isSome
  { classes
    known := known.filter fun c => known.all fun x => !x.same c || pageEntry x.page ≤ pageEntry c.page }

/-- The run of a stream from a page sequence (R151): its pages in order, at most `fuel` of them. -/
def streamRun (known : List Candidate) (incident stream : Nat) : Nat → Nat → List Candidate
  | 0, _ => []
  | fuel + 1, seq =>
    match known.find? (fun c => c.h.incident == incident && c.h.stream == stream && c.h.seq == seq) with
    | some c =>
      if c.h.fill < Config.pageData then [c] else c :: streamRun known incident stream fuel (seq + 1)
    | none => []

/-- The run of a stream record: a durable STREAM_END ends it at its page count. -/
def runOf (known : List Candidate) (incident : Nat) (s : StreamRec) : List Candidate :=
  streamRun known incident s.number (if s.endKind = .open then 65536 else s.pages) 0

/-- Every stream record of a directory, with its incident. -/
def allStreams (dir : Vector (Option Incident) 32) : List (Nat × StreamRec) :=
  dir.toList.flatMap fun x => match x with
    | some r => r.streams.map fun s => (r.number, s)
    | none => []

/-- The last pages of the runs that R151 decodes: those of streams whose end kind is OPEN. -/
def pagesToDecode (m : Memory) (j : JournalScan) : List PageAddr :=
  let known := (poolPages m j).known
  (allStreams j.dir).filterMap fun e =>
    if e.2.endKind = .open then ((runOf known e.1 e.2).getLast?).map (·.page) else none

/-- Whether a page decodes as torn (R151): a chunk below the fill count UNCORRECTABLE, or one beyond it not erased. -/
def decodesTorn (m : Memory) (c : Candidate) : Bool :=
  0 < (decodeRead m c.page c.h.fill 0 Config.pageData).uncorrectable
    || (List.range 16).any fun k =>
        c.h.fill ≤ k * chunkBytes
          && !(m.blank (c.page.base + k * chunkBytes) chunkBytes && m.blank (c.page.spareBase + 32 + 2 * k) 2)

/-- What R151 decides for a stream: its live run, the page it found torn, and whether the run fell short. -/
structure StreamResult where
  incident : Nat
  stream : Nat
  live : List Candidate
  torn : Option PageAddr
  shortened : Bool
  deriving DecidableEq, Repr

/-- R151 for one stream. -/
def streamResult (m : Memory) (known : List Candidate) (e : Nat × StreamRec) : StreamResult :=
  let run := runOf known e.1 e.2
  let torn := if e.2.endKind = .open then run.getLast?.filter (decodesTorn m) else none
  { incident := e.1, stream := e.2.number
    live := if torn.isSome then run.dropLast else run
    torn := torn.map (·.page)
    shortened := e.2.endKind ≠ .open && run.length < e.2.pages }

/-- The Page Map entry of a page that was read (Table 8.4, R151). -/
def pageResult (known : List Candidate) (dir : Vector (Option Incident) 32) (res : List StreamResult) (p : PageAddr) :
    PageClass → PageEntry
  | .erased => .erased
  | .torn => .torn
  | .void => .void
  | .candidate h =>
    if (streamOf dir ⟨p, h⟩).isNone then .dead
    else if !known.any (·.page == p) then .torn
    else if res.any (·.torn == some p) then .torn
    else if res.any (·.live.any (·.page == p)) then .live h.incident h.stream h.seq h.fill
    else .dead

/-- The incident of a LIVE entry. -/
def PageEntry.holder : PageEntry → Option Nat
  | .live inc _ _ _ => some inc
  | _ => none

/-- The pages of a zone and their entries. -/
abbrev ZonePages := List (PageAddr × PageEntry)

/-- A fill candidate's last page in use (R152): no TORN page, pages 0 to k not ERASED and the rest ERASED. -/
def fillCandidate (l : ZonePages) : Option Nat :=
  let used := l.takeWhile (·.2 != .erased)
  if used ≠ [] ∧ used.length < 32 ∧ (l.drop used.length).all (·.2 == .erased) ∧ l.all (·.2 != .torn)
  then some (used.length - 1) else none

/-- The Zone Table entry of a zone that was read, the fill zone left out of account (R152). -/
def zoneResult (l : ZonePages) : ZoneEntry :=
  let holders := (l.filterMap fun e => e.2.holder).eraseDups
  if l.all (·.2 == .erased) then ZoneEntry.fresh
  else ⟨if holders.isEmpty then .retired else .full, Config.pagesPerZone, holders⟩

/-- The zone of the highest epoch, the highest-numbered among equals. -/
def highestZone (l : List (Zone × Nat)) : Option Zone :=
  (l.foldl (fun a e => match a with
    | some (z, n) => if n < e.2 ∨ (n = e.2 ∧ z.val < e.1.val) then some e else some (z, n)
    | none => some e) (none : Option (Zone × Nat))).map (·.1)

/-- The stream record after R151. -/
def Incident.recount (r : Incident) (res : List StreamResult) : Incident :=
  { r with streams := r.streams.map fun s =>
      match res.find? (fun x => x.incident == r.number && x.stream == s.number) with
      | some x => { s with pages := x.live.length, committed := (x.live.map (·.h.fill)).sum }
      | none => s }

/-- Phase 3 (R150 to R152). A zone that it sets DEFECTIVE or ERASING has next erased page 32, which is the model's
choice (log entry 34). -/
def poolPhase (m : Memory) (j : JournalScan) : PoolScan :=
  let pp := poolPages m j
  let res := (allStreams j.dir).map (streamResult m pp.known)
  let read : ZonePages := pp.classes.map fun e => (e.1, pageResult pp.known j.dir res e.1 e.2)
  let ofZone (z : Zone) : ZonePages := read.filter (·.1.zone == z)
  let goodDump := (pp.classes.filter fun e => match headerOutcome (m.header e.1) with
    | .good h => h.kind == kindDump
    | _ => false).map (·.1)
  let zoneEpoch (z : Zone) : Nat := (topHeaderEpoch m (zonePages z)).getD 0
  let fills := (poolToRead j).filterMap fun z => (fillCandidate (ofZone z)).map fun _ => (z, zoneEpoch z)
  let fillZone := highestZone fills
  let plm0 : Plm := { zones := [], pages := [], fillZone := none, cursor := 255, reclaim := .idle, reclaimAsked := none,
                      reErase := [] }
  let plm1 := read.foldl (fun a e => a.setPage e.1 e.2) plm0
  let skipped := (poolZoneList.map (Fin.ofNat 256)).filter fun z => j.defects.contains z || j.unfinished.contains z
  let plm2 := skipped.foldl (fun a z => (a.setZonePages z .torn).setZone z
    (if j.defects.contains z then ⟨.defective, Config.pagesPerZone, []⟩ else ⟨.erasing, Config.pagesPerZone, []⟩)) plm1
  let plm3 := (poolToRead j).foldl (fun a z =>
    let e := zoneResult (ofZone z)
    a.setZone z (if fillZone = some z then
        { e with state := .filling, nextPage := ((fillCandidate (ofZone z)).getD 0) + 1 }
      else e)) plm2
  let epochs := topHeaderEpoch m goodDump
  let holdsTop := goodDump.filterMap fun p => (headerEpoch m p).bind fun e => if some e = epochs then some p.zone else none
  { dir := j.dir.map fun x => x.map (·.recount res)
    zones := plm3.zones, pages := plm3.pages, fillZone
    cursor := match fillZone with
      | some z => z
      | none => ((listMax (holdsTop.map (·.val))).map (Fin.ofNat 256)).getD 255
    reErase := skipped.filter fun z => !j.defects.contains z
    shortened := (res.filter (·.shortened)).map (·.incident)
    torn := min 255 (read.filter (·.2 == .torn)).length
    topEpoch := topHeaderEpoch m (pp.classes.map (·.1))
    topIncident := listMax (goodDump.filterMap fun p => match headerOutcome (m.header p) with
      | .good h => some h.incident
      | _ => none) }

/-! ### Phase 4: interrupted incidents (R153) -/

/-- An unclosed incident as recovery closes it. -/
def Incident.interrupt (r : Incident) : Incident :=
  { r with
    state := .kept
    completeness := some .interrupted
    streams := r.streams.map fun s =>
      if s.endKind = .open then
        { s with endKind := .interrupted, reason := none, short := false, accepted := s.committed }
      else s }

/-- The entries held for an unclosed incident: a STREAM_END for each stream made INTERRUPTED, then INCIDENT_CLOSE. -/
def Incident.closingEntries (r : Incident) : List JEntry :=
  ((r.streams.filter (·.endKind == .open)).map fun s =>
      JEntry.streamEnd r.number s.number .interrupted none false s.committed s.committed s.pages)
    ++ [.incidentClose r.number (some .interrupted) r.overflow]

/-- The incidents that phase 4 closes, in slot order. -/
def unclosed (dir : Vector (Option Incident) 32) : List Incident :=
  (dir.toList.filterMap id).filter (·.state != .kept)

/-- The directory after phase 4. -/
def closeAll (dir : Vector (Option Incident) 32) : Vector (Option Incident) 32 :=
  dir.map fun x => x.map fun r => if r.state = .kept then r else r.interrupt

/-! ### Phase 5: ring (R154, R155) -/

/-- The sequence numbers of a page's good entries: read until FFH or a CRC that does not match. -/
def goodEntries : Nat → List Byte → List Nat
  | 0, _ => []
  | fuel + 1, bs =>
    if bs.getD 0 erasedByte = erasedByte ∨ entryGood bs = false then []
    else field bs 4 4 :: goodEntries fuel (bs.drop (entryLength bs))

/-- Classes of a ring page (R154). -/
inductive RingPage where
  | erased
  | good (seqs : List Nat)
  | irregular
  deriving DecidableEq, Repr

def ringPage (m : Memory) (p : PageAddr) : RingPage :=
  if m.blankPage p then .erased
  else match headerOutcome (m.header p) with
    | .good h => if h.kind = kindHistory then .good (goodEntries 64 (m.pageData p 0 Config.pageData)) else .irregular
    | _ => .irregular

def RingPage.isGood : RingPage → Bool
  | .good _ => true
  | _ => false

def RingPage.seqs : RingPage → List Nat
  | .good l => l
  | _ => []

/-- What the scan finds in a ring zone. -/
inductive RingClass where
  | erased
  | run (low high : Nat) (irregular : Bool) (firstErased : Option PageNo)
  | other
  deriving DecidableEq, Repr

/-- The class of a ring zone by its own pages (R154). -/
def ringClass (l : List RingPage) : RingClass :=
  if l.all (· == .erased) then .erased
  else
    let good := l.takeWhile RingPage.isGood
    let rest := l.drop good.length
    let irregular := rest.head? == some .irregular
    let tail := if irregular then rest.drop 1 else rest
    let seqs := good.flatMap RingPage.seqs
    let used := good.length + (if irregular then 1 else 0)
    match listMax seqs with
    | some high =>
      if tail.all (· == .erased) then
        .run (seqs.foldl min high) high irregular (if used < 32 then some (Fin.ofNat 32 used) else none)
      else .other
    | none => .other

/-- The class of every ring zone; a defective zone is not read. -/
def ringClasses (m : Memory) (defects : List Zone) : Vector (Option RingClass) 16 :=
  Vector.ofFn fun k : RingIdx =>
    if defects.contains (ringZone k) then none
    else some (ringClass ((zonePages (ringZone k)).map (ringPage m)))

/-- The high numbers of the runs that satisfy a test. -/
def highs (c : Vector (Option RingClass) 16) (irregular : Bool) : List Nat :=
  c.toList.filterMap fun x => match x with
    | some (.run _ high irr _) => if irr = irregular then some high else none
    | _ => none

/-- Whether a run counts as in order (R154). -/
def inOrder (classes : Vector (Option RingClass) 16) (high : Nat) (irregular : Bool) : Bool :=
  !irregular || ((highs classes false).all (· < high) && listMax (highs classes true) == some high)

/-- Phase 5 before the pins (R154). Of in-order zones with the same highest number the lowest-numbered is the newest, and
of irregular ones each counts (log entry 38). -/
def ringPhase (m : Memory) (defects : List Zone) : RingScan :=
  let classes := ringClasses m defects
  let runs := (List.finRange 16).filterMap fun k => match classes[k] with
    | some (.run low high irr first) => if inOrder classes high irr then some (k, low, high, first) else none
    | _ => none
  let newest := runs.foldl (fun a e => match a with
    | some x => if x.2.2.1 < e.2.2.1 then some e else some x
    | none => some e) none
  let activeAt := newest.bind fun e => e.2.2.2.map fun p => (e.1, p)
  let ring := Vector.ofFn fun k : RingIdx =>
    match classes[k] with
    | none => RingZone.mk .defective none []
    | some .erased => ⟨.erased, none, []⟩
    | some .other => ⟨.erasing, none, []⟩
    | some (.run low high irr _) =>
      if inOrder classes high irr then
        ⟨if activeAt.any (·.1 == k) then .active else .filled, some (low, high), []⟩
      else ⟨.erasing, none, []⟩
  let pages := ((List.finRange 16).filter fun k => !defects.contains (ringZone k)).flatMap fun k => zonePages (ringZone k)
  { ring
    target := activeAt.map fun e => ⟨e.1, e.2, 0⟩
    newest := (newest.map (·.1)).getD 15
    nextSeq := ((listMax (pages.flatMap fun p => (ringPage m p).seqs)).getD 0) + 1
    topEpoch := topHeaderEpoch m pages }

/-- The pins of one KEPT incident (R155). -/
def pinKept (h : Hiu) (r : Incident) : Hiu :=
  let zones := ((ringAfter h.newest).reverse.filter fun k =>
    (h.ring[k]).range.any fun x => r.windowFirst ≤ x.2 && x.1 ≤ r.windowLast).map .ring
  (Hiu.pinAll r.number h zones 0).1

/-- A list of incidents in descending order of their numbers. -/
def descending (l : List Incident) : List Incident :=
  l.foldr (fun r acc => acc.filter (r.number < ·.number) ++ [r] ++ acc.filter (·.number ≤ r.number)) []

/-! ### Entry to NORMAL (R156) -/

/-- The epoch of the new power-on period (R149). -/
def newEpoch (top : Option Nat) : Nat := match top with
  | some e => min Config.max32 (e + 1)
  | none => 1

/-- The next incident number (R149). -/
def newIncident (headNext topIncident : Option Nat) : Nat :=
  min (Config.max32 + 1) ((optMax headNext (topIncident.map (· + 1))).getD 1)

/-- The owners take their tables (R144, R156). With a DIRTY spare and a compaction due, DRM keeps the entries of
recovery for the compaction (R156; log entry 49). -/
def Dev.handOver (d : Dev) (j : JournalScan) (p : PoolScan) (r : RingScan) : Dev :=
  let hiu := { d.hiu with
    ring := r.ring, target := r.target, newest := r.newest, nextSeq := r.nextSeq
    halted := Config.max32 < r.nextSeq }
  let dir := closeAll p.dir
  let drm := { d.drm with
    dir, active := j.active, spare := j.spare, pos := j.pos, journalOpen := j.journalOpen
    generation := j.generation
    epoch := newEpoch (optMax j.topEpoch (optMax p.topEpoch r.topEpoch))
    nextIncident := newIncident j.headNext (optMax j.topIncident p.topIncident) }
  { d with
    drm := { drm with recoveryHeld := drm.holdsRecovery }
    plm := { d.plm with
      zones := p.zones, pages := p.pages, fillZone := p.fillZone, cursor := p.cursor, reErase := p.reErase }
    arc := { d.arc with defects := j.defects }
    hiu := (descending (dir.toList.filterMap id)).foldl pinKept hiu
    rcs := { d.rcs with pos := .idle, journal := none, pool := none, ring := none } }

/-- Recovery's entries are capture entries (R156, Table 5.2). -/
def Dev.recoveryEntry (d : Dev) (e : JEntry) : Dev :=
  if d.drm.capRoom 1 then d.queueEntry e else d.addWaiter (.recovery e)

/-- The entry to NORMAL, in the order of R156. INTEGRITY is raised for the shortened streams in the order of the
directory slots and, in one incident, of the streams, so the last of them gives the detail (R162; log entry 40). A
zone that a release of step 7 makes RETIRED is tested when the triggers are taken, before the hold-up of step 8 (R85;
log entry 41). A compaction that is due with the spare ERASED is not started here: where PWRWARN is ASSERTED, step 8's
HOLDUP comes before R99's test, and the compaction starts after the return (R99, R156; a choice of the model, log
entry 47). -/
def Dev.enterNormal (d : Dev) (j : JournalScan) (p : PoolScan) (r : RingScan) : Dev :=
  let held := unclosed p.dir
  let interrupted := min 255 held.length
  let d := d.handOver j p r
  let d := (d.setHum fun h => { h with mode := .normal, credits := d.sst.working.credits }).deadlines fun t =>
    { t with recharge := none }
  let d := match j.storeFailed with
    | some detail => d.enterStoreFailed detail.toNat
    | none => d
  let d := (JEntry.epoch d.drm.epoch :: held.flatMap Incident.closingEntries).foldl Dev.recoveryEntry d
  let d := d.event evStart 5 (.start d.drm.epoch interrupted p.torn)
  let d := d.onlyIf d.rcs.settingsDefaulted fun d => d.event evSettingsDefaulted 4 .plain
  let d := d.raise .recoveryDone interrupted
  let d := d.onlyIf d.rcs.settingsDefaulted fun d => d.raise .settingsDefaulted 0
  let d := p.shortened.foldl (fun d n => d.raise .integrity n) d
  let d := d.poolLowTest.haltTest.showInd
  let d := d.awaitTest.prepTest
  let d := d.onlyIf (d.drm.spare == some .dirty) Dev.eraseSpare
  let d := d.onlyIf d.reclaimReady Dev.startReclaim
  let d := { d with rcs := { d.rcs with interrupted, torn := p.torn } }
  let d := Dev.emptyLatches 5 d
  let d := d.onlyIf d.reclaimReady Dev.startReclaim
  d.onlyIf d.tru.qualified[Line.idx .pwrwarn] Dev.enterHoldup

/-! ### The scan position (R144) -/

/-- The READ of a scan position: a header, or a page in full. -/
def ScanPos.read : ScanPos → Option Job
  | .idle => none
  | .poolHeader p => some (.read p 0 0 0 headerBytes)
  | .settings p => some (.read ⟨0, p⟩ 0 Config.pageData 0 (Config.pageBytes - Config.pageData))
  | .directory p | .poolFull p | .poolDecode p _ | .ring p =>
    some (.read p 0 Config.pageData 0 (Config.pageBytes - Config.pageData))

/-- The scanner moves to a position and places its read. -/
def Dev.scanAt (d : Dev) (pos : ScanPos) : Dev :=
  let d := { d with rcs := { d.rcs with pos } }
  match pos.read with
  | some j => d.place .scanner j
  | none => d

/-- The page after a page of a zone; the first page of the next of some zones after page 31. -/
def nextPage (zones : List Zone) (p : PageAddr) : Option PageAddr :=
  if p.page.val < 31 then some { p with page := p.page + 1 }
  else (zones.find? fun z => p.zone.val < z.val).map fun z => ⟨z, 0⟩

/-- The first page of some zones. -/
def firstPage (zones : List Zone) : Option PageAddr := zones.head?.map fun z => ⟨z, 0⟩

/-- The ring zones that phase 5 reads. -/
def ringToRead (j : JournalScan) : List Zone := ((List.finRange 16).map ringZone).filter fun z => !j.defects.contains z

/-- The end of phase 5 and of recovery. -/
def Dev.ringDone (d : Dev) (m : Memory) (j : JournalScan) (p : PoolScan) : Dev :=
  d.enterNormal j p (ringPhase m j.defects)

/-- Phase 5 begins, or ends at once when no ring zone is to be read. -/
def Dev.startRing (d : Dev) (m : Memory) (j : JournalScan) (p : PoolScan) : Dev :=
  match firstPage (ringToRead j) with
  | some a => d.scanAt (.ring a)
  | none => d.ringDone m j p

/-- The end of phase 3; phase 4 reads nothing (R153). -/
def Dev.poolDone (d : Dev) (m : Memory) (j : JournalScan) : Dev :=
  let p := poolPhase m j
  ({ d with rcs := { d.rcs with pool := some p } }).startRing m j p

/-- The pages that R151 decodes are read, then phase 3 ends. -/
def Dev.startDecode (d : Dev) (m : Memory) (j : JournalScan) : List PageAddr → Dev
  | p :: rest => d.scanAt (.poolDecode p rest)
  | [] => d.poolDone m j

/-- The next pool page after one that is classified. -/
def Dev.poolNext (d : Dev) (m : Memory) (j : JournalScan) (p : PageAddr) : Dev :=
  match nextPage (poolToRead j) p with
  | some a => d.scanAt (.poolHeader a)
  | none => d.startDecode m j (pagesToDecode m j)

/-- The end of phase 2 and the beginning of phase 3. -/
def Dev.startPool (d : Dev) (m : Memory) : Dev :=
  let j := journalPhase m
  let d := d.journalDone m
  match firstPage (poolToRead j) with
  | some a => d.scanAt (.poolHeader a)
  | none => d.startDecode m j (pagesToDecode m j)

/-- A read of the Recovery Scanner completes (R144): the scan advances and the next read is placed. -/
def Dev.scanNext (d : Dev) (m : Memory) : Dev :=
  match d.rcs.pos, d.rcs.journal, d.rcs.pool with
  | .idle, _, _ => d
  | .settings p, _, _ =>
    if p.val < 31 then d.scanAt (.settings (p + 1)) else (d.settingsPhase m).scanAt (.directory ⟨1, 0⟩)
  | .directory p, _, _ =>
    match nextPage [1, 2] p with
    | some a => d.scanAt (.directory a)
    | none => d.startPool m
  | .poolHeader p, some j, _ =>
    if headerOutcome (m.header p) = .erased then d.scanAt (.poolFull p) else d.poolNext m j p
  | .poolFull p, some j, _ => d.poolNext m j p
  | .poolDecode _ rest, some j, _ => d.startDecode m j rest
  | .ring p, some j, some x =>
    match nextPage (ringToRead j) p with
    | some a => d.scanAt (.ring a)
    | none => d.ringDone m j x
  | _, _, _ => d

end Sys2Proof.Machine
end

