-- ==== Sys2Proof/Machine/Requests.lean ====
section
/-! DEFINITION. The meanings of the 21 requests (Table 10.4). -/

namespace Sys2Proof.Machine

/-- What follows every change the part takes: the writers place their requests (R96, R117), ARC suspends or resumes an
erase (R60, R61), IND takes its pattern (R165) (log entry 8). -/
def Dev.settle (d : Dev) : Dev := d.drmWrite.hiuWrite.arcSettle.showInd

/-! ### Capture -/

/-- The conditions of Table 2.3. -/
def Dev.openStreamTest (d : Dev) (cls : Nat) : Option Status :=
  if !(d.hum.mode == .normal || (d.hum.mode == .holdup && cls ≤ 1 && d.hum.closing.isNone)) then some .power
  else match d.drm.at? d.ict.recording with
    | none => some .noIncident
    | some r =>
      if d.ict.windowExpired then some .windowClosed
      else if Config.streamsPerIncident ≤ r.streams.length then some .streamLimit
      else if (List.finRange 16).all (fun i => (d.body i).isSome) then some .noSlot
      else none

/-- The lowest-numbered FREE slot of the Stream Table. -/
def Dev.freeStreamSlot (d : Dev) : Option StreamIdx := firstFin 16 fun i => (d.body i).isNone

/-- The fields of a slot at its taking (R28). -/
def newBody (incident stream : Nat) (p : Port) (cls : Nat) (declared : Option Nat) : StreamBody :=
  { incident, stream, owner := p, cls, declared, accepted := 0, committed := 0, pages := 0, nextSeq := 0, fill := none
    queued := 0, ending := none, short := false }

/-- The stream record of an opening (R25). -/
def newStream (stream : Nat) (p : Port) (cls : Nat) (label : BitVec 64) (declared : Option Nat) : StreamRec :=
  ⟨stream, .port p, cls, label, declared, 0, 0, 0, .open, none, false⟩

/-- A socket's ATTN line is deasserted (R19, R28). -/
def Ict.attnClear (c : Ict) (p : Port) : Ict :=
  match p with
  | .s0 => { c with attn := put c.attn 0 false }
  | .s1 => { c with attn := put c.attn 1 false }
  | .s2 => { c with attn := put c.attn 2 false }
  | .s3 => { c with attn := put c.attn 3 false }
  | _ => c

/-- An OPEN_STREAM is taken (R28) for the incident `r` in slot `i`. -/
def Dev.takeStream (d : Dev) (i : StreamIdx) (r : Incident) (p : Port) (cls : Nat) (label : BitVec 64)
    (declared : Option Nat) : Dev :=
  let gen := (d.cpm.slots[i]).gen + 1
  let n := r.streams.length
  let d := { d with cpm := { d.cpm with slots := put d.cpm.slots i ⟨gen, some (newBody r.number n p cls declared)⟩ } }
  let d := d.queueEntry (.streamOpen r.number n (.port p) cls label declared)
  let d := d.modIncident r.number fun x => { x with streams := x.streams ++ [newStream n p cls label declared] }
  (d.setIct (·.attnClear p)).reply p .ok 0 (.opened i gen r.number n)

/-- An OPEN_STREAM judged by Table 2.3 with a place in the queue for it: taken (R28) or refused (R27). -/
def Dev.openStreamNow (d : Dev) (p : Port) (cls : Nat) (label : BitVec 64) (declared : Option Nat) : Dev :=
  match d.openStreamTest cls with
  | some s => d.reply p s 0 .empty
  | none =>
    match d.freeStreamSlot, d.drm.at? d.ict.recording with
    | some i, some r => (d.takeStream i r p cls label declared).settle
    | _, _ => d

/-- OPEN_STREAM (R26 to R29): one that stands by Table 2.3 without a place in the directory queue waits. -/
def Dev.serveOpenStream (p : Port) (b : List Byte) (d : Dev) : Dev :=
  let cls := byte b 0
  let label := BitVec.ofNat 64 (field b 1 8)
  let declared := if b.length = 13 then some (field b 9 4) else none
  if (d.openStreamTest cls).isNone ∧ d.drm.capRoom 1 = false then d.addWaiter (.openStream p cls label declared)
  else d.openStreamNow p cls label declared

/-- OPEN_STREAM. -/
def execOpenStream (p : Port) (tag : Byte) (b : List Byte) (s : State) : Host.Outcome State Fault Refusal :=
  s.act (·.arrive p .openStream tag b (Dev.serveOpenStream p b))

/-- The slot that a current handle names (R24). -/
def Dev.handle (d : Dev) (b : List Byte) : Option (StreamIdx × StreamBody) :=
  if h : byte b 0 < 16 then
    let i : StreamIdx := ⟨byte b 0, h⟩
    if (d.cpm.slots[i]).gen = b.getD 1 0 then (d.body i).map fun x => (i, x) else none
  else none

/-- Checks 1 to 3 of Table 2.4: the refusal, or the slot. -/
def Dev.handleTest (d : Dev) (p : Port) (b : List Byte) : Except (Status × ReplyBody) (StreamIdx × StreamBody) :=
  match d.handle b with
  | none => .error (.badHandle, .empty)
  | some (i, x) =>
    if x.owner ≠ p then .error (.notOwner, .empty)
    else match x.ending with
      | some e => .error (.endedAlready, .endedAlready e x.accepted)
      | none => .ok (i, x)

/-- Whether an APPEND of `n` bytes needs a new block (R31). -/
def StreamBody.needsBlock (x : StreamBody) (n : Nat) : Bool :=
  match x.fill with
  | none => true
  | some f => Config.blockSize - f.data.length < n

/-- Whether a stream of a class may take a block (R31). -/
def Dev.mayTake (d : Dev) (cls : Nat) : Bool :=
  if cls = 0 then 1 ≤ d.stb.free.length else d.sst.working.class0Reserve < d.stb.free.length

/-- Checks 4 to 6 of Table 2.4. -/
def Dev.appendTest (d : Dev) (x : StreamBody) (final : Bool) (n : Nat) : Refused :=
  if !final && n % 8 != 0 then some (.misaligned, .empty)
  else if x.declared.any (· < x.accepted + n) || Config.max32 < x.accepted + n then some (.overrun, .empty)
  else if x.needsBlock n && !d.mayTake x.cls then some (.stagingFull, .accepted x.accepted)
  else none

/-- A stream takes a block from the free list with some data and the next page sequence (R31, R32). -/
def Dev.takeBlock (d : Dev) (i : StreamIdx) (data : List Byte) : Dev :=
  match d.stb.free, d.body i with
  | id :: rest, some x =>
    (d.setStb fun s => { s with free := rest }).modBody i fun x' =>
      { x' with
        fill := some ⟨id, i, (d.cpm.slots[i]).gen, x.incident, x.stream, x.cls, x.nextSeq, data⟩
        nextSeq := x.nextSeq + 1 }
  | _, _ => d

/-- A fill block that has reached 1024 bytes joins the commit queue (R32). -/
def Dev.joinIfFull (d : Dev) (i : StreamIdx) : Dev :=
  if ((d.body i).bind (·.fill)).any (·.data.length == Config.blockSize) then d.queueFill i else d

/-- Accepted bytes go into the fill block, and what does not fit into a new one (R31, R32). -/
def Dev.writeBytes (d : Dev) (i : StreamIdx) (data : List Byte) : Dev :=
  match (d.body i).bind (·.fill) with
  | none => (d.takeBlock i data).joinIfFull i
  | some f =>
    let room := Config.blockSize - f.data.length
    let d := (d.modBody i fun x => { x with fill := some { f with data := f.data ++ data.take room } }).joinIfFull i
    if room < data.length then d.takeBlock i (data.drop room) else d

/-- Whether an accepted APPEND ends its stream (R38): FINAL, or the declared length reached. -/
def StreamBody.ends (x : StreamBody) (final : Bool) : Bool := final || x.declared == some x.accepted

/-- An APPEND is accepted (R37, R38): the reply shows the state after it; then ICT and CME act (log entry 14). -/
def Dev.acceptAppend (d : Dev) (p : Port) (i : StreamIdx) (final : Bool) (data : List Byte) : Dev :=
  let d := d.writeBytes i data
  let d := d.modBody i fun x => { x with accepted := x.accepted + data.length }
  let d := d.syncRecord i
  match d.body i with
  | some x =>
    if x.ends final then
      let d := d.modBody i fun x => { x with short := x.declared.any (x.accepted < ·) }
      let d := (d.leaveOpen i .ended).reply p .ok 0 (.appended x.accepted true)
      (d.closeRun.cmeTest.tryRelease i).settle
    else (d.reply p .ok 0 (.appended x.accepted false)).cmeTest.settle
  | none => d

/-- APPEND (R35 to R38). -/
def Dev.serveAppend (p : Port) (b : List Byte) (d : Dev) : Dev :=
  match d.handleTest p b with
  | .error (s, body) => d.reply p s 0 body
  | .ok (i, x) =>
    let final := bit (byte b 2) 0
    match d.appendTest x final (b.length - 3) with
    | some (s, body) => d.reply p s 0 body
    | none => d.acceptAppend p i final (b.drop 3)

/-- APPEND. -/
def execAppend (p : Port) (tag : Byte) (b : List Byte) (s : State) : Host.Outcome State Fault Refusal :=
  s.act (·.arrive p .append tag b (Dev.serveAppend p b))

/-- WITHDRAW (R39). -/
def Dev.serveWithdraw (p : Port) (b : List Byte) (d : Dev) : Dev :=
  match d.handleTest p b with
  | .error (s, body) => d.reply p s 0 body
  | .ok (i, x) => ((d.endStream i .abandoned).reply p .ok 0 (.accepted x.accepted)).settle

/-- WITHDRAW. -/
def execWithdraw (p : Port) (tag : Byte) (b : List Byte) (s : State) : Host.Outcome State Fault Refusal :=
  s.act (·.arrive p .withdraw tag b (Dev.serveWithdraw p b))

/-! ### Events and triggers -/

/-- The format and data of a LOG_EVENT by its length (R112). -/
def logBody (b : List Byte) : HBody :=
  if b.length = 3 then .plain
  else if b.length = 11 then .data8 (BitVec.ofNat 64 (field b 3 8))
  else .data24 (BitVec.ofNat 192 (field b 3 24))

/-- LOG_EVENT (R112). -/
def Dev.serveLogEvent (p : Port) (b : List Byte) (d : Dev) : Dev :=
  let o := d.offerSeq (logBody b) (byte b 0) (.port p) (field b 1 2)
  match o.seq with
  | some n => (o.dev.reply p .ok 0 (.logged n)).settle
  | none => (o.dev.reply p .dropped 0 (.dropped o.dev.hiu.lost)).settle

/-- LOG_EVENT. -/
def execLogEvent (p : Port) (tag : Byte) (b : List Byte) (s : State) : Host.Outcome State Fault Refusal :=
  s.act (·.arrive p .logEvent tag b (Dev.serveLogEvent p b))

/-- DECLARE (R4): a trigger of the cause that names the port. -/
def Dev.serveDeclare (p : Port) (d : Dev) : Dev := (d.takeTrigger (d.triggerNow (.declared p)) (some p)).settle

/-- DECLARE. -/
def execDeclare (p : Port) (tag : Byte) (b : List Byte) (s : State) : Host.Outcome State Fault Refusal :=
  s.act (·.arrive p .declare tag b (Dev.serveDeclare p))

/-! ### Status, notices, parameters -/

/-- GET_STATUS (R167). -/
def Dev.serveGetStatus (p : Port) (d : Dev) : Dev := d.reply p .ok 0 (.status (d.status p))

/-- GET_STATUS. -/
def execGetStatus (p : Port) (tag : Byte) (b : List Byte) (s : State) : Host.Outcome State Fault Refusal :=
  s.act (·.arrive p .getStatus tag b (Dev.serveGetStatus p))

/-- Replaces the set a port fetches from. -/
def Ntu.withSet (n : Ntu) (p : Port) (l : List Notice) : Ntu :=
  match p with
  | .mgt => { n with management := l }
  | .svc => { n with service := l }
  | _ => n

/-- NEXT_NOTICE (R163): the sets stand in order of priority. -/
def Dev.serveNextNotice (p : Port) (d : Dev) : Dev :=
  match d.ntu.setOf p with
  | [] => d.reply p .none 0 .empty
  | n :: rest => { d with ntu := d.ntu.withSet p rest }.reply p .ok 0 (.notice n rest.length)

/-- NEXT_NOTICE. -/
def execNextNotice (p : Port) (tag : Byte) (b : List Byte) (s : State) : Host.Outcome State Fault Refusal :=
  s.act (·.arrive p .nextNotice tag b (Dev.serveNextNotice p))

/-- READ_PARAMS (R195). -/
def Dev.serveReadParams (p : Port) (d : Dev) : Dev := d.reply p .ok 0 .params

/-- READ_PARAMS. -/
def execReadParams (p : Port) (tag : Byte) (b : List Byte) (s : State) : Host.Outcome State Fault Refusal :=
  s.act (·.arrive p .readParams tag b (Dev.serveReadParams p))

/-! ### Reading -/

/-- LIST_INCIDENTS (R182): ascending incident number. -/
def Dev.serveListIncidents (p : Port) (d : Dev) : Dev :=
  d.readGate p fun d => d.reply p .ok 0 (.incidents (descending d.drm.records).reverse)

/-- LIST_INCIDENTS. -/
def execListIncidents (p : Port) (tag : Byte) (b : List Byte) (s : State) : Host.Outcome State Fault Refusal :=
  s.act (·.arrive p .listIncidents tag b (Dev.serveListIncidents p))

/-- RETRIEVED is queued and the flag set, for SVC's read of a KEPT incident whose flag is clear, while the queue has
room (R106). -/
def Dev.markRetrieved (d : Dev) (p : Port) (r : Incident) : Dev :=
  if p = .svc ∧ r.state = .kept ∧ r.retrieved = false ∧ d.drm.hasRoom then
    ((d.queueEntry (.retrieved r.number)).modIncident r.number fun x => { x with retrieved := true }).settle
  else d

/-- READ_INCIDENT (R183). -/
def Dev.serveReadIncident (p : Port) (b : List Byte) (d : Dev) : Dev :=
  d.readGate p fun d =>
    match d.drm.find (field b 0 4) with
    | none => d.reply p .notFound 0 .empty
    | some r =>
      let d := d.markRetrieved p r
      d.reply p .ok 0 (.incident ((d.drm.find r.number).getD r))

/-- READ_INCIDENT. -/
def execReadIncident (p : Port) (tag : Byte) (b : List Byte) (s : State) : Host.Outcome State Fault Refusal :=
  s.act (·.arrive p .readIncident tag b (Dev.serveReadIncident p b))

/-- READ_STREAM (R184). -/
def Dev.serveReadStream (p : Port) (b : List Byte) (d : Dev) : Dev :=
  d.readGate p fun d => d.readStreamAt p (field b 0 4) (byte b 4) (field b 5 4)

/-- READ_STREAM. -/
def execReadStream (p : Port) (tag : Byte) (b : List Byte) (s : State) : Host.Outcome State Fault Refusal :=
  s.act (·.arrive p .readStream tag b (Dev.serveReadStream p b))

/-- READ_MORE (R184, R186, R187). -/
def Dev.serveReadMore (flash : Memory) (p : Port) (d : Dev) : Dev :=
  d.readGate p fun d => d.readOn flash p

/-- READ_MORE. -/
def execReadMore (p : Port) (tag : Byte) (b : List Byte) (s : State) : Host.Outcome State Fault Refusal :=
  s.act (·.arrive p .readMore tag b (Dev.serveReadMore s.flash p))

/-- READ_HISTORY (R186). -/
def Dev.serveReadHistory (flash : Memory) (p : Port) (b : List Byte) (d : Dev) : Dev :=
  d.readGate p fun d => d.serveHistory flash p (field b 0 4)

/-- READ_HISTORY. -/
def execReadHistory (p : Port) (tag : Byte) (b : List Byte) (s : State) : Host.Outcome State Fault Refusal :=
  s.act (·.arrive p .readHistory tag b (Dev.serveReadHistory s.flash p b))

/-! ### Release and holds -/

/-- RELEASE (R188, R104). -/
def Dev.serveRelease (p : Port) (b : List Byte) (d : Dev) : Dev :=
  let number := field b 0 4
  match d.drm.slotOf number, d.drm.find number with
  | some s, some r =>
    if r.state ≠ .kept then d.reply p .notKept 0 .empty
    else if r.held ∧ p ≠ .svc then d.reply p .held 0 .empty
    else if d.drm.hasRoom = false then d.reply p .directoryBusy 0 .empty
    else ((d.releaseIncident s number (.port p)).reply p .ok 0 .empty).settle
  | _, _ => d.reply p .notFound 0 .empty

/-- RELEASE. -/
def execRelease (p : Port) (tag : Byte) (b : List Byte) (s : State) : Host.Outcome State Fault Refusal :=
  s.act (·.arrive p .release tag b (Dev.serveRelease p b))

/-- HOLD and UNHOLD (R105, R189). -/
def Dev.serveHold (held : Bool) (p : Port) (b : List Byte) (d : Dev) : Dev :=
  let number := field b 0 4
  match d.drm.find number with
  | none => d.reply p .notFound 0 .empty
  | some r =>
    if r.held = held then d.reply p .ok 0 (.heldFlag held)
    else if d.drm.hasRoom = false then d.reply p .directoryBusy 0 .empty
    else
      let d := d.queueEntry (if held then .holdSet number else .holdClear number)
      ((d.modIncident number fun x => { x with held }).reply p .ok 0 (.heldFlag held)).settle

/-- HOLD. -/
def execHold (p : Port) (tag : Byte) (b : List Byte) (s : State) : Host.Outcome State Fault Refusal :=
  s.act (·.arrive p .hold tag b (Dev.serveHold true p b))

/-- UNHOLD. -/
def execUnhold (p : Port) (tag : Byte) (b : List Byte) (s : State) : Host.Outcome State Fault Refusal :=
  s.act (·.arrive p .unhold tag b (Dev.serveHold false p b))

/-! ### Locate and wall time -/

/-- The remaining run time of a locate run in ticks (R166). -/
def Dev.locateLeft (d : Dev) : Nat := match d.tmb.deadlines.locate with
  | some t => (t - d.tmb.tick).toNat
  | none => 0

/-- The locate slot after a LOCATE (R166). -/
def Dev.locateSlot (d : Dev) (stop : Bool) : Option Tick :=
  if stop then none
  else match d.tmb.deadlines.locate with
    | none => some (d.after Config.locateRun)
    | some _ => some (d.after (min (d.locateLeft + Config.locateRun) Config.locateMax))

/-- LOCATE (R166). The reply gives the remaining run time rounded down to whole milliseconds (log entry 42). -/
def Dev.serveLocate (p : Port) (b : List Byte) (d : Dev) : Dev :=
  let d := d.deadlines fun t => { t with locate := d.locateSlot (bit (byte b 0) 0) }
  (d.reply p .ok 0 (.locateTime (d.locateLeft / Config.ticksPerMs))).showInd

/-- LOCATE. -/
def execLocate (p : Port) (tag : Byte) (b : List Byte) (s : State) : Host.Outcome State Fault Refusal :=
  s.act (·.arrive p .locate tag b (Dev.serveLocate p b))

/-- SET_WALLTIME (R158). -/
def Dev.serveSetWalltime (p : Port) (b : List Byte) (d : Dev) : Dev :=
  let w := BitVec.ofNat 64 (field b 0 8)
  let d := { d with tmb := { d.tmb with wall := some ⟨w, d.tmb.tick, 0⟩ } }
  ((d.event evWallmark 6 (.wallmark w)).reply p .ok 0 .empty).settle

/-- SET_WALLTIME. -/
def execSetWalltime (p : Port) (tag : Byte) (b : List Byte) (s : State) : Host.Outcome State Fault Refusal :=
  s.act (·.arrive p .setWalltime tag b (Dev.serveSetWalltime p b))

/-! ### Settings -/

/-- GET_SETTINGS (R192). -/
def Dev.serveGetSettings (p : Port) (b : List Byte) (d : Dev) : Dev :=
  d.reply p .ok 0
    (.settings (if byte b 0 = 0 then d.sst.working else d.sst.pending) d.sst.loadDue d.sst.savePos)

/-- GET_SETTINGS. -/
def execGetSettings (p : Port) (tag : Byte) (b : List Byte) (s : State) : Host.Outcome State Fault Refusal :=
  s.act (·.arrive p .getSettings tag b (Dev.serveGetSettings p b))

/-- PUT_SETTINGS (R192). -/
def Dev.servePutSettings (p : Port) (b : List Byte) (d : Dev) : Dev :=
  (d.setSst fun s => { s with pending := settingsOfBytes b, loadDue := true }).reply p .ok 0 .empty

/-- PUT_SETTINGS. -/
def execPutSettings (p : Port) (tag : Byte) (b : List Byte) (s : State) : Host.Outcome State Fault Refusal :=
  s.act (·.arrive p .putSettings tag b (Dev.servePutSettings p b))

/-- SAVE_SETTINGS (R194): answered when the save completes. -/
def Dev.serveSaveSettings (p : Port) (d : Dev) : Dev :=
  (d.setSst fun s => { s with saves := s.saves ++ [⟨some p, s.pending, 0⟩] }).sstServe.arcSettle

/-- SAVE_SETTINGS. -/
def execSaveSettings (p : Port) (tag : Byte) (b : List Byte) (s : State) : Host.Outcome State Fault Refusal :=
  s.act (·.arrive p .saveSettings tag b (Dev.serveSaveSettings p))

end Sys2Proof.Machine
end

