-- ==== Sys2Proof/Machine/Events.lean ====
section
/-! DEFINITION. The meanings of frames that are no request, of links, of supply and reset, of lines and of
deadlines. A command whose event cannot occur in the state changes nothing (log entry 2). -/

namespace Sys2Proof.Machine

/-! ### Frames and links -/

/-- Whether a link can deliver these bytes as a frame: a socket transaction that begins with 00H is a fetch and with FFH
a reset, and one of no byte is ignored (R174); SVC delivers as many bytes as the header asks for, or the header alone
when its length is past 520 (R176). -/
def frameArrives (p : Port) (f : List Byte) : Bool :=
  match p with
  | .mgt => true
  | .svc => (f.length == 4 && Config.maxPayload < frameLength f)
      || (4 ≤ f.length && frameLength f ≤ Config.maxPayload && f.length == 6 + frameLength f)
  | _ => !f.isEmpty && f.getD 0 0 != 0x00 && f.getD 0 0 != 0xFF

/-- A well-checked frame whose code names no request (R171). -/
def Dev.unknown (d : Dev) (p : Port) (code tag : Byte) (payload : List Byte) : Dev :=
  if knownCode code || (Port.isSocket p && (code == 0x00 || code == 0xFF)) then d
  else d.arriveFrame p code tag payload fun d => d.reply p .unknownRequest 0 .empty

/-- UNKNOWN_REQUEST. -/
def execUnknownRequest (p : Port) (code tag : Byte) (b : List Byte) (s : State) : Host.Outcome State Fault Refusal :=
  s.act (·.unknown p code tag b)

/-- A frame that fails R169: answered at an EMPTY or READY port, counted at an OUTSTANDING one (R172). -/
def Dev.badFrame (d : Dev) (p : Port) (f : List Byte) : Dev :=
  if framePasses f || !frameArrives p f then d
  else if d.isOutstanding p then (d.hearFrame p f.length).countOverlap p
  else (d.hearFrame p f.length).refuseFrame p

/-- FRAME_ERROR. -/
def execFrameError (p : Port) (f : List Byte) (s : State) : Host.Outcome State Fault Refusal := s.act (·.badFrame p f)

/-- A frame, good or bad, at an OUTSTANDING port (R172). -/
def Dev.overlapAt (d : Dev) (p : Port) (f : List Byte) : Dev :=
  if d.isOutstanding p && frameArrives p f then (d.hearFrame p f.length).countOverlap p else d

/-- OVERLAP_FRAME. -/
def execOverlapFrame (p : Port) (f : List Byte) (s : State) : Host.Outcome State Fault Refusal := s.act (·.overlapAt p f)

/-- The byte a port sends while its reply is not yet built (R174). -/
abbrev notReady : Byte := 0xF0

/-- `n` bytes of a sequence that goes on with FFH. -/
def takeIdle (n : Nat) (l : List Byte) : List Byte := l.take n ++ List.replicate (n - l.length) idleByte

/-- A fetch of `n` bytes from a socket port or MGT (R174, R175); SVC has no fetch (R176). -/
def Dev.fetch (d : Dev) (p : Port) (n : Nat) : Dev :=
  if p = .svc then d
  else
    let x := d.port p
    match x.exchange with
    | .empty => d.setPort p { x with sent := takeIdle n [] }
    | .outstanding _ _ => d.setPort p { x with sent := takeIdle n [notReady] }
    | .ready _ _ r =>
      let e := if r.frame.length ≤ n then Exchange.empty else x.exchange
      d.setPort p { x with sent := takeIdle n r.frame, exchange := e }

/-- FETCH. -/
def execFetch (p : Port) (n : Nat) (s : State) : Host.Outcome State Fault Refusal := s.act (·.fetch p n)

/-- Whether a waiter is an OPEN_STREAM of a port. -/
def CapWaiter.opensFor (p : Port) : CapWaiter → Bool
  | .openStream q .. => q == p
  | _ => false

/-- A port whose request is discarded is answered no more. -/
def unmark (p : Port) (x : Option Port) : Option Port := x.filter (· != p)

/-- The requests of a port that are not yet taken are discarded, and the replies it waits for lost (R177, R4, R29). -/
def Dev.forgetPort (d : Dev) (p : Port) : Dev :=
  let d := d.setDrm fun m => { m with captureWaiters := m.captureWaiters.filter (!·.opensFor p) }
  let d := d.setIct fun c =>
    { c with opening := c.opening.map fun o =>
        { o with port := unmark p o.port, joined := o.joined.map fun j => { j with port := unmark p j.port } } }
  let d := d.setSst fun s => { s with saves := s.saves.map fun x => { x with port := unmark p x.port } }
  (d.dropRead p).setCursor p .empty

/-- A link reset (R177); on SVC a break, which stops a sending at once (R176). -/
def Dev.linkReset (d : Dev) (p : Port) : Dev :=
  let d := d.setPort p { PortState.reset with sent := (d.port p).sent }
  let d := if p = .svc then { d with pif := { d.pif with svcHunting := true, svcOut := none } } else d
  ((d.forgetPort p).endStreams (·.owner == p) .abandoned).settle

/-- LINK_RESET. -/
def execLinkReset (p : Port) (s : State) : Host.Outcome State Fault Refusal := s.act (·.linkReset p)

/-- A gap or a missing stop bit on the UART: the part of the frame received is discarded, and the receiver hunts for the
start byte (R176). -/
def Dev.frameGap (d : Dev) : Dev :=
  let d := d.setPort .svc { d.port .svc with rx := [] }
  { d with pif := { d.pif with svcHunting := true } }

/-- SVC_FRAME_GAP. -/
def execSvcFrameGap (s : State) : Host.Outcome State Fault Refusal := s.act (·.frameGap)

/-! ### Supply and reset -/

/-- The I2C address that the straps select (Table 10.1). -/
def strapAddress (ma0 ma1 : Bool) : BitVec 7 := BitVec.ofNat 7 (0x34 + 2 * flag ma1 + flag ma0)

/-- START (R142): every block at its reset value, the scanner's first read placed, each asserted input filtered from
this moment (R1). -/
def startDev (levels : Vector Bool 6) (i2cAddr : BitVec 7) : Dev :=
  allLines.foldl Dev.filterLine ((Dev.reset levels i2cAddr).scanAt (.settings 0))

/-- The bytes of the array after a PROGRAM that fails or is cut short (R57, R69). -/
def Job.failOn (m : Memory) (nonce : Nat) : Job → Memory
  | .program p a data b spare => (m.programFail nonce (p.base + a) data).programFail nonce (p.spareBase + b) spare
  | _ => m

/-- Whether an operation of the array is a PROGRAM. -/
def Arc.programs (a : Arc) : Option Job := (a.op.map (·.job)).filter Job.isProgram

/-- Every operation of the array is cut short (R69): a PROGRAM in progress, and an erase running or suspended. -/
def State.cutShort (s : State) : State :=
  let s := match s.dev.arc.programs with
    | some j => { s with flash := j.failOn s.flash s.freeCount, freeCount := s.freeCount + 1 }
    | none => s
  match s.dev.arc.erase with
  | some e => { s with flash := s.flash.eraseZoneCut s.freeCount e.zone, freeCount := s.freeCount + 1 }
  | none => s

/-- The part enters START. -/
def State.restart (s : State) (ma0 ma1 : Bool) : State :=
  let s := s.cutShort
  { s with powered := true, dev := startDev s.dev.tru.levels (strapAddress ma0 ma1) }

/-- POWER_UP (R142). -/
def execPowerUp (ma0 ma1 : Bool) (s : State) : Host.Outcome State Fault Refusal := .next (s.restart ma0 ma1)

/-- DEVICE_RESET (R142); a part without power is not reset. -/
def execDeviceReset (ma0 ma1 : Bool) (s : State) : Host.Outcome State Fault Refusal :=
  if s.powered then .next (s.restart ma0 ma1) else .next s

/-- POWER_LOSS (R141, R69): the volatile state is lost, and no completion is reported. -/
def execPowerLoss (s : State) : Host.Outcome State Fault Refusal :=
  if s.powered then
    let s := s.cutShort
    .next { s with powered := false, dev := Dev.reset s.dev.tru.levels s.dev.pif.i2cAddr }
  else .next s

/-! ### Lines -/

/-- The level of an input. -/
def Dev.setLevel (d : Dev) (l : Line) (x : Bool) : Dev :=
  d.setTru fun t => { t with levels := put t.levels (Line.idx l) x }

/-- LINE_CHANGE (R1); without power the input alone changes. -/
def execLineChange (l : Line) (x : Bool) (s : State) : Host.Outcome State Fault Refusal :=
  let d := s.dev.setLevel l x
  .next { s with dev := if s.powered then (d.filterLine l).settle else d }

/-- FILTER_EXPIRY (R1). -/
def execFilterExpiry (l : Line) (s : State) : Host.Outcome State Fault Refusal :=
  s.act fun d => if d.due d.tmb.deadlines.filters[Line.idx l] then (d.qualify l).settle else d

/-! ### Deadlines -/

/-- CAPTURE_WINDOW_EXPIRY (R13). -/
def execCaptureWindowExpiry (s : State) : Host.Outcome State Fault Refusal :=
  s.act fun d =>
    if d.due d.tmb.deadlines.window then
      let d := d.deadlines fun t => { t with window := none }
      (d.onlyIf d.ict.recording.isSome fun d => d.expireWindow.closeRun).settle
    else d

/-- The capture limit expires (R14): the window is marked expired, and every OPEN stream of the RECORDING incident is
cut with reason LIMIT (R41). -/
def Dev.limitExpires (d : Dev) : Dev :=
  match d.drm.at? d.ict.recording with
  | some r => (d.cancelCapture.expireWindow.endStreams (·.incident == r.number) (.truncated .limit)).closeRun
  | none => d.cancelCapture

/-- CAPTURE_LIMIT_EXPIRY (R14). -/
def execCaptureLimitExpiry (s : State) : Host.Outcome State Fault Refusal :=
  s.act fun d => if d.due d.tmb.deadlines.limit then d.limitExpires.settle else d

/-- HOLDUP_DEADLINE_EXPIRY (R133). -/
def execHoldupDeadlineExpiry (s : State) : Host.Outcome State Fault Refusal :=
  s.act fun d =>
    if d.due d.tmb.deadlines.holdup then
      let d := d.deadlines fun t => { t with holdup := none }
      (d.onlyIf (d.hum.mode == .holdup && d.hum.closing.isNone) fun d => d.beginClosing .deadline).settle
    else d

/-- RECHARGE_EXPIRY (R139). -/
def execRechargeExpiry (s : State) : Host.Outcome State Fault Refusal :=
  s.act fun d => if d.due d.tmb.deadlines.recharge then d.rechargeNow else d

/-- The flush interval deadline expires (R116): pending bytes set the flush mark to the last entry staged. -/
def Dev.flushExpires (d : Dev) : Dev :=
  let d := d.deadlines fun t => { t with flush := none }
  match d.hiu.staging.getLast? with
  | some e => d.setHiu (·.markTo e.seq)
  | none => d

/-- FLUSH_INTERVAL_EXPIRY (R116). -/
def execFlushIntervalExpiry (s : State) : Host.Outcome State Fault Refusal :=
  s.act fun d => if d.due d.tmb.deadlines.flush then d.flushExpires.settle else d

/-- LOCATE_EXPIRY (R166). -/
def execLocateExpiry (s : State) : Host.Outcome State Fault Refusal :=
  s.act fun d =>
    if d.due d.tmb.deadlines.locate then (d.deadlines fun t => { t with locate := none }).showInd else d

end Sys2Proof.Machine
end

