-- ==== Sys2Proof/Machine/Completions.lean ====
section
/-! DEFINITION. The meanings of the array's events: grants (R63), suspension (R60), completions (R57, R58) and what each
requester does with them. -/

namespace Sys2Proof.Machine

/-! ### Suspension and grants -/

/-- ERASE_RUN_TIMER (R60). -/
def execEraseRunTimer (s : State) : Host.Outcome State Fault Refusal :=
  s.act fun d =>
    if d.arc.erase.any (·.phase == .running) && Config.eraseMinRun ≤ d.arc.runTimer && d.suspendWanted then
      d.erasePhase .suspending
    else d

/-- The requester of a grant goes on; the journal's batch and a flush are fixed at this moment (R96, R117). Answers the
job as it is fixed. -/
def Dev.granted (d : Dev) (r : ArrReq) : Job × Dev :=
  match r.who with
  | .journal =>
    (match d.drm.active with
      | some z => d.drm.batchJob z
      | none => r.job,
     d.setDrm fun m => { m with writer := .programming, batch := m.batchNow.length })
  | .image => (r.job, d.setDrm fun m => { m with writer := .programming })
  | .commit => (r.job, d.setCme fun c => { c with state := .programming })
  | .voidMark => (r.job, d.setCme fun c => { c with state := .voiding })
  | .flush =>
    (match d.hiu.target with
      | some t => d.flushJob t
      | none => r.job,
     d.setHiu fun h => { h with writer := .programming, flushing := h.staging.length })
  | .rtu p => (r.job, d.setJob p ((d.job p).map fun j => { j with granted := true }))
  | .dirErase => (r.job, d.setDrm fun m => { m with spare := some .erasing })
  | .reclaim => (r.job, d.setPlm fun m => { m with reclaim := .eraseRun r.job.zone })
  | .scanner | .save | .ringPrep | .settingsErase => (r.job, d)

/-- A grant (R63): the request leaves the waiting set and becomes the operation in progress or the erase; a PROGRAM
granted in HOLDUP spends a credit, and the count is then tested (R64, R132). -/
def Dev.grant (d : Dev) (r : ArrReq) : Dev :=
  let d := { d with arc := { d.arc with waiting := d.arc.waiting.erase r } }
  let (job, d) := d.granted r
  let d := match job with
    | .erase z => { d with arc := { d.arc with erase := some ⟨.running, z, r.who⟩, runTimer := 0 } }
    | job => { d with arc := { d.arc with op := some ⟨r.who, job⟩ } }
  d.onlyIf (d.hum.mode == .holdup && job.isProgram) fun d => d.spendCredit.reserveTest.exhaustTest

/-- The grant that R63 makes now, if it makes one. -/
def Dev.grantNext (d : Dev) : Dev :=
  match d.nextGrant with
  | some r => d.grant r
  | none => d

/-- ARBITER_GRANT (R63). -/
def execArbiterGrant (s : State) : Host.Outcome State Fault Refusal :=
  s.act fun d => if d.nextGrant.isSome then d.grantNext.settle else d

/-- ERASE_SUSPENDED (R60): the suspension takes effect, and the arbiter makes its grant. -/
def execEraseSuspended (s : State) : Host.Outcome State Fault Refusal :=
  s.act fun d =>
    if d.arc.erase.any (·.phase == .suspending) then (d.erasePhase .suspended).grantNext.settle else d

/-! ### Ends of operations -/

/-- The array after a PROGRAM that completes with OK (R57). -/
def Job.programOn (m : Memory) : Job → Memory
  | .program p a data b spare => (m.program (p.base + a) data).program (p.spareBase + b) spare
  | _ => m

/-- The verify of a PROGRAM (R57). -/
def Job.verifies (m : Memory) : Job → Bool
  | .program p a data b spare => m.verifies (p.base + a) data && m.verifies (p.spareBase + b) spare
  | _ => true

/-- The PROGRAM in progress of a requester completes: with OK when the outcome says so and the bytes read back as
requested, else with PROGRAM_FAIL (R57; log entry 4). Where the command says OK the array has stored what R49 says,
whether or not that agrees with the request. Its requester acts on the outcome. -/
def State.programDone (s : State) (who : Requester) (outcome : ProgramOutcome) (f : Bool → Dev → Dev) :
    Host.Outcome State Fault Refusal :=
  match s.dev.arc.op with
  | some ⟨w, .program p a data b spare⟩ =>
    let j := Job.program p a data b spare
    if s.powered ∧ w = who then
      let ok := outcome == .ok && j.verifies s.flash
      let d := { s.dev with arc := { s.dev.arc with op := none } }
      .next { s with
        flash := if outcome = .ok then j.programOn s.flash else j.failOn s.flash s.freeCount
        freeCount := if outcome = .ok then s.freeCount else s.freeCount + 1
        dev := (f ok d).settle }
    else .next s
  | _ => .next s

/-- The erase of a requester completes, RUNNING or SUSPENDING (R58, R60). Its requester acts on the zone and the
outcome; the array is as the erase left it. -/
def State.eraseDone (s : State) (who : Requester) (outcome : EraseOutcome)
    (f : Bool → Memory → Zone → Dev → Dev) : Host.Outcome State Fault Refusal :=
  match s.dev.arc.erase with
  | some ⟨phase, z, w⟩ =>
    if s.powered ∧ w = who ∧ phase ≠ .suspended then
      let ok := outcome == .ok
      let flash := if ok then s.flash.eraseZone z else s.flash.eraseZoneFail s.freeCount z
      let d := { s.dev with arc := { s.dev.arc with erase := none } }
      .next { s with
        flash
        freeCount := if ok then s.freeCount else s.freeCount + 1
        dev := (f ok flash z d).settle }
    else .next s
  | none => .next s

/-! ### Commit -/

/-- A page's entry, for the page CME holds. -/
def Dev.cmePage (d : Dev) (e : PageEntry) : Dev :=
  match d.cme.page with
  | some p => d.setPlm (·.setPage p e)
  | none => d

/-- CME becomes IDLE with its block out of its hands; the slot's release and the next block follow (R71, R47). -/
def Dev.cmeFree (d : Dev) (slot : Option StreamIdx) : Dev :=
  let d := d.setCme fun _ => Cme.rest
  let d := match slot with
    | some i => d.tryRelease i
    | none => d
  d.cmeTest

/-- A data program completes with OK (R75, R34). -/
def Dev.commitOk (d : Dev) : Dev :=
  match d.cme.block, d.cme.page with
  | some b, some p =>
    let d := d.setPlm fun m => (m.setLive p b).usedUpTest
    let d := d.modBody b.slot fun x =>
      { x with committed := x.committed + b.data.length, pages := x.pages + 1, queued := x.queued - 1 }
    let d := (d.syncRecord b.slot).freeBlocks [b.id]
    d.cmeFree (some b.slot)
  | _, _ => d.cmeFree none

/-- The void mark of the page CME holds is requested (R76, R78). -/
def Dev.askVoid (d : Dev) : Dev :=
  match d.cme.page with
  | some p => (d.setCme fun c => { c with state := .voidWait, retry := 1 }).place .voidMark (voidJob p)
  | none => d

/-- A data program fails: one that the closing phase met in progress drops its block (R80); else the first failure asks
for the void mark (R76), and the second cuts the stream MEDIA (R78, R45). -/
def Dev.commitFail (d : Dev) : Dev :=
  let d := d.cmePage .torn
  let slot := d.cme.block.map (·.slot)
  if d.cme.dropping then ((d.setPlm Plm.usedUpTest).dropUnderProgram).cmeFree slot
  else if d.cme.retry = 0 then d.askVoid
  else
    let d := (d.setCme fun c => { c with state := .voidWait }).dropUnderProgram
    let d := match slot with
      | some i => d.cutDiscard i .media
      | none => d
    d.askVoid

/-- COMMIT_PROGRAM_DONE (R75, R76, R78, R80). -/
def execCommitProgramDone (o : ProgramOutcome) (s : State) : Host.Outcome State Fault Refusal :=
  s.programDone .commit o fun ok d => if ok then d.commitOk else d.commitFail

/-- A void mark completes (R77): VOID or still TORN; then the retry, or IDLE. One that the closing phase met in progress
is followed by no retry (R80). -/
def Dev.voidDone (ok : Bool) (d : Dev) : Dev :=
  let d := d.cmePage (if ok then .void else .torn)
  let d := d.setPlm Plm.usedUpTest
  match d.cme.block with
  | none => d.cmeFree none
  | some b =>
    if d.cme.dropping then d.dropUnderProgram.cmeFree (some b.slot)
    else match d.givePage with
      | some (p, d) => d.commitOn b p 1
      | none => (d.dropUnderProgram.cutDiscard b.slot .storeFull).cmeFree none

/-- VOID_MARK_DONE (R77). -/
def execVoidMarkDone (o : ProgramOutcome) (s : State) : Host.Outcome State Fault Refusal :=
  s.programDone .voidMark o Dev.voidDone

/-! ### Directory -/

/-- Durability reports, in order (R92). -/
def Dev.reportAll (d : Dev) (l : List JEntry) : Dev := l.foldl Dev.reportDurable d

/-- A journal program completes (R96, R97). -/
def Dev.journalWritten (ok : Bool) (d : Dev) : Dev :=
  let n := d.drm.batch
  let batch := d.drm.queue.take n
  let d := d.setDrm fun m => { m with writer := .idle, batch := 0 }
  if ok then (d.setDrm fun m => { m with queue := m.queue.drop n, pos := m.pos + n }).reportAll batch
  else d.setDrm fun m => { m with journalOpen := false }

/-- JOURNAL_PROGRAM_DONE (R96, R97). -/
def execJournalProgramDone (o : ProgramOutcome) (s : State) : Host.Outcome State Fault Refusal :=
  s.programDone .journal o Dev.journalWritten

/-- The compaction ends with its tail durable (R101). -/
def Dev.compactionEnds (d : Dev) (entries : Nat) : Dev :=
  let absorbed := d.drm.absorbed
  let d := d.setDrm fun m => { m with
    active := some m.spareZone, pos := entries, journalOpen := true, generation := m.generation + 1
    absorbed := [], copy := none, imagePos := 0 }
  (d.reportAll absorbed).dirtySpare

/-- An image program completes (R101); with PROGRAM_FAIL the image is abandoned (R102). -/
def Dev.imageWritten (ok : Bool) (d : Dev) : Dev :=
  let entries := (d.drm.copy.map (·.image.length)).getD 0
  let d := d.setDrm fun m => { m with writer := .idle }
  if ok then
    if entries ≤ d.drm.imagePos + slotsPerPage then d.compactionEnds entries
    else d.setDrm fun m => { m with imagePos := m.imagePos + slotsPerPage }
  else (d.setDrm fun m => { m with copy := none, imagePos := 0 }).dirtySpare

/-- IMAGE_PROGRAM_DONE (R101, R102). -/
def execImageProgramDone (o : ProgramOutcome) (s : State) : Host.Outcome State Fault Refusal :=
  s.programDone .image o Dev.imageWritten

/-! ### History -/

/-- The range of a ring zone after a flush (R117). -/
def RingZone.flushed (z : RingZone) (l : List HEntry) : RingZone :=
  match l.head?, l.getLast? with
  | some a, some b => { z with range := some ((z.range.map (·.1)).getD a.seq, b.seq) }
  | _, _ => z

/-- The end of a flush, whatever its outcome: the writer is IDLE, a mark with nothing left to flush is cleared, and the
deadline is armed while bytes are pending (R116). -/
def Dev.flushEnds (d : Dev) : Dev :=
  let d := d.setHiu fun h =>
    { h with
      writer := .idle, flushing := 0
      mark := if coveredBy h.mark (h.staging ++ h.intake) then h.mark else none }
  if d.hiu.staging.isEmpty then d else d.armFlush

/-- A flush completes with OK (R117). -/
def Dev.flushOk (d : Dev) (t : WritePage) : Dev :=
  let l := d.hiu.staging.take d.hiu.flushing
  let d := d.setHiu fun h =>
    { h with
      staging := h.staging.drop h.flushing
      target := some { t with programmed := t.programmed + entriesSize l }
      ring := modify h.ring t.zone (·.flushed l) }
  let d := d.flushEnds
  let d := if (d.hiu.closed ∧ d.hiu.staging = []) ∨ t.programmed + entriesSize l = Config.pageData
    then d.pageAdvance else d
  d.hiuMove

/-- A flush completes with PROGRAM_FAIL (R118): the page is closed and advances at once, its bytes still pending. -/
def Dev.flushFail (d : Dev) : Dev := ((d.setHiu fun h => { h with closed := true }).flushEnds.pageAdvance).hiuMove

/-- HISTORY_FLUSH_DONE (R117, R118). -/
def execHistoryFlushDone (o : ProgramOutcome) (s : State) : Host.Outcome State Fault Refusal :=
  s.programDone .flush o fun ok d => match ok, d.hiu.target with
    | true, some t => d.flushOk t
    | _, _ => d.flushFail

/-! ### Settings -/

/-- SETTINGS_PROGRAM_DONE (R194). -/
def execSettingsProgramDone (o : ProgramOutcome) (s : State) : Host.Outcome State Fault Refusal :=
  s.programDone .save o fun ok d => d.saveDone ok

/-- The erase of zone 0 for a save completes (R194, R67). -/
def Dev.settingsErased (ok : Bool) (flash : Memory) (z : Zone) (d : Dev) : Dev :=
  if ok then (d.setSst fun x => { x with savePos := 0, busy := false }).sstServe
  else ((d.markDefect flash z).dropSaves).defectTest z

/-- SETTINGS_ZONE_ERASE_DONE (R194). -/
def execSettingsZoneEraseDone (o : EraseOutcome) (s : State) : Host.Outcome State Fault Refusal :=
  s.eraseDone .settingsErase o Dev.settingsErased

/-! ### Erases -/

/-- A reclaim erase completes (R86, R87). -/
def Dev.reclaimErased (ok : Bool) (flash : Memory) (z : Zone) (d : Dev) : Dev :=
  if ok then
    (d.setPlm fun m => { (m.setZonePages z .erased) with reclaim := .doneQueue z }).maintEntry (.reclaimDone z)
  else
    let d := d.markDefect flash z
    (d.setPlm fun m =>
      { ((m.setZonePages z .torn).setZone z ⟨.defective, Config.pagesPerZone, []⟩) with reclaim := .idle }).defectTest z

/-- RECLAIM_ERASE_DONE (R86, R87). -/
def execReclaimEraseDone (o : EraseOutcome) (s : State) : Host.Outcome State Fault Refusal :=
  s.eraseDone .reclaim o Dev.reclaimErased

/-- A state for the ring zone that ring preparation holds, which is then IDLE. -/
def Dev.prepEnds (d : Dev) (x : RingState) : Dev :=
  match d.hiu.prep with
  | some k => d.setHiu fun h =>
      { h with prep := none, ring := modify h.ring k fun z => { z with state := x, range := none } }
  | none => d

/-- A ring preparation erase completes (R121). -/
def Dev.ringErased (ok : Bool) (flash : Memory) (z : Zone) (d : Dev) : Dev :=
  if ok then (d.prepEnds .erased).awaitTest.prepTest
  else (((d.markDefect flash z).prepEnds .defective).defectTest z).awaitTest.haltTest.prepTest

/-- RING_ERASE_DONE (R121). -/
def execRingEraseDone (o : EraseOutcome) (s : State) : Host.Outcome State Fault Refusal :=
  s.eraseDone .ringPrep o Dev.ringErased

/-- The erase of the spare directory zone completes (R103). -/
def Dev.spareErased (ok : Bool) (flash : Memory) (z : Zone) (d : Dev) : Dev :=
  if ok then d.setDrm fun m => { m with spare := some .erased }
  else ((d.markDefect flash z).setDrm fun m => { m with spare := some .dirty }).defectTest z

/-- SPARE_ZONE_ERASE_DONE (R103). -/
def execSpareZoneEraseDone (o : EraseOutcome) (s : State) : Host.Outcome State Fault Refusal :=
  s.eraseDone .dirErase o Dev.spareErased

/-! ### Reads -/

/-- The port and the page of a RTU read in progress. -/
def Arc.rtuRead (a : Arc) : Option (Port × PageAddr) :=
  match a.op with
  | some ⟨.rtu p, .read page _ _ _ _⟩ => some (p, page)
  | _ => none

/-- The operation in progress ends. -/
def Dev.opEnds (d : Dev) : Dev := { d with arc := { d.arc with op := none } }

/-- A READ of a pool page completes for RTU (R184); one whose request a link reset discarded is answered to nobody. -/
def Dev.streamReadEnds (d : Dev) (flash : Memory) : Dev :=
  match d.arc.rtuRead with
  | some (p, page) =>
    if Config.firstPoolZone ≤ page.zone.val then
      match d.job p with
      | some ⟨.stream incident stream offset len more page, _, true⟩ =>
        (d.opEnds.streamDone flash p incident stream offset len more page).settle
      | _ => d.opEnds.settle
    else d
  | none => d

/-- STREAM_READ_DONE (R184). -/
def execStreamReadDone (s : State) : Host.Outcome State Fault Refusal := s.act (·.streamReadEnds s.flash)

/-- A READ of a ring page completes for RTU (R186). -/
def Dev.historyReadEnds (d : Dev) (flash : Memory) : Dev :=
  match d.arc.rtuRead with
  | some (p, page) =>
    if page.zone.val < Config.firstPoolZone then
      match d.job p with
      | some ⟨.history h, prior, true⟩ => (d.opEnds.historyDone flash p prior h).settle
      | _ => d.opEnds.settle
    else d
  | none => d

/-- HISTORY_READ_DONE (R186). -/
def execHistoryReadDone (s : State) : Host.Outcome State Fault Refusal := s.act (·.historyReadEnds s.flash)

/-- Whether the operation in progress is the Recovery Scanner's. -/
def Arc.scans (a : Arc) : Bool := a.op.any (·.who == .scanner)

/-- RECOVERY_READ_DONE (R144). -/
def execRecoveryReadDone (s : State) : Host.Outcome State Fault Refusal :=
  s.act fun d => if d.arc.scans then (d.opEnds.scanNext s.flash).settle else d

end Sys2Proof.Machine
end

