-- ==== Sys2Proof/Machine/Internal.lean ====
section
/-! DEFINITION. The meanings of the part's own moments: waiters served (R94, R95), release and close (R47, R15, R16), load
point, compaction and reclaim starts (R193, R99, R85). -/

namespace Sys2Proof.Machine

/-- Free places of the directory queue. -/
def Drm.places (m : Drm) : Nat := Config.queueDepth - m.queue.length

/-- The places that a waiter needs now; one at least is free when it is served (R95; log entry 25). -/
def Dev.waiterNeeds (d : Dev) : CapWaiter → Nat
  | .opening => if d.arc.storeFailed then 1 else max 1 d.openingWay.places
  | _ => 1

/-- What a waiter does with its place (R95). -/
def Dev.serveWaiter (d : Dev) : CapWaiter → Dev
  | .opening => match d.ict.opening with
    | some o => d.serveOpening o
    | none => d
  | .triggerAdd number cause tick => d.addSecondary number cause tick
  | .openStream p cls label declared => d.openStreamNow p cls label declared
  | .streamEnd i => match d.body i with
    | some b => match b.drained with
      | some e => (d.releaseSlot i b e).closeRun
      | none => d
    | none => d
  | .incidentClose => match d.keepable with
    | some (s, r) => (d.keep s r).closeRun
    | none => d
  | .recovery e => d.queueEntry e

/-- The waiter at the front, when places are free for it. -/
def Dev.waiterReady (d : Dev) : Option (CapWaiter × List CapWaiter) :=
  match d.drm.captureWaiters with
  | w :: rest => if d.waiterNeeds w ≤ d.drm.places then some (w, rest) else none
  | [] => none

/-- CAPTURE_WAITER_SERVED (R95). -/
def execCaptureWaiterServed (s : State) : Host.Outcome State Fault Refusal :=
  s.act fun d => match d.waiterReady with
    | some (w, rest) => ((d.setDrm fun m => { m with captureWaiters := rest }).serveWaiter w).settle
    | none => d

/-- MAINTENANCE_WAITER_ACCEPTED (R94). -/
def execMaintenanceWaiterAccepted (s : State) : Host.Outcome State Fault Refusal :=
  s.act fun d => match d.drm.maintWaiters with
    | e :: rest =>
      if d.drm.hasRoom then ((d.setDrm fun m => { m with maintWaiters := rest }).acceptMaint e).settle else d
    | [] => d

/-- Whether a slot is to be released and does not wait for it already. -/
def Dev.releasable (d : Dev) (i : StreamIdx) : Bool :=
  ((d.body i).bind (·.drained)).isSome && !d.drm.captureWaiters.contains (.streamEnd i)

/-- STREAM_RELEASE (R47). -/
def execStreamRelease (i : StreamIdx) (s : State) : Host.Outcome State Fault Refusal :=
  s.act fun d => if d.releasable i then (d.tryRelease i).settle else d

/-- Whether the CLOSING incident becomes KEPT and does not wait for it already. -/
def Dev.closable (d : Dev) : Bool := d.keepable.isSome && !d.drm.captureWaiters.contains .incidentClose

/-- INCIDENT_KEPT (R16). -/
def execIncidentKept (s : State) : Host.Outcome State Fault Refusal :=
  s.act fun d => if d.closable then d.tryKeep.closeRun.settle else d

/-- PASS_TO_CLOSING (R15): an incident that then holds no slot goes on to KEPT in the same step. -/
def execPassToClosing (s : State) : Host.Outcome State Fault Refusal :=
  s.act fun d => if d.passes.isSome then d.closeRun.settle else d

/-- LOAD_POINT (R193). -/
def execLoadPoint (s : State) : Host.Outcome State Fault Refusal :=
  s.act fun d => if d.loadReady then d.load.settle else d

/-- COMPACTION_START (R99, R100). -/
def execCompactionStart (s : State) : Host.Outcome State Fault Refusal :=
  s.act fun d => if d.compactionReady then d.startCompaction.settle else d

/-- RECLAIM_START (R85). -/
def execReclaimStart (s : State) : Host.Outcome State Fault Refusal :=
  s.act fun d => if d.reclaimReady then d.startReclaim.settle else d

/-! ### What is due at once -/

/-- Every deadline slot. -/
def Deadlines.all (t : Deadlines) : List (Option Tick) :=
  [t.window, t.limit, t.holdup, t.recharge, t.flush, t.locate] ++ t.filters.toList

/-- Whether a deadline has reached its tick (R160). -/
def Dev.expiryDue (d : Dev) : Bool := d.tmb.deadlines.all.any d.due

/-- Whether a moment of the part is due that passes no time: its command stands for it (log entry 1). -/
def Dev.momentDue (d : Dev) : Bool :=
  d.nextGrant.isSome || d.waiterReady.isSome || (!d.drm.maintWaiters.isEmpty && d.drm.hasRoom)
    || (List.finRange 16).any d.releasable || d.closable || d.passes.isSome || d.loadReady || d.compactionReady
    || d.reclaimReady
    || (d.arc.erase.any (·.phase == .running) && Config.eraseMinRun ≤ d.arc.runTimer && d.suspendWanted)

/-- The step on an empty queue (log entry 1): one tick passes (R157), unless the part has no power or something is due
at this tick. -/
def State.idle (s : State) : State :=
  if s.powered && !s.dev.expiryDue && !s.dev.momentDue then { s with dev := s.dev.tickOnce.sendTick } else s

end Sys2Proof.Machine
end

