-- ==== Sys2Proof/Machine/Dispatch.lean ====
section
/-! DEFINITION. The meaning of every command: one arm per constructor, each a direct call of its meaning. -/

namespace Sys2Proof.Machine

/-- The effect of a command on everything but the queue. -/
def exec (i : Instr) (s : State) : Host.Outcome State Fault Refusal :=
  match i with
  | .openStream port tag payload => Sys2Proof.Machine.execOpenStream port tag payload s
  | .append port tag payload => Sys2Proof.Machine.execAppend port tag payload s
  | .withdraw port tag payload => Sys2Proof.Machine.execWithdraw port tag payload s
  | .logEvent port tag payload => Sys2Proof.Machine.execLogEvent port tag payload s
  | .declare port tag payload => Sys2Proof.Machine.execDeclare port tag payload s
  | .getStatus port tag payload => Sys2Proof.Machine.execGetStatus port tag payload s
  | .nextNotice port tag payload => Sys2Proof.Machine.execNextNotice port tag payload s
  | .readParams port tag payload => Sys2Proof.Machine.execReadParams port tag payload s
  | .listIncidents port tag payload => Sys2Proof.Machine.execListIncidents port tag payload s
  | .readIncident port tag payload => Sys2Proof.Machine.execReadIncident port tag payload s
  | .readStream port tag payload => Sys2Proof.Machine.execReadStream port tag payload s
  | .readMore port tag payload => Sys2Proof.Machine.execReadMore port tag payload s
  | .readHistory port tag payload => Sys2Proof.Machine.execReadHistory port tag payload s
  | .release port tag payload => Sys2Proof.Machine.execRelease port tag payload s
  | .hold port tag payload => Sys2Proof.Machine.execHold port tag payload s
  | .unhold port tag payload => Sys2Proof.Machine.execUnhold port tag payload s
  | .locate port tag payload => Sys2Proof.Machine.execLocate port tag payload s
  | .setWalltime port tag payload => Sys2Proof.Machine.execSetWalltime port tag payload s
  | .getSettings port tag payload => Sys2Proof.Machine.execGetSettings port tag payload s
  | .putSettings port tag payload => Sys2Proof.Machine.execPutSettings port tag payload s
  | .saveSettings port tag payload => Sys2Proof.Machine.execSaveSettings port tag payload s
  | .unknownRequest port code tag payload => Sys2Proof.Machine.execUnknownRequest port code tag payload s
  | .frameError port frame => Sys2Proof.Machine.execFrameError port frame s
  | .overlapFrame port frame => Sys2Proof.Machine.execOverlapFrame port frame s
  | .fetch port count => Sys2Proof.Machine.execFetch port count s
  | .linkReset port => Sys2Proof.Machine.execLinkReset port s
  | .svcFrameGap => Sys2Proof.Machine.execSvcFrameGap s
  | .powerUp ma0 ma1 => Sys2Proof.Machine.execPowerUp ma0 ma1 s
  | .deviceReset ma0 ma1 => Sys2Proof.Machine.execDeviceReset ma0 ma1 s
  | .lineChange line asserted => Sys2Proof.Machine.execLineChange line asserted s
  | .filterExpiry line => Sys2Proof.Machine.execFilterExpiry line s
  | .captureWindowExpiry => Sys2Proof.Machine.execCaptureWindowExpiry s
  | .captureLimitExpiry => Sys2Proof.Machine.execCaptureLimitExpiry s
  | .holdupDeadlineExpiry => Sys2Proof.Machine.execHoldupDeadlineExpiry s
  | .rechargeExpiry => Sys2Proof.Machine.execRechargeExpiry s
  | .flushIntervalExpiry => Sys2Proof.Machine.execFlushIntervalExpiry s
  | .locateExpiry => Sys2Proof.Machine.execLocateExpiry s
  | .eraseRunTimer => Sys2Proof.Machine.execEraseRunTimer s
  | .eraseSuspended => Sys2Proof.Machine.execEraseSuspended s
  | .arbiterGrant => Sys2Proof.Machine.execArbiterGrant s
  | .commitProgramDone outcome => Sys2Proof.Machine.execCommitProgramDone outcome s
  | .voidMarkDone outcome => Sys2Proof.Machine.execVoidMarkDone outcome s
  | .journalProgramDone outcome => Sys2Proof.Machine.execJournalProgramDone outcome s
  | .imageProgramDone outcome => Sys2Proof.Machine.execImageProgramDone outcome s
  | .historyFlushDone outcome => Sys2Proof.Machine.execHistoryFlushDone outcome s
  | .settingsProgramDone outcome => Sys2Proof.Machine.execSettingsProgramDone outcome s
  | .reclaimEraseDone outcome => Sys2Proof.Machine.execReclaimEraseDone outcome s
  | .ringEraseDone outcome => Sys2Proof.Machine.execRingEraseDone outcome s
  | .spareZoneEraseDone outcome => Sys2Proof.Machine.execSpareZoneEraseDone outcome s
  | .settingsZoneEraseDone outcome => Sys2Proof.Machine.execSettingsZoneEraseDone outcome s
  | .streamReadDone => Sys2Proof.Machine.execStreamReadDone s
  | .historyReadDone => Sys2Proof.Machine.execHistoryReadDone s
  | .recoveryReadDone => Sys2Proof.Machine.execRecoveryReadDone s
  | .captureWaiterServed => Sys2Proof.Machine.execCaptureWaiterServed s
  | .maintenanceWaiterAccepted => Sys2Proof.Machine.execMaintenanceWaiterAccepted s
  | .streamRelease slot => Sys2Proof.Machine.execStreamRelease slot s
  | .incidentKept => Sys2Proof.Machine.execIncidentKept s
  | .passToClosing => Sys2Proof.Machine.execPassToClosing s
  | .loadPoint => Sys2Proof.Machine.execLoadPoint s
  | .compactionStart => Sys2Proof.Machine.execCompactionStart s
  | .reclaimStart => Sys2Proof.Machine.execReclaimStart s
  | .powerLoss => Sys2Proof.Machine.execPowerLoss s

end Sys2Proof.Machine
end

