-- ==== Sys2Proof/WellFormed.lean ====
section
/-! DEFINITION. Well-formed commands: those that a link, a line or a supply can deliver. A command that is not well
formed has a meaning all the same (log entries 2 and 29). -/

namespace Sys2Proof

/-- A payload that a frame can carry (R169). -/
def payloadFits (b : List Byte) : Bool := b.length ≤ Config.maxPayload

/-- Whether a command can be delivered. -/
def Instr.wellFormed : Instr → Bool
  | .openStream _ _ b | .append _ _ b | .withdraw _ _ b | .logEvent _ _ b | .declare _ _ b | .getStatus _ _ b
  | .nextNotice _ _ b | .readParams _ _ b | .listIncidents _ _ b | .readIncident _ _ b | .readStream _ _ b
  | .readMore _ _ b | .readHistory _ _ b | .release _ _ b | .hold _ _ b | .unhold _ _ b | .locate _ _ b
  | .setWalltime _ _ b | .getSettings _ _ b | .putSettings _ _ b | .saveSettings _ _ b => payloadFits b
  | .unknownRequest p c _ b =>
      payloadFits b && !Machine.knownCode c && !(Machine.Port.isSocket p && (c == 0x00 || c == 0xFF))
  | .frameError p f => !Machine.framePasses f && Machine.frameArrives p f
  | .overlapFrame p f => Machine.frameArrives p f
  | .fetch p _ => p != .svc
  | _ => true

end Sys2Proof
end

