-- ==== Sys2Proof/Safety.lean ====
section
/-! DEFINITION. What the statements speak of: a request that reaches its owner, a reply at a port, the canonical form of
the array's bytes, and the ranges of stored fields. -/

namespace Sys2Proof

open Machine

/-- Whether a command can end an erase, whole or cut short: the completions of erases, power-up, reset and power loss. -/
def Instr.endsErase : Instr → Bool
  | .reclaimEraseDone _ | .ringEraseDone _ | .spareZoneEraseDone _ | .settingsZoneEraseDone _ => true
  | .powerUp _ _ | .deviceReset _ _ | .powerLoss => true
  | _ => false

/-- Whether a command can end a PROGRAM, whole or cut short. -/
def Instr.endsProgram : Instr → Bool
  | .commitProgramDone _ | .voidMarkDone _ | .journalProgramDone _ | .imageProgramDone _ | .historyFlushDone _
  | .settingsProgramDone _ => true
  | .powerUp _ _ | .deviceReset _ _ | .powerLoss => true
  | _ => false

/-- The requester whose PROGRAM a command completes, and the outcome it carries. -/
def Instr.programEnd : Instr → Option (Requester × ProgramOutcome)
  | .commitProgramDone o => some (.commit, o)
  | .voidMarkDone o => some (.voidMark, o)
  | .journalProgramDone o => some (.journal, o)
  | .imageProgramDone o => some (.image, o)
  | .historyFlushDone o => some (.flush, o)
  | .settingsProgramDone o => some (.save, o)
  | _ => none

/-- The requester whose ERASE a command completes, and the outcome it carries. -/
def Instr.eraseEnd : Instr → Option (Requester × EraseOutcome)
  | .reclaimEraseDone o => some (.reclaim, o)
  | .ringEraseDone o => some (.ringPrep, o)
  | .spareZoneEraseDone o => some (.dirErase, o)
  | .settingsZoneEraseDone o => some (.settingsErase, o)
  | _ => none

end Sys2Proof

namespace Sys2Proof.Machine

/-! ### Requests -/

/-- The command that a request is. -/
def Request.instr (r : Request) (p : Port) (tag : Byte) (b : List Byte) : Instr :=
  match r with
  | .openStream => .openStream p tag b
  | .append => .append p tag b
  | .withdraw => .withdraw p tag b
  | .logEvent => .logEvent p tag b
  | .declare => .declare p tag b
  | .getStatus => .getStatus p tag b
  | .nextNotice => .nextNotice p tag b
  | .readParams => .readParams p tag b
  | .listIncidents => .listIncidents p tag b
  | .readIncident => .readIncident p tag b
  | .readStream => .readStream p tag b
  | .readMore => .readMore p tag b
  | .readHistory => .readHistory p tag b
  | .release => .release p tag b
  | .hold => .hold p tag b
  | .unhold => .unhold p tag b
  | .locate => .locate p tag b
  | .setWalltime => .setWalltime p tag b
  | .getSettings => .getSettings p tag b
  | .putSettings => .putSettings p tag b
  | .saveSettings => .saveSettings p tag b

/-- A part that has power, and a port that can take a frame of this payload (R169, R172). -/
def State.hears (s : State) (p : Port) (b : List Byte) : Prop :=
  s.powered = true ∧ s.dev.isOutstanding p = false ∧ b.length ≤ Config.maxPayload

/-- A request that reaches its owner: its port hears it and it passes every test of Table 10.3 (R171). -/
def State.reaches (s : State) (p : Port) (r : Request) (b : List Byte) : Prop :=
  s.hears p b ∧ judge s.dev p r b = none

/-- The bytes that a port's data output has sent last, once a frame with this payload has come in: FFH for each byte of
the frame on a socket port (R174). -/
def PortState.heard (x : PortState) (p : Port) (b : List Byte) : List Byte :=
  match p with
  | .mgt | .svc => x.sent
  | _ => List.replicate (6 + b.length) 0xFF

/-- The ports after a request of port `p` with this code and payload is answered in its own step: the port is READY with
the reply, on SVC with A5H on the line unless the line still sends another; the overlap count is 0 and the receive
buffer empty (R168, R169, R173, R176). -/
def Dev.answersAs (d : Dev) (p : Port) (b : List Byte) (code : Byte) (r : Reply) : Pif :=
  if p = .svc ∧ d.pif.svcOut = none then
    { (d.setPort p ⟨.ready code r.tag r, [], 0, [0xA5]⟩).pif with svcOut := some ⟨r.frame, 0, true⟩ }
  else { (d.setPort p ⟨.ready code r.tag r, [], 0, (d.port p).heard p b⟩).pif with svcOut := d.lineAfter p }

/-- The ports after a request of port `p` is answered in its own step, by a reply that carries the request's code. -/
def Dev.answers (d : Dev) (p : Port) (b : List Byte) (r : Reply) : Pif := d.answersAs p b r.code r

/-- The ports after a request of port `p` is taken and left to wait. -/
def Dev.waitsFor (d : Dev) (p : Port) (b : List Byte) (code tag : Byte) : Pif :=
  { (d.setPort p ⟨.outstanding code tag, [], 0, (d.port p).heard p b⟩).pif with svcOut := d.lineAfter p }

/-- The reply to a request. -/
def Request.says (r : Request) (tag : Byte) (status : Status) (flags : Byte) (body : ReplyBody) : Reply :=
  ⟨r.code, tag, status, flags, body⟩

/-! ### What a command leaves unchanged -/

/-- The blocks of Table 1.1 that hold volatile state. -/
inductive Part where
  | pif | rqd | tru | ict | cpm | stb | cme | plm | arc | drm | hiu | hum | tmb | ntu | rtu | sst | rcs
  deriving DecidableEq, Repr

/-- The two states of the part agree on a block. -/
def Part.agrees (d e : Dev) : Part → Prop
  | .pif => e.pif = d.pif
  | .rqd => e.rqd = d.rqd
  | .tru => e.tru = d.tru
  | .ict => e.ict = d.ict
  | .cpm => e.cpm = d.cpm
  | .stb => e.stb = d.stb
  | .cme => e.cme = d.cme
  | .plm => e.plm = d.plm
  | .arc => e.arc = d.arc
  | .drm => e.drm = d.drm
  | .hiu => e.hiu = d.hiu
  | .hum => e.hum = d.hum
  | .tmb => e.tmb = d.tmb
  | .ntu => e.ntu = d.ntu
  | .rtu => e.rtu = d.rtu
  | .sst => e.sst = d.sst
  | .rcs => e.rcs = d.rcs

/-- Every block but those named is unchanged. -/
def Dev.keepsAllBut (bs : List Part) (d e : Dev) : Prop := ∀ b, b ∉ bs → b.agrees d e

/-- `e` is `d` but for what follows every change the part takes (log entry 8): the states of the two writers, the
arbiter's waiting set, the phase and run timer of the erase, and the pattern of IND. -/
def Dev.settlesTo (d e : Dev) : Prop :=
  e = { d with
    drm := { d.drm with writer := e.drm.writer }
    hiu := { d.hiu with writer := e.hiu.writer }
    arc := { d.arc with waiting := e.arc.waiting, erase := e.arc.erase, runTimer := e.arc.runTimer }
    ntu := { d.ntu with ind := e.ntu.ind, indTicks := e.ntu.indTicks } }

/-- `e` is `d` but for the history and what an entry taken into it can move besides: the notices of HIU, the flush
interval deadline, and what follows every change (`Dev.settlesTo`). -/
def Dev.logsTo (d e : Dev) : Prop :=
  e = { d with
    hiu := e.hiu
    ntu := e.ntu
    tmb := { d.tmb with deadlines := { d.tmb.deadlines with flush := e.tmb.deadlines.flush } }
    drm := { d.drm with writer := e.drm.writer }
    arc := { d.arc with waiting := e.arc.waiting, erase := e.arc.erase, runTimer := e.arc.runTimer } }

/-- The state with a port's request answered and nothing else changed. -/
def State.onlyAnswers (s : State) (p : Port) (b : List Byte) (r : Reply) : State :=
  { s with dev := { s.dev with pif := s.dev.answers p b r } }

/-- A READ_STREAM that names a stream and an offset, or a READ_MORE whose cursor does (R184). -/
def State.asksStream (s : State) (p : Port) (r : Request) (b : List Byte) (incident stream offset : Nat) : Prop :=
  (r = .readStream ∧ incident = field b 0 4 ∧ stream = byte b 4 ∧ offset = field b 5 4)
    ∨ (r = .readMore ∧ s.dev.cursor p = .stream incident stream offset false)

/-- The entries of the history that are taken and not yet programmed, oldest first (R109, R115). -/
def Hiu.unflushed (h : Hiu) : List HEntry := h.staging ++ h.intake

/-- A ring zone that R122 counts: usable, and with an empty pin set. -/
def RingZone.spare (z : RingZone) : Bool := z.state != .defective && z.pins.isEmpty

/-- History that is not halted has 2 usable ring zones without pins at least (R122). -/
def Hiu.haltFlagged (h : Hiu) : Prop := h.halted = false → 2 ≤ h.unpinnedZones

/-- The offer of an entry to the history (R109, R110): it stands among the entries not yet programmed with the next
sequence number and the present tick, or it is lost and counted. -/
def Dev.offers (d e : Dev) (body : HBody) (severity : Nat) (source : Source) (code : Nat) : Prop :=
  if d.hiu.canTake then ⟨body, severity, source, code, d.hiu.nextSeq, d.tmb.tick⟩ ∈ e.hiu.unflushed
  else e.hiu.lost = bump 65535 d.hiu.lost

/-- The first event that a step offers (R109, R110, R114): it stands among the entries not yet programmed with the next
sequence number and the present tick, or it is lost and HISTORY_LOST stands in both notice sets. -/
def Dev.records (d e : Dev) (body : HBody) (severity code : Nat) : Prop :=
  (d.hiu.canTake = true →
      (⟨body, severity, .internal, code, d.hiu.nextSeq, d.tmb.tick⟩ : HEntry) ∈ e.hiu.unflushed)
    ∧ (d.hiu.canTake = false → ∀ l ∈ [e.ntu.management, e.ntu.service], ∃ n ∈ l, n.cause = .historyLost)

/-- Each notice set stands in priority order, so it holds at most one notice of each cause (R162, R163). -/
def Dev.noticesOrdered (d : Dev) : Prop :=
  ∀ l ∈ [d.ntu.management, d.ntu.service],
    l.Pairwise fun x y => NoticeCause.code x.cause < NoticeCause.code y.cause

/-! ### Streams that end -/

/-- A stream that has the pending end kind `k` holds no fill block any more and is released as soon as it holds no
block: it keeps its slot, or it is gone and its STREAM_END is queued (R32, R47). -/
def Dev.takesEnd (e : Dev) (i : StreamIdx) (x : StreamBody) (k : PendingEnd) : Prop :=
  (∃ n, e.body i = some { x with ending := some k, fill := none, queued := n })
    ∨ (e.body i = none
      ∧ JEntry.streamEnd x.incident x.stream k.kind k.reason x.short x.accepted x.committed x.pages ∈ e.drm.queue)

/-- An OPEN stream ends with its blocks kept: its fill block stands on the commit queue; without one it keeps its queued
blocks; with neither it is released with STREAM_END, or waits for a place in the directory queue (R32, R47, R95). -/
def Dev.endsBy (e : Dev) (i : StreamIdx) (x : StreamBody) (k : PendingEnd) : Prop :=
  (∀ f, x.fill = some f → f ∈ e.stb.queue
      ∧ e.body i = some { x with ending := some k, fill := none, queued := x.queued + 1 })
    ∧ (x.fill = none → x.queued ≠ 0 → e.body i = some { x with ending := some k })
    ∧ (x.fill = none → x.queued = 0 →
        (e.body i = some { x with ending := some k } ∧ CapWaiter.streamEnd i ∈ e.drm.captureWaiters)
          ∨ (e.body i = none ∧ JEntry.streamEnd x.incident x.stream k.kind k.reason x.short x.accepted x.committed
              x.pages ∈ e.drm.queue))

/-- The counts that the record of a stream takes from its slot (R25). -/
def StreamBody.counted (x : StreamBody) (v : StreamRec) : StreamRec :=
  { v with accepted := x.accepted, committed := x.committed, pages := x.pages }

/-- What the record of a stream takes at the queueing of its STREAM_END: the pending end kind and reason, the short flag
and the final counts (R25, R47). -/
def StreamBody.closed (x : StreamBody) (k : PendingEnd) (v : StreamRec) : StreamRec :=
  { x.counted v with endKind := k.kind, reason := k.reason, short := x.short }

/-- From `d` to `e` the directory's record of the stream of a slot is rewritten by `f`, and every other stream record of
its incident stands as it was (R25). -/
def Dev.recordTakes (d e : Dev) (x : StreamBody) (f : StreamRec → StreamRec) : Prop :=
  ∀ (k : DirSlot) (r : Incident), d.drm.slotOf x.incident = some k → d.drm.dir[k] = some r →
    ∃ r', e.drm.dir[k] = some r' ∧ r'.number = r.number
      ∧ r'.streams = r.streams.map fun v => if v.number = x.stream then f v else v

/-- CME is at work, or the commit queue is empty and every fill block is its own slot's: no block of another stream is
taken or cut when a stream ends. -/
def Dev.commitQuiet (d : Dev) : Prop :=
  d.cme.state ≠ .idle
    ∨ (d.stb.queue = [] ∧ ∀ (i : StreamIdx) (x : StreamBody) (f : Block), d.body i = some x → x.fill = some f → f.slot = i)

/-- What a STREAM_CUT event carries (R46, Table 6.3). -/
def cutBody (x : StreamBody) (r : Reason) : HBody :=
  f1 (leBytes 4 x.incident ++ leBytes 1 x.stream ++ leBytes 1 (Reason.code r))

/-- A cut is reported (R46): its STREAM_CUT event stands among the entries not yet programmed, or is lost with
HISTORY_LOST in both sets, and STREAM_CUT stands in both notice sets. -/
def Dev.reportsCut (e : Dev) (x : StreamBody) (r : Reason) : Prop :=
  ((∃ y ∈ e.hiu.unflushed, y.body = cutBody x r ∧ y.severity = 2 ∧ y.source = .internal ∧ y.code = 0x0005)
      ∨ ∀ l ∈ [e.ntu.management, e.ntu.service], ∃ n ∈ l, n.cause = .historyLost)
    ∧ ∀ l ∈ [e.ntu.management, e.ntu.service], ∃ n ∈ l, n.cause = .streamCut

/-- The cut of R44 and R45: an OPEN or ENDED stream is TRUNCATED with the reason and another keeps its end kind, no
block of it is filling or queued any more, and the cut is reported, as the first event of the step. -/
def Dev.cutsFor (d e : Dev) (i : StreamIdx) (x : StreamBody) (r : Reason) : Prop :=
  e.takesEnd i x (match x.ending with
      | none | some .ended => .truncated r
      | some k => k)
    ∧ (∀ f ∈ e.stb.queue, f.slot ≠ i) ∧ e.reportsCut x r ∧ d.records e (cutBody x r) 2 0x0005

/-! ### The array -/

/-- The array's bytes stand in their canonical form. -/
def State.flashCanonical (s : State) : Prop := s.flash.wf

/-- What a PROGRAM of bytes at an address asks of a byte: FFH where it names none. -/
def requested (a : Nat) (bs : List Byte) (x : Nat) : Byte := if a ≤ x then bs.getD (x - a) erasedByte else erasedByte

/-- What a PROGRAM of two ranges of a page asks of a byte. -/
def Job.requested : Job → Nat → Byte
  | .program p a data b spare, x =>
      Machine.requested (p.base + a) data x &&& Machine.requested (p.spareBase + b) spare x
  | _, _ => erasedByte

/-- The PROGRAM in progress, if any, names the byte at an address. -/
def Job.covers : Job → Nat → Bool
  | .program p a data b spare, x =>
      (p.base + a ≤ x && x < p.base + a + data.length)
        || (p.spareBase + b ≤ x && x < p.spareBase + b + spare.length)
  | _, _ => false

/-- Whether the PROGRAM in progress names a byte. -/
def State.underProgram (s : State) (x : Nat) : Bool := s.dev.arc.op.any fun r => r.job.covers x

/-- Whether a byte belongs to the zone of the erase. -/
def State.underErase (s : State) (x : Nat) : Bool :=
  s.dev.arc.erase.any fun e => zoneBase e.zone ≤ x && x < zoneBase e.zone + zoneBytes

/-- Every staging block, filling, queued or under program, holds at most 1024 bytes (R30). -/
def Dev.blocksFit (d : Dev) : Prop :=
  (∀ (i : StreamIdx) (x : StreamBody) (f : Block), d.body i = some x → x.fill = some f →
      f.data.length ≤ Config.blockSize)
    ∧ (∀ f ∈ d.stb.queue, f.data.length ≤ Config.blockSize)
    ∧ ∀ f, d.cme.block = some f → f.data.length ≤ Config.blockSize

/-- The numbers of the staging blocks in the four places of R30: free, filling, queued, under program. -/
def Dev.blockIds (d : Dev) : List Nat :=
  d.stb.free ++ ((List.finRange 16).filterMap fun i => ((d.body i).bind (·.fill)).map (·.id))
    ++ d.stb.queue.map (·.id) ++ (d.cme.block.map (·.id)).toList

/-- Each of the 64 staging blocks is in exactly one of its four places (R30); CME holds no block while it is idle or
without a page (R70). -/
def Dev.blocksPlaced (d : Dev) : Prop :=
  d.blockIds.Perm (List.range 64) ∧ (d.cme.state = .idle ∨ d.cme.page = none → d.cme.block = none)

/-! ### Ranges of stored fields -/

/-- A 32-bit number. -/
abbrev fits32 (n : Nat) : Prop := n < 2 ^ 32

/-- A stream record that STREAM_SUMMARY can carry (Table 13.10). -/
def StreamRec.storable (r : StreamRec) : Prop :=
  r.number < 256 ∧ r.cls < 256 ∧ (∀ n, r.declared = some n → fits32 n) ∧ fits32 r.accepted ∧ fits32 r.committed
    ∧ r.pages < 65536

/-- An incident record that INCIDENT_SUMMARY can carry (Table 13.9: cause 0 marks an unused secondary record). -/
def Incident.storable (r : Incident) : Prop :=
  fits32 r.number ∧ fits32 r.epoch ∧ r.secondary.length ≤ 4 ∧ r.overflow < 256 ∧ r.streams = []
    ∧ fits32 r.windowFirst ∧ fits32 r.windowLast ∧ ∀ e ∈ r.secondary, e.1 ≠ .none

/-- Whether the layout of an entry's kind holds its fields (Tables 13.8 to 13.10). -/
def JEntry.storable : JEntry → Prop
  | .incidentOpen slot number ep _ first last _ =>
      slot < 256 ∧ fits32 number ∧ fits32 ep ∧ fits32 first ∧ fits32 last
  | .triggerAdd number _ _ => fits32 number
  | .streamOpen number stream _ cls _ declared =>
      fits32 number ∧ stream < 256 ∧ cls < 256 ∧ ∀ n, declared = some n → fits32 n
  | .streamEnd number stream _ _ _ accepted committed pages =>
      fits32 number ∧ stream < 256 ∧ fits32 accepted ∧ fits32 committed ∧ pages < 65536
  | .incidentClose number _ overflow => fits32 number ∧ overflow < 256
  | .retrieved number | .holdSet number | .holdClear number | .release number => fits32 number
  | .reclaimStart _ | .reclaimDone _ | .zoneDefect _ => True
  | .epoch ep => fits32 ep
  | .compactHead generation ep next => fits32 generation ∧ fits32 ep ∧ next < 2 ^ 64
  | .incidentSummary slot record streams => slot < 32 ∧ record.storable ∧ streams < 16
  | .streamSummary number record => fits32 number ∧ record.storable
  | .compactTail generation count => fits32 generation ∧ count < 65536

/-- Whether the layout of a page header holds its fields (Table 13.7). -/
def Header.storable (h : Header) : Prop :=
  h.kind < 255 ∧ fits32 h.epoch ∧ fits32 h.incident ∧ h.stream < 256 ∧ h.seq < 65536 ∧ h.fill < 65536
    ∧ fits32 h.firstSeq

/-- Whether the layout of a settings record holds its fields (Table 12.1). -/
def Settings.storable (s : Settings) : Prop :=
  s.window < 65536 ∧ fits32 s.limit ∧ s.historyWindow < 65536 ∧ s.flushInterval < 65536 ∧ s.credits < 65536
    ∧ s.reserve < 256 ∧ s.holdupDeadline < 65536 ∧ s.recharge < 65536 ∧ s.powerTrigger < 256
    ∧ (∀ i : Fin 6, s.filters[i] < 65536) ∧ s.class0Reserve < 256 ∧ s.rollOldest < 256 ∧ s.poolLow < 256

end Sys2Proof.Machine
end

