-- ==== Sys2Proof/Certificates/Slice0/Obligations.lean ====
section
/-! DEFINITION. The statements for the provers. A statement about a command says what next state `exec` answers for
every state and operands that meet its hypotheses; `State.reaches` says that a request passes the tests of Table 10.3,
and `Dev.settle` is what follows every change the part takes (log entry 8; what it can do is `Obligations.
SettlingMovesWritersArbiterAndIndicator`). -/

open Sys2Proof Sys2Proof.Machine

/-! ### The machine -/

/-- A step takes the command at the front of the queue and runs it with the queue's rest. -/
def Obligations.StepRunsTheFrontCommand : Prop :=
  ∀ (c : Instr) (rest : List Instr) (s : State),
    step { s with pending := c :: rest } = exec c { s with pending := rest }

/-- Every command is answered with a next state, and none touches the queue of commands. A part without power keeps
its whole state at every command but POWER_UP, and at a LINE_CHANGE all of it but the input's level (R141, R142). That
a command whose event cannot occur changes nothing, and the bit that says whether the part has power, are the model's
choices (log entries 2 and 11). -/
def Obligations.EveryCommandIsAnswered : Prop :=
  (∀ (c : Instr) (s : State), ∃ t, exec c s = .next t ∧ t.pending = s.pending)
  ∧ (∀ (c : Instr) (s : State), s.powered = false → (∀ a b, c ≠ .powerUp a b) →
       (∃ l x, c = .lineChange l x
         ∧ exec c s = .next { s with dev := { s.dev with
             tru := { s.dev.tru with levels := put s.dev.tru.levels (Line.idx l) x } } })
       ∨ exec c s = .next s)

/-- On an empty queue one microsecond passes in a part that runs and has nothing due: the tick counter, the counts of
the wall clock and of the pattern that IND shows, and the run timer of a RUNNING erase advance, and SVC's line goes
on: a byte on it for the time of ten bits at 115,200 baud (3125/36 microseconds) is followed by the next, and after
the last one a reply that has waited for the line begins with A5H, its port still READY. The byte behind A5H is the
reply's first, its code: with it the reply counts as fetched and the port becomes EMPTY, unless a frame has taken the
reply's place in the port since. Nothing else changes; where the part does not run
or something is due, nothing changes (R157, R159, R165, R60, R176; the model's choices of what an empty queue does, of
how SVC's line is timed and of the count that measures a pattern, log entries 1, 9 and 43). -/
def Obligations.TimePassesOnAnEmptyQueue : Prop :=
  ∀ s : State, s.pending = [] →
    (s.powered = true → s.dev.expiryDue = false → s.dev.momentDue = false →
      let becomes (pif : Pif) : Prop := step s = .next { s with dev := { s.dev with
        pif := pif
        tmb := { s.dev.tmb with
          tick := s.dev.tmb.tick + 1
          wall := s.dev.tmb.wall.map fun w => { w with passed := w.passed + 1 } }
        arc := { s.dev.arc with
          runTimer := if s.dev.arc.erase.any (·.phase == .running) then s.dev.arc.runTimer + 1
            else s.dev.arc.runTimer }
        ntu := { s.dev.ntu with indTicks := s.dev.ntu.indTicks + 1 } } }
      (s.dev.pif.svcOut = none → becomes s.dev.pif)
      ∧ (∀ rest phase kept, s.dev.pif.svcOut = some ⟨rest, phase, kept⟩ →
          (phase + 36 < 3125 → becomes { s.dev.pif with svcOut := some ⟨rest, phase + 36, kept⟩ })
          ∧ (∀ x l, 3125 ≤ phase + 36 → rest = x :: l → becomes
              { (s.dev.setPort .svc { s.dev.port .svc with
                  exchange := if kept then .empty else (s.dev.port .svc).exchange
                  sent := (s.dev.port .svc).sent ++ [x] }).pif with
                svcOut := some ⟨l, phase + 36 - 3125, false⟩ })
          ∧ (3125 ≤ phase + 36 → rest = [] →
              (∀ code tag r, (s.dev.port .svc).exchange = .ready code tag r → becomes
                { (s.dev.setPort .svc { s.dev.port .svc with sent := [0xA5] }).pif with
                  svcOut := some ⟨r.frame, 0, true⟩ })
              ∧ ((∀ code tag r, (s.dev.port .svc).exchange ≠ .ready code tag r) →
                  becomes { s.dev.pif with svcOut := none }))))
    ∧ ((s.powered = false ∨ s.dev.expiryDue = true ∨ s.dev.momentDue = true) → step s = .next s)

/-- The state after power-up with every input DEASSERTED and the straps low (R142 and the reset values of the
chapters). The straps, the inputs and the blank array are the model's choice (log entry 5), and so is the empty list
of bytes that a port has sent (log entry 24). -/
def Obligations.ResetState : Prop :=
  State.reset.pending = [] ∧ State.reset.powered = true ∧ State.reset.flash = []
    ∧ State.reset.dev.hum.mode = .start ∧ State.reset.dev.hum.closing = none
    ∧ State.reset.dev.tmb.tick = 0 ∧ State.reset.dev.tmb.wall = none
    ∧ (∀ x ∈ State.reset.dev.tmb.deadlines.all, x = none)
    ∧ (∀ p, State.reset.dev.port p = ⟨.empty, [], 0, []⟩ ∧ State.reset.dev.cursor p = .empty
        ∧ State.reset.dev.job p = none)
    ∧ State.reset.dev.pif.svcHunting = true ∧ State.reset.dev.pif.svcOut = none
    ∧ (∀ i, State.reset.dev.body i = none) ∧ State.reset.dev.stb.free.length = 64 ∧ State.reset.dev.stb.queue = []
    ∧ (∀ i : DirSlot, State.reset.dev.drm.dir[i] = none) ∧ State.reset.dev.drm.queue = []
    ∧ State.reset.dev.ict.recording = none ∧ State.reset.dev.ict.closing = none
    ∧ State.reset.dev.ict.opening = none ∧ State.reset.dev.ict.attn = Vector.replicate 4 false
    ∧ (∀ i : Fin 6, State.reset.dev.tru.qualified[i] = false)
    ∧ (∀ i : Fin 5, State.reset.dev.tru.latches[i] = none)
    ∧ State.reset.dev.hiu.intake = [] ∧ State.reset.dev.hiu.staging = [] ∧ State.reset.dev.hiu.lost = 0
    ∧ State.reset.dev.arc.defects = [] ∧ State.reset.dev.arc.storeFailed = false
    ∧ State.reset.dev.arc.op = none ∧ State.reset.dev.arc.erase = none
    ∧ State.reset.dev.arc.waiting = [⟨.scanner, .read ⟨0, 0⟩ 0 1024 0 64⟩]
    ∧ State.reset.dev.ntu.management = [] ∧ State.reset.dev.ntu.service = [] ∧ State.reset.dev.ntu.ind = .dark
    ∧ State.reset.dev.plm.freeZones = 237 ∧ State.reset.dev.drm.epoch = 0
    ∧ State.reset.dev.sst.working = Settings.defaults ∧ State.reset.dev.sst.saves = []

/-- What `settle` does. It moves the states of the two writers, the arbiter's waiting set (to which it only adds
requests of the journal, the image and the flush), the phase and run timer of the erase, and the pattern of IND, and
nothing else. The directory writer at rest asks for the next image page of a compaction, else for the batch at the
head of the queue, and HIU's writer at rest for the flush of the pending bytes, exactly when the rules let them (R96,
R99, R101, R117); the batch waits where the entries of recovery wait for a compaction (R156). A RUNNING erase that has
run 1 ms gives way, and a SUSPENDED one resumes with its run timer at 0, exactly when R60 and R61 say so. IND takes
the first pattern of Table 9.3 whose condition holds, from the start of its lit part where it is a new one, and runs
on without a break where it is the same; it is lit as the table's drive says of the ticks since the pattern began
(R165). Choices of the model: when `settle` runs (log entry 8), the count of those ticks (log entry 43), and that the
wait of R156 comes before R96 and ends under STORE_FAILED (log entry 49). -/
def Obligations.SettlingMovesWritersArbiterAndIndicator : Prop :=
  (∀ d : Dev, d.settlesTo d.settle
    ∧ (∃ l, d.settle.arc.waiting = d.arc.waiting ++ l ∧ ∀ r ∈ l, r.who = .journal ∨ r.who = .image ∨ r.who = .flush))
  ∧ (∀ d : Dev,
      let m := d.drm
      let asks : Prop := d.hum.mode ≠ .start ∧ m.writer = .idle ∧ d.compactionReady = false
      let batch : Prop := m.copy = none ∧ m.journalOpen = true ∧ m.queue ≠ [] ∧ m.absorbed = [] ∧ m.pos < 512
        ∧ (m.recoveryHeld = false ∨ d.arc.storeFailed = true)
      (∀ c, asks → m.copy = some c → d.settle.drm.writer = .waitGrant
        ∧ ArrReq.mk .image (.program (slotPage m.spareZone m.imagePos) 0
            (((c.image.drop m.imagePos).take 16).flatMap JEntry.bytes) 0
            ({ kind := kindDirectory, epoch := m.epoch } : Header).bytes) ∈ d.settle.arc.waiting)
      ∧ (∀ z, asks → batch → m.active = some z → d.settle.drm.writer = .waitGrant
          ∧ ArrReq.mk .journal (.program ⟨z, Fin.ofNat 32 (m.pos / 16)⟩ (64 * (m.pos % 16))
              ((m.queue.take (16 - m.pos % 16)).flatMap JEntry.bytes) 0
              (if m.pos % 16 = 0 then ({ kind := kindDirectory, epoch := m.epoch } : Header).bytes else []))
            ∈ d.settle.arc.waiting)
      ∧ ((¬asks ∨ (m.copy = none ∧ (¬batch ∨ m.active = none))) → d.settle.drm = m
          ∧ ∀ r ∈ d.settle.arc.waiting, r.who = .journal ∨ r.who = .image → r ∈ d.arc.waiting))
  ∧ (∀ d : Dev,
      let h := d.hiu
      let due : Prop := d.hum.mode ≠ .start ∧ h.writer = .idle ∧ h.staging ≠ []
        ∧ (512 ≤ entriesSize h.staging ∨ (∃ n, h.mark = some n ∧ ∃ x ∈ h.staging, x.seq ≤ n) ∨ h.closed = true)
      (∀ t, due → h.target = some t → d.settle.hiu.writer = .waitGrant
        ∧ ArrReq.mk .flush (d.flushJob t) ∈ d.settle.arc.waiting
        ∧ ∃ header, d.flushJob t
            = .program ⟨ringZone t.zone, t.page⟩ t.programmed (h.staging.flatMap HEntry.bytes) 0 header
          ∧ (t.programmed ≠ 0 → header = [])
          ∧ (∀ x l, t.programmed = 0 → h.staging = x :: l →
              header = ({ kind := kindHistory, epoch := d.drm.epoch, firstSeq := x.seq } : Header).bytes))
      ∧ ((¬due ∨ h.target = none) → d.settle.hiu = h
          ∧ ∀ r ∈ d.settle.arc.waiting, r.who = .flush → r ∈ d.arc.waiting))
  ∧ (∀ (d : Dev) (z : Zone) (who : Requester),
      let ready : Prop := ∃ r ∈ d.settle.arc.waiting, r.job.isErase = false ∧ d.grantable r = true
      (d.arc.erase = some ⟨.running, z, who⟩ →
        (1000 ≤ d.arc.runTimer → (ready ∨ d.hum.mode = .holdup ∨ d.hum.mode = .exhausted) →
          d.settle.arc.erase = some ⟨.suspending, z, who⟩)
        ∧ ((d.arc.runTimer < 1000 ∨ ¬(ready ∨ d.hum.mode = .holdup ∨ d.hum.mode = .exhausted)) →
          d.settle.arc.erase = d.arc.erase ∧ d.settle.arc.runTimer = d.arc.runTimer))
      ∧ (d.arc.erase = some ⟨.suspended, z, who⟩ →
          let resumes : Prop := d.arc.op = none ∧ ¬ready ∧ d.hum.mode = .normal ∧ d.arc.storeFailed = false
          (resumes → d.settle.arc.erase = some ⟨.running, z, who⟩ ∧ d.settle.arc.runTimer = 0)
          ∧ (¬resumes → d.settle.arc.erase = d.arc.erase ∧ d.settle.arc.runTimer = d.arc.runTimer)))
  ∧ (∀ d : Dev,
      let shows (p : IndPattern) : Prop := d.settle.ntu.ind = p
        ∧ d.settle.ntu.indTicks = if d.ntu.ind = p then d.ntu.indTicks else 0
      let locating : Prop := d.tmb.deadlines.locate ≠ none
      let taken : Prop := ∃ x ∈ d.drm.records, x.state ≠ .kept
      let unread : Prop := ∃ x ∈ d.drm.records, x.retrieved = false
      (locating → shows .locate)
      ∧ (¬locating → d.arc.storeFailed = true → shows .steady)
      ∧ (¬locating → d.arc.storeFailed = false → taken → shows .fast)
      ∧ (¬locating → d.arc.storeFailed = false → ¬taken → unread → shows .slow)
      ∧ (¬locating → d.arc.storeFailed = false → ¬taken → ¬unread → shows .dark))
  ∧ (∀ d : Dev,
      let n := d.ntu.indTicks
      (d.ntu.ind = .locate → (d.indLit = true ↔
        n % 1000000 < 100000 ∨ (200000 ≤ n % 1000000 ∧ n % 1000000 < 300000)))
      ∧ (d.ntu.ind = .steady → d.indLit = true)
      ∧ (d.ntu.ind = .fast → (d.indLit = true ↔ n % 250000 < 125000))
      ∧ (d.ntu.ind = .slow → (d.indLit = true ↔ n % 2000000 < 1000000))
      ∧ (d.ntu.ind = .dark → d.indLit = false))

/-! ### The array -/

/-- After reset the array's bytes stand in their canonical form, no staging block holds more than 1024 bytes, each of
the 64 blocks is in one of its four places, both notice sets stand in priority order, and history that is not halted
has 2 usable ring zones unpinned at least. The blank array is the model's choice (log entry 5). -/
def Obligations.InvariantsHoldAfterReset : Prop :=
  (State.reset.flashCanonical)
  ∧ (State.reset.dev.blocksFit)
  ∧ (State.reset.dev.blocksPlaced)
  ∧ (State.reset.dev.noticesOrdered)
  ∧ (State.reset.dev.hiu.haltFlagged)

/-- Every step keeps the canonical form of the array's bytes. -/
def Obligations.EveryStepKeepsFlashCanonical : Prop :=
  ∀ s t : State, s.flashCanonical → step s = .next t → t.flashCanonical

/-- No operation but an erase changes a bit of the array from zero to one. A command changes a byte of the array only
where it ends a PROGRAM that names the byte, or an erase of the byte's zone (R49, R57, R58, R69). -/
def Obligations.TheArrayChangesWhereItIsTold : Prop :=
  (∀ (c : Instr) (s t : State), exec c s = .next t → (c.endsErase = false ∨ s.dev.arc.erase = none) →
     ∀ x, t.flash.read x &&& s.flash.read x = t.flash.read x)
  ∧ (∀ (c : Instr) (s t : State), exec c s = .next t →
       ∀ x, (c.endsProgram = false ∨ s.underProgram x = false) → (c.endsErase = false ∨ s.underErase x = false) →
         t.flash.read x = s.flash.read x)

/-- The six completions of a PROGRAM and the four of an ERASE complete. A PROGRAM with OK stores the bits that are
zero in either the old or the new value, whether or not the verify then agrees; otherwise a bit that was to be zero
may be either, and every other bit is as it was. An ERASE with OK leaves every byte of the zone at FFH; in either case
every byte outside the zone is as it was (R49, R57, R58; the outcome is the command's, log entry 4). What a failed
operation leaves undetermined is a free value (log entry 3). -/
def Obligations.OperationsEnd : Prop :=
  (∀ (c : Instr) (who : Requester) (o : ProgramOutcome) (s : State) (p : PageAddr) (a : Nat) (data : List Byte)
     (b : Nat) (spare : List Byte), c.programEnd = some (who, o) → s.powered = true →
     s.dev.arc.op = some ⟨who, .program p a data b spare⟩ →
     ∃ t, exec c s = .next t ∧ t.dev.arc.op = none ∧ t.powered = true
       ∧ (o = .ok →
           ∀ x, t.flash.read x = s.flash.read x &&& (Job.program p a data b spare).requested x)
       ∧ (∀ x, t.flash.read x &&& s.flash.read x = t.flash.read x)
       ∧ (∀ x, s.flash.read x &&& (Job.program p a data b spare).requested x
           = t.flash.read x &&& (s.flash.read x &&& (Job.program p a data b spare).requested x)))
  ∧ (∀ (c : Instr) (who : Requester) (o : EraseOutcome) (s : State) (phase : ErasePhase) (z : Zone),
       c.eraseEnd = some (who, o) → s.powered = true → s.dev.arc.erase = some ⟨phase, z, who⟩ → phase ≠ .suspended →
       ∃ t, exec c s = .next t ∧ t.dev.arc.erase = none ∧ t.powered = true
         ∧ (o = .ok → ∀ x, zoneBase z ≤ x → x < zoneBase z + 34816 → t.flash.read x = 0xFF)
         ∧ (∀ x, (x < zoneBase z ∨ zoneBase z + 34816 ≤ x) → t.flash.read x = s.flash.read x))

/-- POWER_LOSS, POWER_UP and DEVICE_RESET cut every operation of the array short: outside the erase's zone no bit is
set, a bit that was to stay one is as it was, and in the erase's zone a bit is as it was, as the cut PROGRAM left it,
or one (R69). POWER_LOSS loses the whole volatile state; the inputs keep their levels (R141). The bits left open are
free values (log entry 3), and the bit that says whether the part has power is the model's (log entry 11). -/
def Obligations.SupplyLossCutsOperationsShort : Prop :=
  (∀ (c : Instr) (s t : State), (c = .powerLoss ∨ ∃ a b, c = .deviceReset a b ∨ c = .powerUp a b) →
     exec c s = .next t →
     (∀ x, s.underErase x = false → t.flash.read x &&& s.flash.read x = t.flash.read x)
     ∧ (∀ x, let kept := s.flash.read x &&& ((s.dev.arc.op.map (·.job.requested x)).getD 0xFF)
         t.flash.read x &&& kept = kept))
  ∧ (∀ s : State, s.powered = true →
       exec .powerLoss s = .next
         { pending := s.pending
           powered := false
           flash := s.cutShort.flash
           freeCount := s.cutShort.freeCount
           dev := Dev.reset s.dev.tru.levels s.dev.pif.i2cAddr })

/-! ### Encodings -/

/-- The CRC-16 of the nine ASCII bytes "123456789" is 29B1H (R170). A frame built from a code, a tag and a payload of
at most 520 bytes passes R169 and reads back as they are (R169, Table 13.1). -/
def Obligations.FramesRoundTrip : Prop :=
  (crc16 [0x31, 0x32, 0x33, 0x34, 0x35, 0x36, 0x37, 0x38, 0x39] = 0x29B1#16)
  ∧ (∀ (code tag : Byte) (payload : List Byte), payload.length ≤ 520 →
       framePasses (requestFrame code tag payload) = true
         ∧ frameFields (requestFrame code tag payload) = (code, tag, payload))

/-- Every journal entry whose fields fit its layout is written in 64 good bytes that read back as the entry (R198,
Tables 13.8 to 13.10). -/
def Obligations.JournalEntriesRoundTrip : Prop :=
  ∀ e : JEntry, e.storable →
    e.bytes.length = 64 ∧ jGood e.bytes = true ∧ JEntry.decode e.bytes = some e

/-- Every page header whose fields fit the layout reads GOOD with those fields until its void mark is programmed, and
VOID after it (R52, R53, R197, Table 13.7). Every settings record whose fields fit the layout is written in 39 bytes
that read back as the record (Table 12.1). -/
def Obligations.PageHeadersAndSettingsRoundTrip : Prop :=
  (∀ h : Header, h.storable → h.bytes.length = 32 ∧ headerOutcome h.bytes = .good h
     ∧ headerOutcome (h.bytes.set 29 0x00) = .void)
  ∧ (∀ x : Settings, x.storable → x.bytes.length = 39 ∧ settingsOfBytes x.bytes = x)

/-- A page of the ring that holds entries of the history with ascending sequence numbers, and FFH behind them, is read
back entry by entry: every entry from the number wanted on, up to the zone's last stored number, joins the reply; the
reply is then full when no further entry has room in 512 bytes (R186, R197). In a page of any good and damaged entries
the walk takes the good ones that lie from the number wanted on, above the last one taken and up to the zone's last
stored number, passes over the other good ones uncounted, and omits and counts each damaged one of length 16, 24, 32
or 40 whose CRC does not match; it ends at FFH, at an entry with no such length or one beyond the page, which omits
the rest as one, or at a good entry that fills the reply or has no room in it (R186). What it meets it notes with the
zone it reads. That 504 bytes count as full is the model's choice (log entry 20). -/
def Obligations.HistoryPagesReadBack : Prop :=
  (∀ (l : List HEntry) (limit : Nat) (h : HistoryRead) (rest : List Byte),
    (∀ e ∈ l, e.severity < 8 ∧ e.code < 65536 ∧ fits32 e.seq ∧ h.wanted ≤ e.seq ∧ e.seq ≤ limit) →
    (l.map (·.seq)).Pairwise (· < ·) → h.entries.length + entriesSize l ≤ 512 →
    (∀ b ∈ rest, b = 0xFF) →
    ((walkPage limit 64 h (l.flatMap HEntry.bytes ++ rest)).full = true
        ↔ l ≠ [] ∧ 512 < h.entries.length + entriesSize l + 16)
      ∧ (walkPage limit 64 h (l.flatMap HEntry.bytes ++ rest)).read.entries = h.entries ++ l.flatMap HEntry.bytes
      ∧ (walkPage limit 64 h (l.flatMap HEntry.bytes ++ rest)).read.omitted = h.omitted)
  ∧ (∀ (items : List (HEntry ⊕ List Byte)) (limit : Nat) (h : HistoryRead) (rest : List Byte),
      let length (b : List Byte) : Nat := byte b 1 / 8 % 16 * 8
      let bytes (x : HEntry ⊕ List Byte) : List Byte := x.elim HEntry.bytes id
      let good (e : HEntry) : Prop := e.severity < 8 ∧ e.code < 65536 ∧ fits32 e.seq
      let damaged (b : List Byte) : Prop := b.length ∈ [16, 24, 32, 40] ∧ b.getD 0 0xFF ≠ 0xFF ∧ length b = b.length
        ∧ slice b (b.length - 2) 2 ≠ crcBytes (b.take (b.length - 2))
      let wanted (l : List HEntry) : Nat := (l.getLast?.map (·.seq + 1)).getD h.wanted
      let taken := (items.filterMap Sum.getLeft?).foldl
        (fun l e => if wanted l ≤ e.seq ∧ e.seq ≤ limit then l ++ [e] else l) []
      let used := h.entries.length + entriesSize taken
      let page := items.flatMap bytes ++ rest
      let ends (full : Bool) (l : List HEntry) (omitted : Nat) : Prop :=
        let w := walkPage limit 64 h page
        w.full = full ∧ w.read.entries = h.entries ++ l.flatMap HEntry.bytes ∧ w.read.omitted = h.omitted + omitted
          ∧ w.read.firstSeq = h.firstSeq.or (l.head?.map (·.seq))
          ∧ w.read.lastSeq = (l.getLast?.map (·.seq)).or h.lastSeq
          ∧ ∃ new, w.read = { h with found := h.found ++ new }
            ∧ ∀ x ∈ new, x.zone = h.zone ∧ x.zoneFirst = h.zoneFirst
      let lost := (items.filterMap Sum.getRight?).length
      (∀ e, .inl e ∈ items → good e) → (∀ b, .inr b ∈ items → damaged b) → page.length ≤ 1024 → used + 16 ≤ 512 →
        ((∀ b ∈ rest, b = 0xFF) → ends false taken lost)
        ∧ (rest.getD 0 0xFF ≠ 0xFF → ¬(length rest ∈ [16, 24, 32, 40] ∧ length rest ≤ rest.length) →
            ends false taken (lost + 1))
        ∧ (∀ e more, rest = e.bytes ++ more → good e → wanted taken ≤ e.seq → e.seq ≤ limit →
            (512 < used + e.size → ends true taken lost)
            ∧ (used + e.size ≤ 512 → 512 < used + e.size + 16 → ends true (taken ++ [e]) lost)))

/-! ### Arrival and refusal -/

/-- A request that a test of Table 10.3 refuses is answered with the status of the first test that fails, and changes
no other state of the part. The order of the tests: the length, the fields, the right and the port, START, EXHAUSTED,
the STORE_FAILED condition; GET_STATUS and READ_PARAMS have the length test alone. The lengths that each request
allows, the ranges of its fields, a settings record's by Table 12.1 with the index of the first that fails, and the
right and the ports of Table 10.4 are those of the requests' rules (R26, R35, R39, R112, R158, R166, R178, R183, R184,
R186, R188, R189, R191, R192, R194). The rights after reset are those of Table 10.5 (R171, R173, R178). A PUT_SETTINGS
in range whose rights fields differ from those of the pending copy is refused NO_RIGHT at every port but SVC (R179,
R192). On SVC the reply waits while the line still sends another (the model's choice, log entry 9). -/
def Obligations.RequestsAreRefusedInOrder : Prop :=
  (∀ (r : Request) (p : Port) (tag : Byte) (b : List Byte) (s : State) (status : Status) (body : ReplyBody),
     s.hears p b → judge s.dev p r b = some (status, body) →
     exec (r.instr p tag b) s = .next (s.onlyAnswers p b (r.says tag status 0 body)))
  ∧ (∀ (d : Dev) (p : Port) (r : Request) (b : List Byte),
       (lengthOk r b.length = false → judge d p r b = some (.badLength, .empty))
       ∧ (lengthOk r b.length = true → (∀ x, valueTest r b = some x → judge d p r b = some x))
       ∧ (lengthOk r b.length = true → valueTest r b = none → r ≠ .getStatus → r ≠ .readParams →
           (((∃ x, r.right = some x ∧ d.holds p x = false) ∨ r.allowsPort p = false) →
               judge d p r b = some (.noRight, .empty))
           ∧ (rightTest d p r b = none →
               (d.hum.mode = .start → judge d p r b = some (.starting, .empty))
               ∧ (d.hum.mode = .exhausted → judge d p r b = some (.exhausted, .empty))
               ∧ (d.hum.mode = .normal ∨ d.hum.mode = .holdup →
                   (d.arc.storeFailed = true →
                     r = .openStream ∨ r = .append ∨ r = .withdraw ∨ r = .declare ∨ r = .saveSettings →
                     judge d p r b = some (.storeFailed, .empty))
                   ∧ ((d.arc.storeFailed = false ∨ ¬(r = .openStream ∨ r = .append ∨ r = .withdraw ∨ r = .declare
                       ∨ r = .saveSettings)) → judge d p r b = none)))))
  ∧ ((∀ p : Port, p = .s0 ∨ p = .s1 ∨ p = .s2 ∨ p = .s3 → ∀ x : Right,
         State.reset.dev.holds p x = (x == .capture || x == .event || x == .declare))
       ∧ (∀ x : Right, State.reset.dev.holds .mgt x
           = (x == .event || x == .declare || x == .read || x == .release || x == .config || x == .locate))
       ∧ (∀ (d : Dev) (x : Right), d.holds .svc x = true))
  ∧ (∀ n : Nat,
       (lengthOk .openStream n = true ↔ n = 9 ∨ n = 13) ∧ (lengthOk .append n = true ↔ 4 ≤ n ∧ n ≤ 515)
       ∧ (lengthOk .withdraw n = true ↔ n = 2) ∧ (lengthOk .logEvent n = true ↔ n = 3 ∨ n = 11 ∨ n = 27)
       ∧ (lengthOk .readStream n = true ↔ n = 9) ∧ (lengthOk .setWalltime n = true ↔ n = 8)
       ∧ (lengthOk .putSettings n = true ↔ n = 39)
       ∧ (∀ r ∈ [Request.locate, .getSettings], lengthOk r n = true ↔ n = 1)
       ∧ (∀ r ∈ [Request.readIncident, .readHistory, .release, .hold, .unhold], lengthOk r n = true ↔ n = 4)
       ∧ (∀ r ∈ [Request.declare, .getStatus, .nextNotice, .readParams, .listIncidents, .readMore, .saveSettings],
           lengthOk r n = true ↔ n = 0))
  ∧ (∀ b : List Byte,
       let bad (r : Request) (out : Prop) : Prop :=
         (out → valueTest r b = some (.badValue, .empty)) ∧ (¬out → valueTest r b = none)
       let outside (i offset size least most : Nat) (index : Nat) : Prop :=
         index = i ∧ ¬(least ≤ field b offset size ∧ field b offset size ≤ most)
       let out (i : Nat) : Prop := outside 1 0 2 100 60000 i ∨ outside 2 2 4 1000 600000 i ∨ outside 3 6 2 0 4096 i
         ∨ outside 4 8 2 10 10000 i ∨ outside 5 10 2 8 1000 i ∨ outside 6 12 1 2 32 i
         ∨ (i = 6 ∧ field b 10 2 ≤ field b 12 1) ∨ outside 7 13 2 1 1000 i ∨ outside 8 15 2 0 60000 i
         ∨ outside 9 17 1 0 1 i ∨ outside 10 18 1 0 31 i ∨ outside 17 31 1 0 16 i ∨ outside 18 32 1 0 1 i
         ∨ outside 19 33 1 0 64 i ∨ (20 ≤ i ∧ i ≤ 24 ∧ (b.getD (i + 14) 0).getLsbD 5 = true)
       (b.length = 9 → bad .openStream (3 < byte b 0))
       ∧ (b.length = 13 → bad .openStream (3 < byte b 0 ∨ field b 9 4 = 0))
       ∧ bad .append (1 < byte b 2) ∧ bad .logEvent (7 < byte b 0) ∧ bad .locate (1 < byte b 0)
       ∧ bad .getSettings (1 < byte b 0) ∧ bad .readStream (field b 0 4 = 0 ∨ 11 < byte b 4)
       ∧ (∀ r ∈ [Request.readIncident, .release, .hold, .unhold], bad r (field b 0 4 = 0))
       ∧ (∀ r ∈ [Request.withdraw, .declare, .getStatus, .nextNotice, .readParams, .listIncidents, .readMore,
           .readHistory, .setWalltime, .saveSettings], valueTest r b = none)
       ∧ ((∀ i, ¬out i) → valueTest .putSettings b = none)
       ∧ (∀ i, out i → (∀ j, j < i → ¬out j) → valueTest .putSettings b = some (.badValue, .badIndex i)))
  ∧ ((∀ r ∈ [Request.openStream, .append, .withdraw], r.right = some .capture)
       ∧ Request.logEvent.right = some .event ∧ Request.declare.right = some .declare
       ∧ (∀ r ∈ [Request.listIncidents, .readIncident, .readStream, .readMore, .readHistory], r.right = some .read)
       ∧ Request.release.right = some .release ∧ Request.locate.right = some .locate
       ∧ (∀ r ∈ [Request.hold, .unhold], r.right = some .hold)
       ∧ (∀ r ∈ [Request.setWalltime, .getSettings, .putSettings, .saveSettings], r.right = some .config)
       ∧ (∀ r ∈ [Request.nextNotice, .getStatus, .readParams], r.right = none)
       ∧ (∀ (r : Request) (p : Port), r.allowsPort p = true ↔
           (r ≠ .hold ∧ r ≠ .unhold ∧ r ≠ .nextNotice) ∨ p = .svc ∨ (r = .nextNotice ∧ p = .mgt)))
  ∧ (∀ (p : Port) (tag : Byte) (b : List Byte) (s : State), s.hears p b → b.length = 39 →
       (settingsOfBytes b).firstBad = none → p ≠ .svc →
       (∃ q : Fin 5, (settingsOfBytes b).rights[q] ≠ s.dev.sst.pending.rights[q]) →
       exec (.putSettings p tag b) s = .next (s.onlyAnswers p b (Request.putSettings.says tag .noRight 0 .empty)))

/-- A frame at an OUTSTANDING port, a request, a frame of no request or a bad frame, is discarded without a reply: the
overlap count rises by one, up to 255, and nothing else changes but that a socket port has sent FFH for each byte of
the frame (R174; log entry 24). The reply to a request that waited carries OVERLAP exactly when a frame came
meanwhile, and the port is READY with it; on SVC with an idle line it is sent at once, beginning with A5H, else it
waits in the port (R172, R173, R176; the model's choice of how the line is timed, log entry 9). -/
def Obligations.FramesAtABusyPortAreCounted : Prop :=
  (∀ (p : Port) (s : State), s.powered = true → s.dev.isOutstanding p = true →
     let counted (n : Nat) : State := { s with dev := s.dev.setPort p { s.dev.port p with
       overlap := min 255 ((s.dev.port p).overlap + 1)
       sent := if p = .mgt ∨ p = .svc then (s.dev.port p).sent else List.replicate n 0xFF } }
     (∀ (r : Request) (tag : Byte) (b : List Byte), exec (r.instr p tag b) s = .next (counted (6 + b.length)))
     ∧ (∀ (code tag : Byte) (b : List Byte), (Instr.unknownRequest p code tag b).wellFormed = true →
         exec (.unknownRequest p code tag b) s = .next (counted (6 + b.length)))
     ∧ (∀ f : List Byte, (Instr.frameError p f).wellFormed = true →
         exec (.frameError p f) s = .next (counted f.length))
     ∧ (∀ f : List Byte, (Instr.overlapFrame p f).wellFormed = true →
         exec (.overlapFrame p f) s = .next (counted f.length)))
  ∧ (∀ (d : Dev) (p : Port) (code tag : Byte) (status : Status) (flags : Byte) (body : ReplyBody),
       (p ≠ .svc ∨ d.pif.svcOut ≠ none) → (d.port p).exchange = .outstanding code tag → status ≠ .unknownRequest →
       d.reply p status flags body = d.setPort p { d.port p with
         exchange := .ready code tag
           ⟨code, tag, status, flags ||| (if (d.port p).overlap = 0 then 0x00 else 0x01), body⟩ })
  ∧ (∀ (d : Dev) (code tag : Byte) (status : Status) (flags : Byte) (body : ReplyBody),
       d.pif.svcOut = none → (d.port .svc).exchange = .outstanding code tag → status ≠ .unknownRequest →
       let r : Reply := ⟨code, tag, status, flags ||| (if (d.port .svc).overlap = 0 then 0x00 else 0x01), body⟩
       d.reply .svc status flags body = { d with pif :=
         { (d.setPort .svc { d.port .svc with exchange := .ready code tag r, sent := [0xA5] }).pif with
           svcOut := some ⟨r.frame, 0, true⟩ } })

/-- A well-checked frame whose code is no request is answered UNKNOWN_REQUEST with code 00H and the frame's tag, and
its port keeps the request's own code beside the reply; a frame that fails R169 is answered FRAME_ERROR with code and
tag 00H. Neither has another effect, but that a socket port has sent FFH for each byte of the frame (R168, R169, R171,
R174). A gap on SVC discards the part of the frame received, and the receiver hunts again (R176). A fetch from a
socket port or MGT sends the reply from its first byte and FFH behind it, F0H while the request is outstanding, and
FFH alone at an EMPTY port; a reply read to its last byte leaves the port EMPTY, and one read in part is kept (R174,
R175). What the port last sent is a field of the model (log entry 24). On SVC a reply begins with A5H on the line, the port
READY, or waits while the line still sends another, which a frame leaves to run to its end (R176; how the line is
timed is the model's choice, log entry 9). -/
def Obligations.FramesAndFetchesAreAnswered : Prop :=
  (∀ (p : Port) (s : State), s.powered = true → s.dev.isOutstanding p = false →
     (∀ (code tag : Byte) (b : List Byte), (Instr.unknownRequest p code tag b).wellFormed = true →
       exec (.unknownRequest p code tag b) s = .next { s with dev := { s.dev with
         pif := s.dev.answersAs p b code ⟨0x00, tag, .unknownRequest, 0, .empty⟩ } })
     ∧ (∀ f : List Byte, (Instr.frameError p f).wellFormed = true →
         let refusal : Reply := ⟨0x00, 0x00, .frameError, 0, .empty⟩
         ((p ≠ .svc ∨ s.dev.pif.svcOut ≠ none) →
           exec (.frameError p f) s = .next { s with dev := { s.dev with
             pif := { (s.dev.setPort p { s.dev.port p with
                 exchange := .ready 0x00 0x00 refusal
                 sent := if p = .mgt ∨ p = .svc then (s.dev.port p).sent else List.replicate f.length 0xFF }).pif with
               svcOut := if p = .svc then s.dev.pif.svcOut.map fun o => { o with kept := false }
                 else s.dev.pif.svcOut } } })
         ∧ (p = .svc → s.dev.pif.svcOut = none →
             exec (.frameError p f) s = .next { s with dev := { s.dev with
               pif := { (s.dev.setPort .svc { s.dev.port .svc with
                   exchange := .ready 0x00 0x00 refusal, sent := [0xA5] }).pif with
                 svcOut := some ⟨refusal.frame, 0, true⟩ } } })))
  ∧ (∀ s : State, s.powered = true →
       exec .svcFrameGap s = .next { s with dev := { s.dev with
         pif := { (s.dev.setPort .svc { s.dev.port .svc with rx := [] }).pif with svcHunting := true } } })
  ∧ (∀ (p : Port) (n : Nat) (s : State), s.powered = true → p ≠ .svc →
       ∃ x : PortState, exec (.fetch p n) s = .next { s with dev := s.dev.setPort p x }
         ∧ x.rx = (s.dev.port p).rx ∧ x.overlap = (s.dev.port p).overlap ∧ x.sent.length = n
         ∧ ((s.dev.port p).exchange = .empty → x.exchange = .empty ∧ ∀ i, i < n → x.sent.getD i 0 = 0xFF)
         ∧ (∀ code tag, (s.dev.port p).exchange = .outstanding code tag →
             x.exchange = .outstanding code tag
               ∧ ∀ i, i < n → x.sent.getD i 0 = if i = 0 then 0xF0 else 0xFF)
         ∧ (∀ code tag r, (s.dev.port p).exchange = .ready code tag r →
             (∀ i, i < n → x.sent.getD i 0 = r.frame.getD i 0xFF)
               ∧ (r.frame.length ≤ n → x.exchange = .empty)
               ∧ (n < r.frame.length → x.exchange = .ready code tag r)))

/-! ### Requests that only answer -/

/-- READ_PARAMS (R195, Table 12.2). -/
def Obligations.ReadParamsAnswersTheFixedTable : Prop :=
  (∀ (p : Port) (tag : Byte) (b : List Byte) (s : State), s.hears p b →
    exec (.readParams p tag b) s = .next (s.onlyAnswers p b
      (if b = [] then Request.readParams.says tag .ok 0 .params
        else Request.readParams.says tag .badLength 0 .empty)))
  ∧ ReplyBody.params.bytes =
      [0x46, 0x44, 0x43, 0x32, 0x01, 0x00, 6, 0, 16, 0, 64, 0, 0x00, 0x04, 32, 0, 12, 0, 0x00, 0x01, 32, 0, 0x00, 0x04,
        237, 0, 16, 0, 12, 0, 32, 0, 0x08, 0x02, 0x00, 0x02, 80, 0]

/-- GET_STATUS is answered in every mode with the fields of Table 9.4 as they stand at its taking (R167).
LIST_INCIDENTS answers every record of the directory in ascending incident number, and GET_SETTINGS the working record
(0) or the pending one (1) with the load due flag and the save position (R182, R192). None changes another state. In
HOLDUP LIST_INCIDENTS is refused POWER (R181). -/
def Obligations.StatusAndListingsChangeNothing : Prop :=
  (∀ (p : Port) (tag : Byte) (s : State), s.hears p [] →
     exec (.getStatus p tag []) s = .next (s.onlyAnswers p [] (Request.getStatus.says tag .ok 0 (.status
       { mode := s.dev.hum.mode
         storeFailed := s.dev.arc.storeFailed
         closingPhase := s.dev.hum.closing.isSome
         halted := s.dev.hiu.halted
         locating := s.dev.tmb.deadlines.locate.isSome
         recording := (((s.dev.ict.recording.bind fun i => s.dev.drm.dir[i])).map (·.number)).getD 0
         closing := (((s.dev.ict.closing.bind fun i => s.dev.drm.dir[i])).map (·.number)).getD 0
         freeBlocks := s.dev.stb.free.length
         freeZones := ((List.range' 19 237).filter fun z => (s.dev.plm.zone z).state == .free).length
         credits := s.dev.hum.credits
         notices := match p with
           | .mgt => s.dev.ntu.management.length
           | .svc => s.dev.ntu.service.length
           | _ => 0
         epoch := s.dev.drm.epoch
         wallValid := s.dev.tmb.wall.isSome
         lost := s.dev.hiu.lost
         defects := s.dev.arc.defects.length
         queueDepth := s.dev.drm.queue.length }))))
  ∧ (∀ (p : Port) (tag : Byte) (b : List Byte) (s : State),
       (s.reaches p .listIncidents b → s.dev.hum.mode ≠ .holdup →
         ∃ l : List Incident, l.Perm s.dev.drm.records ∧ l.Pairwise (fun x y => x.number ≤ y.number)
           ∧ exec (.listIncidents p tag b) s
               = .next (s.onlyAnswers p b (Request.listIncidents.says tag .ok 0 (.incidents l))))
       ∧ (s.reaches p .listIncidents b → s.dev.hum.mode = .holdup →
           exec (.listIncidents p tag b) s
             = .next (s.onlyAnswers p b (Request.listIncidents.says tag .power 0 .empty)))
       ∧ (s.reaches p .getSettings b →
           exec (.getSettings p tag b) s = .next (s.onlyAnswers p b (Request.getSettings.says tag .ok 0
             (.settings (if byte b 0 = 0 then s.dev.sst.working else s.dev.sst.pending) s.dev.sst.loadDue
               s.dev.sst.savePos)))))

/-! ### Notices, time and settings -/

/-- NEXT_NOTICE removes the first notice of the asking port's set and answers it with the number left; an empty set is
answered NONE; the other set is unchanged (R163). A raise reaches both sets. In each of them: a set in priority order
stays so and gains one notice of the cause with repeat count 0, or its notice of the cause takes the new detail and
counts a repeat, up to 255; every step keeps both sets in strict priority order, so each holds at most one notice of a
cause (R162). ALERT is driven exactly while the management set holds a notice (R164). -/
def Obligations.NoticesAreRaisedAndFetched : Prop :=
  (∀ (p : Port) (tag : Byte) (b : List Byte) (s : State), s.reaches p .nextNotice b →
     (p = .mgt ∨ p = .svc)
     ∧ (s.dev.ntu.setOf p = [] →
         exec (.nextNotice p tag b) s = .next (s.onlyAnswers p b (Request.nextNotice.says tag .none 0 .empty)))
     ∧ (∀ n rest, s.dev.ntu.setOf p = n :: rest →
         exec (.nextNotice p tag b) s = .next { s with dev := { s.dev with
           pif := s.dev.answers p b (Request.nextNotice.says tag .ok 0 (.notice n rest.length))
           ntu := if p = .mgt then { s.dev.ntu with management := rest } else { s.dev.ntu with service := rest } } }))
  ∧ (∀ (d : Dev) (c : NoticeCause) (n : Nat), d.raise c n = { d with ntu := { d.ntu with
       management := raiseIn d.ntu.management c (BitVec.ofNat 32 n)
       service := raiseIn d.ntu.service c (BitVec.ofNat 32 n) } })
  ∧ (∀ (l : List Notice) (c : NoticeCause) (detail : BitVec 32),
       l.Pairwise (fun x y => NoticeCause.code x.cause < NoticeCause.code y.cause) →
       (raiseIn l c detail).Pairwise (fun x y => NoticeCause.code x.cause < NoticeCause.code y.cause)
       ∧ ((∀ n ∈ l, n.cause ≠ c) →
           (⟨c, detail, 0⟩ : Notice) ∈ raiseIn l c detail ∧ (raiseIn l c detail).length = l.length + 1)
       ∧ (∀ n ∈ l, n.cause = c → (⟨c, detail, min 255 (n.repeats + 1)⟩ : Notice) ∈ raiseIn l c detail
           ∧ (raiseIn l c detail).length = l.length)
       ∧ (∀ n : Notice, n.cause ≠ c → (n ∈ raiseIn l c detail ↔ n ∈ l)))
  ∧ (∀ s t : State, s.dev.noticesOrdered → step s = .next t → t.dev.noticesOrdered)
  ∧ (∀ n : Ntu, n.alert = true ↔ n.management ≠ [])

/-- SET_WALLTIME records the given value and the tick of its taking, offers a WALLMARK event that carries the value,
and is answered OK even if the offer is lost (R158, R109, R110). The wall time is the value given plus the whole
milliseconds passed since, modulo 2^64 (R159). -/
def Obligations.SetWalltime : Prop :=
  (∀ (p : Port) (tag : Byte) (b : List Byte) (s : State), s.reaches p .setWalltime b →
     ∃ e : Dev, exec (.setWalltime p tag b) s = .next { s with dev := e }
       ∧ Dev.logsTo { s.dev with
           pif := s.dev.answers p b (Request.setWalltime.says tag .ok 0 .empty)
           tmb := { s.dev.tmb with wall := some ⟨BitVec.ofNat 64 (field b 0 8), s.dev.tmb.tick, 0⟩ } } e
       ∧ s.dev.offers e (.wallmark (BitVec.ofNat 64 (field b 0 8))) 6 .internal 0x000D)
  ∧ (∀ (d : Dev) (w : WallClock), (d.tmb.wall = none → d.wallNow = none)
       ∧ (d.tmb.wall = some w → d.wallNow = some (BitVec.ofNat 64 (w.value.toNat + w.passed / 1000))))

/-- LOCATE starts a run of 10 s, adds 10 s to a run up to 60 s, or stops the run; the reply carries the run time left
in milliseconds and IND takes its pattern (R166, R165). That the time left is rounded down to whole milliseconds is
the model's choice (log entry 42). -/
def Obligations.LocateRuns : Prop :=
  ∀ (p : Port) (tag : Byte) (b : List Byte) (s : State), s.reaches p .locate b →
    let after (left : Nat) (slot : Option Tick) : Host.Outcome State Fault Refusal :=
      .next { s with dev := ({ s.dev with
        pif := s.dev.answers p b (Request.locate.says tag .ok 0 (.locateTime left))
        tmb := { s.dev.tmb with deadlines := { s.dev.tmb.deadlines with locate := slot } } }).showInd }
    (byte b 0 = 1 → exec (.locate p tag b) s = after 0 none)
    ∧ (byte b 0 = 0 → s.dev.tmb.deadlines.locate = none →
        exec (.locate p tag b) s = after 10000 (some (s.dev.tmb.tick + 10000000#48)))
    ∧ (∀ t : Tick, byte b 0 = 0 → s.dev.tmb.deadlines.locate = some t →
        let left := min ((t - s.dev.tmb.tick).toNat + 10000000) 60000000
        exec (.locate p tag b) s = after (left / 1000) (some (s.dev.tmb.tick + BitVec.ofNat 48 left)))

/-- A PUT_SETTINGS that is taken replaces the pending copy whole and sets the load due flag (R192). A SAVE_SETTINGS
that is taken joins the list of saves with the pending copy, and its port waits. Where SST is free it serves the save
at the front: the PROGRAM of the page of the save position, or first the ERASE of zone 0 when the position is 32
(R194). -/
def Obligations.SettingsArePutAndSaved : Prop :=
  (∀ (p : Port) (tag : Byte) (b : List Byte) (s : State), s.reaches p .putSettings b →
     exec (.putSettings p tag b) s = .next { s with dev := { s.dev with
       pif := s.dev.answers p b (Request.putSettings.says tag .ok 0 .empty)
       sst := { s.dev.sst with pending := settingsOfBytes b, loadDue := true } } })
  ∧ (∀ (p : Port) (tag : Byte) (b : List Byte) (s : State), s.reaches p .saveSettings b →
       let saves := s.dev.sst.saves ++ [⟨some p, s.dev.sst.pending, 0⟩]
       let d : Dev := { s.dev with pif := s.dev.waitsFor p b 0x52 tag }
       (s.dev.sst.busy = true →
         exec (.saveSettings p tag b) s
           = .next { s with dev := ({ d with sst := { d.sst with saves := saves } }).arcSettle })
       ∧ (∀ x rest, s.dev.sst.busy = false → saves = x :: rest →
           exec (.saveSettings p tag b) s = .next { s with dev := ({ d with
             sst := { d.sst with saves := saves, busy := true }
             arc := { d.arc with waiting := d.arc.waiting ++
               [if s.dev.sst.savePos < 32 then
                   ArrReq.mk .save (.program ⟨0, Fin.ofNat 32 s.dev.sst.savePos⟩ 0 (withCrc x.record.bytes) 0
                     ({ kind := 4, epoch := s.dev.drm.epoch } : Header).bytes)
                 else ArrReq.mk .settingsErase (.erase 0)] } }).arcSettle }))

/-! ### Incidents: holds, release, reading -/

/-- HOLD and UNHOLD (R189, R105). -/
def Obligations.HoldAndUnhold : Prop :=
  ∀ (held : Bool) (p : Port) (tag : Byte) (b : List Byte) (s : State), s.hears p b →
    let r : Request := if held then .hold else .unhold
    let answered (status : Status) (body : ReplyBody) : Prop :=
      exec (r.instr p tag b) s = .next (s.onlyAnswers p b (r.says tag status 0 body))
    (b.length ≠ 4 → answered .badLength .empty)
    ∧ (b.length = 4 → field b 0 4 = 0 → answered .badValue .empty)
    ∧ (b.length = 4 → field b 0 4 ≠ 0 → p ≠ .svc → answered .noRight .empty)
    ∧ (b.length = 4 → field b 0 4 ≠ 0 → p = .svc →
        (s.dev.hum.mode = .start → answered .starting .empty)
        ∧ (s.dev.hum.mode = .exhausted → answered .exhausted .empty)
        ∧ (s.dev.hum.mode = .normal ∨ s.dev.hum.mode = .holdup →
            ((∀ x ∈ s.dev.drm.records, x.number ≠ field b 0 4) → answered .notFound .empty)
            ∧ (∀ (i : DirSlot) (x : Incident), s.dev.drm.slotOf (field b 0 4) = some i → s.dev.drm.dir[i] = some x →
                (x.held = held → answered .ok (.heldFlag held))
                ∧ (x.held ≠ held → 16 ≤ s.dev.drm.queue.length → answered .directoryBusy .empty)
                ∧ (x.held ≠ held → s.dev.drm.queue.length < 16 →
                    exec (r.instr p tag b) s = .next { s with dev := ({ s.dev with
                      pif := s.dev.answers p b (r.says tag .ok 0 (.heldFlag held))
                      drm := { s.dev.drm with
                        queue := s.dev.drm.queue ++
                          [if held then JEntry.holdSet (field b 0 4) else JEntry.holdClear (field b 0 4)]
                        dir := put s.dev.drm.dir i (some { x with held := held }) } }).settle }))))

/-- RELEASE is judged in this order: NOT_FOUND, NOT_KEPT, HELD from a port other than SVC, DIRECTORY_BUSY; a refused
RELEASE changes nothing (R188). One that is taken queues its entry and drops the record; the pool, the pins, the
cursors and the history act on its number at once (R104, R83, R125, R187, R114). The number leaves every pin set and
the deferred pins; while a zone is awaited an ERASED successor becomes ACTIVE with the deferred pins, ring preparation
is tested, and a halt ends where 2 usable zones are unpinned (R125, R120, R121). Then the RELEASED event is offered
(R104). With no loss counted before and room for an entry it is taken with the next number, unless the zone that
becomes ACTIVE takes the deferred pins of another incident and leaves fewer than 2 usable zones unpinned, which halts
history (R122, R124); the premise `Hiu.haltFlagged` is the invariant of EveryStepKeepsBlocksInSize. Of several ring
zones left for re-erase the lowest-numbered goes first (the model's choice, log entry 36). -/
def Obligations.ReleaseFreesTheIncident : Prop :=
  (∀ (p : Port) (tag : Byte) (b : List Byte) (s : State), s.reaches p .release b →
     let answered (status : Status) : Prop :=
       exec (.release p tag b) s = .next (s.onlyAnswers p b (Request.release.says tag status 0 .empty))
     ((∀ x ∈ s.dev.drm.records, x.number ≠ field b 0 4) → answered .notFound)
     ∧ (∀ (i : DirSlot) (x : Incident), s.dev.drm.slotOf (field b 0 4) = some i → s.dev.drm.dir[i] = some x →
         (x.state ≠ .kept → answered .notKept)
         ∧ (x.state = .kept → x.held = true → p ≠ .svc → answered .held)
         ∧ (x.state = .kept → (x.held = false ∨ p = .svc) → 16 ≤ s.dev.drm.queue.length → answered .directoryBusy)))
  ∧ (∀ (p : Port) (tag : Byte) (b : List Byte) (s : State) (i : DirSlot) (x : Incident), s.reaches p .release b →
       s.dev.drm.slotOf (field b 0 4) = some i → s.dev.drm.dir[i] = some x → x.state = .kept →
       (x.held = false ∨ p = .svc) → s.dev.drm.queue.length < 16 →
       let n := field b 0 4
       ∃ e : Dev, exec (.release p tag b) s = .next { s with dev := e }
         ∧ (s.dev.job p = none → e.port p
             = ({ s.dev with pif := s.dev.answers p b (Request.release.says tag .ok 0 .empty) } : Dev).port p)
         ∧ e.drm = { s.dev.drm with
             queue := s.dev.drm.queue ++ [.release n], dir := put s.dev.drm.dir i none, writer := e.drm.writer }
         ∧ (∀ k, SMap.get .erased e.plm.pages k = match SMap.get .erased s.dev.plm.pages k with
             | .live inc stream seq fill => if inc = n then .dead else .live inc stream seq fill
             | y => y)
         ∧ (∀ z, (e.plm.zone z).holders = (s.dev.plm.zone z).holders.filter (· != n)
             ∧ (e.plm.zone z).nextPage = (s.dev.plm.zone z).nextPage
             ∧ (e.plm.zone z).state = if (s.dev.plm.zone z).state = .full ∧ n ∈ (s.dev.plm.zone z).holders
                   ∧ (s.dev.plm.zone z).holders.filter (· != n) = [] then .retired else (s.dev.plm.zone z).state)
         ∧ (∀ k : RingIdx, n ∉ (e.hiu.ring[k]).pins) ∧ n ∉ e.hiu.deferred
         ∧ (∀ q stream offset gone, s.dev.cursor q = .stream n stream offset gone →
             e.cursor q = .stream n stream offset true)
         ∧ (∃ v : Dev, s.dev.keepsAllBut [.pif, .plm, .drm, .ntu] v
             ∧ (v.unpin n).offers e (f1 (leBytes 4 n ++ leBytes 1 (Port.code p))) 5 .internal 0x000A)
         ∧ (s.dev.hiu.lost = 0 → s.dev.hiu.canTake = true → s.dev.hiu.haltFlagged →
             (s.dev.hiu.target ≠ none ∨ (∀ m ∈ s.dev.hiu.deferred, m = n)
               ∨ 3 ≤ ((List.finRange 16).filter fun k : RingIdx =>
                   (s.dev.hiu.ring[k]).state != .defective && (s.dev.hiu.ring[k]).pins.all (· == n)).length) →
             (⟨f1 (leBytes 4 n ++ leBytes 1 (Port.code p)), 5, .internal, 0x000A, s.dev.hiu.nextSeq, s.dev.tmb.tick⟩
               : HEntry) ∈ e.hiu.unflushed)
         ∧ s.dev.keepsAllBut [.pif, .plm, .arc, .drm, .hiu, .tmb, .ntu, .rtu] e
         ∧ e.tmb.tick = s.dev.tmb.tick ∧ e.tmb.wall = s.dev.tmb.wall
         ∧ e.arc.defects = s.dev.arc.defects ∧ e.arc.storeFailed = s.dev.arc.storeFailed ∧ e.arc.op = s.dev.arc.op)
  ∧ (∀ (d : Dev) (n : Nat),
       let dropped : Dev := { d with hiu := { d.hiu with
         ring := d.hiu.ring.map fun z => { z with pins := z.pins.filter (· != n) }
         deferred := d.hiu.deferred.filter (· != n) } }
       d.unpin n = dropped.awaitTest.prepTest.resumeTest)
  ∧ (∀ d : Dev,
       let h := d.hiu
       let usable (k : RingIdx) : Prop := (h.ring[k]).state ≠ .defective ∧ (h.ring[k]).pins = []
       let next (k : RingIdx) : Prop := usable k
         ∧ ∀ j, usable j → (k.val + 15 - h.newest.val) % 16 ≤ (j.val + 15 - h.newest.val) % 16
       let erases (k : RingIdx) : Dev := { d with
         hiu := { h with
           prep := some k, ring := put h.ring k { h.ring[k] with state := .erasing, range := none } }
         arc := { d.arc with waiting := d.arc.waiting ++ [ArrReq.mk .ringPrep (.erase (ringZone k))] } }
       (h.target ≠ none ∨ (∀ k, next k → (h.ring[k]).state ≠ .erased) → d.awaitTest = d)
       ∧ (∀ k, h.target = none → next k → (h.ring[k]).state = .erased →
           d.awaitTest = ({ d with hiu := { h with
             ring := put h.ring k { h.ring[k] with state := .active, pins := h.deferred }
             deferred := [], target := some ⟨k, 0, 0⟩, newest := k, closed := false } }).haltTest.prepTest.hiuMove)
       ∧ (∀ k, h.prep = none → (h.ring[k]).state = .erasing → (∀ j, (h.ring[j]).state = .erasing → k ≤ j) →
           d.prepTest = erases k)
       ∧ (∀ k, h.prep = none → (∀ j : RingIdx, (h.ring[j]).state ≠ .erasing) → next k → (h.ring[k]).state = .filled →
           d.prepTest = erases k)
       ∧ (h.prep ≠ none ∨ ((∀ j : RingIdx, (h.ring[j]).state ≠ .erasing)
           ∧ ∀ k, next k → (h.ring[k]).state ≠ .filled) → d.prepTest = d))

/-- READ_INCIDENT answers the record, or NOT_FOUND; SVC's read of a KEPT incident whose retrieved flag is clear sets
the flag and queues RETRIEVED while the queue holds fewer than 16 entries (R183, R106). -/
def Obligations.ReadIncident : Prop :=
  ∀ (p : Port) (tag : Byte) (b : List Byte) (s : State), s.reaches p .readIncident b →
    let answered (status : Status) (body : ReplyBody) : Prop :=
      exec (.readIncident p tag b) s = .next (s.onlyAnswers p b (Request.readIncident.says tag status 0 body))
    (s.dev.hum.mode = .holdup → answered .power .empty)
    ∧ (s.dev.hum.mode ≠ .holdup →
        ((∀ x ∈ s.dev.drm.records, x.number ≠ field b 0 4) → answered .notFound .empty)
        ∧ (∀ (i : DirSlot) (x : Incident), s.dev.drm.slotOf (field b 0 4) = some i → s.dev.drm.dir[i] = some x →
            ((p ≠ .svc ∨ x.state ≠ .kept ∨ x.retrieved = true ∨ 16 ≤ s.dev.drm.queue.length) →
              answered .ok (.incident x))
            ∧ (p = .svc → x.state = .kept → x.retrieved = false → s.dev.drm.queue.length < 16 →
                ∃ e, exec (.readIncident p tag b) s = .next { s with dev := e }
                  ∧ Dev.settlesTo { s.dev with
                      pif := s.dev.answers p b
                        (Request.readIncident.says tag .ok 0 (.incident { x with retrieved := true }))
                      drm := { s.dev.drm with
                        queue := s.dev.drm.queue ++ [.retrieved (field b 0 4)]
                        dir := put s.dev.drm.dir i (some { x with retrieved := true }) } } e)))

/-- A read of a stream is refused POWER in HOLDUP and NOT_FOUND without such a stream. Else it fixes its range: from
the offset to 512 bytes on, the end of the page or the bytes committed, whichever comes first. An empty range is
answered at once; another waits for the array read of its one page (R181, R184). A range whose page is not LIVE is
answered as an empty one (the model's choice, log entry 22). READ_MORE without a cursor is refused NO_CURSOR, and with
a cursor on a released incident GONE (R184, R187); in HOLDUP it is refused POWER with every cursor (R181). -/
def Obligations.StreamReadsAreTaken : Prop :=
  (∀ (p : Port) (r : Request) (tag : Byte) (b : List Byte) (s : State) (incident stream offset : Nat),
     s.reaches p r b → s.asksStream p r b incident stream offset →
     let answered (status : Status) : Prop :=
       exec (r.instr p tag b) s = .next (s.onlyAnswers p b (r.says tag status 0 .empty))
     (s.dev.hum.mode = .holdup → answered .power)
     ∧ (s.dev.hum.mode ≠ .holdup →
         ((s.dev.drm.find incident).bind (·.streams.find? (·.number == stream)) = none → answered .notFound)
         ∧ (∀ x : StreamRec, (s.dev.drm.find incident).bind (·.streams.find? (·.number == stream)) = some x →
             let stop := if x.committed ≤ offset then offset
               else min (offset + 512) (min ((offset / 1024 + 1) * 1024) x.committed)
             let more := decide (stop < x.committed) || x.endKind == .open
             let cursors := put s.dev.rtu.cursors (Port.idx p) (.stream incident stream offset false)
             ((offset = stop ∨ s.dev.plm.livePage incident stream (offset / 1024) = none) →
               exec (r.instr p tag b) s = .next { s with dev := { s.dev with
                 pif := s.dev.answers p b (r.says tag .ok (if more then 0x02 else 0x04) (.stream offset [] 0 0))
                 rtu := { s.dev.rtu with cursors := cursors } } })
             ∧ (∀ page fill, offset < stop →
                 s.dev.plm.livePage incident stream (offset / 1024) = some (page, fill) →
                 exec (r.instr p tag b) s = .next { s with dev := ({ s.dev with
                   pif := s.dev.waitsFor p b r.code tag
                   rtu := { s.dev.rtu with
                     cursors := cursors
                     jobs := put s.dev.rtu.jobs (Port.idx p)
                       (some ⟨.stream incident stream offset (stop - offset) more page, s.dev.cursor p, false⟩) }
                   arc := { s.dev.arc with waiting := s.dev.arc.waiting ++
                     [ArrReq.mk (.rtu p) (.read page (offset % 1024) (stop - offset) 0 0)] } }).arcSettle }))))
  ∧ (∀ (p : Port) (tag : Byte) (b : List Byte) (s : State), s.reaches p .readMore b → s.dev.hum.mode = .holdup →
       exec (.readMore p tag b) s = .next (s.onlyAnswers p b (Request.readMore.says tag .power 0 .empty)))
  ∧ (∀ (p : Port) (tag : Byte) (b : List Byte) (s : State), s.reaches p .readMore b → s.dev.hum.mode ≠ .holdup →
       (s.dev.cursor p = .empty →
         exec (.readMore p tag b) s = .next (s.onlyAnswers p b (Request.readMore.says tag .noCursor 0 .empty)))
       ∧ (∀ incident stream offset, s.dev.cursor p = .stream incident stream offset true →
           exec (.readMore p tag b) s = .next (s.onlyAnswers p b (Request.readMore.says tag .gone 0 .empty))))

/-- A read of the history, by READ_HISTORY or by READ_MORE at a history cursor, is refused POWER in HOLDUP. Where no
zone stores an entry at or above the number it is answered empty at once; else it waits for the array read of a page
of the ring zone whose stored range is the lowest that reaches the number (R181, R186). When the page is read,
HISTORY_READ_DONE gathers its entries. A full reply is built at once; else RTU reads the zone's next page while the
zone stores more, then the zone of the lowest range beyond, and builds the reply when no zone stores more. Where the
erase of that zone, or of one from which the walk has gathered, was requested meanwhile, that zone's entries are not
returned nor counted, RTU goes on with the page read, or behind its zone where that is the one lost, and the reply
carries SKIPPED. The reply carries MORE when it was full and a later entry is stored, and SKIPPED when its first entry
lies above the start; the cursor stands behind the last entry given (R186). The reply's entries and omitted count are
those of what the walk has met and kept. Choices of the model: that the zones left behind lose their entries too (R186
read with R119 and R181, log entry 46), which page of a zone comes first (log entry 20), no MORE where the walk ends
with omitted entries (log entry 44), and what `settle` adds (log entry 8). -/
def Obligations.HistoryReads : Prop :=
  (∀ (c : Instr) (p : Port) (r : Request) (tag : Byte) (b : List Byte) (s : State) (start : Nat), s.reaches p r b →
     ((c = .readHistory p tag b ∧ r = .readHistory ∧ start = field b 0 4)
       ∨ (c = .readMore p tag b ∧ r = .readMore ∧ s.dev.cursor p = .history start)) →
     let cursors := put s.dev.rtu.cursors (Port.idx p) (.history start)
     (s.dev.hum.mode = .holdup →
       exec c s = .next (s.onlyAnswers p b (r.says tag .power 0 .empty)))
     ∧ (s.dev.hum.mode ≠ .holdup →
         (s.dev.hiu.zoneFor start = none →
           exec c s = .next { s with dev := { s.dev with
             pif := s.dev.answers p b (r.says tag .ok 0 (.history [] 0))
             rtu := { s.dev.rtu with cursors := cursors, jobs := put s.dev.rtu.jobs (Port.idx p) none } } })
         ∧ (∀ k, s.dev.hiu.zoneFor start = some k →
             let page := holdingPage s.flash k start
             exec c s = .next { s with dev := ({ s.dev with
               pif := s.dev.waitsFor p b r.code tag
               rtu := { s.dev.rtu with
                 cursors := cursors
                 jobs := put s.dev.rtu.jobs (Port.idx p) (some ⟨.history
                   { start := start, found := [], zone := k, page := page, zoneFirst := s.dev.hiu.firstOf k
                     skipped := false }, s.dev.cursor p, false⟩) }
               arc := { s.dev.arc with waiting := s.dev.arc.waiting ++
                 [ArrReq.mk (.rtu p) (.read ⟨ringZone k, page⟩ 0 1024 0 0)] } }).arcSettle })))
  ∧ (∀ (p : Port) (s : State) (h : HistoryRead) (at_ : PageAddr) (prior : Cursor) (a l b m : Nat),
       s.powered = true → s.dev.arc.op = some ⟨.rtu p, .read at_ a l b m⟩ → at_.zone.val < 19 →
       s.dev.job p = some ⟨.history h, prior, true⟩ →
       let idle : Dev := { s.dev with arc := { s.dev.arc with op := none } }
       let becomes (d : Dev) : Prop := exec .historyReadDone s = .next { s with dev := d.settle }
       let skips (x : HistoryRead) : Byte := if x.skipped || x.firstSeq.any (x.start < ·) then 0x08 else 0x00
       let more (x : HistoryRead) : Byte := if x.lastSeq.any (· < s.dev.hiu.newestStored) then 0x02 else 0x00
       let replied (x : HistoryRead) (flags : Byte) : Dev := { idle with
         pif := (s.dev.reply p .ok flags (.history x.entries x.omitted)).pif
         rtu := { s.dev.rtu with
           cursors := put s.dev.rtu.cursors (Port.idx p) (.history x.wanted)
           jobs := put s.dev.rtu.jobs (Port.idx p) none } }
       let reads (x : HistoryRead) (k : RingIdx) (page : PageNo) : Dev := { idle with
         rtu := { s.dev.rtu with jobs := put s.dev.rtu.jobs (Port.idx p) (some ⟨.history
           { x with zone := k, page := page, zoneFirst := s.dev.hiu.firstOf k }, prior, false⟩) }
         arc := { idle.arc with waiting := s.dev.arc.waiting ++
           [ArrReq.mk (.rtu p) (.read ⟨ringZone k, page⟩ 0 1024 0 0)] } }
       let goesOn (x : HistoryRead) (least : Nat) : Prop :=
         (∀ k, s.dev.hiu.zoneFor least = some k → becomes (reads x k (holdingPage s.flash k x.wanted)))
         ∧ (s.dev.hiu.zoneFor least = none → becomes (replied x (skips x)))
       let kept (x : Found) : Prop := ∃ last, (s.dev.hiu.ring[x.zone]).range = some (x.zoneFirst, last)
       ∀ keep : Found → Bool, (∀ x ∈ h.found, keep x = true ↔ kept x) →
       let left := { h with found := h.found.filter keep, skipped := h.skipped || h.found.any (!keep ·) }
       (∀ last, (s.dev.hiu.ring[h.zone]).range = some (h.zoneFirst, last) →
         let w := walkPage last 64 left (s.flash.readRange (PageAddr.base ⟨ringZone h.zone, h.page⟩) 1024)
         (w.full = true → becomes (replied w.read (more w.read ||| skips w.read)))
         ∧ (w.full = false → h.page.val < s.dev.hiu.lastPage h.zone → w.read.wanted ≤ last →
             becomes (reads w.read h.zone (h.page + 1)))
         ∧ (w.full = false → (s.dev.hiu.lastPage h.zone ≤ h.page.val ∨ last < w.read.wanted) →
             goesOn w.read (max w.read.wanted (last + 1))))
       ∧ ((∀ last, (s.dev.hiu.ring[h.zone]).range ≠ some (h.zoneFirst, last)) →
           goesOn { left with skipped := true } (max left.wanted h.zoneFirst)))
  ∧ (∀ h : HistoryRead,
       h.entries = h.found.flatMap (·.bytes) ∧ h.omitted = (h.found.filter (·.seq == none)).length
       ∧ h.firstSeq = (h.found.filterMap (·.seq)).head? ∧ h.lastSeq = (h.found.filterMap (·.seq)).getLast?
       ∧ (∀ n, h.lastSeq = some n → h.wanted = n + 1) ∧ (h.lastSeq = none → h.wanted = h.start))
  ∧ (∀ (h : Hiu) (n : Nat),
       (h.zoneFor n = none ↔ ∀ (k : RingIdx) (x : Nat × Nat), (h.ring[k]).range = some x → x.2 < n)
       ∧ (∀ k, h.zoneFor n = some k → ∃ x, (h.ring[k]).range = some x ∧ n ≤ x.2 ∧ h.firstOf k = x.1
           ∧ ∀ (j : RingIdx) (y : Nat × Nat), (h.ring[j]).range = some y → n ≤ y.2 → x.1 ≤ y.1)
       ∧ (n < h.newestStored ↔ ∃ (k : RingIdx) (x : Nat × Nat), (h.ring[k]).range = some x ∧ n < x.2)
       ∧ (∀ k : RingIdx, h.lastPage k = match h.target with
           | some t => if t.zone = k then t.page.val else 31
           | none => 31))
  ∧ (∀ (m : Memory) (k : RingIdx) (n : Nat),
       let holds (p : PageNo) : Prop := ∃ x, headerOutcome (m.header ⟨ringZone k, p⟩) = .good x
         ∧ x.kind = kindHistory ∧ x.firstSeq ≤ n
       (holds (holdingPage m k n) ∧ ∀ p, holds p → p ≤ holdingPage m k n)
         ∨ (holdingPage m k n = 0 ∧ ∀ p, ¬holds p))

/-- STREAM_READ_DONE builds the reply with the decoded bytes and their counts, moves the cursor to the range's end,
offers the INTEGRITY event with the incident, the stream and the count and raises the INTEGRITY notice when a chunk is
UNCORRECTABLE, and neither else (R184, R185, R55, R109, R110). That a page without a GOOD DUMP header is returned
without a decode is the model's choice (log entry 21). A chunk read against its own check word is CLEAN, one inverted
data bit is CORRECTED back, one inverted check bit is CORRECTED with the data as they are, and two inverted data bits
are UNCORRECTABLE (R54, R55, Table 3.4; the code's columns are a free value, log entry 6). -/
def Obligations.StreamReadDone : Prop :=
  (∀ (p : Port) (s : State) (incident stream offset len : Nat) (more : Bool) (page at_ : PageAddr) (prior : Cursor)
     (a l b m : Nat), s.powered = true → s.dev.arc.op = some ⟨.rtu p, .read at_ a l b m⟩ → 19 ≤ at_.zone.val →
     s.dev.job p = some ⟨.stream incident stream offset len more page, prior, true⟩ →
     let x := decodeRead s.flash page (match headerOutcome (s.flash.header page) with
       | .good y => if y.kind = kindDump then y.fill else 0
       | _ => 0) (offset % 1024) len
     ∃ e : Dev, exec .streamReadDone s = .next { s with dev := e }
       ∧ e.pif = (s.dev.reply p .ok (if more then 0x02 else 0x04)
           (.stream offset x.data x.corrected x.uncorrectable)).pif
       ∧ (∃ gone, e.cursor p = .stream incident stream (offset + len) gone) ∧ e.job p = none ∧ e.arc.op = none
       ∧ (0 < x.uncorrectable → ∀ l ∈ [e.ntu.management, e.ntu.service],
           ∃ n ∈ l, n.cause = .integrity ∧ n.detail = BitVec.ofNat 32 incident)
       ∧ (let body := f1 (leBytes 4 incident ++ leBytes 1 stream ++ leBytes 2 x.uncorrectable)
          0 < x.uncorrectable → s.dev.records e body 2 0x0006 ∧ s.dev.offers e body 2 .internal 0x0006)
       ∧ (x.uncorrectable = 0 →
           Dev.settlesTo { s.dev with pif := e.pif, rtu := e.rtu, arc := { s.dev.arc with op := none } } e)
       ∧ Dev.logsTo { s.dev with pif := e.pif, rtu := e.rtu, arc := { s.dev.arc with op := none } } e
       ∧ ∀ q, q ≠ p → e.cursor q = s.dev.cursor q ∧ e.job q = s.dev.job q)
  ∧ (∀ bs : List Byte, bs.length = 64 →
       decodeChunk bs (checkWord bs) = (.clean, bs)
       ∧ (∀ i, i < 512 → decodeChunk (flipBit bs i) (checkWord bs) = (.corrected, bs))
       ∧ (∀ k, k < 16 → decodeChunk bs (checkWord bs ^^^ (1#16 <<< k)) = (.corrected, bs))
       ∧ (∀ i j, i < 512 → j < 512 → i ≠ j →
           (decodeChunk (flipBit (flipBit bs i) j) (checkWord bs)).1 = .uncorrectable))

/-! ### History -/

/-- LOG_EVENT takes its entry with the next sequence number and the present tick and answers the number; where no
entry can be taken it is lost: the lost-event count rises, HISTORY_LOST is raised in both sets, and the reply is
DROPPED with the count (R112, R109, R110). No entry is taken while the intake queue is full, history is halted or no
number is left (R109, R122). The test of R122 halts history where fewer than 2 usable ring zones are unpinned, with
its notice in both sets; the test at a release lets it go on where 2 are, unless the numbers are exhausted (R122,
R125, R109; no notice where the flag already stands, log entry 35). -/
def Obligations.LogEvent : Prop :=
  (∀ (p : Port) (tag : Byte) (b : List Byte) (s : State), s.reaches p .logEvent b →
    let body : HBody := if b.length = 3 then .plain
      else if b.length = 11 then .data8 (BitVec.ofNat 64 (field b 3 8)) else .data24 (BitVec.ofNat 192 (field b 3 24))
    (s.dev.hiu.canTake = true →
      ∃ e : Dev, exec (.logEvent p tag b) s = .next { s with dev := e }
        ∧ Dev.logsTo { s.dev with
            pif := s.dev.answers p b (Request.logEvent.says tag .ok 0 (.logged s.dev.hiu.nextSeq)) } e
        ∧ (⟨body, byte b 0, .port p, field b 1 2, s.dev.hiu.nextSeq, s.dev.tmb.tick⟩ : HEntry) ∈ e.hiu.unflushed)
    ∧ (s.dev.hiu.canTake = false →
        let lost := min 65535 (s.dev.hiu.lost + 1)
        exec (.logEvent p tag b) s = .next { s with dev := ({ s.dev with
          pif := s.dev.answers p b (Request.logEvent.says tag .dropped 0 (.dropped lost))
          hiu := { s.dev.hiu with lost := lost }
          ntu := { s.dev.ntu with
            management := raiseIn s.dev.ntu.management .historyLost (BitVec.ofNat 32 lost)
            service := raiseIn s.dev.ntu.service .historyLost (BitVec.ofNat 32 lost) } }).settle }))
  ∧ (∀ h : Hiu, h.canTake = true ↔ h.intake.length < 32 ∧ h.halted = false ∧ h.nextSeq ≤ 4294967295)
  ∧ (∀ d : Dev,
      let free := ((List.finRange 16).filter fun k : RingIdx =>
        (d.hiu.ring[k]).state != .defective && (d.hiu.ring[k]).pins.isEmpty).length
      (free < 2 → d.hiu.halted = false →
        d.haltTest = ({ d with hiu := { d.hiu with halted := true } }).raise .historyHalted free)
      ∧ ((2 ≤ free ∨ d.hiu.halted = true) → d.haltTest = d)
      ∧ (2 ≤ free → d.hiu.halted = true → d.hiu.nextSeq ≤ 4294967295 →
          d.resumeTest = ({ d with hiu := { d.hiu with halted := false } }).gapTest.hiuMove.awaitTest)
      ∧ ((free < 2 ∨ d.hiu.halted = false ∨ 4294967295 < d.hiu.nextSeq) → d.resumeTest = d))

/-! ### Triggers and openings -/

/-- A DECLARE while no incident is RECORDING, with a FREE slot, an incident number left and a place in the directory
queue, opens an incident in the lowest-numbered FREE slot (R4, R5, R7, R8, R18, R19, Table 1.7). Its window is that of
`Dev.pinWindow` on the state after the TRIGGER event, and the ring zones it pins are pinned. The window: its last
number is the TRIGGER entry's, or that of the last entry taken; its first is that of the entry W before it or of the
oldest entry, whichever is later; its zones are pinned one after another from the newest back through the ring, the
zone of the entries not yet programmed first, as far as the pin limit of 12 lets them, and where it stops them the
first number moves to that of the last zone pinned; the shortened flag is set where the TRIGGER entry was lost, where
the limit stopped it, or where the window holds fewer than W + 1 entries, stored or not yet programmed; then the test
of R122 follows, once for the window (R123, R124, R122; when it is made is the model's choice, log entry 48). Choices
of the model: a window of which nothing is stored or staged is the last entry alone (log entry 19), and the zone
pinned last is the oldest pinned (log entry 37). -/
def Obligations.DeclareOpensAnIncident : Prop :=
  (∀ (p : Port) (tag : Byte) (b : List Byte) (s : State) (i : DirSlot), s.reaches p .declare b →
    s.dev.drm.at? s.dev.ict.recording = none → s.dev.ict.opening = none →
    s.dev.drm.nextIncident ≤ 4294967295 → s.dev.drm.freeSlot = some i →
    s.dev.drm.captureWaiters = [] → s.dev.drm.queue.length < 80 →
    let n := s.dev.drm.nextIncident
    let t : TriggerRecord := ⟨.declared p, s.dev.tmb.tick, s.dev.wallNow, s.dev.snapshot⟩
    let logged := (({ s.dev with pif := s.dev.waitsFor p b 0x05 tag } : Dev).triggerEvent t n .opened).dev
    let seq := if s.dev.hiu.canTake then some s.dev.hiu.nextSeq else none
    let pinned := (logged.pinWindow n seq).1
    let w := (logged.pinWindow n seq).2
    ∃ e : Dev, exec (.declare p tag b) s = .next { s with dev := e }
      ∧ e.pif = s.dev.answers p b (Request.declare.says tag .ok 0 (.declared .opened n))
      ∧ w.last = (if s.dev.hiu.canTake then s.dev.hiu.nextSeq else s.dev.hiu.nextSeq - 1)
      ∧ e.drm = { s.dev.drm with
           dir := put s.dev.drm.dir i (some
             { state := .recording, number := n, epoch := s.dev.drm.epoch, primary := t, secondary := [], overflow := 0
               streams := [], windowFirst := w.first, windowLast := w.last, shortened := w.shortened
               completeness := none, held := false, retrieved := false })
           queue := s.dev.drm.queue ++ [.incidentOpen i.val n s.dev.drm.epoch t w.first w.last w.shortened]
           nextIncident := n + 1
           writer := e.drm.writer }
      ∧ e.hiu = { pinned.hiu with writer := e.hiu.writer }
      ∧ e.ict = { s.dev.ict with
          recording := some i, windowExpired := false
          attn := #v[s.dev.holds .s0 .capture, s.dev.holds .s1 .capture, s.dev.holds .s2 .capture,
            s.dev.holds .s3 .capture] }
      ∧ e.tmb = { s.dev.tmb with deadlines := { s.dev.tmb.deadlines with
          window := some (s.dev.tmb.tick + BitVec.ofNat 48 (s.dev.sst.working.window * 1000))
          limit := some (s.dev.tmb.tick + BitVec.ofNat 48 (s.dev.sst.working.limit * 1000))
          flush := e.tmb.deadlines.flush } }
      ∧ (s.dev.hiu.canTake = true →
          (⟨.trigger n (.declared p) t.tick t.snapshot .opened, 0, .internal, 0x0001, s.dev.hiu.nextSeq, t.tick⟩
            : HEntry) ∈ e.hiu.unflushed)
      ∧ (∀ l ∈ [e.ntu.management, e.ntu.service],
          ∃ x ∈ l, x.cause = .incidentOpened ∧ x.detail = BitVec.ofNat 32 n)
      ∧ s.dev.keepsAllBut [.pif, .ict, .arc, .drm, .hiu, .tmb, .ntu] e)
  ∧ (∀ (d : Dev) (n : Nat) (seq : Option Nat),
      let h := d.hiu
      let last := seq.getD (h.nextSeq - 1)
      let width := d.sst.working.historyWindow
      let e := (d.pinWindow n seq).1
      let w := (d.pinWindow n seq).2
      (last = 0 → e = d ∧ w = ⟨1, 0, true⟩)
      ∧ (last ≠ 0 → ∃ (first : Nat) (done left : List WindowZone) (pinned : Hiu),
          (∀ o, h.oldest = some o → o ≤ last → first = max (last - width) o)
          ∧ (∀ o, h.oldest = some o → last < o → first = last)
          ∧ (h.oldest = none → first = last)
          ∧ h.windowZones first last = done ++ left
          ∧ e = ({ d with hiu := pinned }).haltTest
          ∧ pinned = { h with ring := pinned.ring, deferred := pinned.deferred }
          ∧ (∀ k : RingIdx, (pinned.ring[k]).state = (h.ring[k]).state ∧ (pinned.ring[k]).range = (h.ring[k]).range
              ∧ (WindowZone.ring k ∈ done → ∀ x, x ∈ (pinned.ring[k]).pins ↔ x = n ∨ x ∈ (h.ring[k]).pins)
              ∧ (WindowZone.ring k ∉ done → (pinned.ring[k]).pins = (h.ring[k]).pins))
          ∧ (WindowZone.deferred ∈ done → ∀ x, x ∈ pinned.deferred ↔ x = n ∨ x ∈ h.deferred)
          ∧ (WindowZone.deferred ∉ done → pinned.deferred = h.deferred)
          ∧ (h.pinCount ≤ 12 → pinned.pinCount ≤ 12)
          ∧ (∀ z l, left = z :: l → 12 ≤ pinned.pinCount
              ∧ (∀ k, z = .ring k → (pinned.ring[k]).pins = []) ∧ (z = .deferred → pinned.deferred = []))
          ∧ w.last = last
          ∧ w.first = (if left = [] then first else (done.getLast?.map h.zoneFirst).getD last)
          ∧ (w.shortened = true ↔ seq = none ∨ left ≠ [] ∨ h.windowSize w.first last < width + 1)))
  ∧ (∀ (h : Hiu) (first last : Nat),
      let unwritten : Prop := ∃ x ∈ h.unflushed, first ≤ x.seq ∧ x.seq ≤ last
      (∃ l : List Nat, h.windowSize first last = l.length ∧ l.Nodup ∧ ∀ n, n ∈ l ↔ first ≤ n ∧ n ≤ last
        ∧ ((∃ (k : RingIdx) (x : Nat × Nat), (h.ring[k]).range = some x ∧ x.1 ≤ n ∧ n ≤ x.2)
          ∨ ∃ x ∈ h.unflushed, x.seq = n))
      ∧ (∀ k : RingIdx, WindowZone.ring k ∈ h.windowZones first last ↔
        (∃ x, (h.ring[k]).range = some x ∧ first ≤ x.2 ∧ x.1 ≤ last)
          ∨ (unwritten ∧ ∃ t, h.target = some t ∧ t.zone = k))
      ∧ (WindowZone.deferred ∈ h.windowZones first last ↔ unwritten ∧ h.target = none)
      ∧ (∃ l : List RingIdx,
          l.Pairwise (fun j k => (h.newest.val + 16 - j.val) % 16 < (h.newest.val + 16 - k.val) % 16)
          ∧ (¬unwritten → h.windowZones first last = l.map .ring)
          ∧ (∀ t, unwritten → h.target = some t →
              t.zone ∉ l ∧ h.windowZones first last = .ring t.zone :: l.map .ring)
          ∧ (unwritten → h.target = none → h.windowZones first last = .deferred :: l.map .ring))
      ∧ (h.oldest = none ↔ h.unflushed = [] ∧ ∀ k : RingIdx, (h.ring[k]).range = none)
      ∧ (∀ o, h.oldest = some o →
          (∀ (k : RingIdx) (x : Nat × Nat), (h.ring[k]).range = some x → o ≤ x.1)
          ∧ (∀ x l, h.unflushed = x :: l → o ≤ x.seq)
          ∧ ((∃ (k : RingIdx) (x : Nat × Nat), (h.ring[k]).range = some x ∧ x.1 = o)
              ∨ ∃ x l, h.unflushed = x :: l ∧ x.seq = o))
      ∧ (∀ k : RingIdx, h.zoneFirst (.ring k) = match (h.ring[k]).range with
          | some x => x.1
          | none => ((h.unflushed.head?).map (·.seq)).getD 0))

/-- A DECLARE while an incident is RECORDING is a secondary trigger of it: while four are not yet recorded it joins
the record with TRIGGER_ADD, or waits for a place; after four the overflow count rises, up to 255 (R11, R4, R95). A
DECLARE while no incident is RECORDING that cannot open one now: with an opening pending it joins it and its port
waits; without an incident number, or without a slot while roll-oldest finds none, it is refused with its event and
notice; without room in the directory queue it becomes the pending opening (R10, R12, R29, Table 1.7). -/
def Obligations.DeclareJoinsWaitsOrIsRefused : Prop :=
  (∀ (p : Port) (tag : Byte) (b : List Byte) (s : State) (i : DirSlot) (x : Incident), s.reaches p .declare b →
     s.dev.ict.recording = some i → s.dev.drm.dir[i] = some x → s.dev.drm.slotOf x.number = some i →
     ∃ e : Dev, exec (.declare p tag b) s = .next { s with dev := e }
       ∧ s.dev.offers e (.trigger x.number (.declared p) s.dev.tmb.tick s.dev.snapshot .secondary) 0 .internal 0x0001
       ∧ Dev.logsTo { s.dev with
           pif := s.dev.answers p b (Request.declare.says tag .ok 0 (.declared .secondary x.number))
           drm :=
             if s.dev.secondaryCount x < 4 then
               if s.dev.drm.captureWaiters = [] ∧ s.dev.drm.queue.length < 80 then
                 { s.dev.drm with
                   queue := s.dev.drm.queue ++ [.triggerAdd x.number (.declared p) s.dev.tmb.tick]
                   dir := put s.dev.drm.dir i
                     (some { x with secondary := x.secondary ++ [(.declared p, s.dev.tmb.tick)] }) }
               else { s.dev.drm with captureWaiters := s.dev.drm.captureWaiters ++
                 [.triggerAdd x.number (.declared p) s.dev.tmb.tick] }
             else { s.dev.drm with
               dir := put s.dev.drm.dir i (some { x with overflow := min 255 (x.overflow + 1) }) } } e)
  ∧ (∀ (p : Port) (tag : Byte) (b : List Byte) (s : State), s.reaches p .declare b →
       s.dev.drm.at? s.dev.ict.recording = none →
       let t : TriggerRecord := ⟨.declared p, s.dev.tmb.tick, s.dev.wallNow, s.dev.snapshot⟩
       (∀ o, s.dev.ict.opening = some o →
         exec (.declare p tag b) s = .next { s with dev := ({ s.dev with
           pif := s.dev.waitsFor p b 0x05 tag
           ict := { s.dev.ict with
             opening := some { o with joined := o.joined ++ [Joined.mk t (some p)] } } }).settle })
       ∧ (s.dev.ict.opening = none → s.dev.openingWay = .refused →
           ∃ e : Dev, exec (.declare p tag b) s = .next { s with dev := e }
             ∧ Dev.logsTo { s.dev with
                 pif := s.dev.answers p b (Request.declare.says tag .ok 0 (.declared .refused 0)) } e
             ∧ s.dev.offers e (.trigger 0 (.declared p) t.tick t.snapshot .refused) 0 .internal 0x0001
             ∧ ∀ l ∈ [e.ntu.management, e.ntu.service], ∃ x ∈ l, x.cause = .triggerRefused ∧ x.detail = 0)
       ∧ (s.dev.ict.opening = none → s.dev.openingWay ≠ .refused →
           s.dev.drm.capRoom s.dev.openingWay.places = false →
           exec (.declare p tag b) s = .next { s with dev := ({ s.dev with
             pif := s.dev.waitsFor p b 0x05 tag
             ict := { s.dev.ict with opening := some ⟨t, some p, []⟩ }
             drm := { s.dev.drm with captureWaiters := s.dev.drm.captureWaiters ++ [CapWaiter.opening] } }).settle }))

/-- The ways of an opening (the last four rows of Table 1.7): the lowest-numbered FREE slot; else, with roll-oldest
on, the KEPT incident of the lowest number that is not held, in its slot; else the trigger is refused (R8, R9, R10,
R18). A DECLARE that opens by roll-oldest releases that incident first, with all that a release does, and then opens
in its slot: RELEASE and INCIDENT_OPEN join the directory queue in this order (R9, R104). -/
def Obligations.OpeningsGoByTheTable : Prop :=
  (∀ d : Dev,
    (4294967295 < d.drm.nextIncident → d.openingWay = .refused)
    ∧ (d.drm.nextIncident ≤ 4294967295 →
        (∀ i, d.drm.freeSlot = some i → d.openingWay = .slot i ∧ d.drm.dir[i] = none
          ∧ ∀ j : DirSlot, j < i → d.drm.dir[j] ≠ none)
        ∧ (d.drm.freeSlot = none → d.sst.working.rollOldest ≠ 1 → d.openingWay = .refused)
        ∧ (d.drm.freeSlot = none → d.sst.working.rollOldest = 1 →
            ((∀ x ∈ d.drm.records, x.state ≠ .kept ∨ x.held = true) → d.openingWay = .refused)
            ∧ (∀ x ∈ d.drm.records, x.state = .kept → x.held = false →
                ∃ (i : DirSlot) (y : Incident), d.openingWay = .roll i y.number ∧ d.drm.dir[i] = some y
                  ∧ y ∈ d.drm.records ∧ y.state = .kept ∧ y.held = false ∧ y.number ≤ x.number))))
  ∧ (∀ (p : Port) (tag : Byte) (b : List Byte) (s : State) (i : DirSlot) (m : Nat), s.reaches p .declare b →
      s.dev.drm.at? s.dev.ict.recording = none → s.dev.ict.opening = none → s.dev.openingWay = .roll i m →
      s.dev.drm.captureWaiters = [] → s.dev.drm.queue.length + 2 ≤ 80 →
      let n := s.dev.drm.nextIncident
      let t : TriggerRecord := ⟨.declared p, s.dev.tmb.tick, s.dev.wallNow, s.dev.snapshot⟩
      let released := ({ s.dev with pif := s.dev.waitsFor p b 0x05 tag } : Dev).releaseIncident i m .internal
      let logged := released.triggerEvent t n .opened
      let w := (logged.dev.pinWindow n logged.seq).2
      ∃ e : Dev, exec (.declare p tag b) s = .next { s with dev := e }
        ∧ (s.dev.job p = none → e.port p = ({ s.dev with
            pif := s.dev.answers p b (Request.declare.says tag .ok 0 (.declared .opened n)) } : Dev).port p)
        ∧ e.drm = { s.dev.drm with
            dir := put s.dev.drm.dir i (some
              { state := .recording, number := n, epoch := s.dev.drm.epoch, primary := t, secondary := []
                overflow := 0, streams := [], windowFirst := w.first, windowLast := w.last, shortened := w.shortened
                completeness := none, held := false, retrieved := false })
            queue := s.dev.drm.queue ++
              [.release m, .incidentOpen i.val n s.dev.drm.epoch t w.first w.last w.shortened]
            nextIncident := n + 1
            writer := e.drm.writer }
        ∧ e.ict = { s.dev.ict with
            recording := some i, windowExpired := false
            attn := #v[s.dev.holds .s0 .capture, s.dev.holds .s1 .capture, s.dev.holds .s2 .capture,
              s.dev.holds .s3 .capture] }
        ∧ (∀ k, SMap.get .erased e.plm.pages k = match SMap.get .erased s.dev.plm.pages k with
            | .live inc stream seq fill => if inc = m then .dead else .live inc stream seq fill
            | y => y)
        ∧ (∀ z, (e.plm.zone z).holders = (s.dev.plm.zone z).holders.filter (· != m)
            ∧ (e.plm.zone z).state = if (s.dev.plm.zone z).state = .full ∧ m ∈ (s.dev.plm.zone z).holders
                  ∧ (s.dev.plm.zone z).holders.filter (· != m) = [] then .retired else (s.dev.plm.zone z).state)
        ∧ (m ≠ n → (∀ k : RingIdx, m ∉ (e.hiu.ring[k]).pins) ∧ m ∉ e.hiu.deferred)
        ∧ (∀ q stream offset gone, s.dev.cursor q = .stream m stream offset gone →
            e.cursor q = .stream m stream offset true)
        ∧ (∀ l ∈ [e.ntu.management, e.ntu.service],
            ∃ x ∈ l, x.cause = .incidentOpened ∧ x.detail = BitVec.ofNat 32 n)
        ∧ s.dev.keepsAllBut [.pif, .ict, .plm, .arc, .drm, .hiu, .tmb, .ntu, .rtu] e)

/-! ### Streams -/

/-- OPEN_STREAM is refused by the first condition of Table 2.3 that fails, with no effect; one that stands without a
place in the directory queue waits as a capture requester (R27, R29, R95). Else it takes the lowest-numbered FREE slot
with a new generation, queues STREAM_OPEN, adds the stream record and deasserts the socket's ATTN line; the reply
carries the handle and the numbers (R28, R24, R25, R19). That the conditions are judged before the request waits is
the model's reading (log entry 16). -/
def Obligations.OpenStreamTakesASlot : Prop :=
  (∀ (p : Port) (tag : Byte) (b : List Byte) (s : State), s.reaches p .openStream b →
     let cls := byte b 0
     let answered (status : Status) : Prop :=
       exec (.openStream p tag b) s = .next (s.onlyAnswers p b (Request.openStream.says tag status 0 .empty))
     let power : Prop := ¬(s.dev.hum.mode = .normal ∨ (s.dev.hum.mode = .holdup ∧ cls ≤ 1 ∧ s.dev.hum.closing = none))
     (power → answered .power)
     ∧ (¬power → s.dev.drm.at? s.dev.ict.recording = none → answered .noIncident)
     ∧ (∀ x, ¬power → s.dev.drm.at? s.dev.ict.recording = some x →
         (s.dev.ict.windowExpired = true → answered .windowClosed)
         ∧ (s.dev.ict.windowExpired = false → 12 ≤ x.streams.length → answered .streamLimit)
         ∧ (s.dev.ict.windowExpired = false → x.streams.length < 12 → (∀ i, s.dev.body i ≠ none) → answered .noSlot)
         ∧ (s.dev.ict.windowExpired = false → x.streams.length < 12 → (∃ i, s.dev.body i = none) →
             (s.dev.drm.captureWaiters ≠ [] ∨ 80 ≤ s.dev.drm.queue.length) →
             exec (.openStream p tag b) s = .next { s with dev := { s.dev with
               pif := s.dev.waitsFor p b 0x01 tag
               drm := { s.dev.drm with captureWaiters := s.dev.drm.captureWaiters ++
                 [.openStream p cls (BitVec.ofNat 64 (field b 1 8))
                   (if b.length = 13 then some (field b 9 4) else none)] } } })))
  ∧ (∀ (p : Port) (tag : Byte) (b : List Byte) (s : State) (i : StreamIdx) (k : DirSlot) (x : Incident),
       s.reaches p .openStream b →
       let cls := byte b 0
       let label := BitVec.ofNat 64 (field b 1 8)
       let declared := if b.length = 13 then some (field b 9 4) else none
       let n := x.streams.length
       let gen := (s.dev.cpm.slots[i]).gen + 1
       (s.dev.hum.mode = .normal ∨ (s.dev.hum.mode = .holdup ∧ cls ≤ 1 ∧ s.dev.hum.closing = none)) →
       s.dev.ict.recording = some k → s.dev.drm.dir[k] = some x → s.dev.drm.slotOf x.number = some k →
       s.dev.ict.windowExpired = false → n < 12 → s.dev.freeStreamSlot = some i →
       s.dev.drm.captureWaiters = [] → s.dev.drm.queue.length < 80 →
       exec (.openStream p tag b) s = .next { s with dev := ({ s.dev with
         pif := s.dev.answers p b (Request.openStream.says tag .ok 0 (.opened i gen x.number n))
         cpm := { s.dev.cpm with slots := put s.dev.cpm.slots i ⟨gen, some
           { incident := x.number, stream := n, owner := p, cls := cls, declared := declared, accepted := 0
             committed := 0, pages := 0, nextSeq := 0, fill := none, queued := 0, ending := none, short := false }⟩ }
         ict := s.dev.ict.attnClear p
         drm := { s.dev.drm with
           queue := s.dev.drm.queue ++ [JEntry.streamOpen x.number n (.port p) cls label declared]
           dir := put s.dev.drm.dir k (some { x with
             streams := x.streams ++
               [StreamRec.mk n (.port p) cls label declared 0 0 0 .open none false] }) } }).settle })

/-- APPEND and WITHDRAW are refused by the first check of Table 2.4 that fails, with no effect: the handle, the owner,
an ended stream; and for APPEND the alignment, the declared length and the count's range, and the free blocks (R35,
R36, R39, R31). -/
def Obligations.StreamRequestsAreRefusedInOrder : Prop :=
  ∀ (r : Request) (p : Port) (tag : Byte) (b : List Byte) (s : State), r = .append ∨ r = .withdraw →
    s.reaches p r b →
    let answered (status : Status) (body : ReplyBody) : Prop :=
      exec (r.instr p tag b) s = .next (s.onlyAnswers p b (r.says tag status 0 body))
    ((∀ (i : StreamIdx) (x : StreamBody), s.dev.body i = some x →
        ¬(byte b 0 = i.val ∧ b.getD 1 0 = (s.dev.cpm.slots[i]).gen)) → answered .badHandle .empty)
    ∧ (∀ (i : StreamIdx) (x : StreamBody), byte b 0 = i.val → b.getD 1 0 = (s.dev.cpm.slots[i]).gen →
        s.dev.body i = some x →
        (x.owner ≠ p → answered .notOwner .empty)
        ∧ (∀ e, x.owner = p → x.ending = some e → answered .endedAlready (.endedAlready e x.accepted))
        ∧ (r = .append → x.owner = p → x.ending = none →
            let n := b.length - 3
            (byte b 2 = 0 → n % 8 ≠ 0 → answered .misaligned .empty)
            ∧ ((byte b 2 = 1 ∨ n % 8 = 0) →
                (((∃ l, x.declared = some l ∧ l < x.accepted + n) ∨ 4294967295 < x.accepted + n) →
                  answered .overrun .empty)
                ∧ ((∀ l, x.declared = some l → x.accepted + n ≤ l) → x.accepted + n ≤ 4294967295 →
                    (∀ f, x.fill = some f → 1024 - f.data.length < n) →
                    s.dev.stb.free.length ≤ (if x.cls = 0 then 0 else s.dev.sst.working.class0Reserve) →
                    answered .stagingFull (.accepted x.accepted)))))

/-- An APPEND that passes Table 2.4 is answered OK with the new count and whether the stream has ended; while CME is
at work the slot takes the count and, at FINAL or the declared length, the pending end ENDED with the short flag (R37,
R38). Where the bytes of an APPEND that does not end its stream go, while CME is at work: into the fill block, which
joins the commit queue when it reaches 1024 bytes, and what does not fit into the next free block with the next page
sequence (R31, R32, R33). The directory's record of the stream takes the new count with the bytes committed and the
pages of the slot, and keeps its end kind; where CME then finds no page and the stream, cut STORE_FULL, is released in
the same step, it takes the end kind, the reason, the short flag and the final counts (R25, R44, R47). That the reply shows the state before CME acts, and that the block taken is the one longest
on the free list, are the model's choices (log entries 14 and 13). -/
def Obligations.AppendStagesItsBytes : Prop :=
  (∀ (p : Port) (tag : Byte) (b : List Byte) (s : State) (i : StreamIdx) (x : StreamBody), s.reaches p .append b →
     s.dev.handleTest p b = .ok (i, x) → s.dev.appendTest x (byte b 2 == 1) (b.length - 3) = none →
     let n := x.accepted + (b.length - 3)
     let ends := byte b 2 == 1 || x.declared == some n
     let short := if ends then x.declared.any (n < ·) else x.short
     let takes : Prop := s.dev.hum.mode = .normal ∨ (s.dev.hum.mode = .holdup ∧ s.dev.hum.closing = none)
     ∃ e : Dev, exec (.append p tag b) s = .next { s with dev := e }
       ∧ e.pif = s.dev.answers p b (Request.append.says tag .ok 0 (.appended n ends))
       ∧ s.dev.keepsAllBut [.pif, .ict, .cpm, .stb, .cme, .plm, .arc, .drm, .hiu, .tmb, .ntu] e
       ∧ e.tmb.tick = s.dev.tmb.tick ∧ e.tmb.wall = s.dev.tmb.wall
       ∧ (s.dev.cme.state ≠ .idle → ∀ j, j ≠ i → e.body j = s.dev.body j)
       ∧ (s.dev.cme.state ≠ .idle → ∃ y, e.body i = some y ∧ y.accepted = n
           ∧ y.ending = (if ends then some .ended else none)
           ∧ y.short = short
           ∧ y.committed = x.committed ∧ y.pages = x.pages ∧ (ends = true → y.fill = none))
       ∧ ((s.dev.cme.state ≠ .idle ∨ ¬takes) → s.dev.recordTakes e x { x with accepted := n }.counted)
       ∧ (s.dev.commitQuiet → e.body i ≠ none → s.dev.recordTakes e x { x with accepted := n }.counted)
       ∧ (s.dev.commitQuiet → e.body i = none →
           s.dev.recordTakes e x ({ x with accepted := n, short := short }.closed (.truncated .storeFull))))
  ∧ (∀ (p : Port) (tag : Byte) (b : List Byte) (s : State) (i : StreamIdx) (x : StreamBody), s.reaches p .append b →
       s.dev.handleTest p b = .ok (i, x) → byte b 2 = 0 →
       s.dev.appendTest x false (b.length - 3) = none → x.declared ≠ some (x.accepted + (b.length - 3)) →
       s.dev.cme.state ≠ .idle →
       let data := b.drop 3
       let n := x.accepted + data.length
       let fresh (id : Nat) (bytes : List Byte) : Block :=
         ⟨id, i, (s.dev.cpm.slots[i]).gen, x.incident, x.stream, x.cls, x.nextSeq, bytes⟩
       ∃ e : Dev, exec (.append p tag b) s = .next { s with dev := e }
         ∧ (∀ f, x.fill = some f → f.data.length + data.length < 1024 →
             e.body i = some { x with accepted := n, fill := some { f with data := f.data ++ data } }
               ∧ e.stb = s.dev.stb)
         ∧ (∀ f, x.fill = some f → f.data.length + data.length = 1024 →
             e.body i = some { x with accepted := n, fill := none, queued := x.queued + 1 }
               ∧ e.stb = { s.dev.stb with queue := joinQueue s.dev.stb.queue { f with data := f.data ++ data } })
         ∧ (∀ f id rest, x.fill = some f → f.data.length ≤ 1024 → 1024 < f.data.length + data.length →
             s.dev.stb.free = id :: rest →
             e.body i = some { x with
                 accepted := n, queued := x.queued + 1, nextSeq := x.nextSeq + 1
                 fill := some (fresh id (data.drop (1024 - f.data.length))) }
               ∧ e.stb.free = rest
               ∧ e.stb.queue = joinQueue s.dev.stb.queue { f with data := f.data ++ data.take (1024 - f.data.length) })
         ∧ (∀ id rest, x.fill = none → s.dev.stb.free = id :: rest →
             e.body i = some { x with accepted := n, nextSeq := x.nextSeq + 1, fill := some (fresh id data) }
               ∧ e.stb = { s.dev.stb with free := rest }))

/-- Every step keeps each staging block, filling, queued or under program, within its 1024 bytes, and each of the 64
blocks in exactly one of the four places, the free list, a fill position, the commit queue and under program (R30,
R32). Every step keeps the halted flag set while fewer than 2 usable ring zones have an empty pin set (R122). -/
def Obligations.EveryStepKeepsBlocksInSize : Prop :=
  (∀ s t : State, s.dev.blocksFit → step s = .next t → t.dev.blocksFit)
  ∧ (∀ s t : State, s.dev.blocksFit → s.dev.blocksPlaced → step s = .next t → t.dev.blocksPlaced)
  ∧ (∀ s t : State, s.dev.hiu.haltFlagged → step s = .next t → t.dev.hiu.haltFlagged)

/-- The commit queue is ordered by class, and a block that joins stands behind every block of its own class or a lower
class number and ahead of every block of a higher one. CME at rest takes the head with the page that PLM gives it,
while the mode lets it; without a page every stream that has a block on the queue is cut STORE_FULL, one after another,
and CME stays at rest (R33, R71, R72, R79, R44). The program that CME places holds the data, completed with FFH to a
chunk, the page header and the check words (R74, R54). The page is the next of the fill zone; where that has none left,
the first page of a new fill zone, the first FREE zone in ascending order from the search cursor on, round to it; else
none (R72, R73). A new fill zone tests POOL_LOW, which is raised with the FREE count below its threshold (R89). A fill
zone whose pages are all given leaves FILLING: FULL while an incident holds it, else RETIRED (R82). -/
def Obligations.TheCommitQueueIsOrderedByClass : Prop :=
  (∀ (q : List Block) (b : Block), q.Pairwise (fun x y => x.cls ≤ y.cls) →
     (joinQueue q b).Pairwise (fun x y => x.cls ≤ y.cls)
     ∧ ∃ l r, q = l ++ r ∧ joinQueue q b = l ++ b :: r ∧ (∀ x ∈ l, x.cls ≤ b.cls) ∧ (∀ x ∈ r, b.cls < x.cls))
  ∧ (∀ (d : Dev) (b : Block) (rest : List Block), d.cme.state = .idle → d.stb.queue = b :: rest →
       (d.hum.mode = .normal ∨ (d.hum.mode = .holdup ∧ d.hum.closing = none)) →
       ∀ p d', d.givePage = some (p, d') →
         d.cmeTest = ({ d' with stb := { d'.stb with queue := rest } }).commitOn b p 0)
  ∧ (∀ d : Dev, d.cme.state = .idle → (∀ b ∈ d.stb.queue, d.body b.slot ≠ none) →
       (d.hum.mode = .normal ∨ (d.hum.mode = .holdup ∧ d.hum.closing = none)) → d.givePage = none →
       let e := d.cmeTest
       e.cme = d.cme ∧ e.stb.queue = [] ∧ e.plm = d.plm
       ∧ (∀ (i : StreamIdx) (x : StreamBody), d.body i = some x →
           ((∃ b ∈ d.stb.queue, b.slot = i) →
             e.takesEnd i x (match x.ending with
               | none | some .ended => .truncated .storeFull
               | some k => k)
             ∧ e.reportsCut x .storeFull)
           ∧ ((∀ b ∈ d.stb.queue, b.slot ≠ i) → e.body i = some x))
       ∧ (∀ b rest x, d.stb.queue = b :: rest → d.body b.slot = some x → d.records e (cutBody x .storeFull) 2 0x0005))
  ∧ (∀ (d : Dev) (b : Block) (p : PageAddr) (retry : Nat),
       let header : Header := { kind := kindDump, epoch := d.drm.epoch, incident := b.incident, stream := b.stream
                                seq := b.seq, fill := b.data.length }
       ∃ fillers : List Byte, (∀ x ∈ fillers, x = 0xFF) ∧ fillers.length < 64
         ∧ (b.data.length + fillers.length) % 64 = 0
         ∧ d.commitOn b p retry = { d with
             cme := ⟨.waitGrant, some b, some p, retry, false⟩
             arc := { d.arc with waiting := d.arc.waiting ++ [ArrReq.mk .commit (.program p 0 (b.data ++ fillers) 0
               (header.bytes ++ (List.range 16).flatMap fun k =>
                 leBytes 2 (if k * 64 < b.data.length
                   then (checkWord (((b.data ++ fillers).drop (k * 64)).take 64)).toNat else 0xFFFF)))] } })
  ∧ (∀ d : Dev,
       (∀ z, d.plm.fillZone = some z → (d.plm.zone z.val).nextPage < 32 →
         let n := (d.plm.zone z.val).nextPage
         d.givePage = some (⟨z, Fin.ofNat 32 n⟩, { d with plm :=
           (d.plm.setZone z { d.plm.zone z.val with nextPage := n + 1 }).setPage ⟨z, Fin.ofNat 32 n⟩ .programming }))
       ∧ ((∀ z, d.plm.fillZone = some z → 32 ≤ (d.plm.zone z.val).nextPage) →
           let free (z : Zone) : Prop := 19 ≤ z.val ∧ (d.plm.zone z.val).state = .free
           let after (z : Zone) : Nat := (z.val + 255 - d.plm.cursor.val) % 256
           ((∀ z, ¬free z) → d.givePage = none)
           ∧ (∀ z, free z → (∀ w, free w → after z ≤ after w) → ∃ e : Dev, d.givePage = some (⟨z, 0⟩, e)
               ∧ e.plm.fillZone = some z ∧ e.plm.cursor = z
               ∧ (∀ w : Zone, e.plm.zone w.val = if w = z then ⟨.filling, 1, []⟩ else d.plm.zone w.val)
               ∧ (∀ p : PageAddr, 19 ≤ p.zone.val →
                   e.plm.page p = if p = ⟨z, 0⟩ then .programming else d.plm.page p)
               ∧ e = { (if e.plm.freeZones < d.sst.working.poolLow then d.raise .poolLow e.plm.freeZones else d) with
                   plm := e.plm }
               ∧ e.plm.reclaim = d.plm.reclaim ∧ e.plm.reclaimAsked = d.plm.reclaimAsked
               ∧ e.plm.reErase = d.plm.reErase)))
  ∧ (∀ m : Plm,
       ((∀ z, m.fillZone = some z → (m.zone z.val).nextPage ≠ 32) → m.usedUpTest = m)
       ∧ (∀ z, m.fillZone = some z → (m.zone z.val).nextPage = 32 →
           m.usedUpTest = { m.setZone z { m.zone z.val with
             state := if (m.zone z.val).holders = [] then .retired else .full } with fillZone := none }))
  ∧ (∀ d : Dev,
       let n := ((List.range' 19 237).filter fun z => (d.plm.zone z).state == .free).length
       d.poolLowTest = if n < d.sst.working.poolLow then d.raise .poolLow n else d)
  ∧ (∀ (m : Plm) (z w : Zone) (x : ZoneEntry), (m.setZone z x).zone w.val = if w = z then x else m.zone w.val)
  ∧ (∀ (m : Plm) (p q : PageAddr) (x : PageEntry), 19 ≤ p.zone.val → 19 ≤ q.zone.val →
       (m.setPage p x).page q = if q = p then x else m.page q)

/-- WITHDRAW ends its stream ABANDONED and answers the bytes accepted. While CME is at work: a stream with bytes
staged keeps its slot, its fill block on the commit queue; a stream with none is released at once, and its record in
the directory takes the end kind and the final counts (R39, R32, R47, R25). -/
def Obligations.WithdrawAbandonsTheStream : Prop :=
  ∀ (p : Port) (tag : Byte) (b : List Byte) (s : State) (i : StreamIdx) (x : StreamBody), s.reaches p .withdraw b →
    s.dev.handleTest p b = .ok (i, x) →
    ∃ e : Dev, exec (.withdraw p tag b) s = .next { s with dev := e }
      ∧ e.pif = s.dev.answers p b (Request.withdraw.says tag .ok 0 (.accepted x.accepted))
      ∧ s.dev.keepsAllBut [.pif, .ict, .cpm, .stb, .cme, .plm, .arc, .drm, .hiu, .tmb, .ntu] e
      ∧ (s.dev.cme.state ≠ .idle → ∀ j, j ≠ i → e.body j = s.dev.body j)
      ∧ (∀ f, s.dev.cme.state ≠ .idle → x.fill = some f →
          e.body i = some { x with ending := some .abandoned, fill := none, queued := x.queued + 1 }
            ∧ e.stb = { s.dev.stb with queue := joinQueue s.dev.stb.queue f })
      ∧ (s.dev.cme.state ≠ .idle → x.fill = none → x.queued ≠ 0 →
          e.body i = some { x with ending := some .abandoned } ∧ e.stb = s.dev.stb)
      ∧ (s.dev.cme.state ≠ .idle → x.fill = none → x.queued = 0 → s.dev.drm.captureWaiters = [] →
          s.dev.drm.queue.length + 3 ≤ 80 →
          e.body i = none
            ∧ (JEntry.streamEnd x.incident x.stream .abandoned none x.short x.accepted x.committed x.pages)
              ∈ e.drm.queue
            ∧ s.dev.recordTakes e x (x.closed .abandoned))

/-! ### Links, supply and reset -/

/-- A link reset puts the port to its reset values, discards its cursor, its read and its requests not yet taken, and
abandons every OPEN stream that the port owns, while a DRAINING one keeps its end kind (R177, R40). While CME is at
work the fill block of a stream so ended stands on the commit queue, and one without blocks is released or waits for a
place (R32, R47). On SVC it stops a reply being sent (R176). The bytes the port
sent last are the model's own field, which it leaves (log entry 24). -/
def Obligations.LinkReset : Prop :=
  ∀ (p : Port) (s : State), s.powered = true →
    ∃ e : Dev, exec (.linkReset p) s = .next { s with dev := e }
      ∧ e.pif = { (s.dev.setPort p ⟨.empty, [], 0, (s.dev.port p).sent⟩).pif with
          svcHunting := s.dev.pif.svcHunting || p == .svc
          svcOut := if p = .svc then none else s.dev.pif.svcOut }
      ∧ e.cursor p = .empty ∧ e.job p = none ∧ (∀ r ∈ e.arc.waiting, r.who ≠ .rtu p)
      ∧ (∀ q, q ≠ p → e.cursor q = s.dev.cursor q ∧ e.job q = s.dev.job q)
      ∧ (∀ cls label declared, .openStream p cls label declared ∉ e.drm.captureWaiters)
      ∧ (∀ o, e.ict.opening = some o → o.port ≠ some p ∧ ∀ j ∈ o.joined, j.port ≠ some p)
      ∧ (∀ x ∈ e.sst.saves, x.port ≠ some p)
      ∧ (s.dev.cme.state ≠ .idle → ∀ i x, s.dev.body i = some x → x.owner ≠ p → e.body i = some x)
      ∧ (∀ i x, e.body i = some x → x.owner = p → x.ending ≠ none)
      ∧ (s.dev.commitQuiet → ∀ i x, s.dev.body i = some x →
          (x.owner = p → x.ending = none → e.takesEnd i x .abandoned)
          ∧ ((x.owner ≠ p ∨ x.ending ≠ none) → e.body i = some x))
      ∧ (s.dev.cme.state ≠ .idle → ∀ i x, s.dev.body i = some x → x.owner = p → x.ending = none →
          e.endsBy i x .abandoned)
      ∧ s.dev.keepsAllBut [.pif, .ict, .cpm, .stb, .cme, .plm, .arc, .drm, .hiu, .tmb, .ntu, .rtu, .sst] e

/-- POWER_UP, and DEVICE_RESET of a powered part, enter START: every block takes its reset value, the scanner's first
read waits, each asserted input begins to be filtered, and the straps give the I2C address (R142, R1, R69, Table
10.1). That a POWER_UP of a part that has power cuts its operations short and starts it anew is the model's choice
(log entry 28). -/
def Obligations.StartIsEntered : Prop :=
  ∀ (ma0 ma1 : Bool) (s : State) (c : Instr), (c = .powerUp ma0 ma1 ∨ (c = .deviceReset ma0 ma1 ∧ s.powered = true)) →
    let d := Dev.reset s.dev.tru.levels (0x34 + (if ma1 then 2 else 0) + (if ma0 then 1 else 0))
    exec c s = .next
      { pending := s.pending
        powered := true
        flash := s.cutShort.flash
        freeCount := s.cutShort.freeCount
        dev := { d with
          arc := { d.arc with waiting := [⟨.scanner, .read ⟨0, 0⟩ 0 1024 0 64⟩] }
          rcs := { d.rcs with pos := .settings 0 }
          tru := { d.tru with timing := s.dev.tru.levels }
          tmb := { d.tmb with deadlines := { d.tmb.deadlines with
            filters := s.dev.tru.levels.map fun x => if x then some 50#48 else none } } } }

/-! ### Lines and deadlines -/

/-- A change of an input: away from its qualified level it starts the filter, back to it cancels the filter, and while
the filter runs a change away moves nothing; a filter time of 0 qualifies the line at once (R1, R161). -/
def Obligations.LineChangeFilters : Prop :=
  ∀ (l : Line) (x : Bool) (s : State), s.powered = true →
    let i := Line.idx l
    let d : Dev := { s.dev with tru := { s.dev.tru with levels := put s.dev.tru.levels i x } }
    (x ≠ s.dev.tru.qualified[i] → s.dev.tru.timing[i] = false → s.dev.sst.working.filters[i] ≠ 0 →
      exec (.lineChange l x) s = .next { s with dev := ({ d with
        tru := { d.tru with timing := put d.tru.timing i true }
        tmb := { d.tmb with deadlines := { d.tmb.deadlines with
          filters := put d.tmb.deadlines.filters i
            (some (d.tmb.tick + BitVec.ofNat 48 s.dev.sst.working.filters[i])) } } }).settle })
    ∧ (x ≠ s.dev.tru.qualified[i] → s.dev.tru.timing[i] = false → s.dev.sst.working.filters[i] = 0 →
        exec (.lineChange l x) s = .next { s with dev := (d.qualify l).settle })
    ∧ (x = s.dev.tru.qualified[i] → s.dev.tru.timing[i] = true →
        exec (.lineChange l x) s = .next { s with dev := ({ d with
          tru := { d.tru with timing := put d.tru.timing i false }
          tmb := { d.tmb with deadlines := { d.tmb.deadlines with
            filters := put d.tmb.deadlines.filters i none } } }).settle })
    ∧ ((x = s.dev.tru.qualified[i] ↔ s.dev.tru.timing[i] = false) →
        exec (.lineChange l x) s = .next { s with dev := d.settle })

/-- The expiry of a filter qualifies the line at the input's level. An asserted fault line whose enable is on is a
trigger, taken in NORMAL and HOLDUP and latched in START and EXHAUSTED unless its latch is full; a PWRWARN edge goes
to HUM, which enters HOLDUP from NORMAL or makes the power return from HOLDUP and EXHAUSTED (R1, R2, R3, R20, R128).
-/
def Obligations.FilterExpiryQualifies : Prop :=
  ∀ (l : Line) (s : State), s.powered = true →
    let i := Line.idx l
    s.dev.tmb.deadlines.filters[i] = some s.dev.tmb.tick →
    let level := s.dev.tru.levels[i]
    let d : Dev := { s.dev with
      tru := { s.dev.tru with timing := put s.dev.tru.timing i false, qualified := put s.dev.tru.qualified i level }
      tmb := { s.dev.tmb with deadlines := { s.dev.tmb.deadlines with
        filters := put s.dev.tmb.deadlines.filters i none } } }
    let becomes (e : Dev) : Prop := exec (.filterExpiry l) s = .next { s with dev := e.settle }
    (∀ f : FaultLine, l = .fault f →
      let on := s.dev.sst.working.lineEnables.getLsbD (FaultLine.idx f).val
      let t : TriggerRecord := ⟨.fault f, d.tmb.tick, d.wallNow, d.snapshot⟩
      ((level = false ∨ on = false) → becomes d)
      ∧ (level = true → on = true → (d.hum.mode = .normal ∨ d.hum.mode = .holdup) → becomes (d.takeTrigger t none))
      ∧ (level = true → on = true → (d.hum.mode = .start ∨ d.hum.mode = .exhausted) →
          (d.tru.latches[FaultLine.idx f] = none →
            becomes { d with tru := { d.tru with latches := put d.tru.latches (FaultLine.idx f) (some t) } })
          ∧ (d.tru.latches[FaultLine.idx f] ≠ none → becomes d)))
    ∧ (l = .pwrwarn →
        (level = true → d.hum.mode = .normal → becomes d.enterHoldup)
        ∧ (level = false → (d.hum.mode = .holdup ∨ d.hum.mode = .exhausted) → becomes d.powerReturn)
        ∧ ((d.hum.mode = .start ∨ (level = true ∧ d.hum.mode ≠ .normal) ∨ (level = false ∧ d.hum.mode = .normal)) →
            becomes d))

/-- What the entry to HOLDUP does: the credits stand and decide between HOLDUP and EXHAUSTED and the closing phase;
the recharge deadline is cancelled and the hold-up deadline armed unless the closing phase begins. Every OPEN stream
of class 2 or 3 takes the end kind TRUNCATED with reason POWER and is reported, in slot order by the model's choice
(log entry 17); while CME is at work and the closing phase does not begin, its fill block stands on the commit queue
and no other stream changes (R42, R46). Waiting reads are withdrawn and answered POWER, their cursors as before the
request; POWER_WARN is raised; with the power trigger setting on, the trigger POWER of this tick is taken, which with
an incident RECORDING is a secondary trigger of it; the tests of the reserve and of a count of 0 come last (R129 to
R132, R134, R65, R181). What a power return does: NORMAL without a closing phase, the hold-up deadline cancelled, the
recharge deadline armed with the credits left standing, or the full credits at a recharge time of 0, or those of a
settings load that was due; from EXHAUSTED the latched triggers are then taken in order of their tick stamps, of equal
ones in the order of the latches (R137, R138, R139, R193, R21). -/
def Obligations.WarningAndPowerReturn : Prop :=
  (∀ d : Dev, d.hum.mode = .normal →
     let e := d.enterHoldup
     e.hum.credits = d.hum.credits
     ∧ e.hum.mode = (if d.hum.credits = 0 then .exhausted else .holdup)
     ∧ e.hum.closing = (if d.hum.credits ≤ d.sst.working.reserve then some .reserve else none)
     ∧ e.tmb.deadlines.recharge = none
     ∧ e.tmb.deadlines.holdup = (if d.hum.credits ≤ d.sst.working.reserve then none
         else some (d.tmb.tick + BitVec.ofNat 48 (d.sst.working.holdupDeadline * 1000)))
     ∧ (∀ i x, e.body i = some x → 2 ≤ x.cls → x.ending ≠ none)
     ∧ (∀ q j, d.job q = some j → e.arc.waits (.rtu q) = false)
     ∧ (∀ l ∈ [e.ntu.management, e.ntu.service], ∃ x ∈ l, x.cause = .powerWarn)
     ∧ (d.commitQuiet → ∀ i x, d.body i = some x → x.ending = none → 2 ≤ x.cls →
         e.takesEnd i x (.truncated .power) ∧ e.reportsCut x .power)
     ∧ (d.commitQuiet → d.sst.working.reserve < d.hum.credits → ∀ i x, d.body i = some x →
         (x.ending ≠ none ∨ x.cls < 2) → e.body i = some x)
     ∧ (d.cme.state ≠ .idle → d.sst.working.reserve < d.hum.credits → ∀ i x, d.body i = some x → x.ending = none →
         2 ≤ x.cls → e.endsBy i x (.truncated .power))
     ∧ (∀ i x, d.body i = some x → x.ending = none → 2 ≤ x.cls →
         (∀ j y, j < i → d.body j = some y → y.ending = none → y.cls < 2) →
         d.records e (cutBody x .power) 2 0x0005)
     ∧ (∀ q j, d.job q = some j → d.arc.waits (.rtu q) = true →
         e.job q = none ∧ e.port q = (d.reply q .power 0 .empty).port q
           ∧ (d.sst.working.powerTrigger ≠ 1 ∨ d.sst.working.rollOldest ≠ 1 → e.cursor q = j.prior))
     ∧ (∃ a : Dev,
         let t : TriggerRecord := ⟨.power, d.tmb.tick, d.wallNow, d.snapshot⟩
         e = ((if d.sst.working.powerTrigger = 1 then a.takeTrigger t none else a).reserveTest).exhaustTest
           ∧ a.hum = ⟨.holdup, d.hum.credits, none⟩ ∧ a.tmb.tick = d.tmb.tick ∧ a.tmb.deadlines.recharge = none
           ∧ (∀ i x, a.body i = some x → 2 ≤ x.cls → x.ending ≠ none)
           ∧ a.arc.storeFailed = d.arc.storeFailed ∧ a.ict.opening = d.ict.opening
           ∧ (d.ict.windowExpired = false → a.ict.recording = d.ict.recording)
           ∧ d.keepsAllBut [.pif, .ict, .cpm, .stb, .cme, .plm, .arc, .drm, .hiu, .hum, .tmb, .ntu, .rtu] a)
     ∧ (∀ i x, d.sst.working.powerTrigger = 1 → d.arc.storeFailed = false → d.ict.windowExpired = false →
         d.ict.recording = some i → d.drm.dir[i] = some x → d.drm.slotOf x.number = some i →
         (d.secondaryCount x < 4 → JEntry.triggerAdd x.number .power d.tmb.tick ∈ e.drm.queue
           ∨ CapWaiter.triggerAdd x.number .power d.tmb.tick ∈ e.drm.captureWaiters)
         ∧ (4 ≤ d.secondaryCount x → ∃ y, e.drm.dir[i] = some y ∧ y.overflow = min 255 (x.overflow + 1)))
     ∧ d.keepsAllBut [.pif, .ict, .cpm, .stb, .cme, .plm, .arc, .drm, .hiu, .hum, .tmb, .ntu, .rtu] e)
  ∧ (∀ d : Dev, d.hum.mode = .holdup ∨ d.hum.mode = .exhausted →
       let e := d.powerReturn
       e.hum.mode = .normal ∧ e.hum.closing = none ∧ e.tmb.deadlines.holdup = none
       ∧ e.tmb.deadlines.recharge = (if d.sst.working.recharge = 0 then none
           else some (d.tmb.tick + BitVec.ofNat 48 (d.sst.working.recharge * 1000)))
       ∧ (d.hum.mode = .holdup →
           e.hum.credits = (if d.sst.working.recharge = 0 then d.sst.working.credits else d.hum.credits)
           ∧ d.keepsAllBut [.ict, .cpm, .stb, .cme, .plm, .arc, .drm, .hiu, .hum, .tmb, .ntu] e)
       ∧ (d.hum.mode = .exhausted → e.rcs = d.rcs ∧ ∀ k : Fin 5, e.tru.latches[k] = none)
       ∧ (d.hum.mode = .exhausted → ∃ a : Dev, e = Dev.emptyLatches 5 a
           ∧ a.hum.mode = .normal ∧ a.tru.latches = d.tru.latches ∧ a.tmb.tick = d.tmb.tick)
       ∧ (d.hum.mode = .exhausted →
           ((d.sst.loadDue = false ∨ (d.ict.recording ≠ none ∧ d.ict.windowExpired = false)) →
             e.hum.credits = if d.sst.working.recharge = 0 then d.sst.working.credits else d.hum.credits)
           ∧ (d.sst.loadDue = true → d.ict.recording = none → d.ict.closing = none →
             e.hum.credits = if d.sst.working.recharge = 0 then d.sst.pending.credits
               else min d.hum.credits d.sst.pending.credits)))
  ∧ (∀ (d : Dev) (n : Nat),
       ((∀ k : Fin 5, d.tru.latches[k] = none) → Dev.emptyLatches n d = d)
       ∧ (∀ (k : Fin 5) (t : TriggerRecord), d.tru.latches[k] = some t →
           (∀ (j : Fin 5) (u : TriggerRecord), d.tru.latches[j] = some u → t.tick < u.tick ∨ (t.tick = u.tick ∧ k ≤ j)) →
           Dev.emptyLatches (n + 1) d = Dev.emptyLatches n
             (({ d with tru := { d.tru with latches := put d.tru.latches k none } } : Dev).takeTrigger t none)))

/-- A deadline that has not reached its expiry tick does not expire (R160): that an expiry command then changes
nothing is the model's choice (log entry 2). The recharge deadline gives the credits in force, the flush interval sets
the flush mark to the last entry staged, and the end of a locate run gives IND its pattern (R139, R116, R166, R165).
-/
def Obligations.DeadlinesExpire : Prop :=
  (∀ s : State,
     (s.dev.tmb.deadlines.window ≠ some s.dev.tmb.tick → exec .captureWindowExpiry s = .next s)
     ∧ (s.dev.tmb.deadlines.limit ≠ some s.dev.tmb.tick → exec .captureLimitExpiry s = .next s)
     ∧ (s.dev.tmb.deadlines.holdup ≠ some s.dev.tmb.tick → exec .holdupDeadlineExpiry s = .next s)
     ∧ (s.dev.tmb.deadlines.recharge ≠ some s.dev.tmb.tick → exec .rechargeExpiry s = .next s)
     ∧ (s.dev.tmb.deadlines.flush ≠ some s.dev.tmb.tick → exec .flushIntervalExpiry s = .next s)
     ∧ (s.dev.tmb.deadlines.locate ≠ some s.dev.tmb.tick → exec .locateExpiry s = .next s)
     ∧ (∀ l : Line, s.dev.tmb.deadlines.filters[Line.idx l] ≠ some s.dev.tmb.tick →
         exec (.filterExpiry l) s = .next s))
  ∧ (∀ s : State, s.powered = true →
       (s.dev.tmb.deadlines.recharge = some s.dev.tmb.tick →
         exec .rechargeExpiry s = .next { s with dev := { s.dev with
           hum := { s.dev.hum with credits := s.dev.sst.working.credits }
           tmb := { s.dev.tmb with deadlines := { s.dev.tmb.deadlines with recharge := none } } } })
       ∧ (s.dev.tmb.deadlines.flush = some s.dev.tmb.tick →
           let d : Dev := { s.dev with
             tmb := { s.dev.tmb with deadlines := { s.dev.tmb.deadlines with flush := none } } }
           (s.dev.hiu.staging = [] → exec .flushIntervalExpiry s = .next { s with dev := d.settle })
           ∧ (∀ x, s.dev.hiu.staging.getLast? = some x → x.seq ≠ 0 →
               exec .flushIntervalExpiry s = .next { s with dev := ({ d with
                 hiu := { d.hiu with mark := some (max x.seq (d.hiu.mark.getD 0)) } }).settle }))
       ∧ (s.dev.tmb.deadlines.locate = some s.dev.tmb.tick →
           exec .locateExpiry s = .next { s with dev := ({ s.dev with
             tmb := { s.dev.tmb with deadlines := { s.dev.tmb.deadlines with locate := none } } }).showInd }))

/-- The capture window expires: every ATTN line is deasserted, and the RECORDING incident stays RECORDING with its
window expired while a stream of it is OPEN, or while another incident is CLOSING with a stream slot still taken; with
neither it leaves RECORDING (R13, R15). The capture limit expires: the window is expired, both deadlines are disarmed,
every ATTN line is deasserted, and every OPEN stream of the RECORDING incident takes the end kind TRUNCATED with reason
LIMIT, while every other stream stays as it is. While CME is at work its fill block stands on the commit queue, and one
without blocks is released or waits for a place. Each cut is reported by its STREAM_CUT event and notice (R14, R41, R46,
R32, R47). The streams are cut in slot order, which is the model's choice (log entry 17). -/
def Obligations.CaptureDeadlinesExpire : Prop :=
  (∀ (s : State) (i : DirSlot) (x : Incident), s.powered = true →
     s.dev.tmb.deadlines.window = some s.dev.tmb.tick → s.dev.ict.recording = some i → s.dev.drm.dir[i] = some x →
     ∃ e : Dev, exec .captureWindowExpiry s = .next { s with dev := e }
       ∧ e.tmb.deadlines.window = none ∧ (∀ k : Fin 4, e.ict.attn[k] = false)
       ∧ ((∃ j y, s.dev.body j = some y ∧ y.ending = none ∧ y.incident = x.number) →
           e.ict.recording = some i ∧ e.ict.windowExpired = true
             ∧ e.tmb.deadlines.limit = s.dev.tmb.deadlines.limit)
       ∧ ((∀ j y, s.dev.body j = some y → y.incident = x.number → y.ending ≠ none) → s.dev.ict.closing = none →
           e.ict.recording = none ∧ e.tmb.deadlines.limit = none)
       ∧ (∀ k y, s.dev.ict.closing = some k → s.dev.drm.dir[k] = some y →
           (∃ j z, s.dev.body j = some z ∧ z.incident = y.number) →
           e.ict.recording = some i ∧ e.ict.closing = some k ∧ e.ict.windowExpired = true
             ∧ e.tmb.deadlines.limit = s.dev.tmb.deadlines.limit ∧ e.drm.dir = s.dev.drm.dir)
       ∧ s.dev.keepsAllBut [.ict, .arc, .drm, .hiu, .tmb, .ntu] e)
  ∧ (∀ (s : State) (i : DirSlot) (x : Incident), s.powered = true →
       s.dev.tmb.deadlines.limit = some s.dev.tmb.tick → s.dev.ict.recording = some i → s.dev.drm.dir[i] = some x →
       ∃ e : Dev, exec .captureLimitExpiry s = .next { s with dev := e }
         ∧ e.tmb.deadlines.window = none ∧ e.tmb.deadlines.limit = none ∧ (∀ k : Fin 4, e.ict.attn[k] = false)
         ∧ (e.ict.recording = some i → e.ict.windowExpired = true)
         ∧ (∀ j y, e.body j = some y → y.incident = x.number → y.ending ≠ none)
         ∧ (∃ slots : List StreamIdx, slots.Pairwise (· < ·)
             ∧ (∀ j, j ∈ slots ↔ ∃ y, s.dev.body j = some y ∧ y.ending = none ∧ y.incident = x.number)
             ∧ e = ((slots.foldl (fun (d : Dev) j => d.endStream j (.truncated .limit)) { s.dev with
                 ict := { s.dev.ict with windowExpired := true, attn := Vector.replicate 4 false }
                 tmb := { s.dev.tmb with deadlines := { s.dev.tmb.deadlines with
                   window := none, limit := none } } }).closeRun).settle)
         ∧ (s.dev.commitQuiet → ∀ j y, s.dev.body j = some y →
             (y.ending = none → y.incident = x.number → e.takesEnd j y (.truncated .limit) ∧ e.reportsCut y .limit
               ∧ ∀ l ∈ [e.ntu.management, e.ntu.service],
                   ∃ n ∈ l, n.cause = .streamCut ∧ n.detail = BitVec.ofNat 32 x.number)
             ∧ ((y.ending ≠ none ∨ y.incident ≠ x.number) → e.body j = some y))
         ∧ (s.dev.cme.state ≠ .idle → ∀ j y, s.dev.body j = some y → y.ending = none → y.incident = x.number →
             e.endsBy j y (.truncated .limit))
         ∧ (∀ j y, s.dev.body j = some y → y.ending = none → y.incident = x.number →
             (∀ k z, k < j → s.dev.body k = some z → z.ending = none → z.incident ≠ x.number) →
             s.dev.records e (cutBody y .limit) 2 0x0005)
         ∧ s.dev.keepsAllBut [.ict, .cpm, .stb, .cme, .plm, .arc, .drm, .hiu, .tmb, .ntu] e)

/-- The hold-up deadline expires in HOLDUP with the closing phase flag clear: the closing phase begins with cause
DEADLINE, and the credits stand. Every OPEN stream takes the end kind TRUNCATED with reason POWER and is reported, a
DRAINING one keeps its own; no slot keeps a fill block or a queued one, and CME has no request waiting; a program of CME
in progress goes on, marked so that its failure drops the block. The slots then empty are released in slot order, each
with its STREAM_END, and CLOSING_PHASE is offered with the credit count and the cause. In another state only the slot is
disarmed (R133, R134, R43, R46, R47, R80). That several streams are cut in slot order is the model's choice (log entry
17). -/
def Obligations.HoldupDeadlineExpires : Prop :=
  ∀ s : State, s.powered = true → s.dev.tmb.deadlines.holdup = some s.dev.tmb.tick →
    (s.dev.hum.mode = .holdup → s.dev.hum.closing = none →
      ∃ e : Dev, exec .holdupDeadlineExpiry s = .next { s with dev := e }
        ∧ e.hum = { s.dev.hum with closing := some .deadline } ∧ e.tmb.deadlines.holdup = none
        ∧ (∀ i x, e.body i = some x → x.ending ≠ none ∧ x.fill = none)
        ∧ (∀ i x, s.dev.body i = some x → ∀ f ∈ e.stb.queue, f.slot ≠ i)
        ∧ e.cme.state ≠ .waitGrant ∧ e.cme.state ≠ .voidWait
        ∧ (s.dev.cme.state = .programming ∨ s.dev.cme.state = .voiding → e.cme = { s.dev.cme with dropping := true })
        ∧ (∀ i x, s.dev.body i = some x → e.takesEnd i x (x.ending.getD (.truncated .power))
            ∧ (x.ending = none → e.reportsCut x .power
              ∧ ((∀ j y, j < i → s.dev.body j = some y → y.ending ≠ none) →
                  s.dev.records e (cutBody x .power) 2 0x0005)))
        ∧ (s.dev.cme.block = none → s.dev.drm.captureWaiters = [] → s.dev.drm.queue.length + 18 ≤ 80 →
            (∀ i x, s.dev.body i = some x → x.queued = (s.dev.stb.queue.filter (·.slot == i)).length) →
            (∀ i, e.body i = none)
              ∧ ∃ l, e.drm.queue = s.dev.drm.queue ++ l
                ∧ (l.filter fun y => match y with
                    | .streamEnd .. => true
                    | _ => false)
                  = (List.finRange 16).filterMap fun i => (s.dev.body i).map fun x =>
                      let k := x.ending.getD (.truncated .power)
                      JEntry.streamEnd x.incident x.stream k.kind k.reason x.short x.accepted x.committed x.pages)
        ∧ ((∃ y ∈ e.hiu.unflushed, y.body = f1 (leBytes 2 s.dev.hum.credits ++ leBytes 1 (ClosingCause.code .deadline))
              ∧ y.severity = 1 ∧ y.source = .internal ∧ y.code = 0x0003)
            ∨ ∀ l ∈ [e.ntu.management, e.ntu.service], ∃ n ∈ l, n.cause = .historyLost)
        ∧ ((∀ i, s.dev.body i = none) → s.dev.ict.recording = none → s.dev.ict.closing = none →
            s.dev.records e (f1 (leBytes 2 s.dev.hum.credits ++ leBytes 1 (ClosingCause.code .deadline))) 1 0x0003)
        ∧ s.dev.keepsAllBut [.hum, .ict, .cpm, .stb, .cme, .plm, .arc, .drm, .hiu, .tmb, .ntu] e)
    ∧ (¬(s.dev.hum.mode = .holdup ∧ s.dev.hum.closing = none) →
        exec .holdupDeadlineExpiry s = .next { s with dev := ({ s.dev with
          tmb := { s.dev.tmb with deadlines := { s.dev.tmb.deadlines with holdup := none } } }).settle })

/-! ### Grants and suspension -/

/-- An erase that has run for 1 ms gives way when a READ or a PROGRAM could be granted, and in HOLDUP and EXHAUSTED;
the suspension, once in effect, is followed by the grant, which is then a READ or a PROGRAM (R60, R61, R63). The
arbiter grants a waiting request that is grantable, of the lowest order by Table 3.6, the erases by their parts, and
of one order the one that has waited longest, and an ERASE only when no READ or PROGRAM is grantable and no erase
exists. The request becomes the operation in progress or the RUNNING erase; the batch of the journal and a flush are
fixed at the grant; a PROGRAM granted in HOLDUP spends one credit (R59, R62 to R65, R96, R117, R132). A request is
grantable when its zone bears no defect mark and is not the zone of the erase, the mode, the closing phase and the
STORE_FAILED condition allow its class as Table 3.7 states, and a PROGRAM in HOLDUP finds a credit (R63 to R66). A
grant that brings the credits to the closing reserve begins the closing phase, which ends every stream, and one that
brings them to 0 makes the mode EXHAUSTED; a grant in another mode, or of no PROGRAM, leaves mode, credits and closing
phase as they are (R132, R134, R136). Choices of the model: a grant is a step of its own, but for the one that follows
a suspension (log entry 8); ARBITER_GRANT with nothing to grant, and ERASE_RUN_TIMER before 1 ms or without a reason
to suspend, change nothing (log entry 2). -/
def Obligations.TheArbiterGrants : Prop :=
  (∀ (d : Dev) (q : ArrReq),
     let zone := match q.job with
       | .read page _ _ _ _ => page.zone
       | .program page _ _ _ _ => page.zone
       | .erase z => z
     let allowed : Prop := match d.hum.mode with
       | .start => (∃ p, q.who = .rtu p) ∨ q.who = .scanner
       | .normal => d.arc.storeFailed = false
           ∨ (q.who ≠ .ringPrep ∧ q.who ≠ .dirErase ∧ q.who ≠ .settingsErase ∧ q.who ≠ .reclaim)
       | .holdup => q.who = .journal ∨ q.who = .image ∨ q.who = .flush
           ∨ (d.hum.closing = none ∧ (q.who = .commit ∨ q.who = .voidMark))
       | .exhausted => False
     (d.modeAllows q.who = true ↔ allowed)
     ∧ (d.grantable q = true ↔ zone ∉ d.arc.defects ∧ (∀ e, d.arc.erase = some e → e.zone ≠ zone) ∧ allowed
         ∧ (d.hum.mode = .holdup → q.job.isProgram = true → 1 ≤ d.hum.credits)))
  ∧ (∀ x y : Requester,
     let rank (r : Requester) : Nat := match r with
       | .journal | .image => 1
       | .commit | .voidMark => 2
       | .flush => 3
       | .rtu _ | .scanner => 4
       | .save => 5
       | .ringPrep => 6
       | .dirErase => 7
       | .settingsErase => 8
       | .reclaim => 9
     x.order < y.order ↔ rank x < rank y)
  ∧ (∀ d : Dev,
     let ready (erase : Bool) : Prop := ∃ x ∈ d.arc.waiting, x.job.isErase = erase ∧ d.grantable x = true
     (∀ who job, d.place who job = { d with arc := { d.arc with waiting := d.arc.waiting ++ [⟨who, job⟩] } })
     ∧ (d.nextGrant = none ↔ d.arc.op ≠ none ∨ (∃ e, d.arc.erase = some e ∧ e.phase ≠ .suspended)
         ∨ (¬ready false ∧ (d.arc.erase ≠ none ∨ ¬ready true)))
     ∧ (∀ r, d.nextGrant = some r → (r.job.isErase = true → ¬ready false)
         ∧ ∃ before after, d.arc.waiting = before ++ r :: after
           ∧ ∀ x ∈ before, d.grantable x = true → x.job.isErase = r.job.isErase → r.who.order < x.who.order))
  ∧ (∀ (s : State) (z : Zone) (who : Requester), s.powered = true →
     let wanted : Prop := (∃ r ∈ s.dev.arc.waiting, r.job.isErase = false ∧ s.dev.grantable r = true)
       ∨ s.dev.hum.mode = .holdup ∨ s.dev.hum.mode = .exhausted
     let phase (x : ErasePhase) : Dev := { s.dev with arc := { s.dev.arc with erase := some ⟨x, z, who⟩ } }
     (s.dev.arc.erase = some ⟨.running, z, who⟩ →
       (1000 ≤ s.dev.arc.runTimer → wanted → exec .eraseRunTimer s = .next { s with dev := phase .suspending })
       ∧ ((s.dev.arc.runTimer < 1000 ∨ ¬wanted) → exec .eraseRunTimer s = .next s))
     ∧ (s.dev.arc.erase = some ⟨.suspending, z, who⟩ →
         ((phase .suspended).nextGrant = none →
           exec .eraseSuspended s = .next { s with dev := (phase .suspended).settle })
         ∧ (∀ r, (phase .suspended).nextGrant = some r → r.job.isErase = false
             ∧ exec .eraseSuspended s = .next { s with dev := ((phase .suspended).grant r).settle })))
  ∧ (∀ (s : State), s.powered = true →
       (s.dev.nextGrant = none → exec .arbiterGrant s = .next s)
       ∧ (∀ r, s.dev.nextGrant = some r →
           r ∈ s.dev.arc.waiting ∧ s.dev.grantable r = true ∧ s.dev.arc.op = none
           ∧ (∀ x ∈ s.dev.arc.waiting, s.dev.grantable x = true → x.job.isErase = false →
               r.job.isErase = false ∧ r.who.order ≤ x.who.order)
           ∧ (r.job.isErase = true → s.dev.arc.erase = none ∧
               ∀ x ∈ s.dev.arc.waiting, s.dev.grantable x = true → r.who.order ≤ x.who.order)
           ∧ ∃ e : Dev, exec .arbiterGrant s = .next { s with dev := e }
             ∧ (s.dev.hum.mode ≠ .holdup → s.dev.keepsAllBut [.cme, .plm, .arc, .drm, .hiu, .ntu, .rtu] e)
             ∧ s.dev.keepsAllBut [.ict, .cpm, .stb, .cme, .plm, .arc, .drm, .hiu, .hum, .tmb, .ntu, .rtu] e
             ∧ (r.who ≠ .journal → r.who ≠ .flush →
                 (∀ z, r.job = .erase z → e.arc.erase = some ⟨.running, z, r.who⟩ ∧ e.arc.runTimer = 0
                   ∧ e.arc.op = none ∧ e.hum = s.dev.hum)
                 ∧ (r.job.isErase = false → e.arc.op = some r
                   ∧ e.hum.credits = s.dev.hum.credits
                       - (if s.dev.hum.mode = .holdup ∧ r.job.isProgram = true then 1 else 0)))
             ∧ (let program : Prop := (r.job.isProgram = true ∧ r.who ≠ .journal ∧ r.who ≠ .flush)
                   ∨ (r.who = .journal ∧ s.dev.drm.active ≠ none) ∨ (r.who = .flush ∧ s.dev.hiu.target ≠ none)
                 let left := s.dev.hum.credits - 1
                 (s.dev.hum.mode = .holdup → program →
                   e.hum = { mode := if left = 0 then .exhausted else .holdup
                             credits := left
                             closing := if s.dev.hum.closing = none ∧ left ≤ s.dev.sst.working.reserve
                               then some .reserve else s.dev.hum.closing }
                   ∧ (s.dev.hum.closing = none → left ≤ s.dev.sst.working.reserve →
                       e.tmb.deadlines.holdup = none
                       ∧ ∀ i x, e.body i = some x → x.ending ≠ none ∧ x.fill = none ∧ ∀ f ∈ e.stb.queue, f.slot ≠ i))
                 ∧ (s.dev.hum.mode ≠ .holdup → e.hum = s.dev.hum)
                 ∧ (r.job.isProgram = false → r.who ≠ .journal → r.who ≠ .flush → e.hum = s.dev.hum))
             ∧ (∀ z, r.who = .journal → s.dev.drm.active = some z →
                 e.arc.op = some ⟨.journal, s.dev.drm.batchJob z⟩ ∧ e.drm.batch = s.dev.drm.batchNow.length
                   ∧ e.hum.credits = s.dev.hum.credits - (if s.dev.hum.mode = .holdup then 1 else 0))
             ∧ (∀ t, r.who = .flush → s.dev.hiu.target = some t →
                 e.arc.op = some ⟨.flush, s.dev.flushJob t⟩ ∧ e.hiu.flushing = s.dev.hiu.staging.length
                   ∧ e.hum.credits = s.dev.hum.credits - (if s.dev.hum.mode = .holdup then 1 else 0))))

/-! ### Commit -/

/-- The PROGRAM of a DUMP page completes. With OK the page is LIVE, its incident holds the zone, the block is free and
the stream counts it, and an ended stream without blocks is released; CME then takes the next block of the queue with
the page that PLM gives, while the mode lets it. The directory's record of the stream follows: it takes the bytes
committed and the page count with each commit, and at the release, whether it follows the commit or a cut, the end
kind, the reason, the short flag and the final counts (R25, R34, R47). The first failure makes the page TORN and asks for its void mark. The
second cuts the stream: an OPEN or ENDED one takes the end kind TRUNCATED with reason MEDIA, another keeps its own, its
filling and queued blocks are discarded, and the cut is reported by its STREAM_CUT event and notice. A program that the
closing phase met in progress and that fails drops its block (R75, R25, R34, R47, R71, R76, R78, R45, R46, R80). -/
def Obligations.CommitProgramDone : Prop :=
  ∀ (s : State) (o : ProgramOutcome) (p : PageAddr) (a : Nat) (data : List Byte) (b : Nat) (spare : List Byte)
    (f : Block) (pg : PageAddr), s.powered = true → s.dev.arc.op = some ⟨.commit, .program p a data b spare⟩ →
    s.dev.cme.block = some f → s.dev.cme.page = some pg →
    let good : Prop := o = .ok ∧ (Job.program p a data b spare).verifies s.flash = true
    let takes : Prop := s.dev.hum.mode = .normal ∨ (s.dev.hum.mode = .holdup ∧ s.dev.hum.closing = none)
    ∃ t, exec (.commitProgramDone o) s = .next t ∧ t.dev.arc.op = none
      ∧ s.dev.keepsAllBut [.ict, .cpm, .stb, .cme, .plm, .arc, .drm, .hiu, .tmb, .ntu] t.dev
      ∧ (∀ g rest pg' d', good → takes → s.dev.stb.queue = g :: rest →
          ({ s.dev with plm := (s.dev.plm.setLive pg f).usedUpTest } : Dev).givePage = some (pg', d') →
          t.dev.plm = d'.plm ∧ t.dev.cme = ⟨.waitGrant, some g, some pg', 0, false⟩ ∧ t.dev.stb.queue = rest
          ∧ ArrReq.mk .commit (commitJob s.dev.drm.epoch pg' g) ∈ t.dev.arc.waiting ∧ f.id ∈ t.dev.stb.free
          ∧ (∀ x, s.dev.body f.slot = some x → (x.ending = none ∨ x.fill ≠ none ∨ 1 < x.queued) →
              t.dev.body f.slot = some { x with
                committed := x.committed + f.data.length, pages := x.pages + 1, queued := x.queued - 1 }))
      ∧ (good → (s.dev.stb.queue = [] ∨ ¬takes) →
          t.dev.plm.page pg = .live f.incident f.stream f.seq f.data.length
          ∧ (t.dev.plm.zone pg.zone.val).holders
              = f.incident :: (s.dev.plm.zone pg.zone.val).holders.filter (· != f.incident)
          ∧ t.dev.cme = ⟨.idle, none, none, 0, false⟩ ∧ f.id ∈ t.dev.stb.free
          ∧ (∀ x, s.dev.body f.slot = some x → (x.ending = none ∨ x.fill ≠ none ∨ 1 < x.queued) →
              t.dev.body f.slot = some { x with
                committed := x.committed + f.data.length, pages := x.pages + 1, queued := x.queued - 1 })
          ∧ (∀ x e, s.dev.body f.slot = some x → x.ending = some e → x.fill = none → x.queued = 1 →
              s.dev.drm.captureWaiters = [] → s.dev.drm.queue.length + 3 ≤ 80 →
              t.dev.body f.slot = none
                ∧ (JEntry.streamEnd x.incident x.stream e.kind e.reason x.short x.accepted
                    (x.committed + f.data.length) (x.pages + 1)) ∈ t.dev.drm.queue))
      ∧ (∀ x, good → s.dev.body f.slot = some x →
          (s.dev.stb.queue = [] ∨ ¬takes
            ∨ ({ s.dev with plm := (s.dev.plm.setLive pg f).usedUpTest } : Dev).givePage ≠ none) →
          let y := { x with committed := x.committed + f.data.length, pages := x.pages + 1 }
          ((x.ending = none ∨ x.fill ≠ none ∨ 1 < x.queued) → s.dev.recordTakes t.dev x y.counted)
          ∧ (∀ e, x.ending = some e → x.fill = none → x.queued ≤ 1 →
              (s.dev.drm.captureWaiters = [] → s.dev.drm.queue.length < 80 →
                t.dev.body f.slot = none ∧ s.dev.recordTakes t.dev x (y.closed e))
              ∧ ((s.dev.drm.captureWaiters ≠ [] ∨ 80 ≤ s.dev.drm.queue.length) →
                  t.dev.body f.slot ≠ none ∧ s.dev.recordTakes t.dev x y.counted)))
      ∧ (∀ x, good → s.dev.body f.slot = some x → (∀ g ∈ s.dev.stb.queue, g.slot = f.slot) →
          (x.ending = none ∨ x.fill ≠ none ∨ 1 < x.queued) →
          let y := { x with committed := x.committed + f.data.length, pages := x.pages + 1 }
          (t.dev.body f.slot ≠ none → s.dev.recordTakes t.dev x y.counted)
          ∧ (t.dev.body f.slot = none → s.dev.recordTakes t.dev x (y.closed (match x.ending with
              | none | some .ended => .truncated .storeFull
              | some k => k))))
      ∧ (¬good → s.dev.cme.dropping = false → s.dev.cme.retry = 0 →
          t.dev = ({ s.dev with
            plm := s.dev.plm.setPage pg .torn
            cme := { s.dev.cme with state := .voidWait, retry := 1 }
            arc := { s.dev.arc with
              op := none
              waiting := s.dev.arc.waiting ++ [ArrReq.mk .voidMark (.program pg 0 [] 29 [0x00])] } }).settle)
      ∧ (¬good → s.dev.cme.dropping = false → s.dev.cme.retry ≠ 0 → s.dev.body f.slot ≠ none →
          t.dev.plm.page pg = .torn ∧ t.dev.cme.state = .voidWait ∧ t.dev.cme.block = none ∧ f.id ∈ t.dev.stb.free
          ∧ (∀ x ∈ t.dev.stb.queue, x.slot ≠ f.slot)
          ∧ (∀ x, t.dev.body f.slot = some x → x.ending ≠ none ∧ x.fill = none))
      ∧ (∀ x, ¬good → s.dev.cme.dropping = false → s.dev.cme.retry ≠ 0 → s.dev.body f.slot = some x →
          s.dev.cutsFor t.dev f.slot x .media
          ∧ (t.dev.body f.slot ≠ none → s.dev.recordTakes t.dev x id)
          ∧ (t.dev.body f.slot = none → s.dev.recordTakes t.dev x (x.closed (match x.ending with
              | none | some .ended => .truncated .media
              | some k => k)))
          ∧ ∀ l ∈ [t.dev.ntu.management, t.dev.ntu.service],
              ∃ n ∈ l, n.cause = .streamCut ∧ n.detail = BitVec.ofNat 32 x.incident)
      ∧ (¬good → s.dev.cme.dropping = true →
          (s.dev.stb.queue = [] ∨ (s.dev.hum.closing ≠ none ∧ s.dev.hum.mode = .holdup)) →
          t.dev.plm.page pg = .torn ∧ t.dev.cme = ⟨.idle, none, none, 0, false⟩ ∧ f.id ∈ t.dev.stb.free)

/-- The PROGRAM of a void mark completes: the page is VOID, or stays TORN. A block still in hand is tried once more on
a new page. For want of one its stream is cut: an OPEN or ENDED one takes the end kind TRUNCATED with reason
STORE_FULL, another keeps its own, its filling and queued blocks are discarded, and the cut is reported by its
STREAM_CUT event and notice. A block whose void mark the closing phase met in progress is dropped; without one CME is
at rest (R77, R79, R44, R46, R80). -/
def Obligations.VoidMarkDone : Prop :=
  ∀ (s : State) (o : ProgramOutcome) (p : PageAddr) (a : Nat) (data : List Byte) (b : Nat) (spare : List Byte)
    (pg : PageAddr), s.powered = true → s.dev.arc.op = some ⟨.voidMark, .program p a data b spare⟩ →
    s.dev.cme.page = some pg →
    let entry : PageEntry := if o = .ok ∧ (Job.program p a data b spare).verifies s.flash = true then .void else .torn
    let d : Dev := { s.dev with
      arc := { s.dev.arc with op := none }, plm := (s.dev.plm.setPage pg entry).usedUpTest }
    ∃ t, exec (.voidMarkDone o) s = .next t ∧ t.dev.arc.op = none
      ∧ s.dev.keepsAllBut [.ict, .cpm, .stb, .cme, .plm, .arc, .drm, .hiu, .tmb, .ntu] t.dev
      ∧ (s.dev.cme.block = none → s.dev.stb.queue = [] →
          t.dev.plm.page pg = entry ∧ t.dev.cme = ⟨.idle, none, none, 0, false⟩)
      ∧ (∀ f p' d', s.dev.cme.block = some f → s.dev.cme.dropping = false → d.givePage = some (p', d') →
          t.dev = (d'.commitOn f p' 1).settle)
      ∧ (∀ f, s.dev.cme.block = some f → s.dev.cme.dropping = false → d.givePage = none →
          f.id ∈ t.dev.stb.free ∧ ∀ x, t.dev.body f.slot = some x → x.ending ≠ none ∧ x.fill = none)
      ∧ (∀ f x, s.dev.cme.block = some f → s.dev.cme.dropping = false → d.givePage = none →
          s.dev.body f.slot = some x → s.dev.cutsFor t.dev f.slot x .storeFull)
      ∧ (∀ f, s.dev.cme.block = some f → s.dev.cme.dropping = true →
          (s.dev.stb.queue = [] ∨ (s.dev.hum.closing ≠ none ∧ s.dev.hum.mode = .holdup)) →
          t.dev.plm.page pg = entry ∧ t.dev.cme = ⟨.idle, none, none, 0, false⟩ ∧ f.id ∈ t.dev.stb.free)

/-! ### Directory -/

/-- The PROGRAM of a journal batch completes. With OK its entries leave the queue, the position advances, and the
reclaim process hears of its own entries; with PROGRAM_FAIL the journal closes and the entries stay (R96, R97, R92,
R86). -/
def Obligations.JournalProgramDone : Prop :=
  ∀ (s : State) (o : ProgramOutcome) (p : PageAddr) (a : Nat) (data : List Byte) (b : Nat) (spare : List Byte),
    s.powered = true → s.dev.arc.op = some ⟨.journal, .program p a data b spare⟩ →
    let good : Prop := o = .ok ∧ (Job.program p a data b spare).verifies s.flash = true
    let n := s.dev.drm.batch
    ∃ t, exec (.journalProgramDone o) s = .next t
      ∧ (good → t.dev.drm = { s.dev.drm with
            queue := s.dev.drm.queue.drop n, pos := s.dev.drm.pos + n, batch := 0, writer := t.dev.drm.writer }
          ∧ (∀ z, s.dev.plm.reclaim = .startWait z → JEntry.reclaimStart z ∈ s.dev.drm.queue.take n →
              t.dev.plm.reclaim = .eraseWait z ∧ ArrReq.mk .reclaim (.erase z) ∈ t.dev.arc.waiting)
          ∧ (∀ z, s.dev.plm.reclaim = .doneWait z → JEntry.reclaimDone z ∈ s.dev.drm.queue.take n →
              t.dev.plm.reclaim = .idle ∧ t.dev.plm.zone z.val = ⟨.free, 0, []⟩)
          ∧ s.dev.keepsAllBut [.plm, .arc, .drm, .hiu, .ntu] t.dev)
      ∧ (¬good → t.dev = ({ s.dev with
          arc := { s.dev.arc with op := none }
          drm := { s.dev.drm with writer := .idle, batch := 0, journalOpen := false } }).settle)

/-- A due compaction starts with a copy of the directory, the defect set and the unfinished reclaim, which is the zone
of the reclaim process, or the first zone left for re-erase while that has none; the queued entries become absorbed
and the spare zone takes the image; entries of recovery that waited for a compaction wait no longer (R156). The image: COMPACT_HEAD with the next generation; of each incident in slot order
INCIDENT_SUMMARY and its STREAM_SUMMARY entries; ZONE_DEFECT of each defective zone in ascending order; RECLAIM_START
of the unfinished reclaim; COMPACT_TAIL with the count of all entries (R99, R100, R88); that COMPACTION_START changes
nothing without the conditions is the model's choice (log entry 2). When the PROGRAM of an image page completes with
OK the next page follows; after the last one the spare zone is the active one with the image as its entries, the
generation is one more, and the old zone is DIRTY and its erase requested. With PROGRAM_FAIL the image is abandoned
and its zone DIRTY (R101, R102). -/
def Obligations.Compaction : Prop :=
  (∀ s : State, s.powered = true →
     let due : Prop := s.dev.drm.active ≠ none ∧ (512 - s.dev.drm.pos < 32 ∨ s.dev.drm.journalOpen = false)
       ∧ s.dev.hum.mode = .normal ∧ s.dev.arc.storeFailed = false ∧ s.dev.drm.spare = some .erased
       ∧ s.dev.drm.writer = .idle ∧ s.dev.drm.generation < 4294967295 ∧ s.dev.drm.copy = none
     (due → ∃ unfinished : Option Zone,
       exec .compactionStart s = .next { s with dev := ({ s.dev with
         drm := { s.dev.drm with
           copy := some
             { dir := s.dev.drm.dir, defects := s.dev.arc.defects, unfinished := unfinished
               generation := s.dev.drm.generation, epoch := s.dev.drm.epoch
               nextIncident := s.dev.drm.nextIncident }
           imagePos := 0
           absorbed := s.dev.drm.absorbed ++ s.dev.drm.queue
           queue := []
           spare := some .image
           recoveryHeld := false } }).settle }
       ∧ (s.dev.plm.reErase = [] → (s.dev.plm.reclaim = .idle ∨ ∃ z, s.dev.plm.reclaim = .doneWait z) →
           unfinished = none)
       ∧ (∀ z, s.dev.plm.reclaim = .startWait z ∨ s.dev.plm.reclaim = .eraseWait z ∨ s.dev.plm.reclaim = .eraseRun z
           ∨ s.dev.plm.reclaim = .doneQueue z → unfinished = some z)
       ∧ ((s.dev.plm.reclaim = .idle ∨ ∃ z, s.dev.plm.reclaim = .doneWait z) →
           unfinished = s.dev.plm.reErase.head?))
     ∧ (¬due → exec .compactionStart s = .next s))
  ∧ (∀ (s : State) (o : ProgramOutcome) (p : PageAddr) (a : Nat) (data : List Byte) (b : Nat) (spare : List Byte)
       (c : CompactionCopy), s.powered = true → s.dev.arc.op = some ⟨.image, .program p a data b spare⟩ →
       s.dev.drm.copy = some c →
       let good : Prop := o = .ok ∧ (Job.program p a data b spare).verifies s.flash = true
       let n := c.image.length
       ∃ t, exec (.imageProgramDone o) s = .next t
         ∧ s.dev.keepsAllBut [.plm, .arc, .drm, .hiu, .ntu] t.dev
         ∧ (good → s.dev.drm.imagePos + 16 < n →
             t.dev.drm = { s.dev.drm with imagePos := s.dev.drm.imagePos + 16, writer := t.dev.drm.writer })
         ∧ (good → n ≤ s.dev.drm.imagePos + 16 →
             t.dev.drm = { s.dev.drm with
                 active := some s.dev.drm.spareZone, pos := n, journalOpen := true
                 generation := s.dev.drm.generation + 1, absorbed := [], copy := none, imagePos := 0
                 spare := some .dirty, writer := t.dev.drm.writer }
             ∧ (∀ z : Zone, z = (if s.dev.drm.spareZone = 1 then 2 else 1) → s.dev.arc.defects.contains z = false →
                 ArrReq.mk .dirErase (.erase z) ∈ t.dev.arc.waiting))
         ∧ (¬good → t.dev.drm = { s.dev.drm with
               copy := none, imagePos := 0, spare := some .dirty, writer := t.dev.drm.writer }
             ∧ (s.dev.arc.defects.contains s.dev.drm.spareZone = false →
                 ArrReq.mk .dirErase (.erase s.dev.drm.spareZone) ∈ t.dev.arc.waiting)))
  ∧ (∀ c : CompactionCopy,
       let incidents : List JEntry := (List.finRange 32).flatMap fun i => match c.dir[i] with
         | none => []
         | some x => JEntry.incidentSummary i.val
             { x with streams := [], completeness := if x.state = .kept then x.completeness else none } x.streams.length
               :: x.streams.map fun y => JEntry.streamSummary x.number y
       ∃ zones : List Zone, zones.Pairwise (· < ·) ∧ (∀ z, z ∈ zones ↔ z ∈ c.defects)
         ∧ c.image = [JEntry.compactHead (c.generation + 1) c.epoch c.nextIncident] ++ incidents
             ++ zones.map .zoneDefect ++ (c.unfinished.map .reclaimStart).toList
             ++ [JEntry.compactTail (c.generation + 1) c.image.length])

/-! ### History, settings and erases -/

/-- A flush completes. With OK the flushed entries leave the staging block and, below page 31, the zone's range
reaches the last of them; with PROGRAM_FAIL they stay pending. The page advances when it fails, when its 1024 bytes are
programmed, and when it is closed with nothing pending: to the next page, and from page 31 the zone is FILLED and the
ring goes on to the successor, the first zone behind it in ring order that is neither DEFECTIVE nor pinned. An ERASED
successor is ACTIVE with the deferred pins and the target at its page 0; with another, or with none, the target awaits
a zone. A FILLED successor is then erased by ring preparation, where that is IDLE and no zone is left for re-erase
(R117, R118, R120, R121, R124). -/
def Obligations.HistoryFlushDone : Prop :=
  ∀ (s : State) (o : ProgramOutcome) (p : PageAddr) (a : Nat) (data : List Byte) (b : Nat) (spare : List Byte)
    (w : WritePage), s.powered = true → s.dev.arc.op = some ⟨.flush, .program p a data b spare⟩ →
    s.dev.hiu.target = some w →
    let good : Prop := o = .ok ∧ (Job.program p a data b spare).verifies s.flash = true
    let h := s.dev.hiu
    ∃ t, exec (.historyFlushDone o) s = .next t
      ∧ (good → (∃ l, t.dev.hiu.unflushed = h.staging.drop h.flushing ++ h.intake ++ l)
          ∧ (∀ x y, w.page.val < 31 → (h.staging.take h.flushing).head? = some x →
              (h.staging.take h.flushing).getLast? = some y →
              (t.dev.hiu.ring[w.zone]).range = some (((h.ring[w.zone]).range.map (·.1)).getD x.seq, y.seq)))
      ∧ (¬good → (∃ l, t.dev.hiu.unflushed = h.unflushed ++ l)
          ∧ (w.page.val < 31 → h.staging ≠ [] → t.dev.hiu.target = some ⟨w.zone, w.page + 1, 0⟩))
      ∧ (let programmed := w.programmed + entriesSize (h.staging.take h.flushing)
         let advances : Prop := ¬good ∨ programmed = 1024 ∨ (h.closed = true ∧ h.staging.drop h.flushing = [])
         (w.page.val < 31 → advances → t.dev.hiu.target = some ⟨w.zone, w.page + 1, 0⟩
           ∧ t.dev.hiu.ring[w.zone].state = h.ring[w.zone].state)
         ∧ (¬advances → h.intake = [] → t.dev.hiu.target = some { w with programmed := programmed })
         ∧ (w.page.val = 31 → advances →
             let usable (k : RingIdx) : Prop := k ≠ w.zone ∧ (h.ring[k]).state ≠ .defective ∧ (h.ring[k]).pins = []
             let behind (k : RingIdx) : Nat := (k.val + 15 - w.zone.val) % 16
             ((t.dev.hiu.ring[w.zone]).state = .filled ∨ (t.dev.hiu.ring[w.zone]).state = .erasing)
             ∧ ((∀ k, ¬usable k) → t.dev.hiu.target = none)
             ∧ (∀ k, usable k → (∀ j, usable j → behind k ≤ behind j) →
                 ((h.ring[k]).state = .erased →
                   t.dev.hiu.target = some ⟨k, 0, 0⟩ ∧ (t.dev.hiu.ring[k]).state = .active
                     ∧ (t.dev.hiu.ring[k]).pins = h.deferred ∧ t.dev.hiu.deferred = [] ∧ t.dev.hiu.newest = k)
                 ∧ ((h.ring[k]).state ≠ .erased → t.dev.hiu.target = none ∧ t.dev.hiu.newest = w.zone)
                 ∧ ((h.ring[k]).state = .filled → h.prep = none → (∀ j : RingIdx, (h.ring[j]).state ≠ .erasing) →
                     t.dev.hiu.prep = some k ∧ (t.dev.hiu.ring[k]).state = .erasing ∧ (t.dev.hiu.ring[k]).range = none
                       ∧ ArrReq.mk .ringPrep (.erase (ringZone k)) ∈ t.dev.arc.waiting))))
      ∧ s.dev.keepsAllBut [.arc, .drm, .hiu, .tmb, .ntu] t.dev

/-- The program of a save completes: with OK the save is answered with its page and leaves the list; the first failure
tries it again at the next position; the second is answered NOT_SAVED. The position advances each time. The erase of
zone 0 puts the position to 0 and serves the save; a failed one drops the saves, answers each of them STORE_FAILED at
the port that waits for it, with the OVERLAP flag where frames came meanwhile, and enters the STORE_FAILED condition;
no other port gets a reply (R194, R172, R67, R68). That SVC begins to send its reply at once, unless the line still
sends another, is R176's, as log entry 9 times it. -/
def Obligations.SavesComplete : Prop :=
  ∀ (s : State) (x : Save) (rest : List Save), s.powered = true → s.dev.sst.saves = x :: rest →
    (∀ (o : ProgramOutcome) (p : PageAddr) (a : Nat) (data : List Byte) (b : Nat) (spare : List Byte),
      s.dev.arc.op = some ⟨.save, .program p a data b spare⟩ → s.dev.arc.storeFailed = false →
      let good : Prop := o = .ok ∧ (Job.program p a data b spare).verifies s.flash = true
      let answered (q : Option Port) (y : SaveOutcome) : Pif := match q with
        | some q => (s.dev.reply q .ok 0 (.save y)).pif
        | none => s.dev.pif
      let pos := s.dev.sst.savePos + 1
      ∃ t, exec (.settingsProgramDone o) s = .next t
        ∧ s.dev.keepsAllBut [.pif, .arc, .drm, .hiu, .ntu, .sst] t.dev
        ∧ (good → t.dev.pif = answered x.port (.saved s.dev.sst.savePos)
            ∧ t.dev.sst = { s.dev.sst with saves := rest, savePos := pos, busy := !rest.isEmpty })
        ∧ (¬good → x.fails = 0 → t.dev.pif = s.dev.pif
            ∧ t.dev.sst = { s.dev.sst with saves := { x with fails := 1 } :: rest, savePos := pos, busy := true })
        ∧ (¬good → x.fails ≠ 0 → t.dev.pif = answered x.port .notSaved
            ∧ t.dev.sst = { s.dev.sst with saves := rest, savePos := pos, busy := !rest.isEmpty }))
    ∧ (∀ (o : EraseOutcome) (phase : ErasePhase) (z : Zone),
        s.dev.arc.erase = some ⟨phase, z, .settingsErase⟩ → phase ≠ .suspended →
        ∃ t, exec (.settingsZoneEraseDone o) s = .next t
          ∧ s.dev.keepsAllBut [.pif, .arc, .drm, .hiu, .tmb, .ntu, .rtu, .sst] t.dev
          ∧ (o = .ok → t.dev.sst = { s.dev.sst with savePos := 0, busy := true }
              ∧ ArrReq.mk .save (.program ⟨0, 0⟩ 0 (withCrc x.record.bytes) 0
                  ({ kind := 4, epoch := s.dev.drm.epoch } : Header).bytes) ∈ t.dev.arc.waiting)
          ∧ (o = .eraseFail → t.dev.sst = { s.dev.sst with saves := [], busy := false } ∧ z ∈ t.dev.arc.defects
              ∧ (z.val < 3 → t.dev.arc.storeFailed = true)
              ∧ (∀ (y : Save) (q : Port) (code tag : Byte), z.val < 3 → y ∈ s.dev.sst.saves → y.port = some q →
                  (s.dev.port q).exchange = .outstanding code tag →
                  let r : Reply :=
                    ⟨code, tag, .storeFailed, if (s.dev.port q).overlap = 0 then 0x00 else 0x01, .empty⟩
                  t.dev.port q = { s.dev.port q with
                    exchange := .ready code tag r
                    sent := if q = .svc ∧ s.dev.pif.svcOut = none then [0xA5] else (s.dev.port q).sent }
                  ∧ (q = .svc → t.dev.pif.svcOut
                      = if s.dev.pif.svcOut = none then some ⟨r.frame, 0, true⟩ else s.dev.pif.svcOut))
              ∧ (∀ q : Port, z.val < 3 → (∀ y ∈ s.dev.sst.saves, y.port ≠ some q) →
                  t.dev.port q = s.dev.port q ∧ (q = .svc → t.dev.pif.svcOut = s.dev.pif.svcOut))))

/-- The reclaim process starts with a zone left for re-erase, whose ERASE it requests, else with the lowest RETIRED
zone, whose RECLAIM_START is queued, or waits while the queue holds 16 entries or others wait; it starts when it is
idle with no RECLAIM_START asked for, such a zone is there, the mode is NORMAL and STORE_FAILED does not hold (R85,
R88, R93, R94); that RECLAIM_START changes nothing else is the model's choice (log entry 2). The ends of the erases of
reclaim, ring preparation and the spare directory zone. With OK: the pool zone's pages are ERASED and RECLAIM_DONE is
queued or waits; the ring zone is ERASED, or ACTIVE at once where the write target awaits one; the spare zone is
ERASED. With ERASE_FAIL the zone bears a defect mark and is DEFECTIVE, the pages of the pool zone are TORN, the spare
zone stays DIRTY, a directory zone enters the STORE_FAILED condition, and the zone's ZONE_DEFECT entry is queued or
waits and its event is offered (R86, R87, R121, R120, R103, R66, R67). -/
def Obligations.ReclaimAndZoneErases : Prop :=
  (∀ s : State, s.powered = true →
     (s.dev.reclaimReady = false → exec .reclaimStart s = .next s)
     ∧ (s.dev.reclaimReady = true →
         (∀ z rest, s.dev.plm.reErase = z :: rest →
           exec .reclaimStart s = .next { s with dev := ({ s.dev with
             plm := { s.dev.plm with reErase := rest, reclaim := .eraseWait z }
             arc := { s.dev.arc with waiting := s.dev.arc.waiting ++ [ArrReq.mk .reclaim (.erase z)] } }).settle })
         ∧ (∀ z, s.dev.plm.reErase = [] → s.dev.plm.retiredZone = some z →
             (s.dev.drm.queue.length < 16 → s.dev.drm.maintWaiters = [] →
               ∃ e : Dev, exec .reclaimStart s = .next { s with dev := e }
                 ∧ e.drm = { s.dev.drm with
                     queue := s.dev.drm.queue ++ [JEntry.reclaimStart z], writer := e.drm.writer }
                 ∧ e.plm = { s.dev.plm.setZone z { s.dev.plm.zone z.val with state := .erasing } with
                     reclaim := .startWait z, reclaimAsked := none }
                 ∧ s.dev.keepsAllBut [.plm, .arc, .drm, .hiu, .ntu] e)
             ∧ ((16 ≤ s.dev.drm.queue.length ∨ s.dev.drm.maintWaiters ≠ []) →
                 exec .reclaimStart s = .next { s with dev := ({ s.dev with
                   plm := { s.dev.plm with reclaimAsked := some z }
                   drm := { s.dev.drm with
                     maintWaiters := s.dev.drm.maintWaiters ++ [JEntry.reclaimStart z] } }).settle }))))
  ∧ (∀ m : Plm,
       let retired (z : Zone) : Prop := 19 ≤ z.val ∧ (m.zone z.val).state = .retired
       (m.retiredZone = none ↔ ∀ z, ¬retired z)
       ∧ (∀ z, m.retiredZone = some z ↔ retired z ∧ ∀ w, retired w → z ≤ w))
  ∧ (∀ d : Dev, d.reclaimReady = true ↔ d.plm.reclaim = .idle ∧ d.plm.reclaimAsked = none
       ∧ (d.plm.reErase ≠ [] ∨ ∃ z : Zone, 19 ≤ z.val ∧ (d.plm.zone z.val).state = .retired)
       ∧ d.hum.mode = .normal ∧ d.arc.storeFailed = false)
  ∧ (∀ (s : State) (o : EraseOutcome) (phase : ErasePhase) (z : Zone), s.powered = true → phase ≠ .suspended →
       let defect (e : Dev) : Prop := s.dev.records e (f1 (leBytes 1 z.val)) 1 0x0004
         ∧ (s.dev.drm.queue.length < 16 → s.dev.drm.maintWaiters = [] →
             e.drm.queue = s.dev.drm.queue ++ [JEntry.zoneDefect z] ∧ e.drm.maintWaiters = [])
         ∧ ((16 ≤ s.dev.drm.queue.length ∨ s.dev.drm.maintWaiters ≠ []) →
             e.drm.queue = s.dev.drm.queue ∧ e.drm.maintWaiters = s.dev.drm.maintWaiters ++ [JEntry.zoneDefect z])
       (s.dev.arc.erase = some ⟨phase, z, .reclaim⟩ →
         ∃ t, exec (.reclaimEraseDone o) s = .next t
           ∧ s.dev.keepsAllBut [.pif, .plm, .arc, .drm, .hiu, .tmb, .ntu, .rtu, .sst] t.dev
           ∧ (o = .ok → (∀ p : PageNo, t.dev.plm.page ⟨z, p⟩ = .erased)
               ∧ (s.dev.drm.queue.length < 16 → s.dev.drm.maintWaiters = [] →
                   t.dev.plm.reclaim = .doneWait z ∧ t.dev.drm.queue = s.dev.drm.queue ++ [JEntry.reclaimDone z])
               ∧ ((16 ≤ s.dev.drm.queue.length ∨ s.dev.drm.maintWaiters ≠ []) →
                   t.dev.plm.reclaim = .doneQueue z
                     ∧ t.dev.drm.maintWaiters = s.dev.drm.maintWaiters ++ [JEntry.reclaimDone z]))
           ∧ (o = .eraseFail → z ∈ t.dev.arc.defects ∧ t.dev.plm.zone z.val = ⟨.defective, 32, []⟩
               ∧ t.dev.plm.reclaim = .idle ∧ (∀ p : PageNo, t.dev.plm.page ⟨z, p⟩ = .torn) ∧ defect t.dev))
       ∧ (∀ k, s.dev.arc.erase = some ⟨phase, z, .ringPrep⟩ → s.dev.hiu.prep = some k →
           ∃ t, exec (.ringEraseDone o) s = .next t
             ∧ s.dev.keepsAllBut [.pif, .arc, .drm, .hiu, .tmb, .ntu, .rtu, .sst] t.dev
             ∧ (o = .ok → (t.dev.hiu.ring[k]).state = .erased
                 ∨ (s.dev.hiu.target = none ∧ (t.dev.hiu.ring[k]).state = .active))
             ∧ (o = .eraseFail → z ∈ t.dev.arc.defects ∧ (t.dev.hiu.ring[k]).state = .defective ∧ defect t.dev))
       ∧ (s.dev.arc.erase = some ⟨phase, z, .dirErase⟩ →
           ∃ t, exec (.spareZoneEraseDone o) s = .next t
           ∧ s.dev.keepsAllBut [.pif, .arc, .drm, .hiu, .tmb, .ntu, .rtu, .sst] t.dev
             ∧ (o = .ok → t.dev = ({ s.dev with
                 arc := { s.dev.arc with erase := none }
                 drm := { s.dev.drm with spare := some .erased } }).settle)
             ∧ (o = .eraseFail → z ∈ t.dev.arc.defects ∧ t.dev.drm.spare = some .dirty ∧ defect t.dev
                 ∧ (z.val < 3 → t.dev.arc.storeFailed = true))))

/-! ### Recovery and the part's own moments -/

/-- A read of the Recovery Scanner completes: the scan goes on with the next page of its phase. After the last page of
zone 0 the settings found, or the defaults, are working, the save position stands behind the last page that is not
wholly erased, and the directory zones follow; after the last page of zone 2 the journal's result stands, the defaults
are working where zone 0 bears a defect mark, and the pool's headers follow; a page whose header is erased is read in
full, and after the last header the pages to be decoded, then the ring (R144, R145, R149 to R151). After the last ring
page the mode leaves START, with the credits in force, the epoch and the next incident number found, every recovered
incident KEPT, the interrupted ones with their streams INTERRUPTED, their entries queued behind EPOCH or waiting,
START taken as the first entry, and RECOVERY_DONE raised, where no line holds it up; latched triggers are taken, and
with PWRWARN ASSERTED the part enters HOLDUP (R149, R153, R156, R21, R128 to R130). Phase 2 finds the active zone of
Table 8.2, a complete image, the entries replayed up to the first slot that is not good with the effect of Table 8.3,
the journal position and state, and the cause of STORE_FAILED (R146 to R149). Phase 3: the zones and pages of Table
8.4 and R152, and of each stream its LIVE pages, with the sequence numbers from 0 on, and its record's counts (R150 to
R152). Phase 5: the classes of the ring zones, the newest zone, the write target and the next sequence number (R154),
and the pins of the KEPT incidents in descending number (R155). Choices of the model (log entries): when a phase
computes its result (12), a fill-zone candidate without a GOOD header as epoch 0 (21), next erased page 32 of a
DEFECTIVE or ERASING zone (34), the lowest of equal ring zones (38), no entry behind that slot (39), the last
shortened stream as INTEGRITY's number (40), a TRIGGER_ADD of cause 0 appended like another (45), no compaction before
that HOLDUP (47), and that the entries of recovery wait for a compaction, in R156's case of a DIRTY spare and a
compaction due, also where R96 would program them, but not at the last generation (49). -/
def Obligations.TheScanGoesOn : Prop :=
  (∀ (s : State) (j : Job), s.powered = true → s.dev.arc.op = some ⟨.scanner, j⟩ →
    let idle : Dev := { s.dev with arc := { s.dev.arc with op := none } }
    let asks (d : Dev) (pos : ScanPos) (job : Job) : Dev := { d with
      rcs := { d.rcs with pos := pos }
      arc := { d.arc with waiting := d.arc.waiting ++ [ArrReq.mk .scanner job] } }
    let reads (d : Dev) (pos : ScanPos) (page : PageAddr) : Dev := asks d pos (.read page 0 1024 0 64)
    let header (d : Dev) (page : PageAddr) : Dev := asks d (.poolHeader page) (.read page 0 0 0 32)
    let becomes (d : Dev) : Prop := exec .recoveryReadDone s = .next { s with dev := d.settle }
    let toRing (d : Dev) (x : JournalScan) : Prop :=
      let y := poolPhase s.flash x
      let d' : Dev := { d with rcs := { d.rcs with pool := some y } }
      (∀ z l, ringToRead x = z :: l → becomes (reads d' (.ring ⟨z, 0⟩) ⟨z, 0⟩))
      ∧ (ringToRead x = [] → becomes (d'.enterNormal x y (ringPhase s.flash x.defects)))
    let toDecode (d : Dev) (x : JournalScan) (pages : List PageAddr) : Prop :=
      (∀ page l, pages = page :: l → becomes (reads d (.poolDecode page l) page))
      ∧ (pages = [] → toRing d x)
    let toNextHeader (d : Dev) (x : JournalScan) (page : PageAddr) : Prop :=
      (∀ next, nextPage (poolToRead x) page = some next → becomes (header d next))
      ∧ (nextPage (poolToRead x) page = none → toDecode d x (pagesToDecode s.flash x))
    (∀ p : PageNo, s.dev.rcs.pos = .settings p → p.val < 31 → becomes (reads idle (.settings (p + 1)) ⟨0, p + 1⟩))
    ∧ (s.dev.rcs.pos = .settings 31 →
        ∃ e : Dev, exec .recoveryReadDone s = .next { s with dev := e } ∧ e.rcs.pos = .directory ⟨1, 0⟩
          ∧ e.sst.working = (settingsFound s.flash).getD Settings.defaults
          ∧ e.sst.pending = e.sst.working ∧ e.rqd.rights = e.sst.working.rights
          ∧ e.rcs.settingsDefaulted = (settingsFound s.flash).isNone
          ∧ (∀ p : PageNo, e.sst.savePos ≤ p.val → s.flash.blankPage ⟨0, p⟩ = true)
          ∧ (e.sst.savePos = 0 ∨ ∃ p : PageNo, e.sst.savePos = p.val + 1 ∧ s.flash.blankPage ⟨0, p⟩ = false)
          ∧ s.dev.keepsAllBut [.rqd, .arc, .drm, .hiu, .ntu, .sst, .rcs] e)
    ∧ (∀ (z : Zone) (p : PageNo), s.dev.rcs.pos = .directory ⟨z, p⟩ → p.val < 31 →
        becomes (reads idle (.directory ⟨z, p + 1⟩) ⟨z, p + 1⟩))
    ∧ (s.dev.rcs.pos = .directory ⟨1, 31⟩ → becomes (reads idle (.directory ⟨2, 0⟩) ⟨2, 0⟩))
    ∧ (s.dev.rcs.pos = .directory ⟨2, 31⟩ →
        let x := journalPhase s.flash
        let known : Dev := { idle with rcs := { idle.rcs with journal := some x } }
        let d : Dev := if x.defects.contains 0 then { known with
            sst := { s.dev.sst with working := Settings.defaults, pending := Settings.defaults, savePos := 32 }
            rqd := ⟨Settings.defaults.rights⟩
            rcs := { known.rcs with settingsDefaulted := true } }
          else known
        (∀ z l, poolToRead x = z :: l → becomes (header d ⟨z, 0⟩))
        ∧ (poolToRead x = [] → toDecode d x (pagesToDecode s.flash x)))
    ∧ (∀ (p : PageAddr) (x : JournalScan), s.dev.rcs.pos = .poolHeader p → s.dev.rcs.journal = some x →
        (headerOutcome (s.flash.header p) = .erased → becomes (reads idle (.poolFull p) p))
        ∧ (headerOutcome (s.flash.header p) ≠ .erased → toNextHeader idle x p))
    ∧ (∀ (p : PageAddr) (x : JournalScan), s.dev.rcs.pos = .poolFull p → s.dev.rcs.journal = some x →
        toNextHeader idle x p)
    ∧ (∀ (p : PageAddr) (l : List PageAddr) (x : JournalScan), s.dev.rcs.pos = .poolDecode p l →
        s.dev.rcs.journal = some x → toDecode idle x l)
    ∧ (∀ (p : PageAddr) (x : JournalScan) (y : PoolScan) (next : PageAddr), s.dev.rcs.pos = .ring p →
        s.dev.rcs.journal = some x → s.dev.rcs.pool = some y → nextPage (ringToRead x) p = some next →
        becomes (reads idle (.ring next) next))
    ∧ (∀ (p : PageAddr) (x : JournalScan) (y : PoolScan), s.dev.rcs.pos = .ring p → s.dev.rcs.journal = some x →
        s.dev.rcs.pool = some y → nextPage (ringToRead x) p = none →
        ∃ e : Dev, exec .recoveryReadDone s = .next { s with dev := e }
          ∧ e = (idle.enterNormal x y (ringPhase s.flash x.defects)).settle
          ∧ e.rcs.pos = .idle ∧ (∀ k : Fin 5, e.tru.latches[k] = none)
          ∧ (s.dev.tru.qualified[Line.idx .pwrwarn] = false →
              e.hum.mode = .normal ∧ e.hum.closing = s.dev.hum.closing ∧ e.hum.credits = s.dev.sst.working.credits)
          ∧ (s.dev.tru.qualified[Line.idx .pwrwarn] = true →
              e.hum.credits = s.dev.sst.working.credits
              ∧ e.hum.mode = (if s.dev.sst.working.credits = 0 then .exhausted else .holdup)
              ∧ e.hum.closing = (if s.dev.sst.working.credits ≤ s.dev.sst.working.reserve then some .reserve else none)
              ∧ (∀ l ∈ [e.ntu.management, e.ntu.service], ∃ n ∈ l, n.cause = .powerWarn))
          ∧ (let z := ringPhase s.flash x.defects
             let top := optMax x.topEpoch (optMax y.topEpoch z.topEpoch)
             let epoch := min 4294967295 ((top.map (· + 1)).getD 1)
             let next := min 4294967296 ((optMax x.headNext ((optMax x.topIncident y.topIncident).map (· + 1))).getD 1)
             let unclosed := (List.finRange 32).filterMap fun i => y.dir[i].filter (·.state != .kept)
             (s.dev.hiu.intake = [] → z.nextSeq ≤ 4294967295 →
               (⟨.start epoch (min 255 unclosed.length) y.torn, 5, .internal, 0x000B, z.nextSeq, s.dev.tmb.tick⟩
                 : HEntry) ∈ e.hiu.unflushed)
             ∧ (∀ n, y.shortened.getLast? = some n → ∀ l ∈ [e.ntu.management, e.ntu.service],
                 ∃ v ∈ l, v.cause = .integrity ∧ v.detail = BitVec.ofNat 32 n)
             ∧ (e.drm.epoch = epoch ∧ e.arc.defects = x.defects ∧ e.drm.active = x.active ∧ e.drm.pos = x.pos
               ∧ e.drm.journalOpen = x.journalOpen ∧ e.drm.generation = x.generation
               ∧ (x.storeFailed ≠ none → e.arc.storeFailed = true)
               ∧ (e.drm.recoveryHeld = true ↔ x.spare = some .dirty ∧ x.active ≠ none
                   ∧ (512 - x.pos < 32 ∨ x.journalOpen = false) ∧ x.generation < 4294967295))
             ∧ ((∀ k : Fin 5, s.dev.tru.latches[k] = none) → s.dev.tru.qualified[Line.idx .pwrwarn] = false →
                 e.drm.nextIncident = next
                 ∧ (∀ i : DirSlot, e.drm.dir[i] = y.dir[i].map fun r => if r.state = .kept then r else { r with
                     state := .kept
                     completeness := some .interrupted
                     streams := r.streams.map fun v => if v.endKind = .open
                       then { v with endKind := .interrupted, reason := none, short := false, accepted := v.committed }
                       else v })
                 ∧ (s.dev.drm.queue = [] → s.dev.drm.captureWaiters = [] →
                     let entries := JEntry.epoch epoch :: unclosed.flatMap fun r =>
                       ((r.streams.filter (·.endKind == .open)).map fun v =>
                         JEntry.streamEnd r.number v.number .interrupted none false v.committed v.committed v.pages)
                       ++ [JEntry.incidentClose r.number (some .interrupted) r.overflow]
                     (∃ l, e.drm.queue = entries.take 80 ++ l)
                       ∧ e.drm.captureWaiters = (entries.drop 80).map .recovery)
                 ∧ e.plm.pages = y.pages ∧ e.plm.fillZone = y.fillZone ∧ e.plm.cursor = y.cursor
                 ∧ (s.dev.hiu.deferred = [] → ∀ k : RingIdx, (e.hiu.ring[k]).pins
                     = (((descending e.drm.records).foldl pinKept { s.dev.hiu with
                         ring := z.ring, newest := z.newest }).ring[k]).pins)))
          ∧ ((∀ k : Fin 5, s.dev.tru.latches[k] = none) → s.dev.tru.qualified[Line.idx .pwrwarn] = false →
              (∀ r ∈ e.drm.records, r.state = .kept)
              ∧ (∀ l ∈ [e.ntu.management, e.ntu.service], ∃ n ∈ l, n.cause = .recoveryDone)
              ∧ s.dev.keepsAllBut [.pif, .plm, .arc, .drm, .hiu, .hum, .tmb, .ntu, .sst, .rcs] e)))
  ∧ (∀ m : Memory,
       (∀ a n, m.wf → (m.blank a n = true ↔ ∀ x, a ≤ x → x < a + n → m.read x = 0xFF))
       ∧ (∀ r, settingsFound m = some r ↔
           ∃ p : PageNo, settingsAt m ⟨0, p⟩ = some r ∧ ∀ q : PageNo, p < q → settingsAt m ⟨0, q⟩ = none)
       ∧ (∀ (l : List PageAddr) (n : Nat), topHeaderEpoch m l = some n ↔
           (∃ p ∈ l, ∃ h, headerOutcome (m.header p) = .good h ∧ h.epoch = n)
             ∧ ∀ p ∈ l, ∀ h, headerOutcome (m.header p) = .good h → h.epoch ≤ n))
  ∧ (∀ m : Memory,
       let x := journalPhase m
       let empty : Prop := (∀ i : DirSlot, x.dir[i] = none) ∧ x.defects = [] ∧ x.unfinished = []
       (∀ (z : Zone) (g : Nat), completeImage m z = some g ↔
         (∃ epoch next, goodEntry m z 0 = some (.compactHead g epoch next))
           ∧ ∃ n, 2 ≤ n ∧ n ≤ 451 ∧ goodEntry m z (n - 1) = some (.compactTail g n))
       ∧ (∀ a b, completeImage m 1 = some a → completeImage m 2 = some b →
           x.active = some (if a < b then 2 else 1) ∧ x.generation = max a b ∧ x.spare = some .dirty)
       ∧ (∀ (z other : Zone) (g : Nat), ((z = 1 ∧ other = 2) ∨ (z = 2 ∧ other = 1)) → completeImage m z = some g →
           completeImage m other = none →
           x.active = some z ∧ x.generation = g
             ∧ x.spare = some (if m.blankZone other = true then .erased else .dirty))
       ∧ (completeImage m 1 = none → completeImage m 2 = none →
           (m.blankZone 1 = true ∧ m.blankZone 2 = true → empty ∧ x.active = some 2 ∧ x.spare = some .erased
             ∧ x.generation = 0 ∧ x.pos = 512 ∧ x.journalOpen = false ∧ x.storeFailed = none)
           ∧ (¬(m.blankZone 1 = true ∧ m.blankZone 2 = true) → empty ∧ x.active = none ∧ x.spare = none
             ∧ x.storeFailed = some 0xFFFFFFFF))
       ∧ (∀ z g, x.active = some z → completeImage m z = some g →
           ∃ k, k ≤ 512 ∧ (∀ i, i < k → jGood (slotBytes m z i) = true) ∧ (k < 512 → jGood (slotBytes m z k) = false)
             ∧ (let r := ((List.range k).map (slotBytes m z)).foldl Replay.apply Replay.blank
                x.dir = r.dir ∧ x.defects = r.defects ∧ x.unfinished = r.unfinished ∧ x.headNext = r.headNext
                ∧ x.topIncident = r.topIncident
                ∧ x.topEpoch = optMax r.topEpoch (topHeaderEpoch m (zonePages 1 ++ zonePages 2)))
             ∧ (k = 512 → x.pos = 512 ∧ x.journalOpen = true)
             ∧ (k < 512 → (∀ b ∈ slotBytes m z k, b = 0xFF) → x.pos = k
                 ∧ (x.journalOpen = true ↔ m.blank ((slotPage z k).base + 64 * (k % 16)) (1024 - 64 * (k % 16)) = true
                     ∧ (k % 16 = 0 → headerOutcome (m.header (slotPage z k)) = .erased)))
             ∧ (k < 512 → (∃ b ∈ slotBytes m z k, b ≠ 0xFF) → x.pos = (k / 16 + 1) * 16 ∧ x.journalOpen = false)
             ∧ (∀ w ∈ x.defects, w.val < 3 → (∀ v ∈ x.defects, w ≤ v) → x.storeFailed = some (BitVec.ofNat 32 w.val))
             ∧ ((∀ w ∈ x.defects, 3 ≤ w.val) →
                 (x.defects.length ≤ 32 → x.storeFailed = none)
                 ∧ (∀ w ∈ x.defects, 32 < x.defects.length → (∀ v ∈ x.defects, v ≤ w) →
                     x.storeFailed = some (BitVec.ofNat 32 w.val)))))
  ∧ (∀ (r : Replay) (b : List Byte),
       (∀ e, JEntry.decode b = some e → r.apply b = { r.effect e with
         topEpoch := optMax r.topEpoch (epochIn b), topIncident := optMax r.topIncident (incidentIn b) })
       ∧ (JEntry.decode b = none → r.apply b = { r with
         topEpoch := optMax r.topEpoch (epochIn b), topIncident := optMax r.topIncident (incidentIn b) }))
  ∧ (∀ e : JEntry, e.storable →
       (incidentIn e.bytes = match e with
         | .incidentOpen _ n _ _ _ _ _ | .triggerAdd n _ _ | .streamOpen n _ _ _ _ _ | .streamEnd n _ _ _ _ _ _ _
         | .incidentClose n _ _ | .retrieved n | .holdSet n | .holdClear n | .release n | .streamSummary n _ => some n
         | .incidentSummary _ x _ => some x.number
         | _ => none)
       ∧ (epochIn e.bytes = match e with
         | .incidentOpen _ _ n _ _ _ _ | .epoch n | .compactHead _ n _ => some n
         | .incidentSummary _ x _ => some x.epoch
         | _ => none))
  ∧ (∀ r : Replay,
       let rewrites (e : JEntry) (n : Nat) (f : Incident → Incident) : Prop := r.effect e = { r with
         dir := r.dir.map fun x => x.map fun y => if y.number = n then f y else y }
       let places (e : JEntry) (slot : Nat) (x : Incident) : Prop :=
         (∀ i : DirSlot, i.val = slot → r.dir[i] = none → r.effect e = { r with dir := put r.dir i (some x) })
         ∧ ((∀ i : DirSlot, i.val = slot → r.dir[i] ≠ none) → r.effect e = r)
       (∀ g n next, r.effect (.compactHead g n next) = { r with headNext := some next })
       ∧ (∀ g n, r.effect (.compactTail g n) = r) ∧ (∀ n, r.effect (.epoch n) = r)
       ∧ (∀ slot x n, places (.incidentSummary slot x n) slot x)
       ∧ (∀ slot n epoch t first last shortened, places (.incidentOpen slot n epoch t first last shortened) slot
           { state := .recording, number := n, epoch := epoch, primary := t, secondary := [], overflow := 0
             streams := [], windowFirst := first, windowLast := last, shortened := shortened, completeness := none
             held := false, retrieved := false })
       ∧ (∀ n v, rewrites (.streamSummary n v) n fun y =>
           if y.streams.length < 12 then { y with streams := y.streams ++ [v] } else y)
       ∧ (∀ n c t, rewrites (.triggerAdd n c t) n fun y =>
           if y.secondary.length < 4 then { y with secondary := y.secondary ++ [(c, t)] } else y)
       ∧ (∀ n stream source cls label declared, rewrites (.streamOpen n stream source cls label declared) n fun y =>
           if y.streams.length < 12 then { y with streams := y.streams
             ++ [StreamRec.mk stream source cls label declared 0 0 0 .open none false] } else y)
       ∧ (∀ n stream kind reason short accepted committed pages,
           rewrites (.streamEnd n stream kind reason short accepted committed pages) n fun y => { y with
             streams := y.streams.map fun v => if v.number = stream then { v with
               endKind := kind, reason := reason, short := short, accepted := accepted, committed := committed
               pages := pages } else v })
       ∧ (∀ n c overflow, rewrites (.incidentClose n c overflow) n fun y =>
           { y with state := .kept, completeness := c, overflow := overflow })
       ∧ (∀ n, rewrites (.holdSet n) n fun y => { y with held := true })
       ∧ (∀ n, rewrites (.holdClear n) n fun y => { y with held := false })
       ∧ (∀ n, rewrites (.retrieved n) n fun y => { y with retrieved := true })
       ∧ (∀ n, r.effect (.release n) = { r with dir := r.dir.map fun x => x.filter (·.number != n) })
       ∧ (∀ z w, w ∈ (r.effect (.reclaimStart z)).unfinished ↔ w = z ∨ w ∈ r.unfinished)
       ∧ (∀ z w, w ∈ (r.effect (.reclaimDone z)).unfinished ↔ w ≠ z ∧ w ∈ r.unfinished)
       ∧ (∀ z w, w ∈ (r.effect (.zoneDefect z)).defects ↔ w = z ∨ w ∈ r.defects))
  ∧ (∀ (m : Memory) (x : JournalScan) (q : Plm),
       let y := poolPhase m x
       let t : Plm := { q with zones := y.zones, pages := y.pages }
       let read (z : Zone) : Prop := 19 ≤ z.val ∧ z ∉ x.defects ∧ z ∉ x.unfinished
       (∀ z : Zone, 19 ≤ z.val → z ∈ x.defects →
         t.zone z.val = ⟨.defective, 32, []⟩ ∧ ∀ p : PageNo, t.page ⟨z, p⟩ = .torn)
       ∧ (∀ z : Zone, 19 ≤ z.val → z ∉ x.defects → z ∈ x.unfinished →
           t.zone z.val = ⟨.erasing, 32, []⟩ ∧ ∀ p : PageNo, t.page ⟨z, p⟩ = .torn)
       ∧ (∀ z, z ∈ y.reErase ↔ 19 ≤ z.val ∧ z ∈ x.unfinished ∧ z ∉ x.defects)
       ∧ (∀ p : PageAddr, read p.zone →
           (headerOutcome (m.header p) = .erased →
             t.page p = if m.blankPage p = true then .erased else .torn)
           ∧ (headerOutcome (m.header p) = .void → t.page p = .void)
           ∧ (headerOutcome (m.header p) = .bad → t.page p = .torn)
           ∧ (∀ h, headerOutcome (m.header p) = .good h →
               ((h.kind ≠ kindDump ∨ 11 < h.stream ∨ h.fill = 0 ∨ 1024 < h.fill) → t.page p = .torn)
               ∧ (¬(h.kind ≠ kindDump ∨ 11 < h.stream ∨ h.fill = 0 ∨ 1024 < h.fill) →
                   (t.page p = .dead ∨ t.page p = .torn ∨ t.page p = .live h.incident h.stream h.seq h.fill)
                   ∧ ((∀ (i : DirSlot) (r : Incident), x.dir[i] = some r → r.number = h.incident →
                       ∀ v ∈ r.streams, v.number ≠ h.stream) → t.page p = .dead))))
       ∧ (∀ z : Zone, read z →
           let candidate (w : Zone) (n : Nat) : Prop := read w ∧ 1 ≤ n ∧ n ≤ 31
             ∧ (∀ p : PageNo, t.page ⟨w, p⟩ = .erased ↔ n ≤ p.val) ∧ ∀ p : PageNo, t.page ⟨w, p⟩ ≠ .torn
           let epoch (w : Zone) : Nat := (topHeaderEpoch m (zonePages w)).getD 0
           ((∀ p : PageNo, t.page ⟨z, p⟩ = .erased) → t.zone z.val = ⟨.free, 0, []⟩ ∧ y.fillZone ≠ some z)
           ∧ ((∃ p : PageNo, t.page ⟨z, p⟩ ≠ .erased) →
               (∀ n, n ∈ (t.zone z.val).holders ↔ ∃ (p : PageNo) (stream seq fill : Nat),
                 t.page ⟨z, p⟩ = .live n stream seq fill)
               ∧ (y.fillZone = some z → (t.zone z.val).state = .filling ∧ candidate z (t.zone z.val).nextPage
                   ∧ y.cursor = z ∧ ∀ w n, candidate w n → epoch w < epoch z ∨ (epoch w = epoch z ∧ w ≤ z))
               ∧ (y.fillZone ≠ some z → (t.zone z.val).nextPage = 32
                   ∧ (t.zone z.val).state = if (t.zone z.val).holders = [] then .retired else .full))
           ∧ (y.fillZone = none → ∀ n, ¬candidate z n))
       ∧ ((∀ (i k : DirSlot) (r r' : Incident), x.dir[i] = some r → x.dir[k] = some r' → r.number = r'.number → i = k) →
           (∀ (i : DirSlot) (r : Incident), x.dir[i] = some r → (r.streams.map (·.number)).Nodup) →
           (∀ i : DirSlot, x.dir[i] = none → y.dir[i] = none)
           ∧ (∀ (i : DirSlot) (r : Incident), x.dir[i] = some r → ∃ f : StreamRec → StreamRec,
               y.dir[i] = some { r with streams := r.streams.map f }
               ∧ ∀ v ∈ r.streams, f v = { v with pages := (f v).pages, committed := (f v).committed }
                 ∧ (v.endKind ≠ .open → (f v).pages ≤ v.pages ∧ ((f v).pages < v.pages → r.number ∈ y.shortened))
                 ∧ ∃ fills : List Nat, fills.length = (f v).pages ∧ fills.sum = (f v).committed
                   ∧ (∀ n, n + 1 < fills.length → fills.getD n 0 = 1024)
                   ∧ (∀ n, n < fills.length → ∃ p : PageAddr, read p.zone
                       ∧ t.page p = .live r.number v.number n (fills.getD n 0))
                   ∧ (∀ (p : PageAddr) (n fill : Nat), read p.zone → t.page p = .live r.number v.number n fill →
                       n < fills.length ∧ fill = fills.getD n 0))))
  ∧ (∀ l : List RingPage, l.length = 32 →
       let shape (g : List (List Nat)) (irregular : Bool) (blank : Nat) : Prop := g.flatten ≠ []
         ∧ l = g.map .good ++ (if irregular then [RingPage.irregular] else []) ++ List.replicate blank .erased
       (ringClass l = .erased ↔ ∀ p ∈ l, p = .erased)
       ∧ (∀ low high irregular first, ringClass l = .run low high irregular first → ∃ g blank, shape g irregular blank
           ∧ low ∈ g.flatten ∧ high ∈ g.flatten ∧ (∀ n ∈ g.flatten, low ≤ n ∧ n ≤ high)
           ∧ first = if blank = 0 then none else some (Fin.ofNat 32 (32 - blank)))
       ∧ (∀ g irregular blank, shape g irregular blank → ∃ low high first,
           ringClass l = .run low high irregular first))
  ∧ (∀ (m : Memory) (defects : List Zone),
       let z := ringPhase m defects
       let cls (k : RingIdx) : RingClass := ringClass ((zonePages (ringZone k)).map (ringPage m))
       let good (k : RingIdx) : Prop := ringZone k ∉ defects
       let run (k : RingIdx) (irregular : Bool) (high : Nat) : Prop :=
         good k ∧ ∃ low first, cls k = .run low high irregular first
       let ordered (k : RingIdx) (high : Nat) : Prop := run k false high
         ∨ (run k true high ∧ (∀ j n, run j false n → n < high) ∧ ∀ j n, run j true n → n ≤ high)
       (∀ k, ¬good k → z.ring[k] = ⟨.defective, none, []⟩)
       ∧ (∀ k, good k → cls k = .erased → z.ring[k] = ⟨.erased, none, []⟩)
       ∧ (∀ k, good k → cls k = .other → z.ring[k] = ⟨.erasing, none, []⟩)
       ∧ (∀ k low high irregular first, good k → cls k = .run low high irregular first →
           (¬ordered k high → z.ring[k] = ⟨.erasing, none, []⟩)
           ∧ (ordered k high → (z.ring[k]).range = some (low, high) ∧ (z.ring[k]).pins = []
               ∧ ((z.ring[k]).state = .active ↔ z.newest = k ∧ first ≠ none)
               ∧ ((z.ring[k]).state = .filled ↔ ¬(z.newest = k ∧ first ≠ none))
               ∧ ((∀ j n, ordered j n → n < high ∨ (n = high ∧ k ≤ j)) →
                   z.newest = k ∧ z.target = first.map fun p => ⟨k, p, 0⟩)))
       ∧ ((∀ k n, ¬ordered k n) → z.newest = 15 ∧ z.target = none)
       ∧ (let seqs : List Nat := (List.finRange 16).flatMap fun k => if ringZone k ∈ defects then []
            else (zonePages (ringZone k)).flatMap fun p => (ringPage m p).seqs
          (∀ n ∈ seqs, n < z.nextSeq) ∧ ((seqs = [] ∧ z.nextSeq = 1) ∨ z.nextSeq - 1 ∈ seqs)))
  ∧ (∀ (m : Memory) (p : PageAddr),
       (ringPage m p = .erased ↔ m.blankPage p = true)
       ∧ (m.blankPage p = false → ∀ h, headerOutcome (m.header p) = .good h → h.kind = kindHistory →
           ringPage m p = .good (goodEntries 64 (m.readRange p.base 1024)))
       ∧ (m.blankPage p = false → (∀ h, headerOutcome (m.header p) = .good h → h.kind ≠ kindHistory) →
           ringPage m p = .irregular))
  ∧ (∀ l : List Incident, (descending l).Perm l ∧ (descending l).Pairwise (fun x y => y.number ≤ x.number))
  ∧ (∀ (h : Hiu) (r : Incident),
       let e := pinKept h r
       let back (k : RingIdx) : Nat := (h.newest.val + 16 - k.val) % 16
       e = { h with ring := e.ring }
       ∧ ∃ done left : List RingIdx, (done ++ left).Pairwise (fun x y => back x < back y)
         ∧ (∀ k : RingIdx, k ∈ done ++ left ↔
             ∃ x, (h.ring[k]).range = some x ∧ r.windowFirst ≤ x.2 ∧ x.1 ≤ r.windowLast)
         ∧ (∀ k : RingIdx, (e.ring[k]).state = (h.ring[k]).state ∧ (e.ring[k]).range = (h.ring[k]).range
             ∧ (k ∈ done → ∀ n, n ∈ (e.ring[k]).pins ↔ n = r.number ∨ n ∈ (h.ring[k]).pins)
             ∧ (k ∉ done → (e.ring[k]).pins = (h.ring[k]).pins))
         ∧ (∀ k l, left = k :: l → 12 ≤ e.pinCount ∧ (h.ring[k]).pins = []))

/-- Waiters are served in their order while places are free: the capture waiter at the front, and with fewer than 16
entries queued the maintenance waiter at the front, whose entry is queued and whose originator goes on (R94, R95, R85,
R86, R67). A TRIGGER_ADD, and an entry of recovery, is queued. An OPEN_STREAM is judged by Table 2.3 again and
answered, a stream slot released with STREAM_END, its record in the directory taking the same end, a CLOSING incident
KEPT with INCIDENT_CLOSE (R29, R47, R25, R16). The pending opening is judged again: refused, its trigger and those that joined it are taken as triggers are; else it
takes effect, by a release first where it goes by roll-oldest, and the joined triggers are its secondary triggers: with
no other waiter four of them join the record as the queue has room, the others of the four join the end of the
waiters, as all four do while another waits, even when places are free, and the rest raise the overflow count (R12,
R9, R11, R95; the order among them is read from R12, log entry 15). Choices of the model: a waiter needs one free
place at least (log entry 25), and the two commands change nothing where the places are not free (log entry 2). -/
def Obligations.WaitersAreServedInOrder : Prop :=
  ∀ s : State, s.powered = true →
    (∀ w rest, s.dev.drm.captureWaiters = w :: rest →
      let d : Dev := { s.dev with drm := { s.dev.drm with captureWaiters := rest } }
      (s.dev.drm.queue.length + s.dev.waiterNeeds w ≤ 80 →
        exec .captureWaiterServed s = .next { s with dev := (d.serveWaiter w).settle })
      ∧ (80 < s.dev.drm.queue.length + s.dev.waiterNeeds w → exec .captureWaiterServed s = .next s)
      ∧ (s.dev.waiterNeeds w
          = if w = .opening ∧ s.dev.arc.storeFailed = false then max 1 s.dev.openingWay.places else 1)
      ∧ (∀ (n : Nat) (c : Cause) (t : Tick) (i : DirSlot) (x : Incident), w = .triggerAdd n c t →
          s.dev.drm.slotOf n = some i → s.dev.drm.dir[i] = some x →
          d.serveWaiter w = { d with drm := { d.drm with
            queue := s.dev.drm.queue ++ [JEntry.triggerAdd n c t]
            dir := put s.dev.drm.dir i (some { x with secondary := x.secondary ++ [(c, t)] }) } })
      ∧ (∀ e, w = .recovery e → d.serveWaiter w = { d with drm := { d.drm with queue := s.dev.drm.queue ++ [e] } })
      ∧ (∀ (p : Port) (cls : Nat) (label : BitVec 64) (declared : Option Nat), w = .openStream p cls label declared →
          let power : Prop :=
            ¬(s.dev.hum.mode = .normal ∨ (s.dev.hum.mode = .holdup ∧ cls ≤ 1 ∧ s.dev.hum.closing = none))
          let refused (st : Status) : Prop := d.serveWaiter w = d.reply p st 0 .empty
          (power → refused .power)
          ∧ (¬power → s.dev.drm.at? s.dev.ict.recording = none → refused .noIncident)
          ∧ (∀ x, ¬power → s.dev.drm.at? s.dev.ict.recording = some x →
              (s.dev.ict.windowExpired = true → refused .windowClosed)
              ∧ (s.dev.ict.windowExpired = false → 12 ≤ x.streams.length → refused .streamLimit)
              ∧ (s.dev.ict.windowExpired = false → x.streams.length < 12 → (∀ i, s.dev.body i ≠ none) →
                  refused .noSlot))
          ∧ (∀ (i : StreamIdx) (k : DirSlot) (x : Incident), ¬power → s.dev.ict.recording = some k →
              s.dev.drm.dir[k] = some x → s.dev.drm.slotOf x.number = some k → s.dev.ict.windowExpired = false →
              x.streams.length < 12 → s.dev.freeStreamSlot = some i →
              let n := x.streams.length
              let gen := (s.dev.cpm.slots[i]).gen + 1
              d.serveWaiter w = ({ d with
                pif := (d.reply p .ok 0 (.opened i gen x.number n)).pif
                cpm := { s.dev.cpm with slots := put s.dev.cpm.slots i ⟨gen, some
                  { incident := x.number, stream := n, owner := p, cls := cls, declared := declared, accepted := 0
                    committed := 0, pages := 0, nextSeq := 0, fill := none, queued := 0, ending := none
                    short := false }⟩ }
                ict := s.dev.ict.attnClear p
                drm := { d.drm with
                  queue := s.dev.drm.queue ++ [JEntry.streamOpen x.number n (.port p) cls label declared]
                  dir := put s.dev.drm.dir k (some { x with streams := x.streams
                    ++ [StreamRec.mk n (.port p) cls label declared 0 0 0 .open none false] }) } }).settle))
      ∧ (∀ i : StreamIdx, w = .streamEnd i →
          ((∀ x, s.dev.body i = some x → x.ending = none ∨ x.fill ≠ none ∨ x.queued ≠ 0) → d.serveWaiter w = d)
          ∧ (∀ x e, s.dev.body i = some x → x.ending = some e → x.fill = none → x.queued = 0 →
              let r := d.serveWaiter w
              r.body i = none ∧ (∀ j, j ≠ i → r.body j = s.dev.body j)
              ∧ (∃ l, r.drm.queue = s.dev.drm.queue
                  ++ JEntry.streamEnd x.incident x.stream e.kind e.reason x.short x.accepted x.committed x.pages :: l)
              ∧ s.dev.recordTakes r x (x.closed e)
              ∧ d.keepsAllBut [.ict, .cpm, .arc, .drm, .hiu, .tmb, .ntu] r))
      ∧ (w = .incidentClose → ∀ (i : DirSlot) (x : Incident), s.dev.ict.closing = some i → s.dev.drm.dir[i] = some x →
          s.dev.ict.recording ≠ some i →
          ((∃ j y, s.dev.body j = some y ∧ y.incident = x.number) → d.serveWaiter w = d)
          ∧ ((∀ j y, s.dev.body j = some y → y.incident ≠ x.number) →
              let c : Completeness := if x.streams = [] then .noData
                else if ∀ y ∈ x.streams, y.endKind = .ended then .full else .partly
              let r := d.serveWaiter w
              r.ict.closing ≠ some i ∧ r.drm.dir[i] = some { x with state := .kept, completeness := some c }
              ∧ (∃ l, r.drm.queue = s.dev.drm.queue ++ JEntry.incidentClose x.number (some c) x.overflow :: l)
              ∧ (∀ l ∈ [r.ntu.management, r.ntu.service], ∃ n ∈ l, n.cause = .incidentKept)
              ∧ d.keepsAllBut [.ict, .arc, .drm, .hiu, .tmb, .ntu] r))
      ∧ (∀ o, w = .opening → s.dev.ict.opening = some o →
          let judged : Dev := { d with ict := { s.dev.ict with opening := none } }
          let n := s.dev.drm.nextIncident
          ((s.dev.arc.storeFailed = true ∨ s.dev.openingWay = .refused) →
            d.serveWaiter w = o.joined.foldl (fun e x => e.takeTrigger x.trigger x.port)
              (judged.refuseTrigger o.trigger o.port))
          ∧ (∀ (i : DirSlot) (base : Dev), s.dev.arc.storeFailed = false →
              ((s.dev.openingWay = .slot i ∧ base = judged)
                ∨ ∃ m, s.dev.openingWay = .roll i m ∧ base = judged.releaseIncident i m .internal) →
              (∀ x ∈ base.drm.records, x.number ≠ n) →
              let logged := base.triggerEvent o.trigger n .opened
              let v := (logged.dev.pinWindow n logged.seq).2
              let four := o.joined.take 4
              let room := if rest = [] then 79 - base.drm.queue.length else 0
              let r := d.serveWaiter w
              r.drm.dir = put base.drm.dir i (some
                { state := .recording, number := n, epoch := s.dev.drm.epoch, primary := o.trigger
                  secondary := (four.take room).map fun x => (x.trigger.cause, x.trigger.tick)
                  overflow := min 255 (o.joined.length - 4), streams := [], windowFirst := v.first
                  windowLast := v.last, shortened := v.shortened, completeness := none, held := false
                  retrieved := false })
              ∧ r.drm.queue = base.drm.queue
                  ++ JEntry.incidentOpen i.val n s.dev.drm.epoch o.trigger v.first v.last v.shortened
                    :: (four.take room).map (fun x => JEntry.triggerAdd n x.trigger.cause x.trigger.tick)
              ∧ r.drm.captureWaiters
                  = rest ++ (four.drop room).map (fun x => CapWaiter.triggerAdd n x.trigger.cause x.trigger.tick)
              ∧ r.drm.nextIncident = n + 1
              ∧ r.ict.opening = none ∧ r.ict.recording = some i ∧ r.ict.windowExpired = false
              ∧ r.tmb.deadlines.window
                  = some (s.dev.tmb.tick + BitVec.ofNat 48 (s.dev.sst.working.window * 1000))
              ∧ r.tmb.deadlines.limit = some (s.dev.tmb.tick + BitVec.ofNat 48 (s.dev.sst.working.limit * 1000))
              ∧ r.pif = (o.joined.foldl (fun e x => e.replyTo x.port .ok 0 (.declared .secondary n))
                  (base.replyTo o.port .ok 0 (.declared .opened n))).pif
              ∧ (∀ l ∈ [r.ntu.management, r.ntu.service],
                  ∃ x ∈ l, x.cause = .incidentOpened ∧ x.detail = BitVec.ofNat 32 n)
              ∧ base.keepsAllBut [.pif, .ict, .arc, .drm, .hiu, .tmb, .ntu] r)))
    ∧ (∀ e rest, s.dev.drm.maintWaiters = e :: rest →
        let d : Dev := { s.dev with drm := { s.dev.drm with
          maintWaiters := rest, queue := s.dev.drm.queue ++ [e] } }
        (16 ≤ s.dev.drm.queue.length → exec .maintenanceWaiterAccepted s = .next s)
        ∧ (s.dev.drm.queue.length < 16 →
            (∀ z, e = .zoneDefect z → exec .maintenanceWaiterAccepted s = .next { s with dev := d.settle })
            ∧ (∀ z, e = .reclaimStart z → exec .maintenanceWaiterAccepted s = .next { s with dev := ({ d with
                plm := { s.dev.plm.setZone z { s.dev.plm.zone z.val with state := .erasing } with
                  reclaim := .startWait z, reclaimAsked := none } }).settle })
            ∧ (∀ z, e = .reclaimDone z → exec .maintenanceWaiterAccepted s = .next { s with dev := ({ d with
                plm := { s.dev.plm with reclaim := .doneWait z } }).settle })))

/-- A stream that has left OPEN and holds no block is released with its STREAM_END, and its record in the directory
takes the end kind, the reason, the short flag and the final counts; or it waits for a place in the directory queue,
and the record stays as it is (R47, R25, R95). -/
def Obligations.StreamsAreReleased : Prop :=
  ∀ (s : State) (i : StreamIdx) (x : StreamBody) (e : PendingEnd), s.powered = true → s.dev.body i = some x →
    x.ending = some e → x.fill = none → x.queued = 0 → CapWaiter.streamEnd i ∉ s.dev.drm.captureWaiters →
    ∃ d : Dev, exec (.streamRelease i) s = .next { s with dev := d }
      ∧ (s.dev.drm.captureWaiters = [] → s.dev.drm.queue.length < 80 →
          d.body i = none ∧ (d.cpm.slots[i]).gen = (s.dev.cpm.slots[i]).gen
            ∧ (∃ l, d.drm.queue = s.dev.drm.queue
                ++ JEntry.streamEnd x.incident x.stream e.kind e.reason x.short x.accepted x.committed x.pages :: l)
            ∧ s.dev.recordTakes d x (x.closed e))
      ∧ ((s.dev.drm.captureWaiters ≠ [] ∨ 80 ≤ s.dev.drm.queue.length) →
          d.body i = some x ∧ CapWaiter.streamEnd i ∈ d.drm.captureWaiters ∧ s.dev.recordTakes d x id)
      ∧ s.dev.keepsAllBut [.ict, .cpm, .arc, .drm, .hiu, .tmb, .ntu] d

/-- An incident passes from RECORDING to CLOSING when its window is expired, no stream of it is OPEN and none is
CLOSING; a CLOSING incident without a stream slot becomes KEPT, with INCIDENT_CLOSE queued, its completeness by its
streams and INCIDENT_KEPT raised (R15, R16). -/
def Obligations.IncidentsPassAndClose : Prop :=
  ∀ (s : State) (i : DirSlot) (x : Incident), s.powered = true → s.dev.drm.dir[i] = some x →
    (s.dev.ict.recording = some i → s.dev.ict.windowExpired = true → s.dev.ict.closing = none →
      (∀ j y, s.dev.body j = some y → y.incident = x.number → y.ending ≠ none) →
      ∃ e : Dev, exec .passToClosing s = .next { s with dev := e }
        ∧ e.ict.recording = none ∧ (∀ k : Fin 4, e.ict.attn[k] = false)
        ∧ e.tmb.deadlines.window = none ∧ e.tmb.deadlines.limit = none
        ∧ ((∃ j y, s.dev.body j = some y ∧ y.incident = x.number) →
            e.ict.closing = some i ∧ e.drm.dir = put s.dev.drm.dir i (some { x with state := .closing }))
        ∧ s.dev.keepsAllBut [.ict, .arc, .drm, .hiu, .tmb, .ntu] e)
    ∧ (s.dev.ict.closing = some i → s.dev.ict.recording ≠ some i →
        (∀ j y, s.dev.body j = some y → y.incident ≠ x.number) → CapWaiter.incidentClose ∉ s.dev.drm.captureWaiters →
        s.dev.drm.captureWaiters = [] → s.dev.drm.queue.length < 80 →
        let c : Completeness := if x.streams = [] then .noData
          else if ∀ y ∈ x.streams, y.endKind = .ended then .full else .partly
        ∃ e : Dev, exec .incidentKept s = .next { s with dev := e }
          ∧ e.ict.closing ≠ some i
          ∧ e.drm.dir[i] = some { x with state := .kept, completeness := some c }
          ∧ (∃ l, e.drm.queue = s.dev.drm.queue ++ JEntry.incidentClose x.number (some c) x.overflow :: l)
          ∧ (∀ l ∈ [e.ntu.management, e.ntu.service], ∃ n ∈ l, n.cause = .incidentKept)
          ∧ s.dev.keepsAllBut [.ict, .arc, .drm, .hiu, .tmb, .ntu] e)

/-- At the load point the pending settings become working: while the load is due, in NORMAL, with no incident
RECORDING or CLOSING. The rights follow, and the credits take the new setting, or the lesser of it and their count
while the recharge deadline runs; SETTINGS_LOADED is offered (R193, R139, R178). That LOAD_POINT changes nothing else
is the model's choice (log entry 2). -/
def Obligations.SettingsLoadAtTheLoadPoint : Prop :=
  ∀ s : State, s.powered = true →
    let due : Prop := s.dev.sst.loadDue = true ∧ s.dev.hum.mode = .normal ∧ s.dev.ict.recording = none
      ∧ s.dev.ict.closing = none
    (¬due → exec .loadPoint s = .next s)
    ∧ (due → ∃ e : Dev, exec .loadPoint s = .next { s with dev := e }
        ∧ s.dev.offers e .plain 6 .internal 0x000C
        ∧ Dev.logsTo { s.dev with
            sst := { s.dev.sst with working := s.dev.sst.pending, loadDue := false }
            rqd := ⟨s.dev.sst.pending.rights⟩
            hum := { s.dev.hum with
              credits := if s.dev.tmb.deadlines.recharge = none then s.dev.sst.pending.credits
                else min s.dev.hum.credits s.dev.sst.pending.credits } } e)
end

