-- ==== Sys2Proof/Laws/State.lean ====
section
/-! SUPPORT. The fields of the volatile state after each named update: one lemma per update, one equation per field, so
that no proof unfolds a record update. -/

namespace Sys2Proof.Machine

/-! ### The machine -/

@[simp] theorem State.act_of_powered {s : State} (h : s.powered = true) (f : Dev → Dev) :
    s.act f = .next { s with dev := f s.dev } := by simp [State.act, h]

@[simp] theorem State.act_of_unpowered {s : State} (h : s.powered = false) (f : Dev → Dev) : s.act f = .next s := by
  simp [State.act, h]

/-- Everything `act` can do: it answers a next state that differs from the old one in the volatile state alone. -/
theorem State.act_spec (s : State) (f : Dev → Dev) :
    s.act f = .next { s with dev := if s.powered then f s.dev else s.dev } := by
  unfold State.act; split <;> rfl

/-! ### Places of a vector -/

section
variable {α : Type} {n : Nat}

@[simp] theorem get_put_same (v : Vector α n) (i : Fin n) (x : α) : (put v i x)[i.val]'i.isLt = x := by simp [put]

theorem get_put_ne (v : Vector α n) {i j : Fin n} (h : i ≠ j) (x : α) : (put v i x)[j] = v[j] := by
  have : i.val ≠ j.val := fun e => h (Fin.ext e)
  show (put v i x)[j.val] = v[j.val]
  simp [put, Vector.getElem_set_ne, this]

theorem get_put (v : Vector α n) (i j : Fin n) (x : α) : (put v i x)[j] = if i = j then x else v[j] := by
  by_cases h : i = j
  · subst h; rw [if_pos rfl]; exact get_put_same v i x
  · rw [if_neg h, get_put_ne v h]

@[simp] theorem get_modify_same (v : Vector α n) (i : Fin n) (f : α → α) :
    (modify v i f)[i.val]'i.isLt = f (v[i.val]'i.isLt) := get_put_same v i _

theorem get_modify_ne (v : Vector α n) {i j : Fin n} (h : i ≠ j) (f : α → α) : (modify v i f)[j] = v[j] :=
  get_put_ne v h _

theorem get_modify (v : Vector α n) (i j : Fin n) (f : α → α) :
    (modify v i f)[j] = if i = j then f v[j] else v[j] := by
  by_cases h : i = j
  · subst h; rw [if_pos rfl]; exact get_modify_same v i f
  · rw [if_neg h, get_modify_ne v h]

@[simp] theorem put_put (v : Vector α n) (i : Fin n) (x y : α) : put (put v i x) i y = put v i y := by simp [put]

end

theorem Port.idx_inj {p q : Port} (h : Port.idx p = Port.idx q) : p = q := by
  cases p <;> cases q <;> first | rfl | (exact absurd h (by decide))

/-- The state of a port after a port is rewritten. -/
theorem Dev.port_setPort (d : Dev) (p q : Port) (x : PortState) :
    (d.setPort p x).port q = if p = q then x else d.port q := by
  unfold Dev.port Dev.setPort
  rw [get_put]
  by_cases h : p = q
  · subst h; simp
  · rw [if_neg (fun e => h (Port.idx_inj e)), if_neg h]

@[simp] theorem Dev.port_setPort_same (d : Dev) (p : Port) (x : PortState) : (d.setPort p x).port p = x := by
  rw [Dev.port_setPort, if_pos rfl]

@[simp] theorem Dev.setPort_setPort (d : Dev) (p : Port) (x y : PortState) :
    (d.setPort p x).setPort p y = d.setPort p y := by
  unfold Dev.setPort
  simp only [put_put]

/-- The fields of a stream slot after a slot is rewritten. -/
theorem Dev.body_modBody (d : Dev) (i j : StreamIdx) (f : StreamBody → StreamBody) :
    (d.modBody i f).body j = if i = j then (d.body j).map f else d.body j := by
  unfold Dev.body Dev.modBody
  rw [get_modify]
  by_cases h : i = j
  · rw [if_pos h, if_pos h]
  · rw [if_neg h, if_neg h]

/-! ### The fields after each update -/

@[simp] theorem Dev.setHiu_fields (d : Dev) (f : Hiu → Hiu) :
    (d.setHiu f).pif = d.pif ∧ (d.setHiu f).rqd = d.rqd ∧ (d.setHiu f).tru = d.tru ∧ (d.setHiu f).ict = d.ict ∧
      (d.setHiu f).cpm = d.cpm ∧ (d.setHiu f).stb = d.stb ∧ (d.setHiu f).cme = d.cme ∧ (d.setHiu f).plm = d.plm ∧
      (d.setHiu f).arc = d.arc ∧ (d.setHiu f).drm = d.drm ∧ (d.setHiu f).hum = d.hum ∧ (d.setHiu f).tmb = d.tmb ∧
      (d.setHiu f).ntu = d.ntu ∧ (d.setHiu f).rtu = d.rtu ∧ (d.setHiu f).sst = d.sst ∧ (d.setHiu f).rcs = d.rcs ∧
      (d.setHiu f).hiu = f d.hiu := by
  and_intros <;> rfl

@[simp] theorem Dev.setDrm_fields (d : Dev) (f : Drm → Drm) :
    (d.setDrm f).pif = d.pif ∧ (d.setDrm f).rqd = d.rqd ∧ (d.setDrm f).tru = d.tru ∧ (d.setDrm f).ict = d.ict ∧
      (d.setDrm f).cpm = d.cpm ∧ (d.setDrm f).stb = d.stb ∧ (d.setDrm f).cme = d.cme ∧ (d.setDrm f).plm = d.plm ∧
      (d.setDrm f).arc = d.arc ∧ (d.setDrm f).hiu = d.hiu ∧ (d.setDrm f).hum = d.hum ∧ (d.setDrm f).tmb = d.tmb ∧
      (d.setDrm f).ntu = d.ntu ∧ (d.setDrm f).rtu = d.rtu ∧ (d.setDrm f).sst = d.sst ∧ (d.setDrm f).rcs = d.rcs ∧
      (d.setDrm f).drm = f d.drm := by
  and_intros <;> rfl

@[simp] theorem Dev.setPlm_fields (d : Dev) (f : Plm → Plm) :
    (d.setPlm f).pif = d.pif ∧ (d.setPlm f).rqd = d.rqd ∧ (d.setPlm f).tru = d.tru ∧ (d.setPlm f).ict = d.ict ∧
      (d.setPlm f).cpm = d.cpm ∧ (d.setPlm f).stb = d.stb ∧ (d.setPlm f).cme = d.cme ∧ (d.setPlm f).arc = d.arc ∧
      (d.setPlm f).drm = d.drm ∧ (d.setPlm f).hiu = d.hiu ∧ (d.setPlm f).hum = d.hum ∧ (d.setPlm f).tmb = d.tmb ∧
      (d.setPlm f).ntu = d.ntu ∧ (d.setPlm f).rtu = d.rtu ∧ (d.setPlm f).sst = d.sst ∧ (d.setPlm f).rcs = d.rcs ∧
      (d.setPlm f).plm = f d.plm := by
  and_intros <;> rfl

@[simp] theorem Dev.setStb_fields (d : Dev) (f : Stb → Stb) :
    (d.setStb f).pif = d.pif ∧ (d.setStb f).rqd = d.rqd ∧ (d.setStb f).tru = d.tru ∧ (d.setStb f).ict = d.ict ∧
      (d.setStb f).cpm = d.cpm ∧ (d.setStb f).cme = d.cme ∧ (d.setStb f).plm = d.plm ∧ (d.setStb f).arc = d.arc ∧
      (d.setStb f).drm = d.drm ∧ (d.setStb f).hiu = d.hiu ∧ (d.setStb f).hum = d.hum ∧ (d.setStb f).tmb = d.tmb ∧
      (d.setStb f).ntu = d.ntu ∧ (d.setStb f).rtu = d.rtu ∧ (d.setStb f).sst = d.sst ∧ (d.setStb f).rcs = d.rcs ∧
      (d.setStb f).stb = f d.stb := by
  and_intros <;> rfl

@[simp] theorem Dev.setIct_fields (d : Dev) (f : Ict → Ict) :
    (d.setIct f).pif = d.pif ∧ (d.setIct f).rqd = d.rqd ∧ (d.setIct f).tru = d.tru ∧ (d.setIct f).cpm = d.cpm ∧
      (d.setIct f).stb = d.stb ∧ (d.setIct f).cme = d.cme ∧ (d.setIct f).plm = d.plm ∧ (d.setIct f).arc = d.arc ∧
      (d.setIct f).drm = d.drm ∧ (d.setIct f).hiu = d.hiu ∧ (d.setIct f).hum = d.hum ∧ (d.setIct f).tmb = d.tmb ∧
      (d.setIct f).ntu = d.ntu ∧ (d.setIct f).rtu = d.rtu ∧ (d.setIct f).sst = d.sst ∧ (d.setIct f).rcs = d.rcs ∧
      (d.setIct f).ict = f d.ict := by
  and_intros <;> rfl

@[simp] theorem Dev.setCme_fields (d : Dev) (f : Cme → Cme) :
    (d.setCme f).pif = d.pif ∧ (d.setCme f).rqd = d.rqd ∧ (d.setCme f).tru = d.tru ∧ (d.setCme f).ict = d.ict ∧
      (d.setCme f).cpm = d.cpm ∧ (d.setCme f).stb = d.stb ∧ (d.setCme f).plm = d.plm ∧ (d.setCme f).arc = d.arc ∧
      (d.setCme f).drm = d.drm ∧ (d.setCme f).hiu = d.hiu ∧ (d.setCme f).hum = d.hum ∧ (d.setCme f).tmb = d.tmb ∧
      (d.setCme f).ntu = d.ntu ∧ (d.setCme f).rtu = d.rtu ∧ (d.setCme f).sst = d.sst ∧ (d.setCme f).rcs = d.rcs ∧
      (d.setCme f).cme = f d.cme := by
  and_intros <;> rfl

@[simp] theorem Dev.setRtu_fields (d : Dev) (f : Rtu → Rtu) :
    (d.setRtu f).pif = d.pif ∧ (d.setRtu f).rqd = d.rqd ∧ (d.setRtu f).tru = d.tru ∧ (d.setRtu f).ict = d.ict ∧
      (d.setRtu f).cpm = d.cpm ∧ (d.setRtu f).stb = d.stb ∧ (d.setRtu f).cme = d.cme ∧ (d.setRtu f).plm = d.plm ∧
      (d.setRtu f).arc = d.arc ∧ (d.setRtu f).drm = d.drm ∧ (d.setRtu f).hiu = d.hiu ∧ (d.setRtu f).hum = d.hum ∧
      (d.setRtu f).tmb = d.tmb ∧ (d.setRtu f).ntu = d.ntu ∧ (d.setRtu f).sst = d.sst ∧ (d.setRtu f).rcs = d.rcs ∧
      (d.setRtu f).rtu = f d.rtu := by
  and_intros <;> rfl

@[simp] theorem Dev.setHum_fields (d : Dev) (f : Hum → Hum) :
    (d.setHum f).pif = d.pif ∧ (d.setHum f).rqd = d.rqd ∧ (d.setHum f).tru = d.tru ∧ (d.setHum f).ict = d.ict ∧
      (d.setHum f).cpm = d.cpm ∧ (d.setHum f).stb = d.stb ∧ (d.setHum f).cme = d.cme ∧ (d.setHum f).plm = d.plm ∧
      (d.setHum f).arc = d.arc ∧ (d.setHum f).drm = d.drm ∧ (d.setHum f).hiu = d.hiu ∧ (d.setHum f).tmb = d.tmb ∧
      (d.setHum f).ntu = d.ntu ∧ (d.setHum f).rtu = d.rtu ∧ (d.setHum f).sst = d.sst ∧ (d.setHum f).rcs = d.rcs ∧
      (d.setHum f).hum = f d.hum := by
  and_intros <;> rfl

@[simp] theorem Dev.setTru_fields (d : Dev) (f : Tru → Tru) :
    (d.setTru f).pif = d.pif ∧ (d.setTru f).rqd = d.rqd ∧ (d.setTru f).ict = d.ict ∧ (d.setTru f).cpm = d.cpm ∧
      (d.setTru f).stb = d.stb ∧ (d.setTru f).cme = d.cme ∧ (d.setTru f).plm = d.plm ∧ (d.setTru f).arc = d.arc ∧
      (d.setTru f).drm = d.drm ∧ (d.setTru f).hiu = d.hiu ∧ (d.setTru f).hum = d.hum ∧ (d.setTru f).tmb = d.tmb ∧
      (d.setTru f).ntu = d.ntu ∧ (d.setTru f).rtu = d.rtu ∧ (d.setTru f).sst = d.sst ∧ (d.setTru f).rcs = d.rcs ∧
      (d.setTru f).tru = f d.tru := by
  and_intros <;> rfl

@[simp] theorem Dev.setSst_fields (d : Dev) (f : Sst → Sst) :
    (d.setSst f).pif = d.pif ∧ (d.setSst f).rqd = d.rqd ∧ (d.setSst f).tru = d.tru ∧ (d.setSst f).ict = d.ict ∧
      (d.setSst f).cpm = d.cpm ∧ (d.setSst f).stb = d.stb ∧ (d.setSst f).cme = d.cme ∧ (d.setSst f).plm = d.plm ∧
      (d.setSst f).arc = d.arc ∧ (d.setSst f).drm = d.drm ∧ (d.setSst f).hiu = d.hiu ∧ (d.setSst f).hum = d.hum ∧
      (d.setSst f).tmb = d.tmb ∧ (d.setSst f).ntu = d.ntu ∧ (d.setSst f).rtu = d.rtu ∧ (d.setSst f).rcs = d.rcs ∧
      (d.setSst f).sst = f d.sst := by
  and_intros <;> rfl

@[simp] theorem Dev.deadlines_fields (d : Dev) (f : Deadlines → Deadlines) :
    (d.deadlines f).pif = d.pif ∧ (d.deadlines f).rqd = d.rqd ∧ (d.deadlines f).tru = d.tru ∧
      (d.deadlines f).ict = d.ict ∧ (d.deadlines f).cpm = d.cpm ∧ (d.deadlines f).stb = d.stb ∧
      (d.deadlines f).cme = d.cme ∧ (d.deadlines f).plm = d.plm ∧ (d.deadlines f).arc = d.arc ∧
      (d.deadlines f).drm = d.drm ∧ (d.deadlines f).hiu = d.hiu ∧ (d.deadlines f).hum = d.hum ∧
      (d.deadlines f).ntu = d.ntu ∧ (d.deadlines f).rtu = d.rtu ∧ (d.deadlines f).sst = d.sst ∧
      (d.deadlines f).rcs = d.rcs ∧ (d.deadlines f).tmb.tick = d.tmb.tick ∧ (d.deadlines f).tmb.wall = d.tmb.wall ∧
      (d.deadlines f).tmb.deadlines = f d.tmb.deadlines := by
  and_intros <;> rfl

@[simp] theorem Dev.place_fields (d : Dev) (who : Requester) (job : Job) :
    (d.place who job).pif = d.pif ∧ (d.place who job).rqd = d.rqd ∧ (d.place who job).tru = d.tru ∧
      (d.place who job).ict = d.ict ∧ (d.place who job).cpm = d.cpm ∧ (d.place who job).stb = d.stb ∧
      (d.place who job).cme = d.cme ∧ (d.place who job).plm = d.plm ∧ (d.place who job).drm = d.drm ∧
      (d.place who job).hiu = d.hiu ∧ (d.place who job).hum = d.hum ∧ (d.place who job).tmb = d.tmb ∧
      (d.place who job).ntu = d.ntu ∧ (d.place who job).rtu = d.rtu ∧ (d.place who job).sst = d.sst ∧
      (d.place who job).rcs = d.rcs ∧ (d.place who job).arc.op = d.arc.op ∧
      (d.place who job).arc.erase = d.arc.erase ∧ (d.place who job).arc.runTimer = d.arc.runTimer ∧
      (d.place who job).arc.defects = d.arc.defects ∧ (d.place who job).arc.storeFailed = d.arc.storeFailed ∧
      (d.place who job).arc.waiting = d.arc.waiting ++ [⟨who, job⟩] := by
  and_intros <;> rfl

@[simp] theorem Dev.withdraw_fields (d : Dev) (who : Requester) :
    (d.withdraw who).pif = d.pif ∧ (d.withdraw who).rqd = d.rqd ∧ (d.withdraw who).tru = d.tru ∧
      (d.withdraw who).ict = d.ict ∧ (d.withdraw who).cpm = d.cpm ∧ (d.withdraw who).stb = d.stb ∧
      (d.withdraw who).cme = d.cme ∧ (d.withdraw who).plm = d.plm ∧ (d.withdraw who).drm = d.drm ∧
      (d.withdraw who).hiu = d.hiu ∧ (d.withdraw who).hum = d.hum ∧ (d.withdraw who).tmb = d.tmb ∧
      (d.withdraw who).ntu = d.ntu ∧ (d.withdraw who).rtu = d.rtu ∧ (d.withdraw who).sst = d.sst ∧
      (d.withdraw who).rcs = d.rcs ∧ (d.withdraw who).arc.op = d.arc.op ∧ (d.withdraw who).arc.erase = d.arc.erase ∧
      (d.withdraw who).arc.runTimer = d.arc.runTimer ∧ (d.withdraw who).arc.defects = d.arc.defects ∧
      (d.withdraw who).arc.storeFailed = d.arc.storeFailed ∧
      (d.withdraw who).arc.waiting = d.arc.waiting.filter (·.who != who) := by
  and_intros <;> rfl

@[simp] theorem Dev.erasePhase_fields (d : Dev) (p : ErasePhase) :
    (d.erasePhase p).pif = d.pif ∧ (d.erasePhase p).rqd = d.rqd ∧ (d.erasePhase p).tru = d.tru ∧
      (d.erasePhase p).ict = d.ict ∧ (d.erasePhase p).cpm = d.cpm ∧ (d.erasePhase p).stb = d.stb ∧
      (d.erasePhase p).cme = d.cme ∧ (d.erasePhase p).plm = d.plm ∧ (d.erasePhase p).drm = d.drm ∧
      (d.erasePhase p).hiu = d.hiu ∧ (d.erasePhase p).hum = d.hum ∧ (d.erasePhase p).tmb = d.tmb ∧
      (d.erasePhase p).ntu = d.ntu ∧ (d.erasePhase p).rtu = d.rtu ∧ (d.erasePhase p).sst = d.sst ∧
      (d.erasePhase p).rcs = d.rcs ∧ (d.erasePhase p).arc.op = d.arc.op ∧
      (d.erasePhase p).arc.runTimer = d.arc.runTimer ∧ (d.erasePhase p).arc.defects = d.arc.defects ∧
      (d.erasePhase p).arc.storeFailed = d.arc.storeFailed ∧ (d.erasePhase p).arc.waiting = d.arc.waiting ∧
      (d.erasePhase p).arc.erase = d.arc.erase.map fun e => { e with phase := p } := by
  and_intros <;> rfl

@[simp] theorem Dev.opEnds_fields (d : Dev) :
    (d.opEnds).pif = d.pif ∧ (d.opEnds).rqd = d.rqd ∧ (d.opEnds).tru = d.tru ∧ (d.opEnds).ict = d.ict ∧
      (d.opEnds).cpm = d.cpm ∧ (d.opEnds).stb = d.stb ∧ (d.opEnds).cme = d.cme ∧ (d.opEnds).plm = d.plm ∧
      (d.opEnds).drm = d.drm ∧ (d.opEnds).hiu = d.hiu ∧ (d.opEnds).hum = d.hum ∧ (d.opEnds).tmb = d.tmb ∧
      (d.opEnds).ntu = d.ntu ∧ (d.opEnds).rtu = d.rtu ∧ (d.opEnds).sst = d.sst ∧ (d.opEnds).rcs = d.rcs ∧
      (d.opEnds).arc.erase = d.arc.erase ∧ (d.opEnds).arc.runTimer = d.arc.runTimer ∧
      (d.opEnds).arc.defects = d.arc.defects ∧ (d.opEnds).arc.storeFailed = d.arc.storeFailed ∧
      (d.opEnds).arc.waiting = d.arc.waiting ∧ (d.opEnds).arc.op = none := by
  and_intros <;> rfl

@[simp] theorem Dev.setPort_fields (d : Dev) (p : Port) (x : PortState) :
    (d.setPort p x).rqd = d.rqd ∧ (d.setPort p x).tru = d.tru ∧ (d.setPort p x).ict = d.ict ∧
      (d.setPort p x).cpm = d.cpm ∧ (d.setPort p x).stb = d.stb ∧ (d.setPort p x).cme = d.cme ∧
      (d.setPort p x).plm = d.plm ∧ (d.setPort p x).arc = d.arc ∧ (d.setPort p x).drm = d.drm ∧
      (d.setPort p x).hiu = d.hiu ∧ (d.setPort p x).hum = d.hum ∧ (d.setPort p x).tmb = d.tmb ∧
      (d.setPort p x).ntu = d.ntu ∧ (d.setPort p x).rtu = d.rtu ∧ (d.setPort p x).sst = d.sst ∧
      (d.setPort p x).rcs = d.rcs ∧ (d.setPort p x).pif.ports = put d.pif.ports (Port.idx p) x ∧
      (d.setPort p x).pif.svcHunting = d.pif.svcHunting ∧ (d.setPort p x).pif.svcOut = d.pif.svcOut ∧
      (d.setPort p x).pif.i2cAddr = d.pif.i2cAddr := by
  and_intros <;> rfl

@[simp] theorem Dev.letGo_fields (d : Dev) (p : Port) :
    (d.letGo p).rqd = d.rqd ∧ (d.letGo p).tru = d.tru ∧ (d.letGo p).ict = d.ict ∧ (d.letGo p).cpm = d.cpm ∧
      (d.letGo p).stb = d.stb ∧ (d.letGo p).cme = d.cme ∧ (d.letGo p).plm = d.plm ∧ (d.letGo p).arc = d.arc ∧
      (d.letGo p).drm = d.drm ∧ (d.letGo p).hiu = d.hiu ∧ (d.letGo p).hum = d.hum ∧ (d.letGo p).tmb = d.tmb ∧
      (d.letGo p).ntu = d.ntu ∧ (d.letGo p).rtu = d.rtu ∧ (d.letGo p).sst = d.sst ∧ (d.letGo p).rcs = d.rcs ∧
      (d.letGo p).pif.ports = d.pif.ports ∧ (d.letGo p).pif.svcHunting = d.pif.svcHunting ∧
      (d.letGo p).pif.i2cAddr = d.pif.i2cAddr ∧ (d.letGo p).pif.svcOut = d.lineAfter p := by
  and_intros <;> rfl

@[simp] theorem Dev.acceptFrame_fields (d : Dev) (p : Port) (code tag : Byte) :
    (d.acceptFrame p code tag).rqd = d.rqd ∧ (d.acceptFrame p code tag).tru = d.tru ∧
      (d.acceptFrame p code tag).ict = d.ict ∧ (d.acceptFrame p code tag).cpm = d.cpm ∧
      (d.acceptFrame p code tag).stb = d.stb ∧ (d.acceptFrame p code tag).cme = d.cme ∧
      (d.acceptFrame p code tag).plm = d.plm ∧ (d.acceptFrame p code tag).arc = d.arc ∧
      (d.acceptFrame p code tag).drm = d.drm ∧ (d.acceptFrame p code tag).hiu = d.hiu ∧
      (d.acceptFrame p code tag).hum = d.hum ∧ (d.acceptFrame p code tag).tmb = d.tmb ∧
      (d.acceptFrame p code tag).ntu = d.ntu ∧ (d.acceptFrame p code tag).rtu = d.rtu ∧
      (d.acceptFrame p code tag).sst = d.sst ∧ (d.acceptFrame p code tag).rcs = d.rcs := by
  and_intros <;> rfl

@[simp] theorem Dev.countOverlap_fields (d : Dev) (p : Port) :
    (d.countOverlap p).rqd = d.rqd ∧ (d.countOverlap p).tru = d.tru ∧ (d.countOverlap p).ict = d.ict ∧
      (d.countOverlap p).cpm = d.cpm ∧ (d.countOverlap p).stb = d.stb ∧ (d.countOverlap p).cme = d.cme ∧
      (d.countOverlap p).plm = d.plm ∧ (d.countOverlap p).arc = d.arc ∧ (d.countOverlap p).drm = d.drm ∧
      (d.countOverlap p).hiu = d.hiu ∧ (d.countOverlap p).hum = d.hum ∧ (d.countOverlap p).tmb = d.tmb ∧
      (d.countOverlap p).ntu = d.ntu ∧ (d.countOverlap p).rtu = d.rtu ∧ (d.countOverlap p).sst = d.sst ∧
      (d.countOverlap p).rcs = d.rcs := by
  and_intros <;> rfl

@[simp] theorem Dev.hearFrame_fields (d : Dev) (p : Port) (n : Nat) :
    (d.hearFrame p n).rqd = d.rqd ∧ (d.hearFrame p n).tru = d.tru ∧ (d.hearFrame p n).ict = d.ict ∧
      (d.hearFrame p n).cpm = d.cpm ∧ (d.hearFrame p n).stb = d.stb ∧ (d.hearFrame p n).cme = d.cme ∧
      (d.hearFrame p n).plm = d.plm ∧ (d.hearFrame p n).arc = d.arc ∧ (d.hearFrame p n).drm = d.drm ∧
      (d.hearFrame p n).hiu = d.hiu ∧ (d.hearFrame p n).hum = d.hum ∧ (d.hearFrame p n).tmb = d.tmb ∧
      (d.hearFrame p n).ntu = d.ntu ∧ (d.hearFrame p n).rtu = d.rtu ∧ (d.hearFrame p n).sst = d.sst ∧
      (d.hearFrame p n).rcs = d.rcs ∧ (d.hearFrame p n).pif.svcOut = d.pif.svcOut ∧
      (d.hearFrame p n).pif.svcHunting = d.pif.svcHunting ∧ (d.hearFrame p n).pif.i2cAddr = d.pif.i2cAddr := by
  unfold Dev.hearFrame; split <;> (and_intros <;> rfl)

@[simp] theorem Dev.takeFrame_fields (d : Dev) (p : Port) (code tag : Byte) (b : List Byte) :
    (d.takeFrame p code tag b).rqd = d.rqd ∧ (d.takeFrame p code tag b).tru = d.tru ∧
      (d.takeFrame p code tag b).ict = d.ict ∧ (d.takeFrame p code tag b).cpm = d.cpm ∧
      (d.takeFrame p code tag b).stb = d.stb ∧ (d.takeFrame p code tag b).cme = d.cme ∧
      (d.takeFrame p code tag b).plm = d.plm ∧ (d.takeFrame p code tag b).arc = d.arc ∧
      (d.takeFrame p code tag b).drm = d.drm ∧ (d.takeFrame p code tag b).hiu = d.hiu ∧
      (d.takeFrame p code tag b).hum = d.hum ∧ (d.takeFrame p code tag b).tmb = d.tmb ∧
      (d.takeFrame p code tag b).ntu = d.ntu ∧ (d.takeFrame p code tag b).rtu = d.rtu ∧
      (d.takeFrame p code tag b).sst = d.sst ∧ (d.takeFrame p code tag b).rcs = d.rcs := by
  unfold Dev.takeFrame; simp

@[simp] theorem Dev.beginSending_fields (d : Dev) (r : Reply) :
    (d.beginSending r).rqd = d.rqd ∧ (d.beginSending r).tru = d.tru ∧ (d.beginSending r).ict = d.ict ∧
      (d.beginSending r).cpm = d.cpm ∧ (d.beginSending r).stb = d.stb ∧ (d.beginSending r).cme = d.cme ∧
      (d.beginSending r).plm = d.plm ∧ (d.beginSending r).arc = d.arc ∧ (d.beginSending r).drm = d.drm ∧
      (d.beginSending r).hiu = d.hiu ∧ (d.beginSending r).hum = d.hum ∧ (d.beginSending r).tmb = d.tmb ∧
      (d.beginSending r).ntu = d.ntu ∧ (d.beginSending r).rtu = d.rtu ∧ (d.beginSending r).sst = d.sst ∧
      (d.beginSending r).rcs = d.rcs ∧ (d.beginSending r).pif.svcOut = some ⟨r.frame, 0, true⟩ ∧
      (d.beginSending r).pif.svcHunting = d.pif.svcHunting ∧ (d.beginSending r).pif.i2cAddr = d.pif.i2cAddr := by
  and_intros <;> rfl

@[simp] theorem Dev.deliver_fields (d : Dev) (p : Port) (code : Byte) (r : Reply) :
    (d.deliver p code r).rqd = d.rqd ∧ (d.deliver p code r).tru = d.tru ∧ (d.deliver p code r).ict = d.ict ∧
      (d.deliver p code r).cpm = d.cpm ∧ (d.deliver p code r).stb = d.stb ∧ (d.deliver p code r).cme = d.cme ∧
      (d.deliver p code r).plm = d.plm ∧ (d.deliver p code r).arc = d.arc ∧ (d.deliver p code r).drm = d.drm ∧
      (d.deliver p code r).hiu = d.hiu ∧ (d.deliver p code r).hum = d.hum ∧ (d.deliver p code r).tmb = d.tmb ∧
      (d.deliver p code r).ntu = d.ntu ∧ (d.deliver p code r).rtu = d.rtu ∧ (d.deliver p code r).sst = d.sst ∧
      (d.deliver p code r).rcs = d.rcs := by
  unfold Dev.deliver; dsimp only; split <;> simp

@[simp] theorem Dev.refuseFrame_fields (d : Dev) (p : Port) :
    (d.refuseFrame p).rqd = d.rqd ∧ (d.refuseFrame p).tru = d.tru ∧ (d.refuseFrame p).ict = d.ict ∧
      (d.refuseFrame p).cpm = d.cpm ∧ (d.refuseFrame p).stb = d.stb ∧ (d.refuseFrame p).cme = d.cme ∧
      (d.refuseFrame p).plm = d.plm ∧ (d.refuseFrame p).arc = d.arc ∧ (d.refuseFrame p).drm = d.drm ∧
      (d.refuseFrame p).hiu = d.hiu ∧ (d.refuseFrame p).hum = d.hum ∧ (d.refuseFrame p).tmb = d.tmb ∧
      (d.refuseFrame p).ntu = d.ntu ∧ (d.refuseFrame p).rtu = d.rtu ∧ (d.refuseFrame p).sst = d.sst ∧
      (d.refuseFrame p).rcs = d.rcs := by
  unfold Dev.refuseFrame; simp

@[simp] theorem Dev.sendTick_fields (d : Dev) :
    (d.sendTick).rqd = d.rqd ∧ (d.sendTick).tru = d.tru ∧ (d.sendTick).ict = d.ict ∧ (d.sendTick).cpm = d.cpm ∧
      (d.sendTick).stb = d.stb ∧ (d.sendTick).cme = d.cme ∧ (d.sendTick).plm = d.plm ∧ (d.sendTick).arc = d.arc ∧
      (d.sendTick).drm = d.drm ∧ (d.sendTick).hiu = d.hiu ∧ (d.sendTick).hum = d.hum ∧ (d.sendTick).tmb = d.tmb ∧
      (d.sendTick).ntu = d.ntu ∧ (d.sendTick).rtu = d.rtu ∧ (d.sendTick).sst = d.sst ∧ (d.sendTick).rcs = d.rcs := by
  unfold Dev.sendTick; (repeat' (split)) <;> (try simp) <;> (repeat' (split)) <;> simp

@[simp] theorem Dev.reply_fields (d : Dev) (p : Port) (status : Status) (flags : Byte) (body : ReplyBody) :
    (d.reply p status flags body).rqd = d.rqd ∧ (d.reply p status flags body).tru = d.tru ∧
      (d.reply p status flags body).ict = d.ict ∧ (d.reply p status flags body).cpm = d.cpm ∧
      (d.reply p status flags body).stb = d.stb ∧ (d.reply p status flags body).cme = d.cme ∧
      (d.reply p status flags body).plm = d.plm ∧ (d.reply p status flags body).arc = d.arc ∧
      (d.reply p status flags body).drm = d.drm ∧ (d.reply p status flags body).hiu = d.hiu ∧
      (d.reply p status flags body).hum = d.hum ∧ (d.reply p status flags body).tmb = d.tmb ∧
      (d.reply p status flags body).ntu = d.ntu ∧ (d.reply p status flags body).rtu = d.rtu ∧
      (d.reply p status flags body).sst = d.sst ∧ (d.reply p status flags body).rcs = d.rcs := by
  unfold Dev.reply; split <;> simp

@[simp] theorem Dev.replyTo_fields (d : Dev) (p : Option Port) (status : Status) (flags : Byte) (body : ReplyBody) :
    (d.replyTo p status flags body).rqd = d.rqd ∧ (d.replyTo p status flags body).tru = d.tru ∧
      (d.replyTo p status flags body).ict = d.ict ∧ (d.replyTo p status flags body).cpm = d.cpm ∧
      (d.replyTo p status flags body).stb = d.stb ∧ (d.replyTo p status flags body).cme = d.cme ∧
      (d.replyTo p status flags body).plm = d.plm ∧ (d.replyTo p status flags body).arc = d.arc ∧
      (d.replyTo p status flags body).drm = d.drm ∧ (d.replyTo p status flags body).hiu = d.hiu ∧
      (d.replyTo p status flags body).hum = d.hum ∧ (d.replyTo p status flags body).tmb = d.tmb ∧
      (d.replyTo p status flags body).ntu = d.ntu ∧ (d.replyTo p status flags body).rtu = d.rtu ∧
      (d.replyTo p status flags body).sst = d.sst ∧ (d.replyTo p status flags body).rcs = d.rcs := by
  unfold Dev.replyTo; split <;> simp

@[simp] theorem Dev.raise_fields (d : Dev) (c : NoticeCause) (detail : Nat) :
    (d.raise c detail).pif = d.pif ∧ (d.raise c detail).rqd = d.rqd ∧ (d.raise c detail).tru = d.tru ∧
      (d.raise c detail).ict = d.ict ∧ (d.raise c detail).cpm = d.cpm ∧ (d.raise c detail).stb = d.stb ∧
      (d.raise c detail).cme = d.cme ∧ (d.raise c detail).plm = d.plm ∧ (d.raise c detail).arc = d.arc ∧
      (d.raise c detail).drm = d.drm ∧ (d.raise c detail).hiu = d.hiu ∧ (d.raise c detail).hum = d.hum ∧
      (d.raise c detail).tmb = d.tmb ∧ (d.raise c detail).rtu = d.rtu ∧ (d.raise c detail).sst = d.sst ∧
      (d.raise c detail).rcs = d.rcs ∧ (d.raise c detail).ntu.ind = d.ntu.ind ∧
      (d.raise c detail).ntu.indTicks = d.ntu.indTicks ∧
      (d.raise c detail).ntu.management = raiseIn d.ntu.management c (BitVec.ofNat 32 detail) ∧
      (d.raise c detail).ntu.service = raiseIn d.ntu.service c (BitVec.ofNat 32 detail) := by
  and_intros <;> rfl

@[simp] theorem Dev.showInd_fields (d : Dev) :
    (d.showInd).pif = d.pif ∧ (d.showInd).rqd = d.rqd ∧ (d.showInd).tru = d.tru ∧ (d.showInd).ict = d.ict ∧
      (d.showInd).cpm = d.cpm ∧ (d.showInd).stb = d.stb ∧ (d.showInd).cme = d.cme ∧ (d.showInd).plm = d.plm ∧
      (d.showInd).arc = d.arc ∧ (d.showInd).drm = d.drm ∧ (d.showInd).hiu = d.hiu ∧ (d.showInd).hum = d.hum ∧
      (d.showInd).tmb = d.tmb ∧ (d.showInd).rtu = d.rtu ∧ (d.showInd).sst = d.sst ∧ (d.showInd).rcs = d.rcs ∧
      (d.showInd).ntu.management = d.ntu.management ∧ (d.showInd).ntu.service = d.ntu.service := by
  unfold Dev.showInd; split <;> (and_intros <;> rfl)

@[simp] theorem Dev.showInd_ind (d : Dev) : d.showInd.ntu.ind = d.pattern := by
  unfold Dev.showInd; split <;> simp_all

/-- The same pattern runs on; a new one starts at its lit part (R165). -/
@[simp] theorem Dev.showInd_indTicks (d : Dev) :
    d.showInd.ntu.indTicks = if d.pattern = d.ntu.ind then d.ntu.indTicks else 0 := by
  unfold Dev.showInd; split <;> rfl

@[simp] theorem Dev.tickOnce_fields (d : Dev) :
    d.tickOnce.pif = d.pif ∧ d.tickOnce.rqd = d.rqd ∧ d.tickOnce.tru = d.tru ∧ d.tickOnce.ict = d.ict ∧
      d.tickOnce.cpm = d.cpm ∧ d.tickOnce.stb = d.stb ∧ d.tickOnce.cme = d.cme ∧ d.tickOnce.plm = d.plm ∧
      d.tickOnce.drm = d.drm ∧ d.tickOnce.hiu = d.hiu ∧ d.tickOnce.hum = d.hum ∧ d.tickOnce.rtu = d.rtu ∧
      d.tickOnce.sst = d.sst ∧ d.tickOnce.rcs = d.rcs ∧ d.tickOnce.tmb.tick = d.tmb.tick + 1 ∧
      d.tickOnce.tmb.deadlines = d.tmb.deadlines ∧ d.tickOnce.ntu.management = d.ntu.management ∧
      d.tickOnce.ntu.service = d.ntu.service ∧ d.tickOnce.ntu.ind = d.ntu.ind ∧
      d.tickOnce.ntu.indTicks = d.ntu.indTicks + 1 := by
  and_intros <;> rfl

/-- The drive of IND a tick later is that of the same pattern one tick on, at a return of the tick counter to 0 as at
any other tick (R165). -/
theorem Dev.tickOnce_indLit (d : Dev) : d.tickOnce.indLit = d.ntu.ind.lit (d.ntu.indTicks + 1) := rfl

@[simp] theorem Dev.queueEntry_fields (d : Dev) (e : JEntry) :
    (d.queueEntry e).pif = d.pif ∧ (d.queueEntry e).rqd = d.rqd ∧ (d.queueEntry e).tru = d.tru ∧
      (d.queueEntry e).ict = d.ict ∧ (d.queueEntry e).cpm = d.cpm ∧ (d.queueEntry e).stb = d.stb ∧
      (d.queueEntry e).cme = d.cme ∧ (d.queueEntry e).plm = d.plm ∧ (d.queueEntry e).arc = d.arc ∧
      (d.queueEntry e).hiu = d.hiu ∧ (d.queueEntry e).hum = d.hum ∧ (d.queueEntry e).tmb = d.tmb ∧
      (d.queueEntry e).ntu = d.ntu ∧ (d.queueEntry e).rtu = d.rtu ∧ (d.queueEntry e).sst = d.sst ∧
      (d.queueEntry e).rcs = d.rcs ∧ (d.queueEntry e).drm.dir = d.drm.dir ∧
      (d.queueEntry e).drm.captureWaiters = d.drm.captureWaiters ∧
      (d.queueEntry e).drm.maintWaiters = d.drm.maintWaiters ∧ (d.queueEntry e).drm.active = d.drm.active ∧
      (d.queueEntry e).drm.spare = d.drm.spare ∧ (d.queueEntry e).drm.pos = d.drm.pos ∧
      (d.queueEntry e).drm.journalOpen = d.drm.journalOpen ∧ (d.queueEntry e).drm.writer = d.drm.writer ∧
      (d.queueEntry e).drm.copy = d.drm.copy ∧ (d.queueEntry e).drm.absorbed = d.drm.absorbed ∧
      (d.queueEntry e).drm.generation = d.drm.generation ∧ (d.queueEntry e).drm.epoch = d.drm.epoch ∧
      (d.queueEntry e).drm.nextIncident = d.drm.nextIncident ∧
      (d.queueEntry e).drm.recoveryHeld = d.drm.recoveryHeld ∧ (d.queueEntry e).drm.queue = d.drm.queue ++ [e] := by
  and_intros <;> rfl

@[simp] theorem Dev.addWaiter_fields (d : Dev) (w : CapWaiter) :
    (d.addWaiter w).pif = d.pif ∧ (d.addWaiter w).rqd = d.rqd ∧ (d.addWaiter w).tru = d.tru ∧
      (d.addWaiter w).ict = d.ict ∧ (d.addWaiter w).cpm = d.cpm ∧ (d.addWaiter w).stb = d.stb ∧
      (d.addWaiter w).cme = d.cme ∧ (d.addWaiter w).plm = d.plm ∧ (d.addWaiter w).arc = d.arc ∧
      (d.addWaiter w).hiu = d.hiu ∧ (d.addWaiter w).hum = d.hum ∧ (d.addWaiter w).tmb = d.tmb ∧
      (d.addWaiter w).ntu = d.ntu ∧ (d.addWaiter w).rtu = d.rtu ∧ (d.addWaiter w).sst = d.sst ∧
      (d.addWaiter w).rcs = d.rcs ∧ (d.addWaiter w).drm.dir = d.drm.dir ∧
      (d.addWaiter w).drm.maintWaiters = d.drm.maintWaiters ∧ (d.addWaiter w).drm.active = d.drm.active ∧
      (d.addWaiter w).drm.spare = d.drm.spare ∧ (d.addWaiter w).drm.pos = d.drm.pos ∧
      (d.addWaiter w).drm.journalOpen = d.drm.journalOpen ∧ (d.addWaiter w).drm.writer = d.drm.writer ∧
      (d.addWaiter w).drm.copy = d.drm.copy ∧ (d.addWaiter w).drm.absorbed = d.drm.absorbed ∧
      (d.addWaiter w).drm.generation = d.drm.generation ∧ (d.addWaiter w).drm.epoch = d.drm.epoch ∧
      (d.addWaiter w).drm.nextIncident = d.drm.nextIncident ∧
      (d.addWaiter w).drm.recoveryHeld = d.drm.recoveryHeld ∧ (d.addWaiter w).drm.queue = d.drm.queue ∧
      (d.addWaiter w).drm.captureWaiters = d.drm.captureWaiters ++ [w] := by
  and_intros <;> rfl

@[simp] theorem Dev.modSlot_fields (d : Dev) (i : DirSlot) (f : Incident → Incident) :
    (d.modSlot i f).pif = d.pif ∧ (d.modSlot i f).rqd = d.rqd ∧ (d.modSlot i f).tru = d.tru ∧
      (d.modSlot i f).ict = d.ict ∧ (d.modSlot i f).cpm = d.cpm ∧ (d.modSlot i f).stb = d.stb ∧
      (d.modSlot i f).cme = d.cme ∧ (d.modSlot i f).plm = d.plm ∧ (d.modSlot i f).arc = d.arc ∧
      (d.modSlot i f).hiu = d.hiu ∧ (d.modSlot i f).hum = d.hum ∧ (d.modSlot i f).tmb = d.tmb ∧
      (d.modSlot i f).ntu = d.ntu ∧ (d.modSlot i f).rtu = d.rtu ∧ (d.modSlot i f).sst = d.sst ∧
      (d.modSlot i f).rcs = d.rcs ∧ (d.modSlot i f).drm.captureWaiters = d.drm.captureWaiters ∧
      (d.modSlot i f).drm.maintWaiters = d.drm.maintWaiters ∧ (d.modSlot i f).drm.active = d.drm.active ∧
      (d.modSlot i f).drm.spare = d.drm.spare ∧ (d.modSlot i f).drm.pos = d.drm.pos ∧
      (d.modSlot i f).drm.journalOpen = d.drm.journalOpen ∧ (d.modSlot i f).drm.writer = d.drm.writer ∧
      (d.modSlot i f).drm.copy = d.drm.copy ∧ (d.modSlot i f).drm.absorbed = d.drm.absorbed ∧
      (d.modSlot i f).drm.generation = d.drm.generation ∧ (d.modSlot i f).drm.epoch = d.drm.epoch ∧
      (d.modSlot i f).drm.nextIncident = d.drm.nextIncident ∧
      (d.modSlot i f).drm.recoveryHeld = d.drm.recoveryHeld ∧ (d.modSlot i f).drm.queue = d.drm.queue ∧
      (d.modSlot i f).drm.dir = modify d.drm.dir i (Option.map f) := by
  and_intros <;> rfl

@[simp] theorem Dev.modIncident_fields (d : Dev) (number : Nat) (f : Incident → Incident) :
    (d.modIncident number f).pif = d.pif ∧ (d.modIncident number f).rqd = d.rqd ∧
      (d.modIncident number f).tru = d.tru ∧ (d.modIncident number f).ict = d.ict ∧
      (d.modIncident number f).cpm = d.cpm ∧ (d.modIncident number f).stb = d.stb ∧
      (d.modIncident number f).cme = d.cme ∧ (d.modIncident number f).plm = d.plm ∧
      (d.modIncident number f).arc = d.arc ∧ (d.modIncident number f).hiu = d.hiu ∧
      (d.modIncident number f).hum = d.hum ∧ (d.modIncident number f).tmb = d.tmb ∧
      (d.modIncident number f).ntu = d.ntu ∧ (d.modIncident number f).rtu = d.rtu ∧
      (d.modIncident number f).sst = d.sst ∧ (d.modIncident number f).rcs = d.rcs ∧
      (d.modIncident number f).drm.captureWaiters = d.drm.captureWaiters ∧
      (d.modIncident number f).drm.maintWaiters = d.drm.maintWaiters ∧
      (d.modIncident number f).drm.active = d.drm.active ∧ (d.modIncident number f).drm.spare = d.drm.spare ∧
      (d.modIncident number f).drm.pos = d.drm.pos ∧ (d.modIncident number f).drm.journalOpen = d.drm.journalOpen ∧
      (d.modIncident number f).drm.writer = d.drm.writer ∧ (d.modIncident number f).drm.copy = d.drm.copy ∧
      (d.modIncident number f).drm.absorbed = d.drm.absorbed ∧
      (d.modIncident number f).drm.generation = d.drm.generation ∧ (d.modIncident number f).drm.epoch = d.drm.epoch ∧
      (d.modIncident number f).drm.nextIncident = d.drm.nextIncident ∧
      (d.modIncident number f).drm.recoveryHeld = d.drm.recoveryHeld ∧
      (d.modIncident number f).drm.queue = d.drm.queue := by
  unfold Dev.modIncident; split <;> simp

@[simp] theorem Dev.modBody_fields (d : Dev) (i : StreamIdx) (f : StreamBody → StreamBody) :
    (d.modBody i f).pif = d.pif ∧ (d.modBody i f).rqd = d.rqd ∧ (d.modBody i f).tru = d.tru ∧
      (d.modBody i f).ict = d.ict ∧ (d.modBody i f).stb = d.stb ∧ (d.modBody i f).cme = d.cme ∧
      (d.modBody i f).plm = d.plm ∧ (d.modBody i f).arc = d.arc ∧ (d.modBody i f).drm = d.drm ∧
      (d.modBody i f).hiu = d.hiu ∧ (d.modBody i f).hum = d.hum ∧ (d.modBody i f).tmb = d.tmb ∧
      (d.modBody i f).ntu = d.ntu ∧ (d.modBody i f).rtu = d.rtu ∧ (d.modBody i f).sst = d.sst ∧
      (d.modBody i f).rcs = d.rcs := by
  and_intros <;> rfl

@[simp] theorem Dev.freeBlocks_fields (d : Dev) (ids : List Nat) :
    (d.freeBlocks ids).pif = d.pif ∧ (d.freeBlocks ids).rqd = d.rqd ∧ (d.freeBlocks ids).tru = d.tru ∧
      (d.freeBlocks ids).ict = d.ict ∧ (d.freeBlocks ids).cpm = d.cpm ∧ (d.freeBlocks ids).cme = d.cme ∧
      (d.freeBlocks ids).plm = d.plm ∧ (d.freeBlocks ids).arc = d.arc ∧ (d.freeBlocks ids).drm = d.drm ∧
      (d.freeBlocks ids).hiu = d.hiu ∧ (d.freeBlocks ids).hum = d.hum ∧ (d.freeBlocks ids).tmb = d.tmb ∧
      (d.freeBlocks ids).ntu = d.ntu ∧ (d.freeBlocks ids).rtu = d.rtu ∧ (d.freeBlocks ids).sst = d.sst ∧
      (d.freeBlocks ids).rcs = d.rcs ∧ (d.freeBlocks ids).stb.free = d.stb.free ++ ids ∧
      (d.freeBlocks ids).stb.queue = d.stb.queue := by
  and_intros <;> rfl

@[simp] theorem Dev.setCursor_fields (d : Dev) (p : Port) (c : Cursor) :
    (d.setCursor p c).pif = d.pif ∧ (d.setCursor p c).rqd = d.rqd ∧ (d.setCursor p c).tru = d.tru ∧
      (d.setCursor p c).ict = d.ict ∧ (d.setCursor p c).cpm = d.cpm ∧ (d.setCursor p c).stb = d.stb ∧
      (d.setCursor p c).cme = d.cme ∧ (d.setCursor p c).plm = d.plm ∧ (d.setCursor p c).arc = d.arc ∧
      (d.setCursor p c).drm = d.drm ∧ (d.setCursor p c).hiu = d.hiu ∧ (d.setCursor p c).hum = d.hum ∧
      (d.setCursor p c).tmb = d.tmb ∧ (d.setCursor p c).ntu = d.ntu ∧ (d.setCursor p c).sst = d.sst ∧
      (d.setCursor p c).rcs = d.rcs ∧ (d.setCursor p c).rtu.cursors = put d.rtu.cursors (Port.idx p) c ∧
      (d.setCursor p c).rtu.jobs = d.rtu.jobs := by
  and_intros <;> rfl

@[simp] theorem Dev.setJob_fields (d : Dev) (p : Port) (j : Option ReadJob) :
    (d.setJob p j).pif = d.pif ∧ (d.setJob p j).rqd = d.rqd ∧ (d.setJob p j).tru = d.tru ∧
      (d.setJob p j).ict = d.ict ∧ (d.setJob p j).cpm = d.cpm ∧ (d.setJob p j).stb = d.stb ∧
      (d.setJob p j).cme = d.cme ∧ (d.setJob p j).plm = d.plm ∧ (d.setJob p j).arc = d.arc ∧
      (d.setJob p j).drm = d.drm ∧ (d.setJob p j).hiu = d.hiu ∧ (d.setJob p j).hum = d.hum ∧
      (d.setJob p j).tmb = d.tmb ∧ (d.setJob p j).ntu = d.ntu ∧ (d.setJob p j).sst = d.sst ∧
      (d.setJob p j).rcs = d.rcs ∧ (d.setJob p j).rtu.jobs = put d.rtu.jobs (Port.idx p) j ∧
      (d.setJob p j).rtu.cursors = d.rtu.cursors := by
  and_intros <;> rfl

@[simp] theorem Dev.attnOff_fields (d : Dev) :
    (d.attnOff).pif = d.pif ∧ (d.attnOff).rqd = d.rqd ∧ (d.attnOff).tru = d.tru ∧ (d.attnOff).cpm = d.cpm ∧
      (d.attnOff).stb = d.stb ∧ (d.attnOff).cme = d.cme ∧ (d.attnOff).plm = d.plm ∧ (d.attnOff).arc = d.arc ∧
      (d.attnOff).drm = d.drm ∧ (d.attnOff).hiu = d.hiu ∧ (d.attnOff).hum = d.hum ∧ (d.attnOff).tmb = d.tmb ∧
      (d.attnOff).ntu = d.ntu ∧ (d.attnOff).rtu = d.rtu ∧ (d.attnOff).sst = d.sst ∧ (d.attnOff).rcs = d.rcs ∧
      (d.attnOff).ict.attn = Vector.replicate 4 false ∧ (d.attnOff).ict.recording = d.ict.recording ∧
      (d.attnOff).ict.closing = d.ict.closing ∧ (d.attnOff).ict.windowExpired = d.ict.windowExpired ∧
      (d.attnOff).ict.opening = d.ict.opening := by
  and_intros <;> rfl

@[simp] theorem Dev.expireWindow_fields (d : Dev) :
    (d.expireWindow).pif = d.pif ∧ (d.expireWindow).rqd = d.rqd ∧ (d.expireWindow).tru = d.tru ∧
      (d.expireWindow).cpm = d.cpm ∧ (d.expireWindow).stb = d.stb ∧ (d.expireWindow).cme = d.cme ∧
      (d.expireWindow).plm = d.plm ∧ (d.expireWindow).arc = d.arc ∧ (d.expireWindow).drm = d.drm ∧
      (d.expireWindow).hiu = d.hiu ∧ (d.expireWindow).hum = d.hum ∧ (d.expireWindow).tmb = d.tmb ∧
      (d.expireWindow).ntu = d.ntu ∧ (d.expireWindow).rtu = d.rtu ∧ (d.expireWindow).sst = d.sst ∧
      (d.expireWindow).rcs = d.rcs ∧ (d.expireWindow).ict.attn = Vector.replicate 4 false ∧
      (d.expireWindow).ict.recording = d.ict.recording ∧ (d.expireWindow).ict.closing = d.ict.closing ∧
      (d.expireWindow).ict.windowExpired = true ∧ (d.expireWindow).ict.opening = d.ict.opening := by
  and_intros <;> rfl

@[simp] theorem Dev.cancelCapture_fields (d : Dev) :
    (d.cancelCapture).pif = d.pif ∧ (d.cancelCapture).rqd = d.rqd ∧ (d.cancelCapture).tru = d.tru ∧
      (d.cancelCapture).ict = d.ict ∧ (d.cancelCapture).cpm = d.cpm ∧ (d.cancelCapture).stb = d.stb ∧
      (d.cancelCapture).cme = d.cme ∧ (d.cancelCapture).plm = d.plm ∧ (d.cancelCapture).arc = d.arc ∧
      (d.cancelCapture).drm = d.drm ∧ (d.cancelCapture).hiu = d.hiu ∧ (d.cancelCapture).hum = d.hum ∧
      (d.cancelCapture).ntu = d.ntu ∧ (d.cancelCapture).rtu = d.rtu ∧ (d.cancelCapture).sst = d.sst ∧
      (d.cancelCapture).rcs = d.rcs ∧ (d.cancelCapture).tmb.tick = d.tmb.tick ∧
      (d.cancelCapture).tmb.wall = d.tmb.wall := by
  and_intros <;> rfl

@[simp] theorem Dev.setLevel_fields (d : Dev) (l : Line) (x : Bool) :
    (d.setLevel l x).pif = d.pif ∧ (d.setLevel l x).rqd = d.rqd ∧ (d.setLevel l x).ict = d.ict ∧
      (d.setLevel l x).cpm = d.cpm ∧ (d.setLevel l x).stb = d.stb ∧ (d.setLevel l x).cme = d.cme ∧
      (d.setLevel l x).plm = d.plm ∧ (d.setLevel l x).arc = d.arc ∧ (d.setLevel l x).drm = d.drm ∧
      (d.setLevel l x).hiu = d.hiu ∧ (d.setLevel l x).hum = d.hum ∧ (d.setLevel l x).tmb = d.tmb ∧
      (d.setLevel l x).ntu = d.ntu ∧ (d.setLevel l x).rtu = d.rtu ∧ (d.setLevel l x).sst = d.sst ∧
      (d.setLevel l x).rcs = d.rcs := by
  and_intros <;> rfl

@[simp] theorem Dev.setFilter_fields (d : Dev) (l : Line) (t : Option Tick) :
    (d.setFilter l t).pif = d.pif ∧ (d.setFilter l t).rqd = d.rqd ∧ (d.setFilter l t).ict = d.ict ∧
      (d.setFilter l t).cpm = d.cpm ∧ (d.setFilter l t).stb = d.stb ∧ (d.setFilter l t).cme = d.cme ∧
      (d.setFilter l t).plm = d.plm ∧ (d.setFilter l t).arc = d.arc ∧ (d.setFilter l t).drm = d.drm ∧
      (d.setFilter l t).hiu = d.hiu ∧ (d.setFilter l t).hum = d.hum ∧ (d.setFilter l t).ntu = d.ntu ∧
      (d.setFilter l t).rtu = d.rtu ∧ (d.setFilter l t).sst = d.sst ∧ (d.setFilter l t).rcs = d.rcs ∧
      (d.setFilter l t).tmb.tick = d.tmb.tick ∧ (d.setFilter l t).tmb.wall = d.tmb.wall ∧
      (d.setFilter l t).tru.levels = d.tru.levels ∧ (d.setFilter l t).tru.qualified = d.tru.qualified ∧
      (d.setFilter l t).tru.latches = d.tru.latches := by
  and_intros <;> rfl

@[simp] theorem Dev.spendCredit_fields (d : Dev) :
    (d.spendCredit).pif = d.pif ∧ (d.spendCredit).rqd = d.rqd ∧ (d.spendCredit).tru = d.tru ∧
      (d.spendCredit).ict = d.ict ∧ (d.spendCredit).cpm = d.cpm ∧ (d.spendCredit).stb = d.stb ∧
      (d.spendCredit).cme = d.cme ∧ (d.spendCredit).plm = d.plm ∧ (d.spendCredit).arc = d.arc ∧
      (d.spendCredit).drm = d.drm ∧ (d.spendCredit).hiu = d.hiu ∧ (d.spendCredit).tmb = d.tmb ∧
      (d.spendCredit).ntu = d.ntu ∧ (d.spendCredit).rtu = d.rtu ∧ (d.spendCredit).sst = d.sst ∧
      (d.spendCredit).rcs = d.rcs ∧ (d.spendCredit).hum.credits = d.hum.credits - 1 ∧
      (d.spendCredit).hum.mode = d.hum.mode ∧ (d.spendCredit).hum.closing = d.hum.closing := by
  and_intros <;> rfl

@[simp] theorem Dev.rechargeNow_fields (d : Dev) :
    (d.rechargeNow).pif = d.pif ∧ (d.rechargeNow).rqd = d.rqd ∧ (d.rechargeNow).tru = d.tru ∧
      (d.rechargeNow).ict = d.ict ∧ (d.rechargeNow).cpm = d.cpm ∧ (d.rechargeNow).stb = d.stb ∧
      (d.rechargeNow).cme = d.cme ∧ (d.rechargeNow).plm = d.plm ∧ (d.rechargeNow).arc = d.arc ∧
      (d.rechargeNow).drm = d.drm ∧ (d.rechargeNow).hiu = d.hiu ∧ (d.rechargeNow).ntu = d.ntu ∧
      (d.rechargeNow).rtu = d.rtu ∧ (d.rechargeNow).sst = d.sst ∧ (d.rechargeNow).rcs = d.rcs ∧
      (d.rechargeNow).hum.credits = d.sst.working.credits ∧ (d.rechargeNow).hum.mode = d.hum.mode ∧
      (d.rechargeNow).hum.closing = d.hum.closing ∧ (d.rechargeNow).tmb.tick = d.tmb.tick ∧
      (d.rechargeNow).tmb.wall = d.tmb.wall := by
  and_intros <;> rfl

end Sys2Proof.Machine
end

