-- ==== Sys2Proof/Laws/Frames.lean ====
section
/-! SUPPORT. What each shared operation leaves unchanged: one lemma per operation, one equation per field. Where an
operation touches the Time Base it leaves the tick and the wall time, and where it touches the arbiter it leaves the
operation in progress, the erase and its timer, the defect marks and the STORE_FAILED condition. -/

namespace Sys2Proof.Machine

/-! ### History -/

@[simp] theorem Dev.prepare_frame (d : Dev) (k : RingIdx) :
    (d.prepare k).pif = d.pif ∧ (d.prepare k).rqd = d.rqd ∧ (d.prepare k).tru = d.tru ∧ (d.prepare k).ict = d.ict ∧
      (d.prepare k).cpm = d.cpm ∧ (d.prepare k).stb = d.stb ∧ (d.prepare k).cme = d.cme ∧ (d.prepare k).plm = d.plm ∧
      (d.prepare k).drm = d.drm ∧ (d.prepare k).hum = d.hum ∧ (d.prepare k).tmb = d.tmb ∧ (d.prepare k).ntu = d.ntu ∧
      (d.prepare k).rtu = d.rtu ∧ (d.prepare k).sst = d.sst ∧ (d.prepare k).rcs = d.rcs ∧
      (d.prepare k).arc.op = d.arc.op ∧ (d.prepare k).arc.erase = d.arc.erase ∧
      (d.prepare k).arc.runTimer = d.arc.runTimer ∧ (d.prepare k).arc.defects = d.arc.defects ∧
      (d.prepare k).arc.storeFailed = d.arc.storeFailed := by
  unfold Dev.prepare; simp

@[simp] theorem Dev.prepTest_frame (d : Dev) :
    (d.prepTest).pif = d.pif ∧ (d.prepTest).rqd = d.rqd ∧ (d.prepTest).tru = d.tru ∧ (d.prepTest).ict = d.ict ∧
      (d.prepTest).cpm = d.cpm ∧ (d.prepTest).stb = d.stb ∧ (d.prepTest).cme = d.cme ∧ (d.prepTest).plm = d.plm ∧
      (d.prepTest).drm = d.drm ∧ (d.prepTest).hum = d.hum ∧ (d.prepTest).tmb = d.tmb ∧ (d.prepTest).ntu = d.ntu ∧
      (d.prepTest).rtu = d.rtu ∧ (d.prepTest).sst = d.sst ∧ (d.prepTest).rcs = d.rcs ∧
      (d.prepTest).arc.op = d.arc.op ∧ (d.prepTest).arc.erase = d.arc.erase ∧
      (d.prepTest).arc.runTimer = d.arc.runTimer ∧ (d.prepTest).arc.defects = d.arc.defects ∧
      (d.prepTest).arc.storeFailed = d.arc.storeFailed := by
  unfold Dev.prepTest; (repeat' split) <;> simp

@[simp] theorem Dev.haltTest_frame (d : Dev) :
    (d.haltTest).pif = d.pif ∧ (d.haltTest).rqd = d.rqd ∧ (d.haltTest).tru = d.tru ∧ (d.haltTest).ict = d.ict ∧
      (d.haltTest).cpm = d.cpm ∧ (d.haltTest).stb = d.stb ∧ (d.haltTest).cme = d.cme ∧ (d.haltTest).plm = d.plm ∧
      (d.haltTest).arc = d.arc ∧ (d.haltTest).drm = d.drm ∧ (d.haltTest).hum = d.hum ∧ (d.haltTest).tmb = d.tmb ∧
      (d.haltTest).rtu = d.rtu ∧ (d.haltTest).sst = d.sst ∧ (d.haltTest).rcs = d.rcs := by
  unfold Dev.haltTest; dsimp only; split <;> simp

@[simp] theorem Dev.activate_frame (d : Dev) (k : RingIdx) :
    (d.activate k).pif = d.pif ∧ (d.activate k).rqd = d.rqd ∧ (d.activate k).tru = d.tru ∧
      (d.activate k).ict = d.ict ∧ (d.activate k).cpm = d.cpm ∧ (d.activate k).stb = d.stb ∧
      (d.activate k).cme = d.cme ∧ (d.activate k).plm = d.plm ∧ (d.activate k).arc = d.arc ∧
      (d.activate k).drm = d.drm ∧ (d.activate k).hum = d.hum ∧ (d.activate k).tmb = d.tmb ∧
      (d.activate k).rtu = d.rtu ∧ (d.activate k).sst = d.sst ∧ (d.activate k).rcs = d.rcs := by
  unfold Dev.activate; simp

@[simp] theorem Dev.ringAdvance_frame (d : Dev) (k : RingIdx) :
    (d.ringAdvance k).pif = d.pif ∧ (d.ringAdvance k).rqd = d.rqd ∧ (d.ringAdvance k).tru = d.tru ∧
      (d.ringAdvance k).ict = d.ict ∧ (d.ringAdvance k).cpm = d.cpm ∧ (d.ringAdvance k).stb = d.stb ∧
      (d.ringAdvance k).cme = d.cme ∧ (d.ringAdvance k).plm = d.plm ∧ (d.ringAdvance k).drm = d.drm ∧
      (d.ringAdvance k).hum = d.hum ∧ (d.ringAdvance k).tmb = d.tmb ∧ (d.ringAdvance k).rtu = d.rtu ∧
      (d.ringAdvance k).sst = d.sst ∧ (d.ringAdvance k).rcs = d.rcs ∧ (d.ringAdvance k).arc.op = d.arc.op ∧
      (d.ringAdvance k).arc.erase = d.arc.erase ∧ (d.ringAdvance k).arc.runTimer = d.arc.runTimer ∧
      (d.ringAdvance k).arc.defects = d.arc.defects ∧ (d.ringAdvance k).arc.storeFailed = d.arc.storeFailed := by
  unfold Dev.ringAdvance; simp only [Dev.prepTest_frame]; (repeat' split) <;> simp

@[simp] theorem Dev.pageAdvance_frame (d : Dev) :
    (d.pageAdvance).pif = d.pif ∧ (d.pageAdvance).rqd = d.rqd ∧ (d.pageAdvance).tru = d.tru ∧
      (d.pageAdvance).ict = d.ict ∧ (d.pageAdvance).cpm = d.cpm ∧ (d.pageAdvance).stb = d.stb ∧
      (d.pageAdvance).cme = d.cme ∧ (d.pageAdvance).plm = d.plm ∧ (d.pageAdvance).drm = d.drm ∧
      (d.pageAdvance).hum = d.hum ∧ (d.pageAdvance).tmb = d.tmb ∧ (d.pageAdvance).rtu = d.rtu ∧
      (d.pageAdvance).sst = d.sst ∧ (d.pageAdvance).rcs = d.rcs ∧ (d.pageAdvance).arc.op = d.arc.op ∧
      (d.pageAdvance).arc.erase = d.arc.erase ∧ (d.pageAdvance).arc.runTimer = d.arc.runTimer ∧
      (d.pageAdvance).arc.defects = d.arc.defects ∧ (d.pageAdvance).arc.storeFailed = d.arc.storeFailed := by
  unfold Dev.pageAdvance; (repeat' split) <;> simp

@[simp] theorem Dev.armFlush_frame (d : Dev) :
    (d.armFlush).pif = d.pif ∧ (d.armFlush).rqd = d.rqd ∧ (d.armFlush).tru = d.tru ∧ (d.armFlush).ict = d.ict ∧
      (d.armFlush).cpm = d.cpm ∧ (d.armFlush).stb = d.stb ∧ (d.armFlush).cme = d.cme ∧ (d.armFlush).plm = d.plm ∧
      (d.armFlush).arc = d.arc ∧ (d.armFlush).drm = d.drm ∧ (d.armFlush).hiu = d.hiu ∧ (d.armFlush).hum = d.hum ∧
      (d.armFlush).ntu = d.ntu ∧ (d.armFlush).rtu = d.rtu ∧ (d.armFlush).sst = d.sst ∧ (d.armFlush).rcs = d.rcs ∧
      (d.armFlush).tmb.tick = d.tmb.tick ∧ (d.armFlush).tmb.wall = d.tmb.wall := by
  unfold Dev.armFlush; (repeat' split) <;> simp

@[simp] theorem Dev.takeEntry_frame (d : Dev) (body : HBody) (severity : Nat) (source : Source) (code : Nat) :
    (d.takeEntry body severity source code).pif = d.pif ∧ (d.takeEntry body severity source code).rqd = d.rqd ∧
      (d.takeEntry body severity source code).tru = d.tru ∧ (d.takeEntry body severity source code).ict = d.ict ∧
      (d.takeEntry body severity source code).cpm = d.cpm ∧ (d.takeEntry body severity source code).stb = d.stb ∧
      (d.takeEntry body severity source code).cme = d.cme ∧ (d.takeEntry body severity source code).plm = d.plm ∧
      (d.takeEntry body severity source code).arc = d.arc ∧ (d.takeEntry body severity source code).drm = d.drm ∧
      (d.takeEntry body severity source code).hum = d.hum ∧ (d.takeEntry body severity source code).tmb = d.tmb ∧
      (d.takeEntry body severity source code).ntu = d.ntu ∧ (d.takeEntry body severity source code).rtu = d.rtu ∧
      (d.takeEntry body severity source code).sst = d.sst ∧ (d.takeEntry body severity source code).rcs = d.rcs := by
  unfold Dev.takeEntry; simp

@[simp] theorem Dev.gapTest_frame (d : Dev) :
    (d.gapTest).pif = d.pif ∧ (d.gapTest).rqd = d.rqd ∧ (d.gapTest).tru = d.tru ∧ (d.gapTest).ict = d.ict ∧
      (d.gapTest).cpm = d.cpm ∧ (d.gapTest).stb = d.stb ∧ (d.gapTest).cme = d.cme ∧ (d.gapTest).plm = d.plm ∧
      (d.gapTest).arc = d.arc ∧ (d.gapTest).drm = d.drm ∧ (d.gapTest).hum = d.hum ∧ (d.gapTest).tmb = d.tmb ∧
      (d.gapTest).ntu = d.ntu ∧ (d.gapTest).rtu = d.rtu ∧ (d.gapTest).sst = d.sst ∧ (d.gapTest).rcs = d.rcs := by
  unfold Dev.gapTest; (repeat' split) <;> simp

@[simp] theorem Dev.stageHead_frame (d : Dev) (e : HEntry) (rest : List HEntry) :
    (d.stageHead e rest).pif = d.pif ∧ (d.stageHead e rest).rqd = d.rqd ∧ (d.stageHead e rest).tru = d.tru ∧
      (d.stageHead e rest).ict = d.ict ∧ (d.stageHead e rest).cpm = d.cpm ∧ (d.stageHead e rest).stb = d.stb ∧
      (d.stageHead e rest).cme = d.cme ∧ (d.stageHead e rest).plm = d.plm ∧ (d.stageHead e rest).arc = d.arc ∧
      (d.stageHead e rest).drm = d.drm ∧ (d.stageHead e rest).hum = d.hum ∧ (d.stageHead e rest).ntu = d.ntu ∧
      (d.stageHead e rest).rtu = d.rtu ∧ (d.stageHead e rest).sst = d.sst ∧ (d.stageHead e rest).rcs = d.rcs ∧
      (d.stageHead e rest).tmb.tick = d.tmb.tick ∧ (d.stageHead e rest).tmb.wall = d.tmb.wall := by
  unfold Dev.stageHead; simp only [Dev.gapTest_frame, Dev.setHiu_fields]; (repeat' split) <;> simp

theorem Dev.moveOnce_frame {d d' : Dev} (h : d.moveOnce = some d') :
    d'.pif = d.pif ∧ d'.rqd = d.rqd ∧ d'.tru = d.tru ∧ d'.ict = d.ict ∧ d'.cpm = d.cpm ∧ d'.stb = d.stb ∧
      d'.cme = d.cme ∧ d'.plm = d.plm ∧ d'.drm = d.drm ∧ d'.hum = d.hum ∧ d'.rtu = d.rtu ∧ d'.sst = d.sst ∧
      d'.rcs = d.rcs ∧ d'.tmb.tick = d.tmb.tick ∧ d'.tmb.wall = d.tmb.wall ∧ d'.arc.op = d.arc.op ∧
      d'.arc.erase = d.arc.erase ∧ d'.arc.runTimer = d.arc.runTimer ∧ d'.arc.defects = d.arc.defects ∧
      d'.arc.storeFailed = d.arc.storeFailed := by
  unfold Dev.moveOnce at h
  (repeat' split at h) <;> first | (cases h; (repeat' split) <;> simp) | cases h

@[simp] theorem Dev.moveLoop_frame (d : Dev) (n : Nat) :
    (Dev.moveLoop n d).pif = d.pif ∧ (Dev.moveLoop n d).rqd = d.rqd ∧ (Dev.moveLoop n d).tru = d.tru ∧
      (Dev.moveLoop n d).ict = d.ict ∧ (Dev.moveLoop n d).cpm = d.cpm ∧ (Dev.moveLoop n d).stb = d.stb ∧
      (Dev.moveLoop n d).cme = d.cme ∧ (Dev.moveLoop n d).plm = d.plm ∧ (Dev.moveLoop n d).drm = d.drm ∧
      (Dev.moveLoop n d).hum = d.hum ∧ (Dev.moveLoop n d).rtu = d.rtu ∧ (Dev.moveLoop n d).sst = d.sst ∧
      (Dev.moveLoop n d).rcs = d.rcs ∧ (Dev.moveLoop n d).tmb.tick = d.tmb.tick ∧
      (Dev.moveLoop n d).tmb.wall = d.tmb.wall ∧ (Dev.moveLoop n d).arc.op = d.arc.op ∧
      (Dev.moveLoop n d).arc.erase = d.arc.erase ∧ (Dev.moveLoop n d).arc.runTimer = d.arc.runTimer ∧
      (Dev.moveLoop n d).arc.defects = d.arc.defects ∧ (Dev.moveLoop n d).arc.storeFailed = d.arc.storeFailed := by
  induction n generalizing d with
  | zero => simp [Dev.moveLoop]
  | succ n ih =>
    unfold Dev.moveLoop
    split
    · next h => have := Dev.moveOnce_frame h; simp [ih, this]
    · simp

@[simp] theorem Dev.hiuMove_frame (d : Dev) :
    (d.hiuMove).pif = d.pif ∧ (d.hiuMove).rqd = d.rqd ∧ (d.hiuMove).tru = d.tru ∧ (d.hiuMove).ict = d.ict ∧
      (d.hiuMove).cpm = d.cpm ∧ (d.hiuMove).stb = d.stb ∧ (d.hiuMove).cme = d.cme ∧ (d.hiuMove).plm = d.plm ∧
      (d.hiuMove).drm = d.drm ∧ (d.hiuMove).hum = d.hum ∧ (d.hiuMove).rtu = d.rtu ∧ (d.hiuMove).sst = d.sst ∧
      (d.hiuMove).rcs = d.rcs ∧ (d.hiuMove).tmb.tick = d.tmb.tick ∧ (d.hiuMove).tmb.wall = d.tmb.wall ∧
      (d.hiuMove).arc.op = d.arc.op ∧ (d.hiuMove).arc.erase = d.arc.erase ∧
      (d.hiuMove).arc.runTimer = d.arc.runTimer ∧ (d.hiuMove).arc.defects = d.arc.defects ∧
      (d.hiuMove).arc.storeFailed = d.arc.storeFailed := by
  unfold Dev.hiuMove; simp

@[simp] theorem Dev.offerSeq_frame (d : Dev) (body : HBody) (severity : Nat) (source : Source) (code : Nat) :
    (d.offerSeq body severity source code).dev.pif = d.pif ∧ (d.offerSeq body severity source code).dev.rqd = d.rqd ∧
      (d.offerSeq body severity source code).dev.tru = d.tru ∧
      (d.offerSeq body severity source code).dev.ict = d.ict ∧
      (d.offerSeq body severity source code).dev.cpm = d.cpm ∧
      (d.offerSeq body severity source code).dev.stb = d.stb ∧
      (d.offerSeq body severity source code).dev.cme = d.cme ∧
      (d.offerSeq body severity source code).dev.plm = d.plm ∧
      (d.offerSeq body severity source code).dev.drm = d.drm ∧
      (d.offerSeq body severity source code).dev.hum = d.hum ∧
      (d.offerSeq body severity source code).dev.rtu = d.rtu ∧
      (d.offerSeq body severity source code).dev.sst = d.sst ∧
      (d.offerSeq body severity source code).dev.rcs = d.rcs ∧
      (d.offerSeq body severity source code).dev.tmb.tick = d.tmb.tick ∧
      (d.offerSeq body severity source code).dev.tmb.wall = d.tmb.wall ∧
      (d.offerSeq body severity source code).dev.arc.op = d.arc.op ∧
      (d.offerSeq body severity source code).dev.arc.erase = d.arc.erase ∧
      (d.offerSeq body severity source code).dev.arc.runTimer = d.arc.runTimer ∧
      (d.offerSeq body severity source code).dev.arc.defects = d.arc.defects ∧
      (d.offerSeq body severity source code).dev.arc.storeFailed = d.arc.storeFailed := by
  unfold Dev.offerSeq; (repeat' split) <;> simp

@[simp] theorem Dev.event_frame (d : Dev) (code severity : Nat) (body : HBody) :
    (d.event code severity body).pif = d.pif ∧ (d.event code severity body).rqd = d.rqd ∧
      (d.event code severity body).tru = d.tru ∧ (d.event code severity body).ict = d.ict ∧
      (d.event code severity body).cpm = d.cpm ∧ (d.event code severity body).stb = d.stb ∧
      (d.event code severity body).cme = d.cme ∧ (d.event code severity body).plm = d.plm ∧
      (d.event code severity body).drm = d.drm ∧ (d.event code severity body).hum = d.hum ∧
      (d.event code severity body).rtu = d.rtu ∧ (d.event code severity body).sst = d.sst ∧
      (d.event code severity body).rcs = d.rcs ∧ (d.event code severity body).tmb.tick = d.tmb.tick ∧
      (d.event code severity body).tmb.wall = d.tmb.wall ∧ (d.event code severity body).arc.op = d.arc.op ∧
      (d.event code severity body).arc.erase = d.arc.erase ∧
      (d.event code severity body).arc.runTimer = d.arc.runTimer ∧
      (d.event code severity body).arc.defects = d.arc.defects ∧
      (d.event code severity body).arc.storeFailed = d.arc.storeFailed := by
  unfold Dev.event; simp

@[simp] theorem Dev.markedEvent_frame (d : Dev) (code severity : Nat) (body : HBody) :
    (d.markedEvent code severity body).dev.pif = d.pif ∧ (d.markedEvent code severity body).dev.rqd = d.rqd ∧
      (d.markedEvent code severity body).dev.tru = d.tru ∧ (d.markedEvent code severity body).dev.ict = d.ict ∧
      (d.markedEvent code severity body).dev.cpm = d.cpm ∧ (d.markedEvent code severity body).dev.stb = d.stb ∧
      (d.markedEvent code severity body).dev.cme = d.cme ∧ (d.markedEvent code severity body).dev.plm = d.plm ∧
      (d.markedEvent code severity body).dev.drm = d.drm ∧ (d.markedEvent code severity body).dev.hum = d.hum ∧
      (d.markedEvent code severity body).dev.rtu = d.rtu ∧ (d.markedEvent code severity body).dev.sst = d.sst ∧
      (d.markedEvent code severity body).dev.rcs = d.rcs ∧
      (d.markedEvent code severity body).dev.tmb.tick = d.tmb.tick ∧
      (d.markedEvent code severity body).dev.tmb.wall = d.tmb.wall ∧
      (d.markedEvent code severity body).dev.arc.op = d.arc.op ∧
      (d.markedEvent code severity body).dev.arc.erase = d.arc.erase ∧
      (d.markedEvent code severity body).dev.arc.runTimer = d.arc.runTimer ∧
      (d.markedEvent code severity body).dev.arc.defects = d.arc.defects ∧
      (d.markedEvent code severity body).dev.arc.storeFailed = d.arc.storeFailed := by
  unfold Dev.markedEvent; simp

@[simp] theorem Dev.awaitTest_frame (d : Dev) :
    (d.awaitTest).pif = d.pif ∧ (d.awaitTest).rqd = d.rqd ∧ (d.awaitTest).tru = d.tru ∧ (d.awaitTest).ict = d.ict ∧
      (d.awaitTest).cpm = d.cpm ∧ (d.awaitTest).stb = d.stb ∧ (d.awaitTest).cme = d.cme ∧ (d.awaitTest).plm = d.plm ∧
      (d.awaitTest).drm = d.drm ∧ (d.awaitTest).hum = d.hum ∧ (d.awaitTest).rtu = d.rtu ∧ (d.awaitTest).sst = d.sst ∧
      (d.awaitTest).rcs = d.rcs ∧ (d.awaitTest).tmb.tick = d.tmb.tick ∧ (d.awaitTest).tmb.wall = d.tmb.wall ∧
      (d.awaitTest).arc.op = d.arc.op ∧ (d.awaitTest).arc.erase = d.arc.erase ∧
      (d.awaitTest).arc.runTimer = d.arc.runTimer ∧ (d.awaitTest).arc.defects = d.arc.defects ∧
      (d.awaitTest).arc.storeFailed = d.arc.storeFailed := by
  unfold Dev.awaitTest; (repeat' split) <;> simp

@[simp] theorem Dev.hiuWrite_frame (d : Dev) :
    (d.hiuWrite).pif = d.pif ∧ (d.hiuWrite).rqd = d.rqd ∧ (d.hiuWrite).tru = d.tru ∧ (d.hiuWrite).ict = d.ict ∧
      (d.hiuWrite).cpm = d.cpm ∧ (d.hiuWrite).stb = d.stb ∧ (d.hiuWrite).cme = d.cme ∧ (d.hiuWrite).plm = d.plm ∧
      (d.hiuWrite).drm = d.drm ∧ (d.hiuWrite).hum = d.hum ∧ (d.hiuWrite).tmb = d.tmb ∧ (d.hiuWrite).ntu = d.ntu ∧
      (d.hiuWrite).rtu = d.rtu ∧ (d.hiuWrite).sst = d.sst ∧ (d.hiuWrite).rcs = d.rcs ∧
      (d.hiuWrite).arc.op = d.arc.op ∧ (d.hiuWrite).arc.erase = d.arc.erase ∧
      (d.hiuWrite).arc.runTimer = d.arc.runTimer ∧ (d.hiuWrite).arc.defects = d.arc.defects ∧
      (d.hiuWrite).arc.storeFailed = d.arc.storeFailed := by
  unfold Dev.hiuWrite; (repeat' split) <;> simp

@[simp] theorem Dev.resumeTest_frame (d : Dev) :
    (d.resumeTest).pif = d.pif ∧ (d.resumeTest).rqd = d.rqd ∧ (d.resumeTest).tru = d.tru ∧
      (d.resumeTest).ict = d.ict ∧ (d.resumeTest).cpm = d.cpm ∧ (d.resumeTest).stb = d.stb ∧
      (d.resumeTest).cme = d.cme ∧ (d.resumeTest).plm = d.plm ∧ (d.resumeTest).drm = d.drm ∧
      (d.resumeTest).hum = d.hum ∧ (d.resumeTest).rtu = d.rtu ∧ (d.resumeTest).sst = d.sst ∧
      (d.resumeTest).rcs = d.rcs ∧ (d.resumeTest).tmb.tick = d.tmb.tick ∧ (d.resumeTest).tmb.wall = d.tmb.wall ∧
      (d.resumeTest).arc.op = d.arc.op ∧ (d.resumeTest).arc.erase = d.arc.erase ∧
      (d.resumeTest).arc.runTimer = d.arc.runTimer ∧ (d.resumeTest).arc.defects = d.arc.defects ∧
      (d.resumeTest).arc.storeFailed = d.arc.storeFailed := by
  unfold Dev.resumeTest; (repeat' split) <;> simp

@[simp] theorem Dev.pinWindow_frame (d : Dev) (number : Nat) (trigger : Option Nat) :
    (d.pinWindow number trigger).1.pif = d.pif ∧ (d.pinWindow number trigger).1.rqd = d.rqd ∧
      (d.pinWindow number trigger).1.tru = d.tru ∧ (d.pinWindow number trigger).1.ict = d.ict ∧
      (d.pinWindow number trigger).1.cpm = d.cpm ∧ (d.pinWindow number trigger).1.stb = d.stb ∧
      (d.pinWindow number trigger).1.cme = d.cme ∧ (d.pinWindow number trigger).1.plm = d.plm ∧
      (d.pinWindow number trigger).1.arc = d.arc ∧ (d.pinWindow number trigger).1.drm = d.drm ∧
      (d.pinWindow number trigger).1.hum = d.hum ∧ (d.pinWindow number trigger).1.tmb = d.tmb ∧
      (d.pinWindow number trigger).1.rtu = d.rtu ∧ (d.pinWindow number trigger).1.sst = d.sst ∧
      (d.pinWindow number trigger).1.rcs = d.rcs := by
  unfold Dev.pinWindow; dsimp only; split <;> simp

@[simp] theorem Dev.unpin_frame (d : Dev) (number : Nat) :
    (d.unpin number).pif = d.pif ∧ (d.unpin number).rqd = d.rqd ∧ (d.unpin number).tru = d.tru ∧
      (d.unpin number).ict = d.ict ∧ (d.unpin number).cpm = d.cpm ∧ (d.unpin number).stb = d.stb ∧
      (d.unpin number).cme = d.cme ∧ (d.unpin number).plm = d.plm ∧ (d.unpin number).drm = d.drm ∧
      (d.unpin number).hum = d.hum ∧ (d.unpin number).rtu = d.rtu ∧ (d.unpin number).sst = d.sst ∧
      (d.unpin number).rcs = d.rcs ∧ (d.unpin number).tmb.tick = d.tmb.tick ∧
      (d.unpin number).tmb.wall = d.tmb.wall ∧ (d.unpin number).arc.op = d.arc.op ∧
      (d.unpin number).arc.erase = d.arc.erase ∧ (d.unpin number).arc.runTimer = d.arc.runTimer ∧
      (d.unpin number).arc.defects = d.arc.defects ∧ (d.unpin number).arc.storeFailed = d.arc.storeFailed := by
  unfold Dev.unpin; simp

/-! ### Directory -/

@[simp] theorem Dev.waitCapture_frame (d : Dev) (w : CapWaiter) :
    (d.waitCapture w).pif = d.pif ∧ (d.waitCapture w).rqd = d.rqd ∧ (d.waitCapture w).tru = d.tru ∧
      (d.waitCapture w).ict = d.ict ∧ (d.waitCapture w).cpm = d.cpm ∧ (d.waitCapture w).stb = d.stb ∧
      (d.waitCapture w).cme = d.cme ∧ (d.waitCapture w).plm = d.plm ∧ (d.waitCapture w).arc = d.arc ∧
      (d.waitCapture w).hiu = d.hiu ∧ (d.waitCapture w).hum = d.hum ∧ (d.waitCapture w).tmb = d.tmb ∧
      (d.waitCapture w).ntu = d.ntu ∧ (d.waitCapture w).rtu = d.rtu ∧ (d.waitCapture w).sst = d.sst ∧
      (d.waitCapture w).rcs = d.rcs := by
  unfold Dev.waitCapture; (repeat' split) <;> simp

@[simp] theorem Dev.drmWrite_frame (d : Dev) :
    (d.drmWrite).pif = d.pif ∧ (d.drmWrite).rqd = d.rqd ∧ (d.drmWrite).tru = d.tru ∧ (d.drmWrite).ict = d.ict ∧
      (d.drmWrite).cpm = d.cpm ∧ (d.drmWrite).stb = d.stb ∧ (d.drmWrite).cme = d.cme ∧ (d.drmWrite).plm = d.plm ∧
      (d.drmWrite).hiu = d.hiu ∧ (d.drmWrite).hum = d.hum ∧ (d.drmWrite).tmb = d.tmb ∧ (d.drmWrite).ntu = d.ntu ∧
      (d.drmWrite).rtu = d.rtu ∧ (d.drmWrite).sst = d.sst ∧ (d.drmWrite).rcs = d.rcs ∧
      (d.drmWrite).arc.op = d.arc.op ∧ (d.drmWrite).arc.erase = d.arc.erase ∧
      (d.drmWrite).arc.runTimer = d.arc.runTimer ∧ (d.drmWrite).arc.defects = d.arc.defects ∧
      (d.drmWrite).arc.storeFailed = d.arc.storeFailed := by
  unfold Dev.drmWrite; (repeat' split) <;> simp

@[simp] theorem Dev.startCompaction_frame (d : Dev) :
    (d.startCompaction).pif = d.pif ∧ (d.startCompaction).rqd = d.rqd ∧ (d.startCompaction).tru = d.tru ∧
      (d.startCompaction).ict = d.ict ∧ (d.startCompaction).cpm = d.cpm ∧ (d.startCompaction).stb = d.stb ∧
      (d.startCompaction).cme = d.cme ∧ (d.startCompaction).plm = d.plm ∧ (d.startCompaction).arc = d.arc ∧
      (d.startCompaction).hiu = d.hiu ∧ (d.startCompaction).hum = d.hum ∧ (d.startCompaction).tmb = d.tmb ∧
      (d.startCompaction).ntu = d.ntu ∧ (d.startCompaction).rtu = d.rtu ∧ (d.startCompaction).sst = d.sst ∧
      (d.startCompaction).rcs = d.rcs := by
  unfold Dev.startCompaction; simp

@[simp] theorem Dev.startCompaction_recoveryHeld (d : Dev) : d.startCompaction.drm.recoveryHeld = false := rfl

@[simp] theorem Dev.eraseSpare_frame (d : Dev) :
    (d.eraseSpare).pif = d.pif ∧ (d.eraseSpare).rqd = d.rqd ∧ (d.eraseSpare).tru = d.tru ∧
      (d.eraseSpare).ict = d.ict ∧ (d.eraseSpare).cpm = d.cpm ∧ (d.eraseSpare).stb = d.stb ∧
      (d.eraseSpare).cme = d.cme ∧ (d.eraseSpare).plm = d.plm ∧ (d.eraseSpare).drm = d.drm ∧
      (d.eraseSpare).hiu = d.hiu ∧ (d.eraseSpare).hum = d.hum ∧ (d.eraseSpare).tmb = d.tmb ∧
      (d.eraseSpare).ntu = d.ntu ∧ (d.eraseSpare).rtu = d.rtu ∧ (d.eraseSpare).sst = d.sst ∧
      (d.eraseSpare).rcs = d.rcs ∧ (d.eraseSpare).arc.op = d.arc.op ∧ (d.eraseSpare).arc.erase = d.arc.erase ∧
      (d.eraseSpare).arc.runTimer = d.arc.runTimer ∧ (d.eraseSpare).arc.defects = d.arc.defects ∧
      (d.eraseSpare).arc.storeFailed = d.arc.storeFailed := by
  unfold Dev.eraseSpare; (repeat' split) <;> simp

@[simp] theorem Dev.dirtySpare_frame (d : Dev) :
    (d.dirtySpare).pif = d.pif ∧ (d.dirtySpare).rqd = d.rqd ∧ (d.dirtySpare).tru = d.tru ∧
      (d.dirtySpare).ict = d.ict ∧ (d.dirtySpare).cpm = d.cpm ∧ (d.dirtySpare).stb = d.stb ∧
      (d.dirtySpare).cme = d.cme ∧ (d.dirtySpare).plm = d.plm ∧ (d.dirtySpare).hiu = d.hiu ∧
      (d.dirtySpare).hum = d.hum ∧ (d.dirtySpare).tmb = d.tmb ∧ (d.dirtySpare).ntu = d.ntu ∧
      (d.dirtySpare).rtu = d.rtu ∧ (d.dirtySpare).sst = d.sst ∧ (d.dirtySpare).rcs = d.rcs ∧
      (d.dirtySpare).arc.op = d.arc.op ∧ (d.dirtySpare).arc.erase = d.arc.erase ∧
      (d.dirtySpare).arc.runTimer = d.arc.runTimer ∧ (d.dirtySpare).arc.defects = d.arc.defects ∧
      (d.dirtySpare).arc.storeFailed = d.arc.storeFailed := by
  unfold Dev.dirtySpare; simp

/-! ### Pool -/

@[simp] theorem Dev.poolLowTest_frame (d : Dev) :
    (d.poolLowTest).pif = d.pif ∧ (d.poolLowTest).rqd = d.rqd ∧ (d.poolLowTest).tru = d.tru ∧
      (d.poolLowTest).ict = d.ict ∧ (d.poolLowTest).cpm = d.cpm ∧ (d.poolLowTest).stb = d.stb ∧
      (d.poolLowTest).cme = d.cme ∧ (d.poolLowTest).plm = d.plm ∧ (d.poolLowTest).arc = d.arc ∧
      (d.poolLowTest).drm = d.drm ∧ (d.poolLowTest).hiu = d.hiu ∧ (d.poolLowTest).hum = d.hum ∧
      (d.poolLowTest).tmb = d.tmb ∧ (d.poolLowTest).rtu = d.rtu ∧ (d.poolLowTest).sst = d.sst ∧
      (d.poolLowTest).rcs = d.rcs := by
  unfold Dev.poolLowTest; (repeat' split) <;> simp

@[simp] theorem Dev.acceptMaint_frame (d : Dev) (e : JEntry) :
    (d.acceptMaint e).pif = d.pif ∧ (d.acceptMaint e).rqd = d.rqd ∧ (d.acceptMaint e).tru = d.tru ∧
      (d.acceptMaint e).ict = d.ict ∧ (d.acceptMaint e).cpm = d.cpm ∧ (d.acceptMaint e).stb = d.stb ∧
      (d.acceptMaint e).cme = d.cme ∧ (d.acceptMaint e).arc = d.arc ∧ (d.acceptMaint e).hiu = d.hiu ∧
      (d.acceptMaint e).hum = d.hum ∧ (d.acceptMaint e).tmb = d.tmb ∧ (d.acceptMaint e).ntu = d.ntu ∧
      (d.acceptMaint e).rtu = d.rtu ∧ (d.acceptMaint e).sst = d.sst ∧ (d.acceptMaint e).rcs = d.rcs := by
  unfold Dev.acceptMaint; (repeat' split) <;> simp

@[simp] theorem Dev.maintEntry_frame (d : Dev) (e : JEntry) :
    (d.maintEntry e).pif = d.pif ∧ (d.maintEntry e).rqd = d.rqd ∧ (d.maintEntry e).tru = d.tru ∧
      (d.maintEntry e).ict = d.ict ∧ (d.maintEntry e).cpm = d.cpm ∧ (d.maintEntry e).stb = d.stb ∧
      (d.maintEntry e).cme = d.cme ∧ (d.maintEntry e).arc = d.arc ∧ (d.maintEntry e).hiu = d.hiu ∧
      (d.maintEntry e).hum = d.hum ∧ (d.maintEntry e).tmb = d.tmb ∧ (d.maintEntry e).ntu = d.ntu ∧
      (d.maintEntry e).rtu = d.rtu ∧ (d.maintEntry e).sst = d.sst ∧ (d.maintEntry e).rcs = d.rcs := by
  unfold Dev.maintEntry; (repeat' split) <;> simp

@[simp] theorem Dev.reclaimErase_frame (d : Dev) (z : Zone) :
    (d.reclaimErase z).pif = d.pif ∧ (d.reclaimErase z).rqd = d.rqd ∧ (d.reclaimErase z).tru = d.tru ∧
      (d.reclaimErase z).ict = d.ict ∧ (d.reclaimErase z).cpm = d.cpm ∧ (d.reclaimErase z).stb = d.stb ∧
      (d.reclaimErase z).cme = d.cme ∧ (d.reclaimErase z).drm = d.drm ∧ (d.reclaimErase z).hiu = d.hiu ∧
      (d.reclaimErase z).hum = d.hum ∧ (d.reclaimErase z).tmb = d.tmb ∧ (d.reclaimErase z).ntu = d.ntu ∧
      (d.reclaimErase z).rtu = d.rtu ∧ (d.reclaimErase z).sst = d.sst ∧ (d.reclaimErase z).rcs = d.rcs ∧
      (d.reclaimErase z).arc.op = d.arc.op ∧ (d.reclaimErase z).arc.erase = d.arc.erase ∧
      (d.reclaimErase z).arc.runTimer = d.arc.runTimer ∧ (d.reclaimErase z).arc.defects = d.arc.defects ∧
      (d.reclaimErase z).arc.storeFailed = d.arc.storeFailed := by
  unfold Dev.reclaimErase; simp

@[simp] theorem Dev.startReclaim_frame (d : Dev) :
    (d.startReclaim).pif = d.pif ∧ (d.startReclaim).rqd = d.rqd ∧ (d.startReclaim).tru = d.tru ∧
      (d.startReclaim).ict = d.ict ∧ (d.startReclaim).cpm = d.cpm ∧ (d.startReclaim).stb = d.stb ∧
      (d.startReclaim).cme = d.cme ∧ (d.startReclaim).hiu = d.hiu ∧ (d.startReclaim).hum = d.hum ∧
      (d.startReclaim).tmb = d.tmb ∧ (d.startReclaim).ntu = d.ntu ∧ (d.startReclaim).rtu = d.rtu ∧
      (d.startReclaim).sst = d.sst ∧ (d.startReclaim).rcs = d.rcs ∧ (d.startReclaim).arc.op = d.arc.op ∧
      (d.startReclaim).arc.erase = d.arc.erase ∧ (d.startReclaim).arc.runTimer = d.arc.runTimer ∧
      (d.startReclaim).arc.defects = d.arc.defects ∧ (d.startReclaim).arc.storeFailed = d.arc.storeFailed := by
  unfold Dev.startReclaim; (repeat' split) <;> simp

@[simp] theorem Dev.reportDurable_frame (d : Dev) (e : JEntry) :
    (d.reportDurable e).pif = d.pif ∧ (d.reportDurable e).rqd = d.rqd ∧ (d.reportDurable e).tru = d.tru ∧
      (d.reportDurable e).ict = d.ict ∧ (d.reportDurable e).cpm = d.cpm ∧ (d.reportDurable e).stb = d.stb ∧
      (d.reportDurable e).cme = d.cme ∧ (d.reportDurable e).drm = d.drm ∧ (d.reportDurable e).hiu = d.hiu ∧
      (d.reportDurable e).hum = d.hum ∧ (d.reportDurable e).tmb = d.tmb ∧ (d.reportDurable e).ntu = d.ntu ∧
      (d.reportDurable e).rtu = d.rtu ∧ (d.reportDurable e).sst = d.sst ∧ (d.reportDurable e).rcs = d.rcs ∧
      (d.reportDurable e).arc.op = d.arc.op ∧ (d.reportDurable e).arc.erase = d.arc.erase ∧
      (d.reportDurable e).arc.runTimer = d.arc.runTimer ∧ (d.reportDurable e).arc.defects = d.arc.defects ∧
      (d.reportDurable e).arc.storeFailed = d.arc.storeFailed := by
  unfold Dev.reportDurable; (repeat' split) <;> simp

@[simp] theorem Dev.reportAll_frame (d : Dev) (l : List JEntry) :
    (d.reportAll l).pif = d.pif ∧ (d.reportAll l).rqd = d.rqd ∧ (d.reportAll l).tru = d.tru ∧
      (d.reportAll l).ict = d.ict ∧ (d.reportAll l).cpm = d.cpm ∧ (d.reportAll l).stb = d.stb ∧
      (d.reportAll l).cme = d.cme ∧ (d.reportAll l).drm = d.drm ∧ (d.reportAll l).hiu = d.hiu ∧
      (d.reportAll l).hum = d.hum ∧ (d.reportAll l).tmb = d.tmb ∧ (d.reportAll l).ntu = d.ntu ∧
      (d.reportAll l).rtu = d.rtu ∧ (d.reportAll l).sst = d.sst ∧ (d.reportAll l).rcs = d.rcs ∧
      (d.reportAll l).arc.op = d.arc.op ∧ (d.reportAll l).arc.erase = d.arc.erase ∧
      (d.reportAll l).arc.runTimer = d.arc.runTimer ∧ (d.reportAll l).arc.defects = d.arc.defects ∧
      (d.reportAll l).arc.storeFailed = d.arc.storeFailed := by
  unfold Dev.reportAll
  induction l generalizing d with
  | nil => simp
  | cons e l ih => simp [ih]

theorem Dev.newFillZone_frame {d d' : Dev} (h : d.newFillZone = some d') :
    d'.pif = d.pif ∧ d'.rqd = d.rqd ∧ d'.tru = d.tru ∧ d'.ict = d.ict ∧ d'.cpm = d.cpm ∧ d'.stb = d.stb ∧
      d'.cme = d.cme ∧ d'.arc = d.arc ∧ d'.drm = d.drm ∧ d'.hiu = d.hiu ∧ d'.hum = d.hum ∧ d'.tmb = d.tmb ∧
      d'.rtu = d.rtu ∧ d'.sst = d.sst ∧ d'.rcs = d.rcs := by
  unfold Dev.newFillZone at h
  obtain ⟨z, _, rfl⟩ := Option.map_eq_some_iff.1 h
  simp

theorem Dev.givePage_frame {d d' : Dev} {p : PageAddr} (h : d.givePage = some (p, d')) :
    d'.pif = d.pif ∧ d'.rqd = d.rqd ∧ d'.tru = d.tru ∧ d'.ict = d.ict ∧ d'.cpm = d.cpm ∧ d'.stb = d.stb ∧
      d'.cme = d.cme ∧ d'.arc = d.arc ∧ d'.drm = d.drm ∧ d'.hiu = d.hiu ∧ d'.hum = d.hum ∧ d'.tmb = d.tmb ∧
      d'.rtu = d.rtu ∧ d'.sst = d.sst ∧ d'.rcs = d.rcs := by
  unfold Dev.givePage at h
  split at h
  · cases h; simp
  · split at h
    · next hz =>
      obtain ⟨z, _, hd⟩ := Option.map_eq_some_iff.1 h
      cases hd
      have := Dev.newFillZone_frame hz
      simp [this]
    · cases h

/-! ### Streams and the close of an incident -/

@[simp] theorem Dev.syncRecord_frame (d : Dev) (i : StreamIdx) :
    (d.syncRecord i).pif = d.pif ∧ (d.syncRecord i).rqd = d.rqd ∧ (d.syncRecord i).tru = d.tru ∧
      (d.syncRecord i).ict = d.ict ∧ (d.syncRecord i).cpm = d.cpm ∧ (d.syncRecord i).stb = d.stb ∧
      (d.syncRecord i).cme = d.cme ∧ (d.syncRecord i).plm = d.plm ∧ (d.syncRecord i).arc = d.arc ∧
      (d.syncRecord i).hiu = d.hiu ∧ (d.syncRecord i).hum = d.hum ∧ (d.syncRecord i).tmb = d.tmb ∧
      (d.syncRecord i).ntu = d.ntu ∧ (d.syncRecord i).rtu = d.rtu ∧ (d.syncRecord i).sst = d.sst ∧
      (d.syncRecord i).rcs = d.rcs := by
  unfold Dev.syncRecord; (repeat' split) <;> simp

@[simp] theorem Dev.queueFill_frame (d : Dev) (i : StreamIdx) :
    (d.queueFill i).pif = d.pif ∧ (d.queueFill i).rqd = d.rqd ∧ (d.queueFill i).tru = d.tru ∧
      (d.queueFill i).ict = d.ict ∧ (d.queueFill i).cme = d.cme ∧ (d.queueFill i).plm = d.plm ∧
      (d.queueFill i).arc = d.arc ∧ (d.queueFill i).drm = d.drm ∧ (d.queueFill i).hiu = d.hiu ∧
      (d.queueFill i).hum = d.hum ∧ (d.queueFill i).tmb = d.tmb ∧ (d.queueFill i).ntu = d.ntu ∧
      (d.queueFill i).rtu = d.rtu ∧ (d.queueFill i).sst = d.sst ∧ (d.queueFill i).rcs = d.rcs := by
  unfold Dev.queueFill; (repeat' split) <;> simp

@[simp] theorem Dev.discardBlocks_frame (d : Dev) (i : StreamIdx) :
    (d.discardBlocks i).pif = d.pif ∧ (d.discardBlocks i).rqd = d.rqd ∧ (d.discardBlocks i).tru = d.tru ∧
      (d.discardBlocks i).ict = d.ict ∧ (d.discardBlocks i).cme = d.cme ∧ (d.discardBlocks i).plm = d.plm ∧
      (d.discardBlocks i).arc = d.arc ∧ (d.discardBlocks i).drm = d.drm ∧ (d.discardBlocks i).hiu = d.hiu ∧
      (d.discardBlocks i).hum = d.hum ∧ (d.discardBlocks i).tmb = d.tmb ∧ (d.discardBlocks i).ntu = d.ntu ∧
      (d.discardBlocks i).rtu = d.rtu ∧ (d.discardBlocks i).sst = d.sst ∧ (d.discardBlocks i).rcs = d.rcs := by
  unfold Dev.discardBlocks; simp

@[simp] theorem Dev.leaveOpen_frame (d : Dev) (i : StreamIdx) (e : PendingEnd) :
    (d.leaveOpen i e).pif = d.pif ∧ (d.leaveOpen i e).rqd = d.rqd ∧ (d.leaveOpen i e).tru = d.tru ∧
      (d.leaveOpen i e).ict = d.ict ∧ (d.leaveOpen i e).cme = d.cme ∧ (d.leaveOpen i e).plm = d.plm ∧
      (d.leaveOpen i e).arc = d.arc ∧ (d.leaveOpen i e).drm = d.drm ∧ (d.leaveOpen i e).hiu = d.hiu ∧
      (d.leaveOpen i e).hum = d.hum ∧ (d.leaveOpen i e).tmb = d.tmb ∧ (d.leaveOpen i e).ntu = d.ntu ∧
      (d.leaveOpen i e).rtu = d.rtu ∧ (d.leaveOpen i e).sst = d.sst ∧ (d.leaveOpen i e).rcs = d.rcs := by
  unfold Dev.leaveOpen; simp

@[simp] theorem Dev.reportCut_frame (d : Dev) (b : StreamBody) (r : Reason) :
    (d.reportCut b r).pif = d.pif ∧ (d.reportCut b r).rqd = d.rqd ∧ (d.reportCut b r).tru = d.tru ∧
      (d.reportCut b r).ict = d.ict ∧ (d.reportCut b r).cpm = d.cpm ∧ (d.reportCut b r).stb = d.stb ∧
      (d.reportCut b r).cme = d.cme ∧ (d.reportCut b r).plm = d.plm ∧ (d.reportCut b r).drm = d.drm ∧
      (d.reportCut b r).hum = d.hum ∧ (d.reportCut b r).rtu = d.rtu ∧ (d.reportCut b r).sst = d.sst ∧
      (d.reportCut b r).rcs = d.rcs ∧ (d.reportCut b r).tmb.tick = d.tmb.tick ∧
      (d.reportCut b r).tmb.wall = d.tmb.wall ∧ (d.reportCut b r).arc.op = d.arc.op ∧
      (d.reportCut b r).arc.erase = d.arc.erase ∧ (d.reportCut b r).arc.runTimer = d.arc.runTimer ∧
      (d.reportCut b r).arc.defects = d.arc.defects ∧ (d.reportCut b r).arc.storeFailed = d.arc.storeFailed := by
  unfold Dev.reportCut; simp

@[simp] theorem Dev.tryPass_frame (d : Dev) :
    (d.tryPass).pif = d.pif ∧ (d.tryPass).rqd = d.rqd ∧ (d.tryPass).tru = d.tru ∧ (d.tryPass).cpm = d.cpm ∧
      (d.tryPass).stb = d.stb ∧ (d.tryPass).cme = d.cme ∧ (d.tryPass).plm = d.plm ∧ (d.tryPass).arc = d.arc ∧
      (d.tryPass).hiu = d.hiu ∧ (d.tryPass).hum = d.hum ∧ (d.tryPass).rtu = d.rtu ∧ (d.tryPass).sst = d.sst ∧
      (d.tryPass).rcs = d.rcs ∧ (d.tryPass).tmb.tick = d.tmb.tick ∧ (d.tryPass).tmb.wall = d.tmb.wall := by
  unfold Dev.tryPass; (repeat' split) <;> simp

@[simp] theorem Dev.keep_frame (d : Dev) (s : DirSlot) (r : Incident) :
    (d.keep s r).pif = d.pif ∧ (d.keep s r).rqd = d.rqd ∧ (d.keep s r).tru = d.tru ∧ (d.keep s r).cpm = d.cpm ∧
      (d.keep s r).stb = d.stb ∧ (d.keep s r).cme = d.cme ∧ (d.keep s r).plm = d.plm ∧ (d.keep s r).hum = d.hum ∧
      (d.keep s r).rtu = d.rtu ∧ (d.keep s r).sst = d.sst ∧ (d.keep s r).rcs = d.rcs ∧
      (d.keep s r).tmb.tick = d.tmb.tick ∧ (d.keep s r).tmb.wall = d.tmb.wall ∧ (d.keep s r).arc.op = d.arc.op ∧
      (d.keep s r).arc.erase = d.arc.erase ∧ (d.keep s r).arc.runTimer = d.arc.runTimer ∧
      (d.keep s r).arc.defects = d.arc.defects ∧ (d.keep s r).arc.storeFailed = d.arc.storeFailed := by
  unfold Dev.keep; simp

@[simp] theorem Dev.tryKeep_frame (d : Dev) :
    (d.tryKeep).pif = d.pif ∧ (d.tryKeep).rqd = d.rqd ∧ (d.tryKeep).tru = d.tru ∧ (d.tryKeep).cpm = d.cpm ∧
      (d.tryKeep).stb = d.stb ∧ (d.tryKeep).cme = d.cme ∧ (d.tryKeep).plm = d.plm ∧ (d.tryKeep).hum = d.hum ∧
      (d.tryKeep).rtu = d.rtu ∧ (d.tryKeep).sst = d.sst ∧ (d.tryKeep).rcs = d.rcs ∧
      (d.tryKeep).tmb.tick = d.tmb.tick ∧ (d.tryKeep).tmb.wall = d.tmb.wall ∧ (d.tryKeep).arc.op = d.arc.op ∧
      (d.tryKeep).arc.erase = d.arc.erase ∧ (d.tryKeep).arc.runTimer = d.arc.runTimer ∧
      (d.tryKeep).arc.defects = d.arc.defects ∧ (d.tryKeep).arc.storeFailed = d.arc.storeFailed := by
  unfold Dev.tryKeep; (repeat' split) <;> simp

@[simp] theorem Dev.closeRun_frame (d : Dev) :
    (d.closeRun).pif = d.pif ∧ (d.closeRun).rqd = d.rqd ∧ (d.closeRun).tru = d.tru ∧ (d.closeRun).cpm = d.cpm ∧
      (d.closeRun).stb = d.stb ∧ (d.closeRun).cme = d.cme ∧ (d.closeRun).plm = d.plm ∧ (d.closeRun).hum = d.hum ∧
      (d.closeRun).rtu = d.rtu ∧ (d.closeRun).sst = d.sst ∧ (d.closeRun).rcs = d.rcs ∧
      (d.closeRun).tmb.tick = d.tmb.tick ∧ (d.closeRun).tmb.wall = d.tmb.wall ∧ (d.closeRun).arc.op = d.arc.op ∧
      (d.closeRun).arc.erase = d.arc.erase ∧ (d.closeRun).arc.runTimer = d.arc.runTimer ∧
      (d.closeRun).arc.defects = d.arc.defects ∧ (d.closeRun).arc.storeFailed = d.arc.storeFailed := by
  unfold Dev.closeRun; simp

@[simp] theorem Dev.releaseSlot_frame (d : Dev) (i : StreamIdx) (b : StreamBody) (e : PendingEnd) :
    (d.releaseSlot i b e).pif = d.pif ∧ (d.releaseSlot i b e).rqd = d.rqd ∧ (d.releaseSlot i b e).tru = d.tru ∧
      (d.releaseSlot i b e).ict = d.ict ∧ (d.releaseSlot i b e).stb = d.stb ∧ (d.releaseSlot i b e).cme = d.cme ∧
      (d.releaseSlot i b e).plm = d.plm ∧ (d.releaseSlot i b e).arc = d.arc ∧ (d.releaseSlot i b e).hiu = d.hiu ∧
      (d.releaseSlot i b e).hum = d.hum ∧ (d.releaseSlot i b e).tmb = d.tmb ∧ (d.releaseSlot i b e).ntu = d.ntu ∧
      (d.releaseSlot i b e).rtu = d.rtu ∧ (d.releaseSlot i b e).sst = d.sst ∧ (d.releaseSlot i b e).rcs = d.rcs := by
  unfold Dev.releaseSlot; simp

@[simp] theorem Dev.releaseKeeping_frame (d : Dev) (i : StreamIdx) :
    (d.releaseKeeping i).pif = d.pif ∧ (d.releaseKeeping i).rqd = d.rqd ∧ (d.releaseKeeping i).tru = d.tru ∧
      (d.releaseKeeping i).stb = d.stb ∧ (d.releaseKeeping i).cme = d.cme ∧ (d.releaseKeeping i).plm = d.plm ∧
      (d.releaseKeeping i).hum = d.hum ∧ (d.releaseKeeping i).rtu = d.rtu ∧ (d.releaseKeeping i).sst = d.sst ∧
      (d.releaseKeeping i).rcs = d.rcs ∧ (d.releaseKeeping i).tmb.tick = d.tmb.tick ∧
      (d.releaseKeeping i).tmb.wall = d.tmb.wall ∧ (d.releaseKeeping i).arc.op = d.arc.op ∧
      (d.releaseKeeping i).arc.erase = d.arc.erase ∧ (d.releaseKeeping i).arc.runTimer = d.arc.runTimer ∧
      (d.releaseKeeping i).arc.defects = d.arc.defects ∧
      (d.releaseKeeping i).arc.storeFailed = d.arc.storeFailed := by
  unfold Dev.releaseKeeping; (repeat' split) <;> simp

@[simp] theorem Dev.tryRelease_frame (d : Dev) (i : StreamIdx) :
    (d.tryRelease i).pif = d.pif ∧ (d.tryRelease i).rqd = d.rqd ∧ (d.tryRelease i).tru = d.tru ∧
      (d.tryRelease i).stb = d.stb ∧ (d.tryRelease i).cme = d.cme ∧ (d.tryRelease i).plm = d.plm ∧
      (d.tryRelease i).hum = d.hum ∧ (d.tryRelease i).rtu = d.rtu ∧ (d.tryRelease i).sst = d.sst ∧
      (d.tryRelease i).rcs = d.rcs ∧ (d.tryRelease i).tmb.tick = d.tmb.tick ∧
      (d.tryRelease i).tmb.wall = d.tmb.wall ∧ (d.tryRelease i).arc.op = d.arc.op ∧
      (d.tryRelease i).arc.erase = d.arc.erase ∧ (d.tryRelease i).arc.runTimer = d.arc.runTimer ∧
      (d.tryRelease i).arc.defects = d.arc.defects ∧ (d.tryRelease i).arc.storeFailed = d.arc.storeFailed := by
  unfold Dev.tryRelease; simp

@[simp] theorem Dev.cutDiscard_frame (d : Dev) (i : StreamIdx) (r : Reason) :
    (d.cutDiscard i r).pif = d.pif ∧ (d.cutDiscard i r).rqd = d.rqd ∧ (d.cutDiscard i r).tru = d.tru ∧
      (d.cutDiscard i r).cme = d.cme ∧ (d.cutDiscard i r).plm = d.plm ∧ (d.cutDiscard i r).hum = d.hum ∧
      (d.cutDiscard i r).rtu = d.rtu ∧ (d.cutDiscard i r).sst = d.sst ∧ (d.cutDiscard i r).rcs = d.rcs ∧
      (d.cutDiscard i r).tmb.tick = d.tmb.tick ∧ (d.cutDiscard i r).tmb.wall = d.tmb.wall ∧
      (d.cutDiscard i r).arc.op = d.arc.op ∧ (d.cutDiscard i r).arc.erase = d.arc.erase ∧
      (d.cutDiscard i r).arc.runTimer = d.arc.runTimer ∧ (d.cutDiscard i r).arc.defects = d.arc.defects ∧
      (d.cutDiscard i r).arc.storeFailed = d.arc.storeFailed := by
  unfold Dev.cutDiscard; (repeat' split) <;> simp

/-! ### Commit -/

@[simp] theorem Dev.commitOn_frame (d : Dev) (b : Block) (p : PageAddr) (retry : Nat) :
    (d.commitOn b p retry).pif = d.pif ∧ (d.commitOn b p retry).rqd = d.rqd ∧ (d.commitOn b p retry).tru = d.tru ∧
      (d.commitOn b p retry).ict = d.ict ∧ (d.commitOn b p retry).cpm = d.cpm ∧ (d.commitOn b p retry).stb = d.stb ∧
      (d.commitOn b p retry).plm = d.plm ∧ (d.commitOn b p retry).drm = d.drm ∧ (d.commitOn b p retry).hiu = d.hiu ∧
      (d.commitOn b p retry).hum = d.hum ∧ (d.commitOn b p retry).tmb = d.tmb ∧ (d.commitOn b p retry).ntu = d.ntu ∧
      (d.commitOn b p retry).rtu = d.rtu ∧ (d.commitOn b p retry).sst = d.sst ∧ (d.commitOn b p retry).rcs = d.rcs ∧
      (d.commitOn b p retry).arc.op = d.arc.op ∧ (d.commitOn b p retry).arc.erase = d.arc.erase ∧
      (d.commitOn b p retry).arc.runTimer = d.arc.runTimer ∧ (d.commitOn b p retry).arc.defects = d.arc.defects ∧
      (d.commitOn b p retry).arc.storeFailed = d.arc.storeFailed := by
  unfold Dev.commitOn; simp

@[simp] theorem Dev.cmeOnce_frame (d : Dev) :
    (d.cmeOnce).pif = d.pif ∧ (d.cmeOnce).rqd = d.rqd ∧ (d.cmeOnce).tru = d.tru ∧ (d.cmeOnce).hum = d.hum ∧
      (d.cmeOnce).rtu = d.rtu ∧ (d.cmeOnce).sst = d.sst ∧ (d.cmeOnce).rcs = d.rcs ∧
      (d.cmeOnce).tmb.tick = d.tmb.tick ∧ (d.cmeOnce).tmb.wall = d.tmb.wall ∧ (d.cmeOnce).arc.op = d.arc.op ∧
      (d.cmeOnce).arc.erase = d.arc.erase ∧ (d.cmeOnce).arc.runTimer = d.arc.runTimer ∧
      (d.cmeOnce).arc.defects = d.arc.defects ∧ (d.cmeOnce).arc.storeFailed = d.arc.storeFailed := by
  unfold Dev.cmeOnce
  split
  · simp
  · split
    · next h => have := Dev.givePage_frame h; simp [this]
    · simp

@[simp] theorem Dev.cmeLoop_frame (d : Dev) (n : Nat) :
    (Dev.cmeLoop n d).pif = d.pif ∧ (Dev.cmeLoop n d).rqd = d.rqd ∧ (Dev.cmeLoop n d).tru = d.tru ∧ (Dev.cmeLoop n d).hum = d.hum ∧
      (Dev.cmeLoop n d).rtu = d.rtu ∧ (Dev.cmeLoop n d).sst = d.sst ∧ (Dev.cmeLoop n d).rcs = d.rcs ∧
      (Dev.cmeLoop n d).tmb.tick = d.tmb.tick ∧ (Dev.cmeLoop n d).tmb.wall = d.tmb.wall ∧ (Dev.cmeLoop n d).arc.op = d.arc.op ∧
      (Dev.cmeLoop n d).arc.erase = d.arc.erase ∧ (Dev.cmeLoop n d).arc.runTimer = d.arc.runTimer ∧
      (Dev.cmeLoop n d).arc.defects = d.arc.defects ∧ (Dev.cmeLoop n d).arc.storeFailed = d.arc.storeFailed := by
  induction n generalizing d with
  | zero => simp [Dev.cmeLoop]
  | succ n ih => unfold Dev.cmeLoop; split <;> simp [ih]

@[simp] theorem Dev.cmeTest_frame (d : Dev) :
    (d.cmeTest).pif = d.pif ∧ (d.cmeTest).rqd = d.rqd ∧ (d.cmeTest).tru = d.tru ∧ (d.cmeTest).hum = d.hum ∧
      (d.cmeTest).rtu = d.rtu ∧ (d.cmeTest).sst = d.sst ∧ (d.cmeTest).rcs = d.rcs ∧
      (d.cmeTest).tmb.tick = d.tmb.tick ∧ (d.cmeTest).tmb.wall = d.tmb.wall ∧ (d.cmeTest).arc.op = d.arc.op ∧
      (d.cmeTest).arc.erase = d.arc.erase ∧ (d.cmeTest).arc.runTimer = d.arc.runTimer ∧
      (d.cmeTest).arc.defects = d.arc.defects ∧ (d.cmeTest).arc.storeFailed = d.arc.storeFailed := by
  unfold Dev.cmeTest; simp

@[simp] theorem Dev.endStream_frame (d : Dev) (i : StreamIdx) (e : PendingEnd) :
    (d.endStream i e).pif = d.pif ∧ (d.endStream i e).rqd = d.rqd ∧ (d.endStream i e).tru = d.tru ∧
      (d.endStream i e).hum = d.hum ∧ (d.endStream i e).rtu = d.rtu ∧ (d.endStream i e).sst = d.sst ∧
      (d.endStream i e).rcs = d.rcs ∧ (d.endStream i e).tmb.tick = d.tmb.tick ∧
      (d.endStream i e).tmb.wall = d.tmb.wall ∧ (d.endStream i e).arc.op = d.arc.op ∧
      (d.endStream i e).arc.erase = d.arc.erase ∧ (d.endStream i e).arc.runTimer = d.arc.runTimer ∧
      (d.endStream i e).arc.defects = d.arc.defects ∧ (d.endStream i e).arc.storeFailed = d.arc.storeFailed := by
  unfold Dev.endStream; (repeat' split) <;> simp

@[simp] theorem Dev.endStreams_frame (d : Dev) (p : StreamBody → Bool) (e : PendingEnd) :
    (d.endStreams p e).pif = d.pif ∧ (d.endStreams p e).rqd = d.rqd ∧ (d.endStreams p e).tru = d.tru ∧
      (d.endStreams p e).hum = d.hum ∧ (d.endStreams p e).rtu = d.rtu ∧ (d.endStreams p e).sst = d.sst ∧
      (d.endStreams p e).rcs = d.rcs ∧ (d.endStreams p e).tmb.tick = d.tmb.tick ∧
      (d.endStreams p e).tmb.wall = d.tmb.wall ∧ (d.endStreams p e).arc.op = d.arc.op ∧
      (d.endStreams p e).arc.erase = d.arc.erase ∧ (d.endStreams p e).arc.runTimer = d.arc.runTimer ∧
      (d.endStreams p e).arc.defects = d.arc.defects ∧ (d.endStreams p e).arc.storeFailed = d.arc.storeFailed := by
  unfold Dev.endStreams
  generalize d.openSlots p = l
  induction l generalizing d with
  | nil => simp
  | cons i l ih => simp [ih]

@[simp] theorem Dev.dropUnderProgram_frame (d : Dev) :
    (d.dropUnderProgram).pif = d.pif ∧ (d.dropUnderProgram).rqd = d.rqd ∧ (d.dropUnderProgram).tru = d.tru ∧
      (d.dropUnderProgram).ict = d.ict ∧ (d.dropUnderProgram).plm = d.plm ∧ (d.dropUnderProgram).arc = d.arc ∧
      (d.dropUnderProgram).drm = d.drm ∧ (d.dropUnderProgram).hiu = d.hiu ∧ (d.dropUnderProgram).hum = d.hum ∧
      (d.dropUnderProgram).tmb = d.tmb ∧ (d.dropUnderProgram).ntu = d.ntu ∧ (d.dropUnderProgram).rtu = d.rtu ∧
      (d.dropUnderProgram).sst = d.sst ∧ (d.dropUnderProgram).rcs = d.rcs := by
  unfold Dev.dropUnderProgram; (repeat' split) <;> simp

/-! ### Retrieval cursors -/

@[simp] theorem Dev.dropRead_frame (d : Dev) (p : Port) :
    (d.dropRead p).pif = d.pif ∧ (d.dropRead p).rqd = d.rqd ∧ (d.dropRead p).tru = d.tru ∧
      (d.dropRead p).ict = d.ict ∧ (d.dropRead p).cpm = d.cpm ∧ (d.dropRead p).stb = d.stb ∧
      (d.dropRead p).cme = d.cme ∧ (d.dropRead p).plm = d.plm ∧ (d.dropRead p).drm = d.drm ∧
      (d.dropRead p).hiu = d.hiu ∧ (d.dropRead p).hum = d.hum ∧ (d.dropRead p).tmb = d.tmb ∧
      (d.dropRead p).ntu = d.ntu ∧ (d.dropRead p).sst = d.sst ∧ (d.dropRead p).rcs = d.rcs ∧
      (d.dropRead p).arc.op = d.arc.op ∧ (d.dropRead p).arc.erase = d.arc.erase ∧
      (d.dropRead p).arc.runTimer = d.arc.runTimer ∧ (d.dropRead p).arc.defects = d.arc.defects ∧
      (d.dropRead p).arc.storeFailed = d.arc.storeFailed := by
  unfold Dev.dropRead; simp

@[simp] theorem Dev.withdrawRead_frame (d : Dev) (p : Port) :
    (d.withdrawRead p).rqd = d.rqd ∧ (d.withdrawRead p).tru = d.tru ∧ (d.withdrawRead p).ict = d.ict ∧
      (d.withdrawRead p).cpm = d.cpm ∧ (d.withdrawRead p).stb = d.stb ∧ (d.withdrawRead p).cme = d.cme ∧
      (d.withdrawRead p).plm = d.plm ∧ (d.withdrawRead p).drm = d.drm ∧ (d.withdrawRead p).hiu = d.hiu ∧
      (d.withdrawRead p).hum = d.hum ∧ (d.withdrawRead p).tmb = d.tmb ∧ (d.withdrawRead p).ntu = d.ntu ∧
      (d.withdrawRead p).sst = d.sst ∧ (d.withdrawRead p).rcs = d.rcs ∧ (d.withdrawRead p).arc.op = d.arc.op ∧
      (d.withdrawRead p).arc.erase = d.arc.erase ∧ (d.withdrawRead p).arc.runTimer = d.arc.runTimer ∧
      (d.withdrawRead p).arc.defects = d.arc.defects ∧ (d.withdrawRead p).arc.storeFailed = d.arc.storeFailed := by
  unfold Dev.withdrawRead; (repeat' split) <;> simp

@[simp] theorem Dev.goneFor_frame (d : Dev) (number : Nat) (p : Port) :
    (d.goneFor number p).rqd = d.rqd ∧ (d.goneFor number p).tru = d.tru ∧ (d.goneFor number p).ict = d.ict ∧
      (d.goneFor number p).cpm = d.cpm ∧ (d.goneFor number p).stb = d.stb ∧ (d.goneFor number p).cme = d.cme ∧
      (d.goneFor number p).plm = d.plm ∧ (d.goneFor number p).drm = d.drm ∧ (d.goneFor number p).hiu = d.hiu ∧
      (d.goneFor number p).hum = d.hum ∧ (d.goneFor number p).tmb = d.tmb ∧ (d.goneFor number p).ntu = d.ntu ∧
      (d.goneFor number p).sst = d.sst ∧ (d.goneFor number p).rcs = d.rcs ∧ (d.goneFor number p).arc.op = d.arc.op ∧
      (d.goneFor number p).arc.erase = d.arc.erase ∧ (d.goneFor number p).arc.runTimer = d.arc.runTimer ∧
      (d.goneFor number p).arc.defects = d.arc.defects ∧
      (d.goneFor number p).arc.storeFailed = d.arc.storeFailed := by
  unfold Dev.goneFor; dsimp only; (repeat' split) <;> simp

/-! ### Incidents -/

@[simp] theorem Dev.releaseIncident_frame (d : Dev) (s : DirSlot) (number : Nat) (source : Source) :
    (d.releaseIncident s number source).rqd = d.rqd ∧ (d.releaseIncident s number source).tru = d.tru ∧
      (d.releaseIncident s number source).ict = d.ict ∧ (d.releaseIncident s number source).cpm = d.cpm ∧
      (d.releaseIncident s number source).stb = d.stb ∧ (d.releaseIncident s number source).cme = d.cme ∧
      (d.releaseIncident s number source).hum = d.hum ∧ (d.releaseIncident s number source).sst = d.sst ∧
      (d.releaseIncident s number source).rcs = d.rcs ∧ (d.releaseIncident s number source).tmb.tick = d.tmb.tick ∧
      (d.releaseIncident s number source).tmb.wall = d.tmb.wall ∧
      (d.releaseIncident s number source).arc.op = d.arc.op ∧
      (d.releaseIncident s number source).arc.erase = d.arc.erase ∧
      (d.releaseIncident s number source).arc.runTimer = d.arc.runTimer ∧
      (d.releaseIncident s number source).arc.defects = d.arc.defects ∧
      (d.releaseIncident s number source).arc.storeFailed = d.arc.storeFailed := by
  unfold Dev.releaseIncident; simp [allPorts]

@[simp] theorem Dev.triggerEvent_frame (d : Dev) (t : TriggerRecord) (number : Nat) (x : Disposition) :
    (d.triggerEvent t number x).dev.pif = d.pif ∧ (d.triggerEvent t number x).dev.rqd = d.rqd ∧
      (d.triggerEvent t number x).dev.tru = d.tru ∧ (d.triggerEvent t number x).dev.ict = d.ict ∧
      (d.triggerEvent t number x).dev.cpm = d.cpm ∧ (d.triggerEvent t number x).dev.stb = d.stb ∧
      (d.triggerEvent t number x).dev.cme = d.cme ∧ (d.triggerEvent t number x).dev.plm = d.plm ∧
      (d.triggerEvent t number x).dev.drm = d.drm ∧ (d.triggerEvent t number x).dev.hum = d.hum ∧
      (d.triggerEvent t number x).dev.rtu = d.rtu ∧ (d.triggerEvent t number x).dev.sst = d.sst ∧
      (d.triggerEvent t number x).dev.rcs = d.rcs ∧ (d.triggerEvent t number x).dev.tmb.tick = d.tmb.tick ∧
      (d.triggerEvent t number x).dev.tmb.wall = d.tmb.wall ∧ (d.triggerEvent t number x).dev.arc.op = d.arc.op ∧
      (d.triggerEvent t number x).dev.arc.erase = d.arc.erase ∧
      (d.triggerEvent t number x).dev.arc.runTimer = d.arc.runTimer ∧
      (d.triggerEvent t number x).dev.arc.defects = d.arc.defects ∧
      (d.triggerEvent t number x).dev.arc.storeFailed = d.arc.storeFailed := by
  unfold Dev.triggerEvent; simp

@[simp] theorem Dev.answer_frame (d : Dev) (p : Option Port) (x : Disposition) (number : Nat) :
    (d.answer p x number).rqd = d.rqd ∧ (d.answer p x number).tru = d.tru ∧ (d.answer p x number).ict = d.ict ∧
      (d.answer p x number).cpm = d.cpm ∧ (d.answer p x number).stb = d.stb ∧ (d.answer p x number).cme = d.cme ∧
      (d.answer p x number).plm = d.plm ∧ (d.answer p x number).arc = d.arc ∧ (d.answer p x number).drm = d.drm ∧
      (d.answer p x number).hiu = d.hiu ∧ (d.answer p x number).hum = d.hum ∧ (d.answer p x number).tmb = d.tmb ∧
      (d.answer p x number).ntu = d.ntu ∧ (d.answer p x number).rtu = d.rtu ∧ (d.answer p x number).sst = d.sst ∧
      (d.answer p x number).rcs = d.rcs := by
  unfold Dev.answer; simp

@[simp] theorem Dev.refuseTrigger_frame (d : Dev) (t : TriggerRecord) (p : Option Port) :
    (d.refuseTrigger t p).rqd = d.rqd ∧ (d.refuseTrigger t p).tru = d.tru ∧ (d.refuseTrigger t p).ict = d.ict ∧
      (d.refuseTrigger t p).cpm = d.cpm ∧ (d.refuseTrigger t p).stb = d.stb ∧ (d.refuseTrigger t p).cme = d.cme ∧
      (d.refuseTrigger t p).plm = d.plm ∧ (d.refuseTrigger t p).drm = d.drm ∧ (d.refuseTrigger t p).hum = d.hum ∧
      (d.refuseTrigger t p).rtu = d.rtu ∧ (d.refuseTrigger t p).sst = d.sst ∧ (d.refuseTrigger t p).rcs = d.rcs ∧
      (d.refuseTrigger t p).tmb.tick = d.tmb.tick ∧ (d.refuseTrigger t p).tmb.wall = d.tmb.wall ∧
      (d.refuseTrigger t p).arc.op = d.arc.op ∧ (d.refuseTrigger t p).arc.erase = d.arc.erase ∧
      (d.refuseTrigger t p).arc.runTimer = d.arc.runTimer ∧ (d.refuseTrigger t p).arc.defects = d.arc.defects ∧
      (d.refuseTrigger t p).arc.storeFailed = d.arc.storeFailed := by
  unfold Dev.refuseTrigger; dsimp only; split <;> simp

@[simp] theorem Dev.openIncident_frame (d : Dev) (s : DirSlot) (t : TriggerRecord) (p : Option Port) :
    (d.openIncident s t p).rqd = d.rqd ∧ (d.openIncident s t p).tru = d.tru ∧ (d.openIncident s t p).cpm = d.cpm ∧
      (d.openIncident s t p).stb = d.stb ∧ (d.openIncident s t p).cme = d.cme ∧ (d.openIncident s t p).plm = d.plm ∧
      (d.openIncident s t p).hum = d.hum ∧ (d.openIncident s t p).rtu = d.rtu ∧ (d.openIncident s t p).sst = d.sst ∧
      (d.openIncident s t p).rcs = d.rcs ∧ (d.openIncident s t p).tmb.tick = d.tmb.tick ∧
      (d.openIncident s t p).tmb.wall = d.tmb.wall ∧ (d.openIncident s t p).arc.op = d.arc.op ∧
      (d.openIncident s t p).arc.erase = d.arc.erase ∧ (d.openIncident s t p).arc.runTimer = d.arc.runTimer ∧
      (d.openIncident s t p).arc.defects = d.arc.defects ∧
      (d.openIncident s t p).arc.storeFailed = d.arc.storeFailed := by
  unfold Dev.openIncident; simp

@[simp] theorem Dev.openBy_frame (d : Dev) (w : OpeningWay) (t : TriggerRecord) (p : Option Port) :
    (d.openBy w t p).rqd = d.rqd ∧ (d.openBy w t p).tru = d.tru ∧ (d.openBy w t p).cpm = d.cpm ∧
      (d.openBy w t p).stb = d.stb ∧ (d.openBy w t p).cme = d.cme ∧ (d.openBy w t p).hum = d.hum ∧
      (d.openBy w t p).sst = d.sst ∧ (d.openBy w t p).rcs = d.rcs ∧ (d.openBy w t p).tmb.tick = d.tmb.tick ∧
      (d.openBy w t p).tmb.wall = d.tmb.wall ∧ (d.openBy w t p).arc.op = d.arc.op ∧
      (d.openBy w t p).arc.erase = d.arc.erase ∧ (d.openBy w t p).arc.runTimer = d.arc.runTimer ∧
      (d.openBy w t p).arc.defects = d.arc.defects ∧ (d.openBy w t p).arc.storeFailed = d.arc.storeFailed := by
  unfold Dev.openBy; split <;> simp

@[simp] theorem Dev.addSecondary_frame (d : Dev) (number : Nat) (cause : Cause) (tick : Tick) :
    (d.addSecondary number cause tick).pif = d.pif ∧ (d.addSecondary number cause tick).rqd = d.rqd ∧
      (d.addSecondary number cause tick).tru = d.tru ∧ (d.addSecondary number cause tick).ict = d.ict ∧
      (d.addSecondary number cause tick).cpm = d.cpm ∧ (d.addSecondary number cause tick).stb = d.stb ∧
      (d.addSecondary number cause tick).cme = d.cme ∧ (d.addSecondary number cause tick).plm = d.plm ∧
      (d.addSecondary number cause tick).arc = d.arc ∧ (d.addSecondary number cause tick).hiu = d.hiu ∧
      (d.addSecondary number cause tick).hum = d.hum ∧ (d.addSecondary number cause tick).tmb = d.tmb ∧
      (d.addSecondary number cause tick).ntu = d.ntu ∧ (d.addSecondary number cause tick).rtu = d.rtu ∧
      (d.addSecondary number cause tick).sst = d.sst ∧ (d.addSecondary number cause tick).rcs = d.rcs := by
  unfold Dev.addSecondary; simp

@[simp] theorem Dev.secondaryOf_frame (d : Dev) (number n : Nat) (t : TriggerRecord) (p : Option Port) :
    (d.secondaryOf number n t p).rqd = d.rqd ∧ (d.secondaryOf number n t p).tru = d.tru ∧
      (d.secondaryOf number n t p).ict = d.ict ∧ (d.secondaryOf number n t p).cpm = d.cpm ∧
      (d.secondaryOf number n t p).stb = d.stb ∧ (d.secondaryOf number n t p).cme = d.cme ∧
      (d.secondaryOf number n t p).plm = d.plm ∧ (d.secondaryOf number n t p).hum = d.hum ∧
      (d.secondaryOf number n t p).rtu = d.rtu ∧ (d.secondaryOf number n t p).sst = d.sst ∧
      (d.secondaryOf number n t p).rcs = d.rcs ∧ (d.secondaryOf number n t p).tmb.tick = d.tmb.tick ∧
      (d.secondaryOf number n t p).tmb.wall = d.tmb.wall ∧ (d.secondaryOf number n t p).arc.op = d.arc.op ∧
      (d.secondaryOf number n t p).arc.erase = d.arc.erase ∧ (d.secondaryOf number n t p).arc.runTimer = d.arc.runTimer ∧
      (d.secondaryOf number n t p).arc.defects = d.arc.defects ∧
      (d.secondaryOf number n t p).arc.storeFailed = d.arc.storeFailed := by
  unfold Dev.secondaryOf; dsimp only; (repeat' split) <;> simp

@[simp] theorem Dev.secondaryTrigger_frame (d : Dev) (r : Incident) (t : TriggerRecord) (p : Option Port) :
    (d.secondaryTrigger r t p).rqd = d.rqd ∧ (d.secondaryTrigger r t p).tru = d.tru ∧
      (d.secondaryTrigger r t p).ict = d.ict ∧ (d.secondaryTrigger r t p).cpm = d.cpm ∧
      (d.secondaryTrigger r t p).stb = d.stb ∧ (d.secondaryTrigger r t p).cme = d.cme ∧
      (d.secondaryTrigger r t p).plm = d.plm ∧ (d.secondaryTrigger r t p).hum = d.hum ∧
      (d.secondaryTrigger r t p).rtu = d.rtu ∧ (d.secondaryTrigger r t p).sst = d.sst ∧
      (d.secondaryTrigger r t p).rcs = d.rcs ∧ (d.secondaryTrigger r t p).tmb.tick = d.tmb.tick ∧
      (d.secondaryTrigger r t p).tmb.wall = d.tmb.wall ∧ (d.secondaryTrigger r t p).arc.op = d.arc.op ∧
      (d.secondaryTrigger r t p).arc.erase = d.arc.erase ∧ (d.secondaryTrigger r t p).arc.runTimer = d.arc.runTimer ∧
      (d.secondaryTrigger r t p).arc.defects = d.arc.defects ∧
      (d.secondaryTrigger r t p).arc.storeFailed = d.arc.storeFailed := by
  unfold Dev.secondaryTrigger; simp

/-- What a secondary trigger does to the directory queue and to its waiters (R11, R95): one of the first four is queued
where nobody waits and a place is free, and else joins the end of the waiters; a later one does neither. -/
theorem Dev.secondaryOf_queue (d : Dev) (number n : Nat) (t : TriggerRecord) (p : Option Port) :
    (d.secondaryOf number n t p).drm.queue
        = d.drm.queue ++ (if n < 4 ∧ d.drm.capRoom 1 then [.triggerAdd number t.cause t.tick] else []) ∧
      (d.secondaryOf number n t p).drm.captureWaiters
        = d.drm.captureWaiters ++ (if n < 4 ∧ ¬d.drm.capRoom 1 then [.triggerAdd number t.cause t.tick] else []) := by
  unfold Dev.secondaryOf Dev.addSecondary Dev.answer
  dsimp only
  split
  · split <;> simp_all
  · simp_all

theorem Dev.joinedSecondary_frame (number : Nat) (l : List Joined) (d : Dev) (n : Nat) :
    let e := Dev.joinedSecondary number d l n
    e.rqd = d.rqd ∧ e.tru = d.tru ∧ e.ict = d.ict ∧ e.cpm = d.cpm ∧ e.stb = d.stb ∧ e.cme = d.cme ∧ e.plm = d.plm ∧
      e.hum = d.hum ∧ e.rtu = d.rtu ∧ e.sst = d.sst ∧ e.rcs = d.rcs ∧ e.tmb.tick = d.tmb.tick ∧
      e.arc.defects = d.arc.defects ∧ e.arc.storeFailed = d.arc.storeFailed := by
  induction l generalizing d n with
  | nil => simp [Dev.joinedSecondary]
  | cons j js ih => simpa [Dev.joinedSecondary] using ih (d.secondaryOf number n j.trigger j.port) (n + 1)

/-- While a requester waits, no joined trigger is queued: the first four join the end of the waiters (R95). -/
theorem Dev.joinedSecondary_behind (number : Nat) (l : List Joined) (d : Dev) (n : Nat)
    (h : d.drm.captureWaiters ≠ []) :
    (Dev.joinedSecondary number d l n).drm.queue = d.drm.queue ∧
      (Dev.joinedSecondary number d l n).drm.captureWaiters = d.drm.captureWaiters
        ++ (l.take (4 - n)).map fun j => .triggerAdd number j.trigger.cause j.trigger.tick := by
  induction l generalizing d n with
  | nil => simp [Dev.joinedSecondary]
  | cons j js ih =>
    have room : d.drm.capRoom 1 = false := by simp [Drm.capRoom, h]
    obtain ⟨hq, hw⟩ := d.secondaryOf_queue number n j.trigger j.port
    simp only [room, Bool.false_eq_true, and_false, not_false_eq_true, and_true, if_false, List.append_nil] at hq hw
    obtain ⟨iq, iw⟩ := ih (d.secondaryOf number n j.trigger j.port) (n + 1) (by simp [hw, h])
    refine ⟨by rw [Dev.joinedSecondary, iq, hq], ?_⟩
    rw [Dev.joinedSecondary, iw, hw]
    by_cases hn : n < 4
    · obtain ⟨k, hk⟩ : ∃ k, 4 - n = k + 1 := ⟨3 - n, by omega⟩
      have hk' : 4 - (n + 1) = k := by omega
      simp [hn, hk, hk']
    · have h0 : 4 - n = 0 := by omega
      have h1 : 4 - (n + 1) = 0 := by omega
      simp [hn, h0, h1]

@[simp] theorem Dev.joinOpening_frame (d : Dev) (o : Opening) (t : TriggerRecord) (p : Option Port) :
    (d.joinOpening o t p).pif = d.pif ∧ (d.joinOpening o t p).rqd = d.rqd ∧ (d.joinOpening o t p).tru = d.tru ∧
      (d.joinOpening o t p).cpm = d.cpm ∧ (d.joinOpening o t p).stb = d.stb ∧ (d.joinOpening o t p).cme = d.cme ∧
      (d.joinOpening o t p).plm = d.plm ∧ (d.joinOpening o t p).arc = d.arc ∧ (d.joinOpening o t p).drm = d.drm ∧
      (d.joinOpening o t p).hiu = d.hiu ∧ (d.joinOpening o t p).hum = d.hum ∧ (d.joinOpening o t p).tmb = d.tmb ∧
      (d.joinOpening o t p).ntu = d.ntu ∧ (d.joinOpening o t p).rtu = d.rtu ∧ (d.joinOpening o t p).sst = d.sst ∧
      (d.joinOpening o t p).rcs = d.rcs := by
  unfold Dev.joinOpening; simp

@[simp] theorem Dev.takeTrigger_frame (d : Dev) (t : TriggerRecord) (p : Option Port) :
    (d.takeTrigger t p).rqd = d.rqd ∧ (d.takeTrigger t p).tru = d.tru ∧ (d.takeTrigger t p).cpm = d.cpm ∧
      (d.takeTrigger t p).stb = d.stb ∧ (d.takeTrigger t p).cme = d.cme ∧ (d.takeTrigger t p).hum = d.hum ∧
      (d.takeTrigger t p).sst = d.sst ∧ (d.takeTrigger t p).rcs = d.rcs ∧ (d.takeTrigger t p).tmb.tick = d.tmb.tick ∧
      (d.takeTrigger t p).tmb.wall = d.tmb.wall ∧ (d.takeTrigger t p).arc.op = d.arc.op ∧
      (d.takeTrigger t p).arc.erase = d.arc.erase ∧ (d.takeTrigger t p).arc.runTimer = d.arc.runTimer ∧
      (d.takeTrigger t p).arc.defects = d.arc.defects ∧ (d.takeTrigger t p).arc.storeFailed = d.arc.storeFailed := by
  unfold Dev.takeTrigger; dsimp only; (repeat' split) <;> simp

@[simp] theorem Dev.emptyLatches_frame (d : Dev) (n : Nat) :
    (Dev.emptyLatches n d).rqd = d.rqd ∧ (Dev.emptyLatches n d).cpm = d.cpm ∧ (Dev.emptyLatches n d).stb = d.stb ∧
      (Dev.emptyLatches n d).cme = d.cme ∧ (Dev.emptyLatches n d).hum = d.hum ∧ (Dev.emptyLatches n d).sst = d.sst ∧
      (Dev.emptyLatches n d).rcs = d.rcs ∧ (Dev.emptyLatches n d).tmb.tick = d.tmb.tick ∧
      (Dev.emptyLatches n d).tmb.wall = d.tmb.wall ∧ (Dev.emptyLatches n d).arc.op = d.arc.op ∧
      (Dev.emptyLatches n d).arc.erase = d.arc.erase ∧ (Dev.emptyLatches n d).arc.runTimer = d.arc.runTimer ∧
      (Dev.emptyLatches n d).arc.defects = d.arc.defects ∧ (Dev.emptyLatches n d).arc.storeFailed = d.arc.storeFailed := by
  induction n generalizing d with
  | zero => simp [Dev.emptyLatches]
  | succ n ih => unfold Dev.emptyLatches; split <;> simp [ih]

/-! ### Hold-up -/

@[simp] theorem Dev.cmeClosing_frame (d : Dev) :
    (d.cmeClosing).pif = d.pif ∧ (d.cmeClosing).rqd = d.rqd ∧ (d.cmeClosing).tru = d.tru ∧
      (d.cmeClosing).ict = d.ict ∧ (d.cmeClosing).drm = d.drm ∧ (d.cmeClosing).hiu = d.hiu ∧
      (d.cmeClosing).hum = d.hum ∧ (d.cmeClosing).tmb = d.tmb ∧ (d.cmeClosing).ntu = d.ntu ∧
      (d.cmeClosing).rtu = d.rtu ∧ (d.cmeClosing).sst = d.sst ∧ (d.cmeClosing).rcs = d.rcs ∧
      (d.cmeClosing).arc.op = d.arc.op ∧ (d.cmeClosing).arc.erase = d.arc.erase ∧
      (d.cmeClosing).arc.runTimer = d.arc.runTimer ∧ (d.cmeClosing).arc.defects = d.arc.defects ∧
      (d.cmeClosing).arc.storeFailed = d.arc.storeFailed := by
  unfold Dev.cmeClosing; dsimp only; (repeat' split) <;> simp

@[simp] theorem Dev.ictClosing_frame (d : Dev) :
    (d.ictClosing).pif = d.pif ∧ (d.ictClosing).rqd = d.rqd ∧ (d.ictClosing).tru = d.tru ∧
      (d.ictClosing).cpm = d.cpm ∧ (d.ictClosing).stb = d.stb ∧ (d.ictClosing).cme = d.cme ∧
      (d.ictClosing).plm = d.plm ∧ (d.ictClosing).arc = d.arc ∧ (d.ictClosing).drm = d.drm ∧
      (d.ictClosing).hiu = d.hiu ∧ (d.ictClosing).hum = d.hum ∧ (d.ictClosing).ntu = d.ntu ∧
      (d.ictClosing).rtu = d.rtu ∧ (d.ictClosing).sst = d.sst ∧ (d.ictClosing).rcs = d.rcs ∧
      (d.ictClosing).tmb.tick = d.tmb.tick ∧ (d.ictClosing).tmb.wall = d.tmb.wall := by
  unfold Dev.ictClosing; (repeat' split) <;> simp

@[simp] theorem Dev.cutClosing_frame (d : Dev) (i : StreamIdx) :
    (d.cutClosing i).pif = d.pif ∧ (d.cutClosing i).rqd = d.rqd ∧ (d.cutClosing i).tru = d.tru ∧
      (d.cutClosing i).ict = d.ict ∧ (d.cutClosing i).stb = d.stb ∧ (d.cutClosing i).cme = d.cme ∧
      (d.cutClosing i).plm = d.plm ∧ (d.cutClosing i).drm = d.drm ∧ (d.cutClosing i).hum = d.hum ∧
      (d.cutClosing i).rtu = d.rtu ∧ (d.cutClosing i).sst = d.sst ∧ (d.cutClosing i).rcs = d.rcs ∧
      (d.cutClosing i).tmb.tick = d.tmb.tick ∧ (d.cutClosing i).tmb.wall = d.tmb.wall ∧
      (d.cutClosing i).arc.op = d.arc.op ∧ (d.cutClosing i).arc.erase = d.arc.erase ∧
      (d.cutClosing i).arc.runTimer = d.arc.runTimer ∧ (d.cutClosing i).arc.defects = d.arc.defects ∧
      (d.cutClosing i).arc.storeFailed = d.arc.storeFailed := by
  unfold Dev.cutClosing; (repeat' split) <;> simp

@[simp] theorem Dev.cpmClosing_frame (d : Dev) :
    (d.cpmClosing).pif = d.pif ∧ (d.cpmClosing).rqd = d.rqd ∧ (d.cpmClosing).tru = d.tru ∧
      (d.cpmClosing).cme = d.cme ∧ (d.cpmClosing).plm = d.plm ∧ (d.cpmClosing).hum = d.hum ∧
      (d.cpmClosing).rtu = d.rtu ∧ (d.cpmClosing).sst = d.sst ∧ (d.cpmClosing).rcs = d.rcs ∧
      (d.cpmClosing).tmb.tick = d.tmb.tick ∧ (d.cpmClosing).tmb.wall = d.tmb.wall ∧
      (d.cpmClosing).arc.op = d.arc.op ∧ (d.cpmClosing).arc.erase = d.arc.erase ∧
      (d.cpmClosing).arc.runTimer = d.arc.runTimer ∧ (d.cpmClosing).arc.defects = d.arc.defects ∧
      (d.cpmClosing).arc.storeFailed = d.arc.storeFailed := by
  have h1 : ∀ (l : List StreamIdx) (d : Dev), (l.foldl Dev.cutClosing d).pif = d.pif ∧
      (l.foldl Dev.cutClosing d).rqd = d.rqd ∧
      (l.foldl Dev.cutClosing d).tru = d.tru ∧
      (l.foldl Dev.cutClosing d).cme = d.cme ∧
      (l.foldl Dev.cutClosing d).plm = d.plm ∧
      (l.foldl Dev.cutClosing d).hum = d.hum ∧
      (l.foldl Dev.cutClosing d).rtu = d.rtu ∧
      (l.foldl Dev.cutClosing d).sst = d.sst ∧
      (l.foldl Dev.cutClosing d).rcs = d.rcs ∧
      (l.foldl Dev.cutClosing d).tmb.tick = d.tmb.tick ∧
      (l.foldl Dev.cutClosing d).tmb.wall = d.tmb.wall ∧
      (l.foldl Dev.cutClosing d).arc.op = d.arc.op ∧
      (l.foldl Dev.cutClosing d).arc.erase = d.arc.erase ∧
      (l.foldl Dev.cutClosing d).arc.runTimer = d.arc.runTimer ∧
      (l.foldl Dev.cutClosing d).arc.defects = d.arc.defects ∧
      (l.foldl Dev.cutClosing d).arc.storeFailed = d.arc.storeFailed := by
    intro l; induction l with
    | nil => intro d; simp
    | cons i l ih => intro d; simp [ih]
  have h2 : ∀ (l : List StreamIdx) (d : Dev), (l.foldl Dev.discardBlocks d).pif = d.pif ∧
      (l.foldl Dev.discardBlocks d).rqd = d.rqd ∧
      (l.foldl Dev.discardBlocks d).tru = d.tru ∧
      (l.foldl Dev.discardBlocks d).cme = d.cme ∧
      (l.foldl Dev.discardBlocks d).plm = d.plm ∧
      (l.foldl Dev.discardBlocks d).hum = d.hum ∧
      (l.foldl Dev.discardBlocks d).rtu = d.rtu ∧
      (l.foldl Dev.discardBlocks d).sst = d.sst ∧
      (l.foldl Dev.discardBlocks d).rcs = d.rcs ∧
      (l.foldl Dev.discardBlocks d).tmb.tick = d.tmb.tick ∧
      (l.foldl Dev.discardBlocks d).tmb.wall = d.tmb.wall ∧
      (l.foldl Dev.discardBlocks d).arc.op = d.arc.op ∧
      (l.foldl Dev.discardBlocks d).arc.erase = d.arc.erase ∧
      (l.foldl Dev.discardBlocks d).arc.runTimer = d.arc.runTimer ∧
      (l.foldl Dev.discardBlocks d).arc.defects = d.arc.defects ∧
      (l.foldl Dev.discardBlocks d).arc.storeFailed = d.arc.storeFailed := by
    intro l; induction l with
    | nil => intro d; simp
    | cons i l ih => intro d; simp [ih]
  have h3 : ∀ (l : List StreamIdx) (d : Dev), (l.foldl Dev.releaseKeeping d).pif = d.pif ∧
      (l.foldl Dev.releaseKeeping d).rqd = d.rqd ∧
      (l.foldl Dev.releaseKeeping d).tru = d.tru ∧
      (l.foldl Dev.releaseKeeping d).cme = d.cme ∧
      (l.foldl Dev.releaseKeeping d).plm = d.plm ∧
      (l.foldl Dev.releaseKeeping d).hum = d.hum ∧
      (l.foldl Dev.releaseKeeping d).rtu = d.rtu ∧
      (l.foldl Dev.releaseKeeping d).sst = d.sst ∧
      (l.foldl Dev.releaseKeeping d).rcs = d.rcs ∧
      (l.foldl Dev.releaseKeeping d).tmb.tick = d.tmb.tick ∧
      (l.foldl Dev.releaseKeeping d).tmb.wall = d.tmb.wall ∧
      (l.foldl Dev.releaseKeeping d).arc.op = d.arc.op ∧
      (l.foldl Dev.releaseKeeping d).arc.erase = d.arc.erase ∧
      (l.foldl Dev.releaseKeeping d).arc.runTimer = d.arc.runTimer ∧
      (l.foldl Dev.releaseKeeping d).arc.defects = d.arc.defects ∧
      (l.foldl Dev.releaseKeeping d).arc.storeFailed = d.arc.storeFailed := by
    intro l; induction l with
    | nil => intro d; simp
    | cons i l ih => intro d; simp [ih]
  unfold Dev.cpmClosing
  simp [h1, h2, h3]

@[simp] theorem Dev.beginClosing_frame (d : Dev) (cause : ClosingCause) :
    (d.beginClosing cause).pif = d.pif ∧ (d.beginClosing cause).rqd = d.rqd ∧ (d.beginClosing cause).tru = d.tru ∧
      (d.beginClosing cause).rtu = d.rtu ∧ (d.beginClosing cause).sst = d.sst ∧ (d.beginClosing cause).rcs = d.rcs ∧
      (d.beginClosing cause).tmb.tick = d.tmb.tick ∧ (d.beginClosing cause).tmb.wall = d.tmb.wall ∧
      (d.beginClosing cause).arc.op = d.arc.op ∧ (d.beginClosing cause).arc.erase = d.arc.erase ∧
      (d.beginClosing cause).arc.runTimer = d.arc.runTimer ∧ (d.beginClosing cause).arc.defects = d.arc.defects ∧
      (d.beginClosing cause).arc.storeFailed = d.arc.storeFailed := by
  unfold Dev.beginClosing; simp

@[simp] theorem Dev.reserveTest_frame (d : Dev) :
    (d.reserveTest).pif = d.pif ∧ (d.reserveTest).rqd = d.rqd ∧ (d.reserveTest).tru = d.tru ∧
      (d.reserveTest).rtu = d.rtu ∧ (d.reserveTest).sst = d.sst ∧ (d.reserveTest).rcs = d.rcs ∧
      (d.reserveTest).tmb.tick = d.tmb.tick ∧ (d.reserveTest).tmb.wall = d.tmb.wall ∧
      (d.reserveTest).arc.op = d.arc.op ∧ (d.reserveTest).arc.erase = d.arc.erase ∧
      (d.reserveTest).arc.runTimer = d.arc.runTimer ∧ (d.reserveTest).arc.defects = d.arc.defects ∧
      (d.reserveTest).arc.storeFailed = d.arc.storeFailed := by
  unfold Dev.reserveTest; (repeat' split) <;> simp

@[simp] theorem Dev.exhaustTest_frame (d : Dev) :
    (d.exhaustTest).pif = d.pif ∧ (d.exhaustTest).rqd = d.rqd ∧ (d.exhaustTest).tru = d.tru ∧
      (d.exhaustTest).ict = d.ict ∧ (d.exhaustTest).cpm = d.cpm ∧ (d.exhaustTest).stb = d.stb ∧
      (d.exhaustTest).cme = d.cme ∧ (d.exhaustTest).plm = d.plm ∧ (d.exhaustTest).arc = d.arc ∧
      (d.exhaustTest).drm = d.drm ∧ (d.exhaustTest).hiu = d.hiu ∧ (d.exhaustTest).tmb = d.tmb ∧
      (d.exhaustTest).ntu = d.ntu ∧ (d.exhaustTest).rtu = d.rtu ∧ (d.exhaustTest).sst = d.sst ∧
      (d.exhaustTest).rcs = d.rcs := by
  unfold Dev.exhaustTest; (repeat' split) <;> simp

@[simp] theorem Dev.enterHoldup_frame (d : Dev) :
    (d.enterHoldup).rqd = d.rqd ∧ (d.enterHoldup).tru = d.tru ∧ (d.enterHoldup).sst = d.sst ∧
      (d.enterHoldup).rcs = d.rcs ∧ (d.enterHoldup).tmb.tick = d.tmb.tick ∧ (d.enterHoldup).tmb.wall = d.tmb.wall ∧
      (d.enterHoldup).arc.op = d.arc.op ∧ (d.enterHoldup).arc.erase = d.arc.erase ∧
      (d.enterHoldup).arc.runTimer = d.arc.runTimer ∧ (d.enterHoldup).arc.defects = d.arc.defects ∧
      (d.enterHoldup).arc.storeFailed = d.arc.storeFailed := by
  unfold Dev.enterHoldup; dsimp only; split <;> simp [allPorts]

@[simp] theorem Dev.armRecharge_frame (d : Dev) :
    (d.armRecharge).pif = d.pif ∧ (d.armRecharge).rqd = d.rqd ∧ (d.armRecharge).tru = d.tru ∧
      (d.armRecharge).ict = d.ict ∧ (d.armRecharge).cpm = d.cpm ∧ (d.armRecharge).stb = d.stb ∧
      (d.armRecharge).cme = d.cme ∧ (d.armRecharge).plm = d.plm ∧ (d.armRecharge).arc = d.arc ∧
      (d.armRecharge).drm = d.drm ∧ (d.armRecharge).hiu = d.hiu ∧ (d.armRecharge).ntu = d.ntu ∧
      (d.armRecharge).rtu = d.rtu ∧ (d.armRecharge).sst = d.sst ∧ (d.armRecharge).rcs = d.rcs ∧
      (d.armRecharge).tmb.tick = d.tmb.tick ∧ (d.armRecharge).tmb.wall = d.tmb.wall := by
  unfold Dev.armRecharge; (repeat' split) <;> simp

@[simp] theorem Dev.load_frame (d : Dev) :
    (d.load).pif = d.pif ∧ (d.load).tru = d.tru ∧ (d.load).ict = d.ict ∧ (d.load).cpm = d.cpm ∧
      (d.load).stb = d.stb ∧ (d.load).cme = d.cme ∧ (d.load).plm = d.plm ∧ (d.load).drm = d.drm ∧
      (d.load).rtu = d.rtu ∧ (d.load).rcs = d.rcs ∧ (d.load).tmb.tick = d.tmb.tick ∧ (d.load).tmb.wall = d.tmb.wall ∧
      (d.load).arc.op = d.arc.op ∧ (d.load).arc.erase = d.arc.erase ∧ (d.load).arc.runTimer = d.arc.runTimer ∧
      (d.load).arc.defects = d.arc.defects ∧ (d.load).arc.storeFailed = d.arc.storeFailed := by
  unfold Dev.load; simp

/-! ### Requests -/

@[simp] theorem Dev.arcSettle_frame (d : Dev) :
    (d.arcSettle).pif = d.pif ∧ (d.arcSettle).rqd = d.rqd ∧ (d.arcSettle).tru = d.tru ∧ (d.arcSettle).ict = d.ict ∧
      (d.arcSettle).cpm = d.cpm ∧ (d.arcSettle).stb = d.stb ∧ (d.arcSettle).cme = d.cme ∧ (d.arcSettle).plm = d.plm ∧
      (d.arcSettle).drm = d.drm ∧ (d.arcSettle).hiu = d.hiu ∧ (d.arcSettle).hum = d.hum ∧ (d.arcSettle).tmb = d.tmb ∧
      (d.arcSettle).ntu = d.ntu ∧ (d.arcSettle).rtu = d.rtu ∧ (d.arcSettle).sst = d.sst ∧
      (d.arcSettle).rcs = d.rcs := by
  unfold Dev.arcSettle; (repeat' split) <;> simp

@[simp] theorem Dev.settle_frame (d : Dev) :
    (d.settle).pif = d.pif ∧ (d.settle).rqd = d.rqd ∧ (d.settle).tru = d.tru ∧ (d.settle).ict = d.ict ∧
      (d.settle).cpm = d.cpm ∧ (d.settle).stb = d.stb ∧ (d.settle).cme = d.cme ∧ (d.settle).plm = d.plm ∧
      (d.settle).hum = d.hum ∧ (d.settle).tmb = d.tmb ∧ (d.settle).rtu = d.rtu ∧ (d.settle).sst = d.sst ∧
      (d.settle).rcs = d.rcs := by
  unfold Dev.settle; simp

/-! ### What the writers' requests leave unchanged inside their blocks -/

@[simp] theorem Dev.drmWrite_inner (d : Dev) :
    (d.drmWrite).drm.dir = d.drm.dir ∧ (d.drmWrite).drm.queue = d.drm.queue ∧
      (d.drmWrite).drm.captureWaiters = d.drm.captureWaiters ∧ (d.drmWrite).drm.maintWaiters = d.drm.maintWaiters ∧
      (d.drmWrite).drm.active = d.drm.active ∧ (d.drmWrite).drm.spare = d.drm.spare ∧
      (d.drmWrite).drm.pos = d.drm.pos ∧ (d.drmWrite).drm.journalOpen = d.drm.journalOpen ∧
      (d.drmWrite).drm.batch = d.drm.batch ∧ (d.drmWrite).drm.copy = d.drm.copy ∧
      (d.drmWrite).drm.imagePos = d.drm.imagePos ∧ (d.drmWrite).drm.absorbed = d.drm.absorbed ∧
      (d.drmWrite).drm.generation = d.drm.generation ∧ (d.drmWrite).drm.epoch = d.drm.epoch ∧
      (d.drmWrite).drm.nextIncident = d.drm.nextIncident ∧
      (d.drmWrite).drm.recoveryHeld = d.drm.recoveryHeld := by
  unfold Dev.drmWrite; (repeat' split) <;> simp

/-- While the entries of recovery wait for a compaction and none is in progress, DRM places no request (R156). -/
theorem Dev.drmWrite_held {d : Dev} (h : d.journalHeld = true) (hc : d.drm.copy = none) : d.drmWrite = d := by
  unfold Dev.drmWrite; (repeat' split) <;> simp_all

@[simp] theorem Dev.hiuWrite_inner (d : Dev) :
    (d.hiuWrite).hiu.intake = d.hiu.intake ∧ (d.hiuWrite).hiu.nextSeq = d.hiu.nextSeq ∧
      (d.hiuWrite).hiu.lost = d.hiu.lost ∧ (d.hiuWrite).hiu.staging = d.hiu.staging ∧
      (d.hiuWrite).hiu.target = d.hiu.target ∧ (d.hiuWrite).hiu.newest = d.hiu.newest ∧
      (d.hiuWrite).hiu.closed = d.hiu.closed ∧ (d.hiuWrite).hiu.mark = d.hiu.mark ∧
      (d.hiuWrite).hiu.flushing = d.hiu.flushing ∧ (d.hiuWrite).hiu.ring = d.hiu.ring ∧
      (d.hiuWrite).hiu.deferred = d.hiu.deferred ∧ (d.hiuWrite).hiu.prep = d.hiu.prep ∧
      (d.hiuWrite).hiu.halted = d.hiu.halted := by
  unfold Dev.hiuWrite; (repeat' split) <;> simp

@[simp] theorem Dev.arcSettle_inner (d : Dev) :
    (d.arcSettle).arc.op = d.arc.op ∧ (d.arcSettle).arc.defects = d.arc.defects ∧
      (d.arcSettle).arc.storeFailed = d.arc.storeFailed ∧ (d.arcSettle).arc.waiting = d.arc.waiting := by
  unfold Dev.arcSettle; (repeat' split) <;> simp

@[simp] theorem Dev.settle_inner (d : Dev) :
    (d.settle).drm.dir = d.drm.dir ∧ (d.settle).drm.queue = d.drm.queue ∧
      (d.settle).drm.captureWaiters = d.drm.captureWaiters ∧ (d.settle).drm.maintWaiters = d.drm.maintWaiters ∧
      (d.settle).drm.active = d.drm.active ∧ (d.settle).drm.spare = d.drm.spare ∧ (d.settle).drm.pos = d.drm.pos ∧
      (d.settle).drm.journalOpen = d.drm.journalOpen ∧ (d.settle).drm.batch = d.drm.batch ∧
      (d.settle).drm.copy = d.drm.copy ∧ (d.settle).drm.imagePos = d.drm.imagePos ∧
      (d.settle).drm.absorbed = d.drm.absorbed ∧ (d.settle).drm.generation = d.drm.generation ∧
      (d.settle).drm.epoch = d.drm.epoch ∧ (d.settle).drm.nextIncident = d.drm.nextIncident ∧
      (d.settle).drm.recoveryHeld = d.drm.recoveryHeld ∧
      (d.settle).hiu.intake = d.hiu.intake ∧ (d.settle).hiu.nextSeq = d.hiu.nextSeq ∧
      (d.settle).hiu.lost = d.hiu.lost ∧ (d.settle).hiu.staging = d.hiu.staging ∧
      (d.settle).hiu.target = d.hiu.target ∧ (d.settle).hiu.newest = d.hiu.newest ∧
      (d.settle).hiu.closed = d.hiu.closed ∧ (d.settle).hiu.mark = d.hiu.mark ∧
      (d.settle).hiu.flushing = d.hiu.flushing ∧ (d.settle).hiu.ring = d.hiu.ring ∧
      (d.settle).hiu.deferred = d.hiu.deferred ∧ (d.settle).hiu.prep = d.hiu.prep ∧
      (d.settle).hiu.halted = d.hiu.halted ∧ (d.settle).arc.op = d.arc.op ∧ (d.settle).arc.defects = d.arc.defects ∧
      (d.settle).arc.storeFailed = d.arc.storeFailed ∧ (d.settle).ntu.management = d.ntu.management ∧
      (d.settle).ntu.service = d.ntu.service := by
  unfold Dev.settle; simp

end Sys2Proof.Machine
end

