-- ==== Sys2Proof/Laws/Ports.lean ====
section
/-! SUPPORT. The arrival of a request, case by case, and what a reply does to its port: cited instead of unfolding
`Dev.arrive` and `Dev.reply`. -/

namespace Sys2Proof.Machine

/-! ### The tests of Table 10.3 do not look at the ports -/

@[simp] theorem judge_takeFrame (d : Dev) (p q : Port) (code tag : Byte) (c b : List Byte) (r : Request) :
    judge (d.takeFrame q code tag c) p r b = judge d p r b := by
  cases q <;> rfl

@[simp] theorem status_takeFrame (d : Dev) (p q : Port) (code tag : Byte) (c : List Byte) :
    (d.takeFrame q code tag c).status p = d.status p := by
  cases q <;> rfl

/-! ### Frames -/

/-- Writing back what a port holds changes nothing. -/
theorem Dev.setPort_port (d : Dev) (p : Port) : d.setPort p (d.port p) = d := by
  have : put d.pif.ports (Port.idx p) (d.port p) = d.pif.ports := by simp [put, Dev.port]
  unfold Dev.setPort; rw [this]

/-- Everything a frame of any length can do as it comes in. -/
theorem Dev.hearFrame_length (d : Dev) (p : Port) (n : Nat) :
    d.hearFrame p n = d.setPort p { d.port p with
      sent := if p = .mgt ∨ p = .svc then (d.port p).sent else List.replicate n 0xFF } := by
  unfold Dev.hearFrame
  cases p <;> first | exact (d.setPort_port _).symm | rfl

/-- Everything a frame with a payload can do as it comes in. -/
theorem Dev.hearFrame_eq (d : Dev) (p : Port) (b : List Byte) :
    d.hearFrame p (frameOverhead + b.length) = d.setPort p { d.port p with sent := (d.port p).heard p b } := by
  unfold Dev.hearFrame
  cases p <;> first | exact (d.setPort_port _).symm | rfl

/-- What a frame leaves at its port's data output. -/
theorem Dev.port_hearFrame (d : Dev) (p : Port) (b : List Byte) :
    (d.hearFrame p (frameOverhead + b.length)).port p = { d.port p with sent := (d.port p).heard p b } := by
  rw [Dev.hearFrame_eq, Dev.port_setPort_same]

/-- A frame that takes the place of a kept reply leaves the ports alone. -/
theorem Dev.letGo_setPort (d : Dev) (p q : Port) (x : PortState) :
    (d.setPort q x).letGo p = (d.letGo p).setPort q x := rfl

/-- An idle line stays idle. -/
theorem Dev.lineAfter_eq_none (d : Dev) (p : Port) : d.lineAfter p = none ↔ d.pif.svcOut = none := by
  unfold Dev.lineAfter; split <;> simp

/-- A request that is taken leaves the ports waiting for its reply, and changes the ports alone. -/
theorem Dev.takeFrame_eq (d : Dev) (p : Port) (code tag : Byte) (b : List Byte) :
    d.takeFrame p code tag b = { d with pif := d.waitsFor p b code tag } := by
  unfold Dev.takeFrame Dev.acceptFrame Dev.waitsFor
  rw [Dev.hearFrame_eq, Dev.letGo_setPort, Dev.setPort_setPort, Dev.port_setPort_same]
  rfl

theorem Dev.pif_takeFrame (d : Dev) (p : Port) (code tag : Byte) (b : List Byte) :
    (d.takeFrame p code tag b).pif = d.waitsFor p b code tag := by rw [Dev.takeFrame_eq]

/-! ### Replies -/

/-- A reply on an idle SVC is sent from its building on. -/
theorem Dev.deliver_idle {d : Dev} (h : d.pif.svcOut = none) (code : Byte) (r : Reply) :
    d.deliver .svc code r = { d with pif :=
      { (d.setPort .svc { d.port .svc with exchange := .ready code r.tag r, sent := [startByte] }).pif with
        svcOut := some ⟨r.frame, 0, true⟩ } } := by
  unfold Dev.deliver
  dsimp only
  rw [if_pos ⟨rfl, by simpa using h⟩]
  unfold Dev.beginSending
  dsimp only
  rw [Dev.port_setPort_same, Dev.setPort_setPort]
  rfl

/-- A reply at another port, or while SVC's line is busy, is kept. -/
theorem Dev.deliver_kept {d : Dev} {p : Port} (h : p ≠ .svc ∨ d.pif.svcOut ≠ none) (code : Byte) (r : Reply) :
    d.deliver p code r = d.setPort p { d.port p with exchange := .ready code r.tag r } := by
  unfold Dev.deliver
  dsimp only
  rw [if_neg]
  rintro ⟨h1, h2⟩
  exact h.elim (· h1) (· (by simpa using h2))

/-- A reply at its building changes the ports alone. -/
theorem Dev.deliver_eq (d : Dev) (p : Port) (code : Byte) (r : Reply) :
    d.deliver p code r = { d with pif := (d.deliver p code r).pif } := by
  by_cases h : p = .svc ∧ d.pif.svcOut = none
  · obtain ⟨rfl, h⟩ := h; rw [Dev.deliver_idle h]
  · rw [Dev.deliver_kept (by tauto)]; rfl

/-- A reply at its building depends on the ports alone. -/
theorem Dev.deliver_congr {d e : Dev} (h : e.pif = d.pif) (p : Port) (code : Byte) (r : Reply) :
    (e.deliver p code r).pif = (d.deliver p code r).pif := by
  have hp : ∀ q, e.port q = d.port q := fun q => by unfold Dev.port; rw [h]
  have hs : ∀ q x, (e.setPort q x).pif = (d.setPort q x).pif := fun q x => by unfold Dev.setPort; rw [h]
  by_cases hd : p = .svc ∧ d.pif.svcOut = none
  · obtain ⟨rfl, hd⟩ := hd
    rw [Dev.deliver_idle hd, Dev.deliver_idle (h ▸ hd), hp]
    simp only [hs]
  · have hk : p ≠ .svc ∨ d.pif.svcOut ≠ none := by tauto
    rw [Dev.deliver_kept hk, Dev.deliver_kept (h ▸ hk), hp, hs]

/-- What a reply at its building leaves at every port. -/
theorem Dev.port_deliver (d : Dev) (p q : Port) (code : Byte) (r : Reply) :
    (d.deliver p code r).port q = if p = q then { d.port p with
      exchange := .ready code r.tag r
      sent := if p = .svc ∧ d.pif.svcOut = none then [startByte] else (d.port p).sent } else d.port q := by
  by_cases h : p = .svc ∧ d.pif.svcOut = none
  · rw [if_pos h]
    obtain ⟨rfl, h⟩ := h
    rw [Dev.deliver_idle h]
    exact d.port_setPort .svc q _
  · rw [Dev.deliver_kept (by tauto), if_neg h, Dev.port_setPort]

/-- What a reply at its building leaves on SVC's line. -/
theorem Dev.svcOut_deliver (d : Dev) (p : Port) (code : Byte) (r : Reply) :
    (d.deliver p code r).pif.svcOut
      = if p = .svc ∧ d.pif.svcOut = none then some ⟨r.frame, 0, true⟩ else d.pif.svcOut := by
  by_cases h : p = .svc ∧ d.pif.svcOut = none
  · rw [if_pos h]; obtain ⟨rfl, h⟩ := h; rw [Dev.deliver_idle h]
  · rw [Dev.deliver_kept (by tauto), if_neg h]; rfl

/-- The reply to a request that is outstanding. -/
theorem Dev.reply_of_outstanding {d : Dev} {p : Port} {code tag : Byte}
    (h : (d.port p).exchange = .outstanding code tag) {status : Status} (hs : status ≠ .unknownRequest) (flags : Byte)
    (body : ReplyBody) : d.reply p status flags body = d.deliver p code
      ⟨code, tag, status, flags ||| (if 0 < (d.port p).overlap then flagOverlap else 0), body⟩ := by
  unfold Dev.reply
  rw [h]
  dsimp only
  rw [if_neg hs]

/-- A port where no request is outstanding gets no reply. -/
theorem Dev.reply_of_not_outstanding {d : Dev} {p : Port} (h : d.isOutstanding p = false) (status : Status)
    (flags : Byte) (body : ReplyBody) : d.reply p status flags body = d := by
  unfold Dev.isOutstanding at h
  unfold Dev.reply
  split
  · next e => simp [e] at h
  · rfl

/-- A reply leaves every other port as it is, and SVC's line unless it is SVC's. -/
theorem Dev.reply_elsewhere (d : Dev) {p q : Port} (h : p ≠ q) (status : Status) (flags : Byte) (body : ReplyBody) :
    (d.reply p status flags body).port q = d.port q
      ∧ (q = .svc → (d.reply p status flags body).pif.svcOut = d.pif.svcOut) := by
  unfold Dev.reply
  split
  · refine ⟨by rw [Dev.port_deliver, if_neg h], ?_⟩
    rintro rfl
    rw [Dev.svcOut_deliver, if_neg (by tauto)]
  · exact ⟨rfl, fun _ => rfl⟩

/-- A reply looks at the port and changes the port alone. -/
theorem Dev.reply_eq (d : Dev) (p : Port) (status : Status) (flags : Byte) (body : ReplyBody) :
    d.reply p status flags body = { d with pif := (d.reply p status flags body).pif } := by
  unfold Dev.reply
  split
  · exact Dev.deliver_eq ..
  · rfl

/-- A reply depends on the ports alone. -/
theorem Dev.reply_congr {d e : Dev} (h : e.pif = d.pif) (p : Port) (status : Status) (flags : Byte)
    (body : ReplyBody) : (e.reply p status flags body).pif = (d.reply p status flags body).pif := by
  have hp : e.port p = d.port p := by unfold Dev.port; rw [h]
  unfold Dev.reply
  rw [hp]
  split
  · exact Dev.deliver_congr h ..
  · exact h

/-- The reply to a request that has just arrived. -/
theorem Dev.reply_takeFrame (d : Dev) (p : Port) (code tag : Byte) (b : List Byte) (status : Status) (flags : Byte)
    (body : ReplyBody) :
    ((d.takeFrame p code tag b).reply p status flags body).pif
      = d.answersAs p b code ⟨if status = .unknownRequest then 0 else code, tag, status, flags, body⟩ := by
  have hp : (d.takeFrame p code tag b).port p = ⟨.outstanding code tag, [], 0, (d.port p).heard p b⟩ := by
    rw [Dev.takeFrame_eq]; exact Dev.port_setPort_same d p _
  have ho : (d.takeFrame p code tag b).pif.svcOut = d.lineAfter p := by rw [Dev.takeFrame_eq]; rfl
  have hs : ∀ x, ((d.takeFrame p code tag b).setPort p x).pif = { (d.setPort p x).pif with svcOut := d.lineAfter p } := by
    intro x; rw [Dev.takeFrame_eq]
    show { ((d.setPort p _).setPort p x).pif with svcOut := d.lineAfter p } = _
    rw [Dev.setPort_setPort]
  have h0 : flags ||| 0 = flags := BitVec.or_zero
  unfold Dev.reply Dev.answersAs
  rw [hp]
  simp only [Nat.lt_irrefl, if_false, h0]
  generalize (if status = .unknownRequest then 0 else code) = c
  by_cases h : p = .svc ∧ d.pif.svcOut = none
  · rw [if_pos h]
    obtain ⟨rfl, h⟩ := h
    rw [Dev.deliver_idle (by rw [ho, Dev.lineAfter_eq_none, h]), hp]
    dsimp only
    rw [hs]
  · rw [if_neg h, Dev.deliver_kept (by rw [ho, ne_eq, ne_eq, Dev.lineAfter_eq_none]; tauto), hp]
    exact hs _

/-- The reply to the request of a port, built after other blocks have acted. -/
theorem Dev.reply_of_pif {d e : Dev} {p : Port} {code tag : Byte} {b : List Byte}
    (h : e.pif = (d.takeFrame p code tag b).pif) (status : Status) (flags : Byte) (body : ReplyBody)
    (hs : status ≠ .unknownRequest) :
    e.reply p status flags body = { e with pif := d.answers p b ⟨code, tag, status, flags, body⟩ } := by
  rw [Dev.reply_eq, Dev.reply_congr h, Dev.reply_takeFrame, if_neg hs]
  rfl

/-! ### Arrival -/

theorem Dev.arrive_overlap {d : Dev} {p : Port} (h : d.isOutstanding p = true) (r : Request) (tag : Byte)
    (b : List Byte) (serve : Dev → Dev) :
    d.arrive p r tag b serve = (d.hearFrame p (frameOverhead + b.length)).countOverlap p := by
  unfold Dev.arrive Dev.arriveFrame; rw [if_pos h]

theorem Dev.arrive_refused {d : Dev} {p : Port} {r : Request} {b : List Byte} {status : Status} {body : ReplyBody}
    (h : d.isOutstanding p = false) (hb : b.length ≤ Config.maxPayload) (hj : judge d p r b = some (status, body))
    (tag : Byte) (serve : Dev → Dev) :
    d.arrive p r tag b serve = (d.takeFrame p r.code tag b).reply p status 0 body := by
  unfold Dev.arrive Dev.arriveFrame
  rw [if_neg (by simp [h]), if_neg (by omega)]
  dsimp only
  rw [judge_takeFrame, hj]

theorem Dev.arrive_served {d : Dev} {p : Port} {r : Request} {b : List Byte}
    (h : d.isOutstanding p = false) (hb : b.length ≤ Config.maxPayload) (hj : judge d p r b = none)
    (tag : Byte) (serve : Dev → Dev) :
    d.arrive p r tag b serve = serve (d.takeFrame p r.code tag b) := by
  unfold Dev.arrive Dev.arriveFrame
  rw [if_neg (by simp [h]), if_neg (by omega)]
  dsimp only
  rw [judge_takeFrame, hj]

/-- A request that reaches its owner runs the owner's part on the part with the port waiting. -/
theorem State.act_reaches {s : State} {p : Port} {r : Request} {b : List Byte} (h : s.reaches p r b) (tag : Byte)
    (serve : Dev → Dev) :
    s.act (·.arrive p r tag b serve) = .next { s with dev := serve (s.dev.takeFrame p r.code tag b) } := by
  obtain ⟨⟨h1, h2, h3⟩, h4⟩ := h
  rw [State.act_of_powered h1, Dev.arrive_served h2 h3 h4]

end Sys2Proof.Machine
end

