-- ==== Sys2Proof/Laws/History.lean ====
section
/-! SUPPORT. What an entry offered to the history and the settling after a change can do, said once: `Dev.logsTo`,
`Dev.settlesTo` and `Dev.offers`, cited instead of unfolding the moves of HIU; and what a walk of the ring has met. -/

namespace Sys2Proof.Machine

/-! ### Settling -/

theorem Dev.settlesTo_rfl (d : Dev) : d.settlesTo d := rfl

theorem Dev.settlesTo_trans {a b c : Dev} (h : a.settlesTo b) (g : b.settlesTo c) : a.settlesTo c := by
  unfold Dev.settlesTo at *
  rw [g, h]

theorem Dev.drmWrite_settlesTo (d : Dev) : d.settlesTo d.drmWrite := by
  unfold Dev.drmWrite Dev.settlesTo Dev.setDrm Dev.place
  (repeat' split) <;> rfl

theorem Dev.hiuWrite_settlesTo (d : Dev) : d.settlesTo d.hiuWrite := by
  unfold Dev.hiuWrite Dev.settlesTo Dev.setHiu Dev.place
  (repeat' split) <;> rfl

theorem Dev.arcSettle_settlesTo (d : Dev) : d.settlesTo d.arcSettle := by
  unfold Dev.arcSettle Dev.settlesTo Dev.erasePhase
  (repeat' split) <;> rfl

theorem Dev.showInd_settlesTo (d : Dev) : d.settlesTo d.showInd := by
  unfold Dev.showInd Dev.settlesTo
  (repeat' split) <;> rfl

/-- Everything `settle` can do. -/
theorem Dev.settle_settlesTo (d : Dev) : d.settlesTo d.settle :=
  Dev.settlesTo_trans (Dev.settlesTo_trans (Dev.settlesTo_trans d.drmWrite_settlesTo (Dev.hiuWrite_settlesTo _))
    (Dev.arcSettle_settlesTo _)) (Dev.showInd_settlesTo _)

/-! ### Logging -/

theorem Dev.logsTo_rfl (d : Dev) : d.logsTo d := rfl

theorem Dev.logsTo_trans {a b c : Dev} (h : a.logsTo b) (g : b.logsTo c) : a.logsTo c := by
  unfold Dev.logsTo at *
  rw [g, h]

theorem Dev.logsTo_of_settlesTo {d e : Dev} (h : d.settlesTo e) : d.logsTo e := by
  unfold Dev.settlesTo at h
  unfold Dev.logsTo
  rw [h]

theorem Dev.settle_logsTo (d : Dev) : d.logsTo d.settle := Dev.logsTo_of_settlesTo d.settle_settlesTo

theorem Dev.setHiu_logsTo (d : Dev) (f : Hiu → Hiu) : d.logsTo (d.setHiu f) := rfl

theorem Dev.place_logsTo (d : Dev) (who : Requester) (j : Job) : d.logsTo (d.place who j) := rfl

theorem Dev.raise_logsTo (d : Dev) (c : NoticeCause) (n : Nat) : d.logsTo (d.raise c n) := rfl

theorem Dev.armFlush_logsTo (d : Dev) : d.logsTo d.armFlush := by
  unfold Dev.armFlush; split <;> rfl

theorem Dev.takeEntry_logsTo (d : Dev) (body : HBody) (severity : Nat) (source : Source) (code : Nat) :
    d.logsTo (d.takeEntry body severity source code) := rfl

theorem Dev.gapTest_logsTo (d : Dev) : d.logsTo d.gapTest := by
  unfold Dev.gapTest; split <;> rfl

theorem Dev.prepare_logsTo (d : Dev) (k : RingIdx) : d.logsTo (d.prepare k) := rfl

theorem Dev.prepTest_logsTo (d : Dev) : d.logsTo d.prepTest := by
  unfold Dev.prepTest; (repeat' split) <;> rfl

/-- The count of R122, zone by zone. -/
theorem Hiu.unpinnedZones_eq (h : Hiu) : h.unpinnedZones = ((List.finRange 16).filter fun k : RingIdx =>
    (h.ring[k]).state != .defective && (h.ring[k]).pins.isEmpty).length := by
  have hl : h.ring.toList = (List.finRange 16).map fun k : Fin 16 => h.ring[k] := by
    apply List.ext_getElem <;> simp
  unfold Hiu.unpinnedZones
  rw [hl, List.filter_map, List.length_map]; rfl

theorem Dev.haltTest_logsTo (d : Dev) : d.logsTo d.haltTest := by
  unfold Dev.haltTest
  dsimp only
  split <;> rfl

theorem Dev.activate_logsTo (d : Dev) (k : RingIdx) : d.logsTo (d.activate k) :=
  Dev.logsTo_trans (d.setHiu_logsTo _) (Dev.haltTest_logsTo _)

theorem Dev.ringAdvance_logsTo (d : Dev) (k : RingIdx) : d.logsTo (d.ringAdvance k) := by
  unfold Dev.ringAdvance
  dsimp only
  refine Dev.logsTo_trans ?_ (Dev.prepTest_logsTo _)
  (repeat' split) <;> first | rfl | exact Dev.logsTo_trans (d.setHiu_logsTo _) (Dev.activate_logsTo _ _)

theorem Dev.pageAdvance_logsTo (d : Dev) : d.logsTo d.pageAdvance := by
  unfold Dev.pageAdvance
  (repeat' split)
  · rfl
  · exact d.ringAdvance_logsTo _
  · rfl

theorem Dev.stageHead_logsTo (d : Dev) (e : HEntry) (rest : List HEntry) : d.logsTo (d.stageHead e rest) := by
  unfold Dev.stageHead
  dsimp only
  refine Dev.logsTo_trans ?_ (Dev.gapTest_logsTo _)
  split
  · exact Dev.logsTo_trans d.armFlush_logsTo rfl
  · rfl

theorem Dev.moveOnce_logsTo {d e : Dev} (h : d.moveOnce = some e) : d.logsTo e := by
  unfold Dev.moveOnce at h
  dsimp only at h
  (repeat' split at h) <;> first
    | contradiction
    | (obtain rfl := Option.some.inj h; exact d.stageHead_logsTo _ _)
    | (obtain rfl := Option.some.inj h; rfl)
    | (obtain rfl := Option.some.inj h; exact Dev.logsTo_trans (Dev.setHiu_logsTo _ _) (Dev.pageAdvance_logsTo _))

theorem Dev.moveLoop_logsTo (n : Nat) (d : Dev) : d.logsTo (d.moveLoop n) := by
  induction n generalizing d with
  | zero => rfl
  | succ n ih =>
    unfold Dev.moveLoop
    split
    · next h => exact Dev.logsTo_trans (Dev.moveOnce_logsTo h) (ih _)
    · rfl

theorem Dev.hiuMove_logsTo (d : Dev) : d.logsTo d.hiuMove := d.moveLoop_logsTo _

/-- Everything an offer can do, whether the entry is taken or lost. -/
theorem Dev.offerSeq_logsTo (d : Dev) (body : HBody) (severity : Nat) (source : Source) (code : Nat) :
    d.logsTo (d.offerSeq body severity source code).dev := by
  unfold Dev.offerSeq
  split
  · exact Dev.logsTo_trans (Dev.takeEntry_logsTo _ _ _ _ _) (Dev.hiuMove_logsTo _)
  · rfl

theorem Dev.event_logsTo (d : Dev) (code severity : Nat) (body : HBody) : d.logsTo (d.event code severity body) :=
  d.offerSeq_logsTo _ _ _ _

theorem Dev.markedEvent_logsTo (d : Dev) (code severity : Nat) (body : HBody) :
    d.logsTo (d.markedEvent code severity body).dev := by
  unfold Dev.markedEvent
  exact Dev.logsTo_trans (d.offerSeq_logsTo body severity .internal code) rfl

theorem Dev.awaitTest_logsTo (d : Dev) : d.logsTo d.awaitTest := by
  unfold Dev.awaitTest
  (repeat' split) <;> first
    | rfl
    | exact Dev.logsTo_trans (Dev.logsTo_trans (Dev.activate_logsTo _ _) (Dev.prepTest_logsTo _)) (Dev.hiuMove_logsTo _)

theorem Dev.resumeTest_logsTo (d : Dev) : d.logsTo d.resumeTest := by
  unfold Dev.resumeTest
  split
  · exact Dev.logsTo_trans (Dev.logsTo_trans (Dev.logsTo_trans (Dev.setHiu_logsTo _ _) (Dev.gapTest_logsTo _))
      (Dev.hiuMove_logsTo _)) (Dev.awaitTest_logsTo _)
  · rfl

theorem Dev.unpin_logsTo (d : Dev) (number : Nat) : d.logsTo (d.unpin number) := by
  unfold Dev.unpin
  exact Dev.logsTo_trans (Dev.logsTo_trans (Dev.logsTo_trans (Dev.setHiu_logsTo _ _) (Dev.awaitTest_logsTo _))
    (Dev.prepTest_logsTo _)) (Dev.resumeTest_logsTo _)

theorem Dev.pinWindow_logsTo (d : Dev) (number : Nat) (trigger : Option Nat) :
    d.logsTo (d.pinWindow number trigger).1 := by
  unfold Dev.pinWindow
  dsimp only
  split
  · rfl
  · exact Dev.logsTo_trans (b := { d with hiu := _ }) rfl (Dev.haltTest_logsTo _)

/-! ### The successor -/

/-- The first zone behind another in ring order that satisfies a test. -/
theorem ringAfter_find (n : RingIdx) (test : RingIdx → Bool) (k : RingIdx) :
    (ringAfter n).find? test = some k ↔
      test k = true ∧ ∀ j, test j = true → (k.val + 15 - n.val) % 16 ≤ (j.val + 15 - n.val) % 16 := by
  have order : ∀ n : RingIdx, (ringAfter n).Pairwise
      (fun j k => (j.val + 15 - n.val) % 16 < (k.val + 15 - n.val) % 16) := by decide
  have all : ∀ n j : RingIdx, j ∈ ringAfter n := by decide
  have cut : ∀ a b, ringAfter n = a ++ k :: b →
      (∀ x ∈ a, (x.val + 15 - n.val) % 16 < (k.val + 15 - n.val) % 16)
        ∧ ∀ x ∈ b, (k.val + 15 - n.val) % 16 < (x.val + 15 - n.val) % 16 := fun a b e => by
    have o := order n
    rw [e, List.pairwise_append] at o
    exact ⟨fun x hx => o.2.2 x hx k (List.mem_cons_self ..), (List.pairwise_cons.1 o.2.1).1⟩
  rw [List.find?_eq_some_iff_append]
  refine and_congr_right fun tk => ⟨?_, fun h => ?_⟩
  · rintro ⟨a, b, e, before⟩ j tj
    have hj := all n j
    rw [e, List.mem_append, List.mem_cons] at hj
    rcases hj with hj | rfl | hj
    · have := before j hj; simp [tj] at this
    · exact le_rfl
    · exact ((cut a b e).2 j hj).le
  · obtain ⟨a, b, e⟩ := List.append_of_mem (all n k)
    refine ⟨a, b, e, fun x hx => ?_⟩
    by_contra c
    exact absurd (h x (by simpa using c)) (by have := (cut a b e).1 x hx; omega)

/-- The successor is the first usable zone without pins behind the newest (R120). -/
theorem Hiu.successor_iff (h : Hiu) (k : RingIdx) : h.successor = some k ↔
    ((h.ring[k]).state ≠ .defective ∧ (h.ring[k]).pins = [])
      ∧ ∀ j : RingIdx, (h.ring[j]).state ≠ .defective ∧ (h.ring[j]).pins = [] →
        (k.val + 15 - h.newest.val) % 16 ≤ (j.val + 15 - h.newest.val) % 16 := by
  unfold Hiu.successor
  rw [ringAfter_find]
  simp

/-! ### Entries -/

theorem Dev.unflushed_prepTest (d : Dev) : d.prepTest.hiu.unflushed = d.hiu.unflushed := by
  unfold Dev.prepTest Dev.prepare; (repeat' split) <;> rfl

theorem Dev.unflushed_haltTest (d : Dev) : d.haltTest.hiu.unflushed = d.hiu.unflushed := by
  unfold Dev.haltTest; dsimp only; split <;> rfl

theorem Dev.unflushed_activate (d : Dev) (k : RingIdx) : (d.activate k).hiu.unflushed = d.hiu.unflushed :=
  Dev.unflushed_haltTest _

theorem Dev.unflushed_pageAdvance (d : Dev) : d.pageAdvance.hiu.unflushed = d.hiu.unflushed := by
  unfold Dev.pageAdvance
  (repeat' split)
  · rfl
  · unfold Dev.ringAdvance
    rw [Dev.unflushed_prepTest]
    (repeat' split) <;> first | rfl | exact Dev.unflushed_activate _ _
  · rfl

theorem Hiu.unflushed_markTo (h : Hiu) (n : Nat) : (h.markTo n).unflushed = h.unflushed := by
  unfold Hiu.markTo; split <;> rfl

/-- An entry that is taken joins the end. -/
theorem Dev.unflushed_takeEntry (d : Dev) (body : HBody) (severity : Nat) (source : Source) (code : Nat) :
    (d.takeEntry body severity source code).hiu.unflushed
      = d.hiu.unflushed ++ [⟨body, severity, source, code, d.hiu.nextSeq, d.tmb.tick⟩] := by
  unfold Dev.takeEntry Dev.setHiu
  dsimp only
  split
  · rw [Hiu.unflushed_markTo]; simp [Hiu.unflushed]
  · simp [Hiu.unflushed]

/-- A GAP entry joins the end. -/
theorem Dev.unflushed_gapTest (d : Dev) : ∃ l, d.gapTest.hiu.unflushed = d.hiu.unflushed ++ l := by
  unfold Dev.gapTest
  split
  · refine ⟨[⟨.gap, 3, .internal, d.hiu.lost, d.hiu.nextSeq, d.tmb.tick⟩], ?_⟩
    rw [← Dev.unflushed_takeEntry]
    rfl
  · exact ⟨[], by simp⟩

theorem Dev.unflushed_stageHead (d : Dev) (e : HEntry) (rest : List HEntry) (h : d.hiu.intake = e :: rest) :
    ∃ l, (d.stageHead e rest).hiu.unflushed = d.hiu.unflushed ++ l := by
  unfold Dev.stageHead
  obtain ⟨l, hl⟩ := Dev.unflushed_gapTest
    ((if d.hiu.staging.isEmpty then d.armFlush else d).setHiu fun h =>
      { h with intake := rest, staging := h.staging ++ [e] })
  refine ⟨l, ?_⟩
  dsimp only
  rw [hl]
  congr 1
  simp only [Hiu.unflushed, Dev.setHiu, h]
  split <;> simp

theorem Dev.unflushed_moveOnce {d e : Dev} (h : d.moveOnce = some e) :
    ∃ l, e.hiu.unflushed = d.hiu.unflushed ++ l := by
  unfold Dev.moveOnce at h
  dsimp only at h
  split at h
  · contradiction
  · next x rest hx =>
    (repeat' split at h) <;> first
      | contradiction
      | (obtain rfl := Option.some.inj h; exact d.unflushed_stageHead _ _ hx)
      | skip
    all_goals
      obtain rfl := Option.some.inj h
      refine ⟨[], ?_⟩
      try rw [Dev.unflushed_pageAdvance]
      rw [List.append_nil]
      exact Hiu.unflushed_markTo _ _

/-- Moves lose no entry and put new ones at the end alone. -/
theorem Dev.unflushed_moveLoop (n : Nat) (d : Dev) : ∃ l, (d.moveLoop n).hiu.unflushed = d.hiu.unflushed ++ l := by
  induction n generalizing d with
  | zero => exact ⟨[], by simp [Dev.moveLoop]⟩
  | succ n ih =>
    unfold Dev.moveLoop
    split
    · next h =>
      obtain ⟨l, hl⟩ := Dev.unflushed_moveOnce h
      obtain ⟨k, hk⟩ := ih _
      exact ⟨l ++ k, by rw [hk, hl, List.append_assoc]⟩
    · exact ⟨[], by simp⟩

theorem Dev.unflushed_hiuMove (d : Dev) : ∃ l, d.hiuMove.hiu.unflushed = d.hiu.unflushed ++ l :=
  d.unflushed_moveLoop _

/-- What an offer does to the entries not yet programmed: a taken one stands behind those before it. -/
theorem Dev.unflushed_offerSeq (d : Dev) (body : HBody) (severity : Nat) (source : Source) (code : Nat) :
    ∃ l, (d.offerSeq body severity source code).dev.hiu.unflushed = d.hiu.unflushed
      ++ (if d.hiu.canTake then [⟨body, severity, source, code, d.hiu.nextSeq, d.tmb.tick⟩] else []) ++ l := by
  unfold Dev.offerSeq
  split
  · obtain ⟨l, hl⟩ := Dev.unflushed_hiuMove (d.takeEntry body severity source code)
    refine ⟨l, ?_⟩
    rw [hl]
    rw [Dev.unflushed_takeEntry]
  · exact ⟨[], by simp [Dev.raise, Dev.setHiu, Hiu.unflushed]⟩

/-! ### The window and a full reply -/

/-- What `Hiu.holdsSeq` says. -/
theorem Hiu.holdsSeq_iff (h : Hiu) (n : Nat) : h.holdsSeq n = true ↔
    (∃ z ∈ h.ring.toList, ∃ r, z.range = some r ∧ r.1 ≤ n ∧ n ≤ r.2) ∨ ∃ e ∈ h.unflushed, e.seq = n := by
  unfold Hiu.holdsSeq Hiu.unflushed
  rw [Bool.or_eq_true, List.any_eq_true, List.any_eq_true]
  simp only [Option.any_eq_true, Bool.and_eq_true, decide_eq_true_eq, beq_iff_eq]

/-- The ring order read backwards begins at its zone and goes back through the ring. -/
theorem ringAfter_reverse_pairwise : ∀ n : RingIdx, (ringAfter n).reverse.Pairwise
    (fun j k => (n.val + 16 - j.val) % 16 < (n.val + 16 - k.val) % 16) := by
  decide

/-- A window holds no more entries than it has numbers. -/
theorem Hiu.windowSize_le (h : Hiu) (first last : Nat) : h.windowSize first last ≤ last + 1 - first :=
  (List.length_filter_le _ _).trans (by simp)

/-- What a full reply is. -/
theorem HistoryRead.isFull_iff (h : HistoryRead) : h.isFull = true ↔ 512 < h.entries.length + 16 := by
  simp [HistoryRead.isFull, Config.maxData]

/-! ### What a walk of the ring has met -/

/-- What the reply holds after an entry has joined it. -/
@[simp] theorem HistoryRead.add_reply (h : HistoryRead) (seq : Nat) (bs : List Byte) :
    (h.add seq bs).entries = h.entries ++ bs ∧ (h.add seq bs).omitted = h.omitted ∧
      (h.add seq bs).firstSeq = h.firstSeq.or (some seq) ∧ (h.add seq bs).lastSeq = some seq ∧
      (h.add seq bs).wanted = seq + 1 ∧ (h.add seq bs).start = h.start ∧ (h.add seq bs).skipped = h.skipped := by
  have l : (h.add seq bs).lastSeq = some seq := by simp [HistoryRead.add, HistoryRead.meets, HistoryRead.lastSeq]
  refine ⟨?_, ?_, ?_, l, ?_, rfl, rfl⟩
  · simp [HistoryRead.add, HistoryRead.meets, HistoryRead.entries]
  · simp [HistoryRead.add, HistoryRead.meets, HistoryRead.omitted]
  · simp [HistoryRead.add, HistoryRead.meets, HistoryRead.firstSeq, List.head?_append]
  · unfold HistoryRead.wanted; rw [l]

/-- What the reply holds after an entry has been omitted. -/
@[simp] theorem HistoryRead.omit_reply (h : HistoryRead) :
    h.omit.entries = h.entries ∧ h.omit.omitted = h.omitted + 1 ∧ h.omit.firstSeq = h.firstSeq ∧
      h.omit.lastSeq = h.lastSeq ∧ h.omit.wanted = h.wanted ∧ h.omit.start = h.start ∧
      h.omit.skipped = h.skipped := by
  have l : h.omit.lastSeq = h.lastSeq := by simp [HistoryRead.omit, HistoryRead.meets, HistoryRead.lastSeq]
  refine ⟨?_, ?_, ?_, l, ?_, rfl, rfl⟩
  · simp [HistoryRead.omit, HistoryRead.meets, HistoryRead.entries]
  · simp [HistoryRead.omit, HistoryRead.meets, HistoryRead.omitted]
  · simp [HistoryRead.omit, HistoryRead.meets, HistoryRead.firstSeq]
  · unfold HistoryRead.wanted; rw [l]; rfl

/-- When a zone still stores the entries that began with a number. -/
theorem Hiu.stillStored_iff (h : Hiu) (k : RingIdx) (first : Nat) (r : Nat × Nat) :
    h.stillStored k first = some r ↔ (h.ring[k]).range = some r ∧ r.1 = first := by
  simp [Hiu.stillStored, Option.filter_eq_some_iff]

/-- When what a walk has met is still stored. -/
theorem Hiu.keeps_iff (h : Hiu) (x : Found) :
    h.keeps x = true ↔ ∃ last, (h.ring[x.zone]).range = some (x.zoneFirst, last) := by
  simp only [Hiu.keeps, Option.isSome_iff_exists, h.stillStored_iff]
  constructor
  · rintro ⟨⟨a, b⟩, e, rfl⟩; exact ⟨b, e⟩
  · rintro ⟨b, e⟩; exact ⟨_, e, rfl⟩

/-- A walk whose zones all store their entries stays as it is. -/
theorem Hiu.leaves_self (h : Hiu) (r : HistoryRead) (all : ∀ x ∈ r.found, h.keeps x = true) : h.leaves r = r := by
  have f : r.found.filter h.keeps = r.found := List.filter_eq_self.2 all
  have a : r.found.any (!h.keeps ·) = false := by simpa using all
  unfold Hiu.leaves
  rw [f, a, Bool.or_false]

end Sys2Proof.Machine
end

