-- ==== Sys2Proof/Laws/Completions.lean ====
section
/-! SUPPORT. The ends of array operations: what `State.programDone` and `State.eraseDone` answer, and what the
operations of SST, ARC, CME and DRM that they run leave unchanged, and the request that the arbiter picks of a list. -/

namespace Sys2Proof.Machine

/-! ### Ends of operations -/

/-- The end of a PROGRAM of its requester. -/
theorem State.programDone_eq {s : State} {who : Requester} {p : PageAddr} {a : Nat} {data : List Byte} {b : Nat}
    {spare : List Byte} (hp : s.powered = true) (hop : s.dev.arc.op = some ⟨who, .program p a data b spare⟩)
    (o : ProgramOutcome) (f : Bool → Dev → Dev) :
    let j := Job.program p a data b spare
    let ok := o == .ok && j.verifies s.flash
    s.programDone who o f = .next { s with
      flash := if o = .ok then j.programOn s.flash else j.failOn s.flash s.freeCount
      freeCount := if o = .ok then s.freeCount else s.freeCount + 1
      dev := (f ok { s.dev with arc := { s.dev.arc with op := none } }).settle } := by
  unfold State.programDone
  rw [hop]
  simp only [hp, and_self, if_true]

/-- The outcome of a PROGRAM as its requester hears it. -/
theorem State.programDone_good (o : ProgramOutcome) (v : Bool) :
    (o == .ok && v) = true ↔ o = .ok ∧ v = true := by
  cases o <;> simp

/-- The end of an ERASE of its requester. -/
theorem State.eraseDone_eq {s : State} {who : Requester} {phase : ErasePhase} {z : Zone} (hp : s.powered = true)
    (he : s.dev.arc.erase = some ⟨phase, z, who⟩) (hs : phase ≠ .suspended) (o : EraseOutcome)
    (f : Bool → Memory → Zone → Dev → Dev) :
    let ok := o == .ok
    let flash := if ok then s.flash.eraseZone z else s.flash.eraseZoneFail s.freeCount z
    s.eraseDone who o f = .next { s with
      flash
      freeCount := if ok then s.freeCount else s.freeCount + 1
      dev := (f ok flash z { s.dev with arc := { s.dev.arc with erase := none } }).settle } := by
  unfold State.eraseDone
  rw [he]
  simp only [hp, ne_eq, hs, not_false_eq_true, and_self, if_true]

/-! ### The arbiter's pick -/

theorem lowest_none : ∀ l : List ArrReq, lowest l = none ↔ l = []
  | [] => by simp [lowest]
  | q :: l => by unfold lowest; cases lowest l <;> simp; split <;> simp

/-- The pick of a list stands before every other request of its order, and no request has a lower one. -/
theorem lowest_split : ∀ (l : List ArrReq) (r : ArrReq), lowest l = some r →
    ∃ a b, l = a ++ r :: b ∧ (∀ x ∈ a, r.who.order < x.who.order) ∧ ∀ x ∈ b, r.who.order ≤ x.who.order
  | [], r, h => by simp [lowest] at h
  | q :: l, r, h => by
    unfold lowest at h
    cases hl : lowest l with
    | none => rw [hl] at h; cases h; exact ⟨[], [], by simp [(lowest_none l).1 hl], by simp, by simp⟩
    | some x =>
      rw [hl] at h
      obtain ⟨a, b, rfl, ha, hb⟩ := lowest_split l x hl
      dsimp only at h
      split at h <;> rename_i lt <;> cases h
      · exact ⟨q :: a, b, rfl, by simpa using ⟨lt, ha⟩, hb⟩
      · refine ⟨[], _, rfl, by simp, fun y hy => ?_⟩
        simp only [List.mem_append, List.mem_cons] at hy
        rcases hy with hy | rfl | hy
        · have := ha y hy; omega
        · omega
        · have := hb y hy; omega

/-! ### Settings and the STORE_FAILED condition -/

theorem foldl_keeps {α β γ : Type} (g : β → γ) (f : β → α → β) (h : ∀ b a, g (f b a) = g b) (l : List α) (b : β) :
    g (l.foldl f b) = g b := by
  induction l generalizing b with
  | nil => rfl
  | cons a l ih => rw [List.foldl_cons, ih, h]

@[simp] theorem Dev.answerSaves_frame (l : List Save) (d : Dev) :
    (l.foldl (fun d s => d.replyTo s.port .storeFailed 0#8 .empty) d).rqd = d.rqd ∧
      (l.foldl (fun d s => d.replyTo s.port .storeFailed 0#8 .empty) d).tru = d.tru ∧
      (l.foldl (fun d s => d.replyTo s.port .storeFailed 0#8 .empty) d).ict = d.ict ∧
      (l.foldl (fun d s => d.replyTo s.port .storeFailed 0#8 .empty) d).cpm = d.cpm ∧
      (l.foldl (fun d s => d.replyTo s.port .storeFailed 0#8 .empty) d).stb = d.stb ∧
      (l.foldl (fun d s => d.replyTo s.port .storeFailed 0#8 .empty) d).cme = d.cme ∧
      (l.foldl (fun d s => d.replyTo s.port .storeFailed 0#8 .empty) d).plm = d.plm ∧
      (l.foldl (fun d s => d.replyTo s.port .storeFailed 0#8 .empty) d).drm = d.drm ∧
      (l.foldl (fun d s => d.replyTo s.port .storeFailed 0#8 .empty) d).hiu = d.hiu ∧
      (l.foldl (fun d s => d.replyTo s.port .storeFailed 0#8 .empty) d).hum = d.hum ∧
      (l.foldl (fun d s => d.replyTo s.port .storeFailed 0#8 .empty) d).tmb = d.tmb ∧
      (l.foldl (fun d s => d.replyTo s.port .storeFailed 0#8 .empty) d).ntu = d.ntu ∧
      (l.foldl (fun d s => d.replyTo s.port .storeFailed 0#8 .empty) d).rtu = d.rtu ∧
      (l.foldl (fun d s => d.replyTo s.port .storeFailed 0#8 .empty) d).sst = d.sst ∧
      (l.foldl (fun d s => d.replyTo s.port .storeFailed 0#8 .empty) d).rcs = d.rcs ∧
      (l.foldl (fun d s => d.replyTo s.port .storeFailed 0#8 .empty) d).arc = d.arc := by
  induction l generalizing d with
  | nil => simp
  | cons s l ih =>
    have h := ih (d.replyTo s.port .storeFailed 0#8 .empty)
    simp only [List.foldl_cons]
    simp_all

/-- Saves that are answered leave a port that waits for none of them, or whose request is answered, as it is. -/
theorem Dev.answerSaves_elsewhere (q : Port) (l : List Save) (d : Dev)
    (h : d.isOutstanding q = false ∨ ∀ y ∈ l, y.port ≠ some q) :
    let e := l.foldl (fun d s => d.replyTo s.port .storeFailed 0 .empty) d
    e.port q = d.port q ∧ (q = .svc → e.pif.svcOut = d.pif.svcOut) := by
  induction l generalizing d with
  | nil => exact ⟨rfl, fun _ => rfl⟩
  | cons y l ih =>
    have hy : (d.replyTo y.port .storeFailed 0 .empty).port q = d.port q
        ∧ (q = .svc → (d.replyTo y.port .storeFailed 0 .empty).pif.svcOut = d.pif.svcOut) := by
      cases hp : y.port with
      | none => exact ⟨rfl, fun _ => rfl⟩
      | some p =>
        by_cases e : p = q
        · subst e
          rcases h with h | h
          · unfold Dev.replyTo
            dsimp only
            rw [Dev.reply_of_not_outstanding h]
            exact ⟨rfl, fun _ => rfl⟩
          · exact absurd hp (h y (List.mem_cons_self ..))
        · exact d.reply_elsewhere e ..
    have ho : (d.replyTo y.port .storeFailed 0 .empty).isOutstanding q = d.isOutstanding q := by
      unfold Dev.isOutstanding; rw [hy.1]
    have := ih (d.replyTo y.port .storeFailed 0 .empty)
      (h.elim (fun h => .inl (ho.trans h)) fun h => .inr fun z hz => h z (List.mem_cons_of_mem _ hz))
    exact ⟨this.1.trans hy.1, fun e => (this.2 e).trans (hy.2 e)⟩

/-- A save that is answered at a port that waits for it leaves its reply there. -/
theorem Dev.answerSaves_answers {q : Port} {code tag : Byte} (l : List Save) (d : Dev)
    (ho : (d.port q).exchange = .outstanding code tag) (hl : ∃ y ∈ l, y.port = some q) :
    let e := l.foldl (fun d s => d.replyTo s.port .storeFailed 0 .empty) d
    let r := d.reply q .storeFailed 0 .empty
    e.port q = r.port q ∧ (q = .svc → e.pif.svcOut = r.pif.svcOut) := by
  induction l generalizing d with
  | nil => simp at hl
  | cons y l ih =>
    by_cases hy : y.port = some q
    · have hr : (d.reply q .storeFailed 0 .empty).isOutstanding q = false := by
        unfold Dev.isOutstanding
        rw [Dev.reply_of_outstanding ho (by simp), Dev.port_deliver, if_pos rfl]
      have := Dev.answerSaves_elsewhere q l (d.reply q .storeFailed 0 .empty) (.inl hr)
      simp only [List.foldl_cons, hy]
      exact this
    · have hn : (d.replyTo y.port .storeFailed 0 .empty).port q = d.port q
          ∧ (q = .svc → (d.replyTo y.port .storeFailed 0 .empty).pif.svcOut = d.pif.svcOut) := by
        cases hp : y.port with
        | none => exact ⟨rfl, fun _ => rfl⟩
        | some p => exact d.reply_elsewhere (fun e => hy (by rw [hp, e])) ..
      obtain ⟨z, hz, hzq⟩ := hl
      have hz' : z ∈ l := by
        rcases List.mem_cons.1 hz with rfl | h
        · exact absurd hzq hy
        · exact h
      have := ih (d.replyTo y.port .storeFailed 0 .empty) (by rw [hn.1, ho]) ⟨z, hz', hzq⟩
      refine ⟨this.1.trans ?_, fun e => (this.2 e).trans ?_⟩
      · rw [Dev.reply_of_outstanding ho (by simp), Dev.reply_of_outstanding (by rw [hn.1, ho]) (by simp),
          Dev.port_deliver, Dev.port_deliver, if_pos rfl, if_pos rfl, hn.1]
        by_cases hq : q = .svc
        · rw [hn.2 hq]
        · simp [hq]
      · rw [Dev.reply_of_outstanding ho (by simp), Dev.reply_of_outstanding (by rw [hn.1, ho]) (by simp),
          Dev.svcOut_deliver, Dev.svcOut_deliver, hn.1, hn.2 e]

@[simp] theorem Dev.dropSaves_frame (d : Dev) :
    (d.dropSaves).rqd = d.rqd ∧ (d.dropSaves).tru = d.tru ∧ (d.dropSaves).ict = d.ict ∧ (d.dropSaves).cpm = d.cpm ∧
      (d.dropSaves).stb = d.stb ∧ (d.dropSaves).cme = d.cme ∧ (d.dropSaves).plm = d.plm ∧
      (d.dropSaves).drm = d.drm ∧ (d.dropSaves).hiu = d.hiu ∧ (d.dropSaves).hum = d.hum ∧
      (d.dropSaves).tmb = d.tmb ∧ (d.dropSaves).ntu = d.ntu ∧ (d.dropSaves).rtu = d.rtu ∧
      (d.dropSaves).rcs = d.rcs ∧ (d.dropSaves).arc = d.arc := by
  unfold Dev.dropSaves; simp

@[simp] theorem Dev.sstServe_frame (d : Dev) :
    (d.sstServe).rqd = d.rqd ∧ (d.sstServe).tru = d.tru ∧ (d.sstServe).ict = d.ict ∧ (d.sstServe).cpm = d.cpm ∧
      (d.sstServe).stb = d.stb ∧ (d.sstServe).cme = d.cme ∧ (d.sstServe).plm = d.plm ∧ (d.sstServe).drm = d.drm ∧
      (d.sstServe).hiu = d.hiu ∧ (d.sstServe).hum = d.hum ∧ (d.sstServe).tmb = d.tmb ∧ (d.sstServe).ntu = d.ntu ∧
      (d.sstServe).rtu = d.rtu ∧ (d.sstServe).rcs = d.rcs ∧ (d.sstServe).arc.op = d.arc.op ∧
      (d.sstServe).arc.erase = d.arc.erase ∧ (d.sstServe).arc.runTimer = d.arc.runTimer ∧
      (d.sstServe).arc.defects = d.arc.defects ∧ (d.sstServe).arc.storeFailed = d.arc.storeFailed := by
  unfold Dev.sstServe; (repeat' split) <;> simp

@[simp] theorem Dev.saveAnswered_frame (d : Dev) (o : SaveOutcome) :
    (d.saveAnswered o).rqd = d.rqd ∧ (d.saveAnswered o).tru = d.tru ∧ (d.saveAnswered o).ict = d.ict ∧
      (d.saveAnswered o).cpm = d.cpm ∧ (d.saveAnswered o).stb = d.stb ∧ (d.saveAnswered o).cme = d.cme ∧
      (d.saveAnswered o).plm = d.plm ∧ (d.saveAnswered o).drm = d.drm ∧ (d.saveAnswered o).hiu = d.hiu ∧
      (d.saveAnswered o).hum = d.hum ∧ (d.saveAnswered o).tmb = d.tmb ∧ (d.saveAnswered o).ntu = d.ntu ∧
      (d.saveAnswered o).rtu = d.rtu ∧ (d.saveAnswered o).rcs = d.rcs ∧ (d.saveAnswered o).arc.op = d.arc.op ∧
      (d.saveAnswered o).arc.erase = d.arc.erase ∧ (d.saveAnswered o).arc.runTimer = d.arc.runTimer ∧
      (d.saveAnswered o).arc.defects = d.arc.defects ∧ (d.saveAnswered o).arc.storeFailed = d.arc.storeFailed := by
  unfold Dev.saveAnswered; (repeat' split) <;> simp

@[simp] theorem Dev.saveDone_frame (d : Dev) (ok : Bool) :
    (d.saveDone ok).rqd = d.rqd ∧ (d.saveDone ok).tru = d.tru ∧ (d.saveDone ok).ict = d.ict ∧
      (d.saveDone ok).cpm = d.cpm ∧ (d.saveDone ok).stb = d.stb ∧ (d.saveDone ok).cme = d.cme ∧
      (d.saveDone ok).plm = d.plm ∧ (d.saveDone ok).drm = d.drm ∧ (d.saveDone ok).hiu = d.hiu ∧
      (d.saveDone ok).hum = d.hum ∧ (d.saveDone ok).tmb = d.tmb ∧ (d.saveDone ok).ntu = d.ntu ∧
      (d.saveDone ok).rtu = d.rtu ∧ (d.saveDone ok).rcs = d.rcs ∧ (d.saveDone ok).arc.op = d.arc.op ∧
      (d.saveDone ok).arc.erase = d.arc.erase ∧ (d.saveDone ok).arc.runTimer = d.arc.runTimer ∧
      (d.saveDone ok).arc.defects = d.arc.defects ∧ (d.saveDone ok).arc.storeFailed = d.arc.storeFailed := by
  unfold Dev.saveDone; dsimp only; (repeat' split) <;> simp

@[simp] theorem Dev.enterStoreFailed_frame (d : Dev) (n : Nat) :
    (d.enterStoreFailed n).rqd = d.rqd ∧ (d.enterStoreFailed n).tru = d.tru ∧ (d.enterStoreFailed n).ict = d.ict ∧
      (d.enterStoreFailed n).cpm = d.cpm ∧ (d.enterStoreFailed n).stb = d.stb ∧ (d.enterStoreFailed n).cme = d.cme ∧
      (d.enterStoreFailed n).plm = d.plm ∧ (d.enterStoreFailed n).drm = d.drm ∧ (d.enterStoreFailed n).hiu = d.hiu ∧
      (d.enterStoreFailed n).hum = d.hum ∧ (d.enterStoreFailed n).tmb = d.tmb ∧ (d.enterStoreFailed n).rtu = d.rtu ∧
      (d.enterStoreFailed n).rcs = d.rcs ∧ (d.enterStoreFailed n).arc.op = d.arc.op ∧
      (d.enterStoreFailed n).arc.erase = d.arc.erase ∧ (d.enterStoreFailed n).arc.runTimer = d.arc.runTimer ∧
      (d.enterStoreFailed n).arc.defects = d.arc.defects := by
  unfold Dev.enterStoreFailed; dsimp only; (repeat' split) <;> simp

/-- The walk of a page stays in its zone and on its page. -/
theorem walkPage_place (limit fuel : Nat) (h : HistoryRead) (bs : List Byte) :
    (walkPage limit fuel h bs).read.zone = h.zone ∧ (walkPage limit fuel h bs).read.page = h.page := by
  induction fuel generalizing h bs with
  | zero => exact ⟨rfl, rfl⟩
  | succ n ih =>
    unfold walkPage
    dsimp only
    (repeat' split) <;> first | exact ⟨rfl, rfl⟩ | exact ih _ _

@[simp] theorem Dev.placeHistory_frame (d : Dev) (p : Port) (c : Cursor) (h : HistoryRead) :
    (d.placeHistory p c h).pif = d.pif ∧ (d.placeHistory p c h).rqd = d.rqd ∧ (d.placeHistory p c h).tru = d.tru ∧
      (d.placeHistory p c h).ict = d.ict ∧ (d.placeHistory p c h).cpm = d.cpm ∧ (d.placeHistory p c h).stb = d.stb ∧
      (d.placeHistory p c h).cme = d.cme ∧ (d.placeHistory p c h).plm = d.plm ∧ (d.placeHistory p c h).drm = d.drm ∧
      (d.placeHistory p c h).hiu = d.hiu ∧ (d.placeHistory p c h).hum = d.hum ∧ (d.placeHistory p c h).tmb = d.tmb ∧
      (d.placeHistory p c h).ntu = d.ntu ∧ (d.placeHistory p c h).sst = d.sst ∧ (d.placeHistory p c h).rcs = d.rcs ∧
      (d.placeHistory p c h).arc.op = d.arc.op ∧ (d.placeHistory p c h).arc.erase = d.arc.erase ∧
      (d.placeHistory p c h).arc.runTimer = d.arc.runTimer ∧ (d.placeHistory p c h).arc.defects = d.arc.defects ∧
      (d.placeHistory p c h).arc.storeFailed = d.arc.storeFailed := by
  unfold Dev.placeHistory; simp

@[simp] theorem Dev.historyReply_frame (d : Dev) (p : Port) (h : HistoryRead) (full : Bool) :
    (d.historyReply p h full).rqd = d.rqd ∧ (d.historyReply p h full).tru = d.tru ∧
      (d.historyReply p h full).ict = d.ict ∧ (d.historyReply p h full).cpm = d.cpm ∧
      (d.historyReply p h full).stb = d.stb ∧ (d.historyReply p h full).cme = d.cme ∧
      (d.historyReply p h full).plm = d.plm ∧ (d.historyReply p h full).drm = d.drm ∧
      (d.historyReply p h full).hiu = d.hiu ∧ (d.historyReply p h full).hum = d.hum ∧
      (d.historyReply p h full).tmb = d.tmb ∧ (d.historyReply p h full).ntu = d.ntu ∧
      (d.historyReply p h full).sst = d.sst ∧ (d.historyReply p h full).rcs = d.rcs ∧
      (d.historyReply p h full).arc = d.arc := by
  unfold Dev.historyReply; simp

@[simp] theorem Dev.historyZone_frame (d : Dev) (m : Memory) (p : Port) (c : Cursor) (h : HistoryRead)
    (n : Nat) :
    (d.historyZone m p c h n).rqd = d.rqd ∧ (d.historyZone m p c h n).tru = d.tru ∧
      (d.historyZone m p c h n).ict = d.ict ∧ (d.historyZone m p c h n).cpm = d.cpm ∧
      (d.historyZone m p c h n).stb = d.stb ∧ (d.historyZone m p c h n).cme = d.cme ∧
      (d.historyZone m p c h n).plm = d.plm ∧ (d.historyZone m p c h n).drm = d.drm ∧
      (d.historyZone m p c h n).hiu = d.hiu ∧ (d.historyZone m p c h n).hum = d.hum ∧
      (d.historyZone m p c h n).tmb = d.tmb ∧ (d.historyZone m p c h n).ntu = d.ntu ∧
      (d.historyZone m p c h n).sst = d.sst ∧ (d.historyZone m p c h n).rcs = d.rcs ∧
      (d.historyZone m p c h n).arc.op = d.arc.op ∧ (d.historyZone m p c h n).arc.erase = d.arc.erase ∧
      (d.historyZone m p c h n).arc.runTimer = d.arc.runTimer ∧ (d.historyZone m p c h n).arc.defects = d.arc.defects ∧
      (d.historyZone m p c h n).arc.storeFailed = d.arc.storeFailed := by
  unfold Dev.historyZone; (repeat' split) <;> simp

@[simp] theorem Dev.historyNext_frame (d : Dev) (m : Memory) (p : Port) (c : Cursor) (h : HistoryRead)
    (n : Nat) :
    (d.historyNext m p c h n).rqd = d.rqd ∧ (d.historyNext m p c h n).tru = d.tru ∧
      (d.historyNext m p c h n).ict = d.ict ∧ (d.historyNext m p c h n).cpm = d.cpm ∧
      (d.historyNext m p c h n).stb = d.stb ∧ (d.historyNext m p c h n).cme = d.cme ∧
      (d.historyNext m p c h n).plm = d.plm ∧ (d.historyNext m p c h n).drm = d.drm ∧
      (d.historyNext m p c h n).hiu = d.hiu ∧ (d.historyNext m p c h n).hum = d.hum ∧
      (d.historyNext m p c h n).tmb = d.tmb ∧ (d.historyNext m p c h n).ntu = d.ntu ∧
      (d.historyNext m p c h n).sst = d.sst ∧ (d.historyNext m p c h n).rcs = d.rcs ∧
      (d.historyNext m p c h n).arc.op = d.arc.op ∧ (d.historyNext m p c h n).arc.erase = d.arc.erase ∧
      (d.historyNext m p c h n).arc.runTimer = d.arc.runTimer ∧ (d.historyNext m p c h n).arc.defects = d.arc.defects ∧
      (d.historyNext m p c h n).arc.storeFailed = d.arc.storeFailed := by
  unfold Dev.historyNext; (repeat' split) <;> simp

@[simp] theorem Dev.historyLoss_frame (d : Dev) (m : Memory) (p : Port) (c : Cursor) (h : HistoryRead) :
    (d.historyLoss m p c h).rqd = d.rqd ∧ (d.historyLoss m p c h).tru = d.tru ∧
      (d.historyLoss m p c h).ict = d.ict ∧ (d.historyLoss m p c h).cpm = d.cpm ∧
      (d.historyLoss m p c h).stb = d.stb ∧ (d.historyLoss m p c h).cme = d.cme ∧
      (d.historyLoss m p c h).plm = d.plm ∧ (d.historyLoss m p c h).drm = d.drm ∧
      (d.historyLoss m p c h).hiu = d.hiu ∧ (d.historyLoss m p c h).hum = d.hum ∧
      (d.historyLoss m p c h).tmb = d.tmb ∧ (d.historyLoss m p c h).ntu = d.ntu ∧
      (d.historyLoss m p c h).sst = d.sst ∧ (d.historyLoss m p c h).rcs = d.rcs ∧
      (d.historyLoss m p c h).arc.op = d.arc.op ∧ (d.historyLoss m p c h).arc.erase = d.arc.erase ∧
      (d.historyLoss m p c h).arc.runTimer = d.arc.runTimer ∧ (d.historyLoss m p c h).arc.defects = d.arc.defects ∧
      (d.historyLoss m p c h).arc.storeFailed = d.arc.storeFailed := by
  unfold Dev.historyLoss; simp

@[simp] theorem Dev.historyDone_frame (d : Dev) (m : Memory) (p : Port) (c : Cursor) (h : HistoryRead) :
    (d.historyDone m p c h).rqd = d.rqd ∧ (d.historyDone m p c h).tru = d.tru ∧
      (d.historyDone m p c h).ict = d.ict ∧ (d.historyDone m p c h).cpm = d.cpm ∧
      (d.historyDone m p c h).stb = d.stb ∧ (d.historyDone m p c h).cme = d.cme ∧
      (d.historyDone m p c h).plm = d.plm ∧ (d.historyDone m p c h).drm = d.drm ∧
      (d.historyDone m p c h).hiu = d.hiu ∧ (d.historyDone m p c h).hum = d.hum ∧
      (d.historyDone m p c h).tmb = d.tmb ∧ (d.historyDone m p c h).ntu = d.ntu ∧
      (d.historyDone m p c h).sst = d.sst ∧ (d.historyDone m p c h).rcs = d.rcs ∧
      (d.historyDone m p c h).arc.op = d.arc.op ∧ (d.historyDone m p c h).arc.erase = d.arc.erase ∧
      (d.historyDone m p c h).arc.runTimer = d.arc.runTimer ∧ (d.historyDone m p c h).arc.defects = d.arc.defects ∧
      (d.historyDone m p c h).arc.storeFailed = d.arc.storeFailed := by
  unfold Dev.historyDone; dsimp only; (repeat' split) <;> simp

@[simp] theorem Dev.defectiveRead_frame (d : Dev) (m : Memory) (z : Zone) (p : Port) :
    (d.defectiveRead m z p).rqd = d.rqd ∧ (d.defectiveRead m z p).tru = d.tru ∧
      (d.defectiveRead m z p).ict = d.ict ∧ (d.defectiveRead m z p).cpm = d.cpm ∧
      (d.defectiveRead m z p).stb = d.stb ∧ (d.defectiveRead m z p).cme = d.cme ∧
      (d.defectiveRead m z p).plm = d.plm ∧ (d.defectiveRead m z p).drm = d.drm ∧
      (d.defectiveRead m z p).hiu = d.hiu ∧ (d.defectiveRead m z p).hum = d.hum ∧
      (d.defectiveRead m z p).tmb = d.tmb ∧ (d.defectiveRead m z p).ntu = d.ntu ∧
      (d.defectiveRead m z p).sst = d.sst ∧ (d.defectiveRead m z p).rcs = d.rcs ∧
      (d.defectiveRead m z p).arc.op = d.arc.op ∧ (d.defectiveRead m z p).arc.erase = d.arc.erase ∧
      (d.defectiveRead m z p).arc.runTimer = d.arc.runTimer ∧ (d.defectiveRead m z p).arc.defects = d.arc.defects ∧
      (d.defectiveRead m z p).arc.storeFailed = d.arc.storeFailed := by
  unfold Dev.defectiveRead; (repeat' split) <;> simp

@[simp] theorem Dev.defectiveReads_frame (l : List Port) (m : Memory) (z : Zone) (d : Dev) :
    (l.foldl (fun d p => d.defectiveRead m z p) d).rqd = d.rqd ∧
      (l.foldl (fun d p => d.defectiveRead m z p) d).tru = d.tru ∧
      (l.foldl (fun d p => d.defectiveRead m z p) d).ict = d.ict ∧
      (l.foldl (fun d p => d.defectiveRead m z p) d).cpm = d.cpm ∧
      (l.foldl (fun d p => d.defectiveRead m z p) d).stb = d.stb ∧
      (l.foldl (fun d p => d.defectiveRead m z p) d).cme = d.cme ∧
      (l.foldl (fun d p => d.defectiveRead m z p) d).plm = d.plm ∧
      (l.foldl (fun d p => d.defectiveRead m z p) d).drm = d.drm ∧
      (l.foldl (fun d p => d.defectiveRead m z p) d).hiu = d.hiu ∧
      (l.foldl (fun d p => d.defectiveRead m z p) d).hum = d.hum ∧
      (l.foldl (fun d p => d.defectiveRead m z p) d).tmb = d.tmb ∧
      (l.foldl (fun d p => d.defectiveRead m z p) d).ntu = d.ntu ∧
      (l.foldl (fun d p => d.defectiveRead m z p) d).sst = d.sst ∧
      (l.foldl (fun d p => d.defectiveRead m z p) d).rcs = d.rcs ∧
      (l.foldl (fun d p => d.defectiveRead m z p) d).arc.op = d.arc.op ∧
      (l.foldl (fun d p => d.defectiveRead m z p) d).arc.erase = d.arc.erase ∧
      (l.foldl (fun d p => d.defectiveRead m z p) d).arc.runTimer = d.arc.runTimer ∧
      (l.foldl (fun d p => d.defectiveRead m z p) d).arc.defects = d.arc.defects ∧
      (l.foldl (fun d p => d.defectiveRead m z p) d).arc.storeFailed = d.arc.storeFailed := by
  induction l generalizing d with
  | nil => simp
  | cons p l ih =>
    have h := ih (d.defectiveRead m z p)
    simp only [List.foldl_cons]
    simp_all

theorem Dev.maintEntry_zoneDefect (d : Dev) (z : Zone) :
    (d.maintEntry (.zoneDefect z)).plm = d.plm ∧ (d.maintEntry (.zoneDefect z)).drm.spare = d.drm.spare := by
  unfold Dev.maintEntry Dev.acceptMaint; split <;> simp [Dev.queueEntry]

@[simp] theorem Dev.markDefect_frame (d : Dev) (m : Memory) (z : Zone) :
    (d.markDefect m z).rqd = d.rqd ∧ (d.markDefect m z).tru = d.tru ∧ (d.markDefect m z).ict = d.ict ∧
      (d.markDefect m z).cpm = d.cpm ∧ (d.markDefect m z).stb = d.stb ∧ (d.markDefect m z).cme = d.cme ∧
      (d.markDefect m z).hum = d.hum ∧ (d.markDefect m z).sst = d.sst ∧ (d.markDefect m z).rcs = d.rcs ∧
      (d.markDefect m z).arc.op = d.arc.op ∧ (d.markDefect m z).arc.erase = d.arc.erase ∧
      (d.markDefect m z).arc.runTimer = d.arc.runTimer ∧ (d.markDefect m z).arc.storeFailed = d.arc.storeFailed ∧
      (d.markDefect m z).tmb.tick = d.tmb.tick ∧ (d.markDefect m z).tmb.wall = d.tmb.wall ∧
      (d.markDefect m z).plm = d.plm ∧ (d.markDefect m z).arc.defects = z :: d.arc.defects.filter (· != z) ∧
      (d.markDefect m z).drm.spare = d.drm.spare := by
  unfold Dev.markDefect; simp [Dev.maintEntry_zoneDefect]

@[simp] theorem Dev.defectTest_frame (d : Dev) (z : Zone) :
    (d.defectTest z).rqd = d.rqd ∧ (d.defectTest z).tru = d.tru ∧ (d.defectTest z).ict = d.ict ∧
      (d.defectTest z).cpm = d.cpm ∧ (d.defectTest z).stb = d.stb ∧ (d.defectTest z).cme = d.cme ∧
      (d.defectTest z).plm = d.plm ∧ (d.defectTest z).drm = d.drm ∧ (d.defectTest z).hiu = d.hiu ∧
      (d.defectTest z).hum = d.hum ∧ (d.defectTest z).tmb = d.tmb ∧ (d.defectTest z).rtu = d.rtu ∧
      (d.defectTest z).rcs = d.rcs ∧ (d.defectTest z).arc.op = d.arc.op ∧ (d.defectTest z).arc.erase = d.arc.erase ∧
      (d.defectTest z).arc.runTimer = d.arc.runTimer ∧ (d.defectTest z).arc.defects = d.arc.defects := by
  unfold Dev.defectTest; (repeat' split) <;> simp

theorem Dev.defectTest_low (d : Dev) (z : Zone) (hz : z.val < 3) : (d.defectTest z).arc.storeFailed = true := by
  unfold Dev.defectTest Dev.enterStoreFailed
  rw [if_pos (Or.inl hz)]
  split
  · assumption
  · dsimp only; split <;> simp

/-! ### Grants -/

@[simp] theorem Dev.granted_frame (d : Dev) (r : ArrReq) :
    ((d.granted r).2).pif = d.pif ∧ ((d.granted r).2).rqd = d.rqd ∧ ((d.granted r).2).tru = d.tru ∧
      ((d.granted r).2).ict = d.ict ∧ ((d.granted r).2).cpm = d.cpm ∧ ((d.granted r).2).stb = d.stb ∧
      ((d.granted r).2).hum = d.hum ∧ ((d.granted r).2).tmb = d.tmb ∧ ((d.granted r).2).ntu = d.ntu ∧
      ((d.granted r).2).sst = d.sst ∧ ((d.granted r).2).rcs = d.rcs ∧ ((d.granted r).2).arc = d.arc := by
  unfold Dev.granted; split <;> simp

@[simp] theorem Dev.onlyIf_true (d : Dev) (f : Dev → Dev) : d.onlyIf true f = f d := rfl

@[simp] theorem Dev.onlyIf_false (d : Dev) (f : Dev → Dev) : d.onlyIf false f = d := rfl

/-- A grant outside HOLDUP, or of an operation that programs nothing, spends no credit. -/
theorem Dev.grant_keepsAllBut (d : Dev) (r : ArrReq) :
    (d.hum.mode ≠ .holdup → d.keepsAllBut [.cme, .plm, .arc, .drm, .hiu, .ntu, .rtu] (d.grant r))
      ∧ d.keepsAllBut [.ict, .cpm, .stb, .cme, .plm, .arc, .drm, .hiu, .hum, .tmb, .ntu, .rtu] (d.grant r) := by
  have key : ∀ e : Dev, (e.onlyIf (e.hum.mode == .holdup && (Dev.granted
      { d with arc := { d.arc with waiting := d.arc.waiting.erase r } } r).1.isProgram)
        fun d => d.spendCredit.reserveTest.exhaustTest) = if e.hum.mode = .holdup ∧ (Dev.granted
      { d with arc := { d.arc with waiting := d.arc.waiting.erase r } } r).1.isProgram = true
        then e.spendCredit.reserveTest.exhaustTest else e := by
    intro e; unfold Dev.onlyIf; simp
  unfold Dev.grant
  dsimp only
  constructor
  · intro hm b hb
    rw [key]
    split <;> rw [if_neg (by simp [hm])] <;> cases b <;> simp_all [Part.agrees]
  · intro b hb
    rw [key]
    split <;> split <;> cases b <;> simp_all [Part.agrees]

/-! ### Commit, directory and erases -/

@[simp] theorem Dev.cmePage_frame (d : Dev) (x : PageEntry) :
    (d.cmePage x).pif = d.pif ∧ (d.cmePage x).rqd = d.rqd ∧ (d.cmePage x).tru = d.tru ∧ (d.cmePage x).ict = d.ict ∧
      (d.cmePage x).cpm = d.cpm ∧ (d.cmePage x).stb = d.stb ∧ (d.cmePage x).cme = d.cme ∧
      (d.cmePage x).drm = d.drm ∧ (d.cmePage x).hiu = d.hiu ∧ (d.cmePage x).hum = d.hum ∧
      (d.cmePage x).tmb = d.tmb ∧ (d.cmePage x).ntu = d.ntu ∧ (d.cmePage x).rtu = d.rtu ∧
      (d.cmePage x).sst = d.sst ∧ (d.cmePage x).rcs = d.rcs ∧ (d.cmePage x).arc = d.arc := by
  unfold Dev.cmePage; (repeat' split) <;> simp

@[simp] theorem Dev.askVoid_frame (d : Dev) :
    (d.askVoid).pif = d.pif ∧ (d.askVoid).rqd = d.rqd ∧ (d.askVoid).tru = d.tru ∧ (d.askVoid).ict = d.ict ∧
      (d.askVoid).cpm = d.cpm ∧ (d.askVoid).stb = d.stb ∧ (d.askVoid).plm = d.plm ∧ (d.askVoid).drm = d.drm ∧
      (d.askVoid).hiu = d.hiu ∧ (d.askVoid).hum = d.hum ∧ (d.askVoid).tmb = d.tmb ∧ (d.askVoid).ntu = d.ntu ∧
      (d.askVoid).rtu = d.rtu ∧ (d.askVoid).sst = d.sst ∧ (d.askVoid).rcs = d.rcs ∧ (d.askVoid).arc.op = d.arc.op ∧
      (d.askVoid).arc.erase = d.arc.erase ∧ (d.askVoid).arc.runTimer = d.arc.runTimer ∧
      (d.askVoid).arc.defects = d.arc.defects ∧ (d.askVoid).arc.storeFailed = d.arc.storeFailed := by
  unfold Dev.askVoid; (repeat' split) <;> simp

@[simp] theorem Dev.cmeFree_frame (d : Dev) (x : Option StreamIdx) :
    (d.cmeFree x).pif = d.pif ∧ (d.cmeFree x).rqd = d.rqd ∧ (d.cmeFree x).tru = d.tru ∧ (d.cmeFree x).hum = d.hum ∧
      (d.cmeFree x).rtu = d.rtu ∧ (d.cmeFree x).sst = d.sst ∧ (d.cmeFree x).rcs = d.rcs ∧
      (d.cmeFree x).arc.op = d.arc.op ∧ (d.cmeFree x).arc.erase = d.arc.erase ∧
      (d.cmeFree x).arc.runTimer = d.arc.runTimer ∧ (d.cmeFree x).arc.defects = d.arc.defects ∧
      (d.cmeFree x).arc.storeFailed = d.arc.storeFailed ∧ (d.cmeFree x).tmb.tick = d.tmb.tick ∧
      (d.cmeFree x).tmb.wall = d.tmb.wall := by
  unfold Dev.cmeFree; dsimp only; split <;> simp

@[simp] theorem Dev.commitOk_frame (d : Dev) :
    (d.commitOk).pif = d.pif ∧ (d.commitOk).rqd = d.rqd ∧ (d.commitOk).tru = d.tru ∧ (d.commitOk).hum = d.hum ∧
      (d.commitOk).rtu = d.rtu ∧ (d.commitOk).sst = d.sst ∧ (d.commitOk).rcs = d.rcs ∧
      (d.commitOk).arc.op = d.arc.op ∧ (d.commitOk).arc.erase = d.arc.erase ∧
      (d.commitOk).arc.runTimer = d.arc.runTimer ∧ (d.commitOk).arc.defects = d.arc.defects ∧
      (d.commitOk).arc.storeFailed = d.arc.storeFailed ∧ (d.commitOk).tmb.tick = d.tmb.tick ∧
      (d.commitOk).tmb.wall = d.tmb.wall := by
  unfold Dev.commitOk; (repeat' split) <;> simp

@[simp] theorem Dev.commitFail_frame (d : Dev) :
    (d.commitFail).pif = d.pif ∧ (d.commitFail).rqd = d.rqd ∧ (d.commitFail).tru = d.tru ∧
      (d.commitFail).hum = d.hum ∧ (d.commitFail).rtu = d.rtu ∧ (d.commitFail).sst = d.sst ∧
      (d.commitFail).rcs = d.rcs ∧ (d.commitFail).arc.op = d.arc.op ∧ (d.commitFail).arc.erase = d.arc.erase ∧
      (d.commitFail).arc.runTimer = d.arc.runTimer ∧ (d.commitFail).arc.defects = d.arc.defects ∧
      (d.commitFail).arc.storeFailed = d.arc.storeFailed ∧ (d.commitFail).tmb.tick = d.tmb.tick ∧
      (d.commitFail).tmb.wall = d.tmb.wall := by
  unfold Dev.commitFail; dsimp only; (repeat' split) <;> simp

@[simp] theorem Dev.voidDone_frame (d : Dev) (ok : Bool) :
    (Dev.voidDone ok d).pif = d.pif ∧ (Dev.voidDone ok d).rqd = d.rqd ∧ (Dev.voidDone ok d).tru = d.tru ∧
      (Dev.voidDone ok d).hum = d.hum ∧ (Dev.voidDone ok d).rtu = d.rtu ∧ (Dev.voidDone ok d).sst = d.sst ∧
      (Dev.voidDone ok d).rcs = d.rcs ∧ (Dev.voidDone ok d).arc.op = d.arc.op ∧
      (Dev.voidDone ok d).arc.erase = d.arc.erase ∧ (Dev.voidDone ok d).arc.runTimer = d.arc.runTimer ∧
      (Dev.voidDone ok d).arc.defects = d.arc.defects ∧ (Dev.voidDone ok d).arc.storeFailed = d.arc.storeFailed ∧
      (Dev.voidDone ok d).tmb.tick = d.tmb.tick ∧ (Dev.voidDone ok d).tmb.wall = d.tmb.wall := by
  unfold Dev.voidDone
  dsimp only
  generalize (if ok = true then PageEntry.void else .torn) = x
  split
  · simp
  · split
    · simp
    · split
      · next h => have := Dev.givePage_frame h; simp_all
      · simp

@[simp] theorem Dev.compactionEnds_frame (d : Dev) (n : Nat) :
    (d.compactionEnds n).pif = d.pif ∧ (d.compactionEnds n).rqd = d.rqd ∧ (d.compactionEnds n).tru = d.tru ∧
      (d.compactionEnds n).ict = d.ict ∧ (d.compactionEnds n).cpm = d.cpm ∧ (d.compactionEnds n).stb = d.stb ∧
      (d.compactionEnds n).cme = d.cme ∧ (d.compactionEnds n).hiu = d.hiu ∧ (d.compactionEnds n).hum = d.hum ∧
      (d.compactionEnds n).tmb = d.tmb ∧ (d.compactionEnds n).ntu = d.ntu ∧ (d.compactionEnds n).rtu = d.rtu ∧
      (d.compactionEnds n).sst = d.sst ∧ (d.compactionEnds n).rcs = d.rcs ∧ (d.compactionEnds n).arc.op = d.arc.op ∧
      (d.compactionEnds n).arc.erase = d.arc.erase ∧ (d.compactionEnds n).arc.runTimer = d.arc.runTimer ∧
      (d.compactionEnds n).arc.defects = d.arc.defects ∧ (d.compactionEnds n).arc.storeFailed = d.arc.storeFailed := by
  unfold Dev.compactionEnds; dsimp only; simp

@[simp] theorem Dev.journalWritten_frame (d : Dev) (ok : Bool) :
    (Dev.journalWritten ok d).pif = d.pif ∧ (Dev.journalWritten ok d).rqd = d.rqd ∧
      (Dev.journalWritten ok d).tru = d.tru ∧ (Dev.journalWritten ok d).ict = d.ict ∧
      (Dev.journalWritten ok d).cpm = d.cpm ∧ (Dev.journalWritten ok d).stb = d.stb ∧
      (Dev.journalWritten ok d).cme = d.cme ∧ (Dev.journalWritten ok d).hiu = d.hiu ∧
      (Dev.journalWritten ok d).hum = d.hum ∧ (Dev.journalWritten ok d).tmb = d.tmb ∧
      (Dev.journalWritten ok d).ntu = d.ntu ∧ (Dev.journalWritten ok d).rtu = d.rtu ∧
      (Dev.journalWritten ok d).sst = d.sst ∧ (Dev.journalWritten ok d).rcs = d.rcs ∧
      (Dev.journalWritten ok d).arc.op = d.arc.op ∧ (Dev.journalWritten ok d).arc.erase = d.arc.erase ∧
      (Dev.journalWritten ok d).arc.runTimer = d.arc.runTimer ∧
      (Dev.journalWritten ok d).arc.defects = d.arc.defects ∧
      (Dev.journalWritten ok d).arc.storeFailed = d.arc.storeFailed := by
  unfold Dev.journalWritten; dsimp only; split <;> simp

@[simp] theorem Dev.imageWritten_frame (d : Dev) (ok : Bool) :
    (Dev.imageWritten ok d).pif = d.pif ∧ (Dev.imageWritten ok d).rqd = d.rqd ∧
      (Dev.imageWritten ok d).tru = d.tru ∧ (Dev.imageWritten ok d).ict = d.ict ∧
      (Dev.imageWritten ok d).cpm = d.cpm ∧ (Dev.imageWritten ok d).stb = d.stb ∧
      (Dev.imageWritten ok d).cme = d.cme ∧ (Dev.imageWritten ok d).hiu = d.hiu ∧
      (Dev.imageWritten ok d).hum = d.hum ∧ (Dev.imageWritten ok d).tmb = d.tmb ∧
      (Dev.imageWritten ok d).ntu = d.ntu ∧ (Dev.imageWritten ok d).rtu = d.rtu ∧
      (Dev.imageWritten ok d).sst = d.sst ∧ (Dev.imageWritten ok d).rcs = d.rcs ∧
      (Dev.imageWritten ok d).arc.op = d.arc.op ∧ (Dev.imageWritten ok d).arc.erase = d.arc.erase ∧
      (Dev.imageWritten ok d).arc.runTimer = d.arc.runTimer ∧ (Dev.imageWritten ok d).arc.defects = d.arc.defects ∧
      (Dev.imageWritten ok d).arc.storeFailed = d.arc.storeFailed := by
  unfold Dev.imageWritten; dsimp only; (repeat' split) <;> simp

@[simp] theorem Dev.settingsErased_frame (d : Dev) (ok : Bool) (m : Memory) (z : Zone) :
    (Dev.settingsErased ok m z d).rqd = d.rqd ∧ (Dev.settingsErased ok m z d).tru = d.tru ∧
      (Dev.settingsErased ok m z d).ict = d.ict ∧ (Dev.settingsErased ok m z d).cpm = d.cpm ∧
      (Dev.settingsErased ok m z d).stb = d.stb ∧ (Dev.settingsErased ok m z d).cme = d.cme ∧
      (Dev.settingsErased ok m z d).plm = d.plm ∧ (Dev.settingsErased ok m z d).hum = d.hum ∧
      (Dev.settingsErased ok m z d).rcs = d.rcs ∧ (Dev.settingsErased ok m z d).arc.op = d.arc.op ∧
      (Dev.settingsErased ok m z d).arc.erase = d.arc.erase ∧
      (Dev.settingsErased ok m z d).arc.runTimer = d.arc.runTimer ∧
      (Dev.settingsErased ok m z d).tmb.tick = d.tmb.tick ∧ (Dev.settingsErased ok m z d).tmb.wall = d.tmb.wall := by
  unfold Dev.settingsErased; split <;> simp

@[simp] theorem Dev.reclaimErased_frame (d : Dev) (ok : Bool) (m : Memory) (z : Zone) :
    (Dev.reclaimErased ok m z d).rqd = d.rqd ∧ (Dev.reclaimErased ok m z d).tru = d.tru ∧
      (Dev.reclaimErased ok m z d).ict = d.ict ∧ (Dev.reclaimErased ok m z d).cpm = d.cpm ∧
      (Dev.reclaimErased ok m z d).stb = d.stb ∧ (Dev.reclaimErased ok m z d).cme = d.cme ∧
      (Dev.reclaimErased ok m z d).hum = d.hum ∧ (Dev.reclaimErased ok m z d).rcs = d.rcs ∧
      (Dev.reclaimErased ok m z d).arc.op = d.arc.op ∧ (Dev.reclaimErased ok m z d).arc.erase = d.arc.erase ∧
      (Dev.reclaimErased ok m z d).arc.runTimer = d.arc.runTimer ∧
      (Dev.reclaimErased ok m z d).tmb.tick = d.tmb.tick ∧ (Dev.reclaimErased ok m z d).tmb.wall = d.tmb.wall := by
  unfold Dev.reclaimErased; dsimp only; split <;> simp

@[simp] theorem Dev.prepEnds_frame (d : Dev) (x : RingState) :
    (d.prepEnds x).pif = d.pif ∧ (d.prepEnds x).rqd = d.rqd ∧ (d.prepEnds x).tru = d.tru ∧
      (d.prepEnds x).ict = d.ict ∧ (d.prepEnds x).cpm = d.cpm ∧ (d.prepEnds x).stb = d.stb ∧
      (d.prepEnds x).cme = d.cme ∧ (d.prepEnds x).plm = d.plm ∧ (d.prepEnds x).drm = d.drm ∧
      (d.prepEnds x).hum = d.hum ∧ (d.prepEnds x).tmb = d.tmb ∧ (d.prepEnds x).ntu = d.ntu ∧
      (d.prepEnds x).rtu = d.rtu ∧ (d.prepEnds x).sst = d.sst ∧ (d.prepEnds x).rcs = d.rcs ∧
      (d.prepEnds x).arc = d.arc := by
  unfold Dev.prepEnds; (repeat' split) <;> simp

@[simp] theorem Dev.ringErased_frame (d : Dev) (ok : Bool) (m : Memory) (z : Zone) :
    (Dev.ringErased ok m z d).rqd = d.rqd ∧ (Dev.ringErased ok m z d).tru = d.tru ∧
      (Dev.ringErased ok m z d).ict = d.ict ∧ (Dev.ringErased ok m z d).cpm = d.cpm ∧
      (Dev.ringErased ok m z d).stb = d.stb ∧ (Dev.ringErased ok m z d).cme = d.cme ∧
      (Dev.ringErased ok m z d).plm = d.plm ∧ (Dev.ringErased ok m z d).hum = d.hum ∧
      (Dev.ringErased ok m z d).rcs = d.rcs ∧ (Dev.ringErased ok m z d).arc.op = d.arc.op ∧
      (Dev.ringErased ok m z d).arc.erase = d.arc.erase ∧ (Dev.ringErased ok m z d).arc.runTimer = d.arc.runTimer ∧
      (Dev.ringErased ok m z d).tmb.tick = d.tmb.tick ∧ (Dev.ringErased ok m z d).tmb.wall = d.tmb.wall := by
  unfold Dev.ringErased; split <;> simp

@[simp] theorem Dev.spareErased_frame (d : Dev) (ok : Bool) (m : Memory) (z : Zone) :
    (Dev.spareErased ok m z d).rqd = d.rqd ∧ (Dev.spareErased ok m z d).tru = d.tru ∧
      (Dev.spareErased ok m z d).ict = d.ict ∧ (Dev.spareErased ok m z d).cpm = d.cpm ∧
      (Dev.spareErased ok m z d).stb = d.stb ∧ (Dev.spareErased ok m z d).cme = d.cme ∧
      (Dev.spareErased ok m z d).plm = d.plm ∧ (Dev.spareErased ok m z d).hum = d.hum ∧
      (Dev.spareErased ok m z d).rcs = d.rcs ∧ (Dev.spareErased ok m z d).arc.op = d.arc.op ∧
      (Dev.spareErased ok m z d).arc.erase = d.arc.erase ∧
      (Dev.spareErased ok m z d).arc.runTimer = d.arc.runTimer ∧ (Dev.spareErased ok m z d).tmb.tick = d.tmb.tick ∧
      (Dev.spareErased ok m z d).tmb.wall = d.tmb.wall := by
  unfold Dev.spareErased; split <;> simp

end Sys2Proof.Machine
end

