-- ==== Sys2Proof/Laws/Directory.lean ====
section
/-! SUPPORT. Finding a record of the directory by its incident number, and rewriting it; what leaves the records of
streams unchanged, and what the record of one takes. -/

namespace Sys2Proof.Machine

theorem firstFin_some {n : Nat} {p : Fin n → Bool} {i : Fin n} (h : firstFin n p = some i) : p i = true :=
  List.find?_some h

theorem firstFin_none {n : Nat} {p : Fin n → Bool} : firstFin n p = none ↔ ∀ i, p i = false := by
  unfold firstFin
  rw [List.find?_eq_none]
  exact ⟨fun h i => by simpa using h i (List.mem_finRange i), fun h i _ => by simp [h i]⟩

theorem Drm.mem_records (m : Drm) (x : Incident) : x ∈ m.records ↔ ∃ i : DirSlot, m.dir[i] = some x := by
  unfold Drm.records
  simp only [List.mem_filterMap, id_eq, Vector.mem_toList_iff, exists_eq_right]
  constructor
  · intro h
    obtain ⟨i, hi, hx⟩ := Vector.getElem_of_mem h
    exact ⟨⟨i, hi⟩, hx⟩
  · rintro ⟨i, hi⟩
    rw [← hi]
    exact Vector.getElem_mem i.isLt

/-- No slot holds a number exactly when no record has it. -/
theorem Drm.slotOf_none (m : Drm) (n : Nat) : m.slotOf n = none ↔ ∀ x ∈ m.records, x.number ≠ n := by
  unfold Drm.slotOf
  rw [firstFin_none]
  constructor
  · intro h x hx e
    obtain ⟨i, hi⟩ := (m.mem_records x).1 hx
    have := h i
    rw [hi] at this
    simp [e] at this
  · intro h i
    cases hi : m.dir[i] with
    | none => rfl
    | some x => simpa using h x ((m.mem_records x).2 ⟨i, hi⟩)

theorem Drm.number_of_slotOf {m : Drm} {n : Nat} {i : DirSlot} {x : Incident} (h : m.slotOf n = some i)
    (hx : m.dir[i] = some x) : x.number = n := by
  have := firstFin_some h
  rw [hx] at this
  simpa using this

theorem Drm.find_of_slotOf {m : Drm} {n : Nat} {i : DirSlot} (h : m.slotOf n = some i) : m.find n = m.dir[i] := by
  unfold Drm.find; rw [h]; rfl

theorem Drm.find_none {m : Drm} {n : Nat} (h : ∀ x ∈ m.records, x.number ≠ n) : m.find n = none := by
  unfold Drm.find; rw [(m.slotOf_none n).2 h]; rfl

/-- Rewriting the record of a number rewrites the slot that holds it. -/
theorem Dev.modIncident_of_slotOf {d : Dev} {n : Nat} {i : DirSlot} {x : Incident} (h : d.drm.slotOf n = some i)
    (hx : d.drm.dir[i] = some x) (f : Incident → Incident) :
    d.modIncident n f = d.setDrm fun m => { m with dir := put d.drm.dir i (some (f x)) } := by
  have hx' : d.drm.dir[i.val]'i.isLt = some x := hx
  unfold Dev.modIncident Dev.modSlot Dev.setDrm
  rw [h]
  simp [modify, hx']

/-! ### The records of streams -/

/-- No incident's number and no stream record changes from `d` to `e`. -/
def Dev.keepsStreams (d e : Dev) : Prop :=
  ∀ k : DirSlot, (e.drm.dir[k]).map (fun r => (r.number, r.streams)) = (d.drm.dir[k]).map fun r => (r.number, r.streams)

theorem Dev.keepsStreams_of_dir {d e : Dev} (h : e.drm.dir = d.drm.dir) : d.keepsStreams e := fun k => by rw [h]

theorem Dev.keepsStreams_trans {a b c : Dev} (h : a.keepsStreams b) (g : b.keepsStreams c) : a.keepsStreams c :=
  fun k => (g k).trans (h k)

/-- A number stands in the same slot where the numbers stand. -/
theorem Dev.keepsStreams_slotOf {d e : Dev} (h : d.keepsStreams e) (n : Nat) : e.drm.slotOf n = d.drm.slotOf n := by
  unfold Drm.slotOf
  congr 1
  funext k
  have g := congrArg (Option.any fun r => r.1 == n) (h k)
  simpa [Option.any_map] using g

theorem Dev.dir_modSlot (d : Dev) (i : DirSlot) (f : Incident → Incident) :
    (d.modSlot i f).drm.dir = modify d.drm.dir i (Option.map f) := rfl

theorem Dev.modSlot_keepsStreams (d : Dev) (i : DirSlot) {f : Incident → Incident}
    (hf : ∀ r, (f r).number = r.number ∧ (f r).streams = r.streams) : d.keepsStreams (d.modSlot i f) := by
  intro k
  rw [Dev.dir_modSlot, get_modify]
  split
  · cases d.drm.dir[k] <;> simp [hf]
  · rfl

theorem Dev.tryPass_keepsStreams (d : Dev) : d.keepsStreams d.tryPass := by
  unfold Dev.tryPass
  split
  · next s _ _ =>
    exact Dev.keepsStreams_trans (b := d.modSlot s fun r => { r with state := .closing })
      (d.modSlot_keepsStreams s fun _ => ⟨rfl, rfl⟩)
      (Dev.keepsStreams_of_dir (by simp [Dev.attnOff, Dev.cancelCapture, Dev.setIct]))
  · exact fun _ => rfl

theorem Dev.keep_keepsStreams (d : Dev) (i : DirSlot) (r : Incident) : d.keepsStreams (d.keep i r) := by
  unfold Dev.keep
  exact Dev.keepsStreams_trans
    (b := (d.queueEntry (.incidentClose r.number (some r.closeCompleteness) r.overflow)).modSlot i fun r' =>
      { r' with state := .kept, completeness := some r.closeCompleteness })
    (Dev.modSlot_keepsStreams _ i fun _ => ⟨rfl, rfl⟩) (Dev.keepsStreams_of_dir (by simp [Dev.setIct]))

theorem Dev.waitCapture_keepsStreams (d : Dev) (w : CapWaiter) : d.keepsStreams (d.waitCapture w) := by
  unfold Dev.waitCapture
  split <;> exact Dev.keepsStreams_of_dir rfl

theorem Dev.tryKeep_keepsStreams (d : Dev) : d.keepsStreams d.tryKeep := by
  unfold Dev.tryKeep
  split
  · split
    · exact d.keep_keepsStreams _ _
    · exact d.waitCapture_keepsStreams _
  · exact fun _ => rfl

theorem Dev.closeRun_keepsStreams (d : Dev) : d.keepsStreams d.closeRun :=
  Dev.keepsStreams_trans (Dev.keepsStreams_trans (Dev.keepsStreams_trans d.tryPass_keepsStreams
    (Dev.tryKeep_keepsStreams _)) (Dev.tryPass_keepsStreams _)) (Dev.tryKeep_keepsStreams _)

theorem Dev.settle_keepsStreams (d : Dev) : d.keepsStreams d.settle := Dev.keepsStreams_of_dir (by simp)

/-- Where no stream record changes, the record of a stream takes nothing. -/
theorem Dev.recordTakes_id {d e : Dev} (h : d.keepsStreams e) (x : StreamBody) : d.recordTakes e x id := by
  intro k r _ hr
  have := h k
  rw [hr] at this
  simp only [Option.map_some, Option.map_eq_some_iff, Prod.mk.injEq] at this
  obtain ⟨r', h1, h2, h3⟩ := this
  exact ⟨r', h1, h2, by simp [h3]⟩

/-- What follows without a change of a stream record leaves the record as it was taken. -/
theorem Dev.recordTakes_then {d e e' : Dev} {x : StreamBody} {f : StreamRec → StreamRec} (h : d.recordTakes e x f)
    (g : e.keepsStreams e') : d.recordTakes e' x f := by
  intro k r hk hr
  obtain ⟨r', h1, h2, h3⟩ := h k r hk hr
  have := g k
  rw [h1] at this
  simp only [Option.map_some, Option.map_eq_some_iff, Prod.mk.injEq] at this
  obtain ⟨r'', g1, g2, g3⟩ := this
  exact ⟨r'', g1, g2.trans h2, g3.trans h3⟩

/-- The same before. -/
theorem Dev.recordTakes_after {d d' e : Dev} {x : StreamBody} {f : StreamRec → StreamRec} (g : d.keepsStreams d')
    (h : d'.recordTakes e x f) : d.recordTakes e x f := by
  intro k r hk hr
  have := g k
  rw [hr] at this
  simp only [Option.map_some, Option.map_eq_some_iff, Prod.mk.injEq] at this
  obtain ⟨r', g1, g2, g3⟩ := this
  obtain ⟨r'', h1, h2, h3⟩ := h k r' (by rw [Dev.keepsStreams_slotOf g, hk]) g1
  exact ⟨r'', h1, h2.trans g2, by rw [h3, g3]⟩

/-- A record that is rewritten twice. -/
theorem Dev.recordTakes_trans {a b c : Dev} {x : StreamBody} {f g : StreamRec → StreamRec}
    (hf : ∀ v, (f v).number = v.number) (hs : b.drm.slotOf x.incident = a.drm.slotOf x.incident)
    (h : a.recordTakes b x f) (h' : b.recordTakes c x g) : a.recordTakes c x (g ∘ f) := by
  intro k r hk hr
  obtain ⟨r', h1, h2, h3⟩ := h k r hk hr
  obtain ⟨r'', g1, g2, g3⟩ := h' k r' (hs.trans hk) h1
  refine ⟨r'', g1, g2.trans h2, ?_⟩
  rw [g3, h3, List.map_map]
  refine List.map_congr_left fun v _ => ?_
  simp only [Function.comp]
  split
  · next e => rw [if_pos (by rw [hf, e])]
  · rfl

/-- Rewriting a stream record of an incident. -/
theorem Dev.modIncident_recordTakes (d : Dev) (x : StreamBody) (f : StreamRec → StreamRec) :
    d.recordTakes (d.modIncident x.incident (·.modStream x.stream f)) x f := by
  intro k r hk hr
  rw [Dev.modIncident_of_slotOf hk hr]
  exact ⟨_, get_put_same _ _ _, rfl, rfl⟩

/-- Rewriting a stream record moves no number. -/
theorem Dev.modIncident_slotOf (d : Dev) (n s m : Nat) (f : StreamRec → StreamRec) :
    (d.modIncident n (·.modStream s f)).drm.slotOf m = d.drm.slotOf m := by
  unfold Dev.modIncident
  split
  · next i _ =>
    unfold Drm.slotOf
    congr 1
    funext k
    rw [Dev.dir_modSlot, get_modify]
    split
    · cases d.drm.dir[k] <;> rfl
    · rfl
  · rfl

/-- The record of a stream takes the counts of its slot. -/
theorem Dev.syncRecord_recordTakes {d : Dev} {i : StreamIdx} {x : StreamBody} (h : d.body i = some x) :
    d.recordTakes (d.syncRecord i) x x.counted := by
  unfold Dev.syncRecord
  rw [h]
  exact d.modIncident_recordTakes x x.counted

/-- The record of a stream that is released takes its end. -/
theorem Dev.releaseSlot_recordTakes (d : Dev) (i : StreamIdx) (x : StreamBody) (k : PendingEnd) :
    d.recordTakes (d.releaseSlot i x k) x (x.closed k) :=
  Dev.recordTakes_after
    (d' := d.queueEntry (.streamEnd x.incident x.stream k.kind k.reason x.short x.accepted x.committed x.pages))
    (fun _ => rfl) (Dev.recordTakes_then (Dev.modIncident_recordTakes _ x (x.closed k)) fun _ => rfl)

/-- The test of R47 releases a stream that is drained where the queue has a place: its record takes its end. -/
theorem Dev.tryRelease_releases {d : Dev} {i : StreamIdx} {x : StreamBody} {k : PendingEnd} (h : d.body i = some x)
    (hk : x.drained = some k) (hr : d.drm.capRoom 1 = true) :
    (d.tryRelease i).body i = none ∧ d.recordTakes (d.tryRelease i) x (x.closed k) := by
  have he : d.tryRelease i = ((d.releaseSlot i x k).tryKeep).closeRun := by
    unfold Dev.tryRelease Dev.releaseKeeping
    simp only [h, hk, hr, if_true]
  rw [he]
  refine ⟨?_, Dev.recordTakes_then (d.releaseSlot_recordTakes i x k)
    (Dev.keepsStreams_trans (Dev.tryKeep_keepsStreams _) (Dev.closeRun_keepsStreams _))⟩
  unfold Dev.body
  rw [Dev.closeRun_frame _ |>.2.2.2.1, Dev.tryKeep_frame _ |>.2.2.2.1]
  unfold Dev.releaseSlot
  simp

/-- Else the stream keeps its slot, and its record stays as it is. -/
theorem Dev.tryRelease_waits {d : Dev} {i : StreamIdx} {x : StreamBody} (h : d.body i = some x)
    (hr : x.drained = none ∨ d.drm.capRoom 1 = false) :
    (d.tryRelease i).body i = some x ∧ d.recordTakes (d.tryRelease i) x id := by
  have hk : d.keepsStreams (d.releaseKeeping i) ∧ (d.releaseKeeping i).cpm = d.cpm := by
    unfold Dev.releaseKeeping
    rw [h]
    dsimp only
    cases hd : x.drained with
    | none => exact ⟨fun _ => rfl, rfl⟩
    | some k =>
      have : d.drm.capRoom 1 = false := by simpa [hd] using hr
      simp only [this, Bool.false_eq_true, if_false]
      exact ⟨d.waitCapture_keepsStreams _, by unfold Dev.waitCapture; split <;> rfl⟩
  unfold Dev.tryRelease
  refine ⟨?_, Dev.recordTakes_id (Dev.keepsStreams_trans hk.1 (Dev.closeRun_keepsStreams _)) x⟩
  unfold Dev.body at h ⊢
  rw [Dev.closeRun_frame _ |>.2.2.2.1, hk.2, h]

/-- A cut that discards, of a stream in a slot: the record takes the end of the cut with the release, or stays as it is
while the stream keeps its slot. -/
theorem Dev.cutDiscard_recordTakes {d : Dev} {i : StreamIdx} {x : StreamBody} (h : d.body i = some x) (r : Reason) :
    ((d.cutDiscard i r).body i = none ∧ d.recordTakes (d.cutDiscard i r) x (x.closed (cutEnding r x.ending)))
      ∨ ((d.cutDiscard i r).body i ≠ none ∧ d.recordTakes (d.cutDiscard i r) x id) := by
  obtain ⟨e, n, he, hb, hs⟩ : ∃ (e : Dev) (n : Nat), d.cutDiscard i r = e.tryRelease i
      ∧ e.body i = some { x with ending := some (cutEnding r x.ending), fill := none, queued := n }
      ∧ d.keepsStreams e := by
    unfold Dev.cutDiscard
    rw [h]
    refine ⟨_, x.queued - (d.stb.queue.filter (·.slot == i)).length, rfl, ?_, ?_⟩
    · unfold Dev.body at h ⊢
      rw [Dev.closeRun_frame _ |>.2.2.2.1]
      have h' : (d.cpm.slots[i.val]'i.isLt).body = some x := h
      simp [Dev.reportCut, Dev.discardBlocks, Dev.modBody, Dev.setStb, Dev.freeBlocks, h']
    · exact Dev.keepsStreams_trans (Dev.keepsStreams_of_dir (by simp [Dev.reportCut, Dev.discardBlocks, Dev.modBody,
        Dev.setStb, Dev.freeBlocks])) (Dev.closeRun_keepsStreams _)
  rw [he]
  generalize hx : ({ x with ending := some (cutEnding r x.ending), fill := none, queued := n } : StreamBody) = y at hb
  have hd : y.drained = none ∨ y.drained = some (cutEnding r x.ending) := by
    subst hx; unfold StreamBody.drained; dsimp only; split <;> simp
  have hy : ∀ f, e.recordTakes (e.tryRelease i) y f → d.recordTakes (e.tryRelease i) x f := by
    subst hx; exact fun f g => Dev.recordTakes_after hs g
  have hc : y.closed (cutEnding r x.ending) = x.closed (cutEnding r x.ending) := by subst hx; rfl
  rcases hd with hd | hd
  · have := Dev.tryRelease_waits hb (.inl hd)
    exact .inr ⟨by simp [this.1], hy _ this.2⟩
  · cases hr : e.drm.capRoom 1 with
    | true =>
      have := Dev.tryRelease_releases hb hd hr
      exact .inl ⟨this.1, hc ▸ hy _ this.2⟩
    | false =>
      have := Dev.tryRelease_waits hb (.inr hr)
      exact .inr ⟨by simp [this.1], hy _ this.2⟩

end Sys2Proof.Machine
end

