-- ==== Sys2Proof/Laws/Memory.lean ====
section
/-! SUPPORT. What a read gives after every operation on sparse data and on the array's bytes, and that each keeps the
canonical form. -/

namespace Sys2Proof.Machine

/-! ### Sparse data -/

section
variable {α : Type}

theorem SMap.get_append (d : α) (m n : SMap α) (i : Nat) : SMap.get d (m ++ n) i = SMap.get (SMap.get d n i) m i := by
  induction m with
  | nil => rfl
  | cons e m ih => simp only [List.cons_append, SMap.get, ih]

theorem SMap.get_filter (d : α) (p : Nat → Bool) (m : SMap α) (i : Nat) :
    SMap.get d (m.filter fun e => p e.1) i = if p i then SMap.get d m i else d := by
  induction m with
  | nil => simp [SMap.get]
  | cons e m ih =>
    obtain ⟨k, v⟩ := e
    by_cases hk : p k = true <;> by_cases h : k = i
    · subst h; rw [List.filter_cons_of_pos (by simpa using hk)]; simp [SMap.get, hk]
    · rw [List.filter_cons_of_pos (by simpa using hk)]; simp [SMap.get, h, ih]
    · subst h; rw [List.filter_cons_of_neg (by simpa using hk), ih]; simp [hk]
    · rw [List.filter_cons_of_neg (by simpa using hk), ih]; simp [SMap.get, h]

variable [DecidableEq α]

theorem SMap.get_set (d : α) (m : SMap α) (k : Nat) (v : α) (i : Nat) :
    SMap.get d (SMap.set d m k v) i = if i = k then v else SMap.get d m i := by
  unfold SMap.set
  rw [SMap.get_append, SMap.get_append, SMap.get_filter _ (fun x => decide (x < k)),
    SMap.get_filter _ (fun x => decide (k < x))]
  by_cases h : i = k
  · subst h
    by_cases hv : v = d <;> simp [hv, SMap.get]
  · by_cases hlt : i < k
    · have : ¬ k < i := by omega
      by_cases hv : v = d <;> simp [hv, SMap.get, h, hlt, this, Ne.symm h]
    · have : k < i := by omega
      by_cases hv : v = d <;> simp [hv, SMap.get, h, hlt, this, Ne.symm h]

theorem SMap.wf_nil (d : α) : SMap.wf d [] := ⟨List.Pairwise.nil, by simp⟩

theorem SMap.wf_filter {d : α} {m : SMap α} (h : SMap.wf d m) (p : Nat × α → Bool) : SMap.wf d (m.filter p) :=
  ⟨h.1.sublist (List.filter_sublist.map _), fun e he => h.2 e (List.mem_filter.1 he).1⟩

/-- Three parts in the canonical form, each below the next, are in the canonical form together. -/
theorem SMap.wf_append {d : α} {m n : SMap α} (hm : SMap.wf d m) (hn : SMap.wf d n)
    (hlt : ∀ a ∈ m, ∀ b ∈ n, a.1 < b.1) : SMap.wf d (m ++ n) := by
  refine ⟨?_, ?_⟩
  · rw [List.map_append, List.pairwise_append]
    refine ⟨hm.1, hn.1, ?_⟩
    intro x hx y hy
    obtain ⟨a, ha, rfl⟩ := List.mem_map.1 hx
    obtain ⟨b, hb, rfl⟩ := List.mem_map.1 hy
    exact hlt a ha b hb
  · intro e he
    rcases List.mem_append.1 he with h | h
    · exact hm.2 e h
    · exact hn.2 e h

theorem SMap.wf_set {d : α} {m : SMap α} (h : SMap.wf d m) (k : Nat) (v : α) : SMap.wf d (SMap.set d m k v) := by
  unfold SMap.set
  refine SMap.wf_append (SMap.wf_append (SMap.wf_filter h _) ?_ ?_) (SMap.wf_filter h _) ?_
  · by_cases hv : v = d
    · simpa [hv] using SMap.wf_nil d
    · simp [hv, SMap.wf]
  · intro a ha b hb
    have := (List.mem_filter.1 ha).2
    by_cases hv : v = d <;> simp_all
  · intro a ha b hb
    have hb' := (List.mem_filter.1 hb).2
    simp only [decide_eq_true_eq] at hb'
    rcases List.mem_append.1 ha with h1 | h1
    · have := (List.mem_filter.1 h1).2
      simp only [decide_eq_true_eq] at this
      omega
    · by_cases hv : v = d <;> simp_all

end

/-! ### The array's bytes -/

theorem Memory.read_filter (m : Memory) (p : Nat → Bool) (x : Nat) :
    Memory.read (m.filter fun e => p e.1) x = if p x then m.read x else erasedByte :=
  SMap.get_filter erasedByte p m x

/-- The middle part of a rewrite: the bytes of a range that are not erased. -/
def windowOf (f : Nat → Byte) (a n : Nat) : Memory :=
  (List.range' a n).filterMap fun x => if f x = erasedByte then none else some (x, f x)

theorem mem_windowOf {f : Nat → Byte} {a n : Nat} {e : Host.Cell} (h : e ∈ windowOf f a n) :
    a ≤ e.1 ∧ e.1 < a + n ∧ e.2 ≠ erasedByte := by
  obtain ⟨z, hz, he⟩ := List.mem_filterMap.1 h
  have hz' := List.mem_range'_1.1 hz
  by_cases hf : f z = erasedByte
  · rw [if_pos hf] at he; cases he
  · rw [if_neg hf] at he
    cases he
    exact ⟨hz'.1, hz'.2, hf⟩

theorem windowOf_succ (f : Nat → Byte) (a n : Nat) :
    windowOf f a (n + 1) = (if f a = erasedByte then [] else [(a, f a)]) ++ windowOf f (a + 1) n := by
  unfold windowOf
  rw [List.range'_succ]
  by_cases hf : f a = erasedByte
  · rw [List.filterMap_cons_none (by rw [if_pos hf]), if_pos hf]; rfl
  · rw [List.filterMap_cons_some (by rw [if_neg hf]), if_neg hf]; rfl

theorem get_windowOf (d : Byte) (f : Nat → Byte) (n a i : Nat) :
    SMap.get d (windowOf f a n) i = if (a ≤ i ∧ i < a + n) ∧ f i ≠ erasedByte then f i else d := by
  induction n generalizing a with
  | zero => rw [if_neg (by omega)]; rfl
  | succ n ih =>
    rw [windowOf_succ, SMap.get_append, ih]
    by_cases hi : a = i
    · subst hi
      by_cases hf : f a = erasedByte
      · simp [hf, SMap.get]
      · rw [if_neg hf, if_neg (by omega), if_pos ⟨by omega, hf⟩]; simp [SMap.get]
    · have h : ((a + 1 ≤ i ∧ i < a + 1 + n) ∧ f i ≠ erasedByte) ↔ ((a ≤ i ∧ i < a + (n + 1)) ∧ f i ≠ erasedByte) := by
        rw [show (a + 1 ≤ i ∧ i < a + 1 + n) ↔ (a ≤ i ∧ i < a + (n + 1)) from by omega]
      by_cases hf : f a = erasedByte
      · simp only [hf, if_true, SMap.get, h]
      · simp only [hf, if_false, SMap.get, h, hi]

theorem wf_windowOf (f : Nat → Byte) (n a : Nat) : SMap.wf erasedByte (windowOf f a n) := by
  induction n generalizing a with
  | zero => exact SMap.wf_nil _
  | succ n ih =>
    rw [windowOf_succ]
    refine SMap.wf_append ?_ (ih _) ?_
    · by_cases hf : f a = erasedByte
      · rw [if_pos hf]; exact SMap.wf_nil _
      · rw [if_neg hf]
        exact ⟨List.pairwise_singleton _ _, fun e he => by rw [List.mem_singleton.1 he]; exact hf⟩
    · intro x hx y hy
      have hy' := mem_windowOf hy
      by_cases hf : f a = erasedByte
      · rw [if_pos hf] at hx; cases hx
      · rw [if_neg hf] at hx
        rw [List.mem_singleton.1 hx]
        show a < y.1
        omega

/-- A rewrite is what stands below its range, the range, and what stands above. -/
theorem Memory.remap_eq (m : Memory) (a n : Nat) (g : Nat → Byte → Byte) :
    m.remap a n g
      = m.filter (·.1 < a) ++ windowOf (fun x => g x (m.read x)) a n ++ m.filter (a + n ≤ ·.1) := rfl

theorem Memory.read_remap (m : Memory) (a n : Nat) (g : Nat → Byte → Byte) (x : Nat) :
    (m.remap a n g).read x = if a ≤ x ∧ x < a + n then g x (m.read x) else m.read x := by
  have h0 : (m.remap a n g).read x = SMap.get (SMap.get (SMap.get erasedByte (m.filter (a + n ≤ ·.1)) x)
      (windowOf (fun y => g y (m.read y)) a n) x) (m.filter (·.1 < a)) x := by
    rw [Memory.remap_eq]; unfold Memory.read; rw [SMap.get_append, SMap.get_append]
  rw [h0, SMap.get_filter _ (fun y => decide (y < a)), get_windowOf, SMap.get_filter _ (fun y => decide (a + n ≤ y))]
  show _ = if a ≤ x ∧ x < a + n then g x (m.read x) else m.read x
  by_cases h1 : x < a
  · have h3 : ¬ (a ≤ x ∧ x < a + n) := by omega
    rw [if_pos (decide_eq_true h1), if_neg (fun h => h3 h.1), if_neg h3,
      if_neg (by rw [decide_eq_false (by omega)]; decide)]; rfl
  · by_cases h2 : a + n ≤ x
    · have h3 : ¬ (a ≤ x ∧ x < a + n) := by omega
      rw [if_neg (by simpa using h1), if_neg (fun h => h3 h.1), if_pos (decide_eq_true h2), if_neg h3]; rfl
    · have h3 : a ≤ x ∧ x < a + n := by omega
      rw [if_neg (by simpa using h1), if_pos h3]
      by_cases hf : g x (m.read x) = erasedByte
      · rw [if_neg (fun h => h.2 hf), if_neg (by rw [decide_eq_false h2]; decide), hf]
      · rw [if_pos ⟨h3, hf⟩]

theorem Memory.wf_remap {m : Memory} (h : m.wf) (a n : Nat) (g : Nat → Byte → Byte) : (m.remap a n g).wf := by
  rw [Memory.remap_eq]
  refine SMap.wf_append (SMap.wf_append (SMap.wf_filter h _) (wf_windowOf _ _ _) ?_) (SMap.wf_filter h _) ?_
  · intro x hx y hy
    have hx' : x.1 < a := of_decide_eq_true (List.mem_filter.1 hx).2
    have hy' := mem_windowOf hy
    omega
  · intro x hx y hy
    have hy' : a + n ≤ y.1 := of_decide_eq_true (List.mem_filter.1 hy).2
    rcases List.mem_append.1 hx with h1 | h1
    · have : x.1 < a := of_decide_eq_true (List.mem_filter.1 h1).2
      omega
    · have := mem_windowOf h1
      omega

theorem Memory.read_clear (m : Memory) (a n x : Nat) :
    (m.clear a n).read x = if a ≤ x ∧ x < a + n then erasedByte else m.read x := by
  unfold Memory.clear
  rw [Memory.read_filter m (fun y => decide (y < a) || decide (a + n ≤ y))]
  by_cases h : a ≤ x ∧ x < a + n
  · have h1 : ¬ x < a := by omega
    have h2 : ¬ a + n ≤ x := by omega
    simp [h, h1, h2]
  · have : x < a ∨ a + n ≤ x := by omega
    rw [if_neg h, if_pos (by simpa using this)]

theorem Memory.wf_clear {m : Memory} (h : m.wf) (a n : Nat) : (m.clear a n).wf := SMap.wf_filter h _

theorem Memory.read_program (m : Memory) (a : Nat) (bs : List Byte) (x : Nat) :
    (m.program a bs).read x
      = if a ≤ x ∧ x < a + bs.length then m.read x &&& byteAt a bs x else m.read x :=
  Memory.read_remap _ _ _ _ _

theorem Memory.wf_program {m : Memory} (h : m.wf) (a : Nat) (bs : List Byte) : (m.program a bs).wf :=
  Memory.wf_remap h _ _ _

theorem Memory.read_programFail (m : Memory) (nonce a : Nat) (bs : List Byte) (x : Nat) :
    (m.programFail nonce a bs).read x
      = if a ≤ x ∧ x < a + bs.length then m.read x &&& (byteAt a bs x ||| Config.freeByte nonce x) else m.read x :=
  Memory.read_remap _ _ _ _ _

theorem Memory.wf_programFail {m : Memory} (h : m.wf) (nonce a : Nat) (bs : List Byte) :
    (m.programFail nonce a bs).wf := Memory.wf_remap h _ _ _

theorem Memory.read_eraseZone (m : Memory) (z : Zone) (x : Nat) :
    (m.eraseZone z).read x
      = if zoneBase z ≤ x ∧ x < zoneBase z + zoneBytes then erasedByte else m.read x := Memory.read_clear _ _ _ _

theorem Memory.wf_eraseZone {m : Memory} (h : m.wf) (z : Zone) : (m.eraseZone z).wf := Memory.wf_clear h _ _

theorem Memory.read_eraseZoneFail (m : Memory) (nonce : Nat) (z : Zone) (x : Nat) :
    (m.eraseZoneFail nonce z).read x
      = if zoneBase z ≤ x ∧ x < zoneBase z + zoneBytes then Config.freeByte nonce x else m.read x :=
  Memory.read_remap _ _ _ _ _

theorem Memory.wf_eraseZoneFail {m : Memory} (h : m.wf) (nonce : Nat) (z : Zone) : (m.eraseZoneFail nonce z).wf :=
  Memory.wf_remap h _ _ _

theorem Memory.read_eraseZoneCut (m : Memory) (nonce : Nat) (z : Zone) (x : Nat) :
    (m.eraseZoneCut nonce z).read x
      = if zoneBase z ≤ x ∧ x < zoneBase z + zoneBytes then m.read x ||| Config.freeByte nonce x else m.read x :=
  Memory.read_remap _ _ _ _ _

theorem Memory.wf_eraseZoneCut {m : Memory} (h : m.wf) (nonce : Nat) (z : Zone) : (m.eraseZoneCut nonce z).wf :=
  Memory.wf_remap h _ _ _

/-! ### Little-endian fields -/

@[simp] theorem length_leBytes (n v : Nat) : (leBytes n v).length = n := by
  induction n generalizing v with
  | zero => rfl
  | succ n ih => simp [leBytes, ih]

theorem leNat_leBytes (n v : Nat) : leNat (leBytes n v) = v % 256 ^ n := by
  induction n generalizing v with
  | zero => simp [leBytes, leNat, Nat.mod_one]
  | succ n ih =>
    have h : leNat (leBytes (n + 1) v) = v % 256 + 256 * (v / 256 % 256 ^ n) := by
      show (BitVec.ofNat 8 v).toNat + 256 * leNat (leBytes n (v / 256)) = _
      rw [ih, BitVec.toNat_ofNat]
    rw [h, Nat.pow_succ, Nat.mul_comm (256 ^ n) 256, Nat.mod_mul]

theorem leNat_leBytes_of_lt {n v : Nat} (h : v < 256 ^ n) : leNat (leBytes n v) = v := by
  rw [leNat_leBytes, Nat.mod_eq_of_lt h]

/-- A field behind `k` bytes. -/
theorem slice_append (a b : List Byte) (n : Nat) : slice (a ++ b) a.length n = b.take n := by
  simp [slice]

theorem slice_prefix (a b : List Byte) : slice (a ++ b) 0 a.length = a := by simp [slice]

@[simp] theorem length_crcBytes (bs : List Byte) : (crcBytes bs).length = 2 := by simp [crcBytes]

@[simp] theorem length_withCrc (bs : List Byte) : (withCrc bs).length = bs.length + 2 := by simp [withCrc]

end Sys2Proof.Machine
end

