-- ==== Sys2Proof/Laws/Exec.lean ====
section
/-! SUPPORT. What a command can do to the machine outside the volatile state, said once for all commands: it answers a
next state, keeps the queue, and changes the array in one of four ways. -/

namespace Sys2Proof.Machine

/-! ### What a cut does -/

@[simp] theorem State.cutShort_pending (s : State) : s.cutShort.pending = s.pending := by
  unfold State.cutShort; dsimp only; (repeat' split) <;> rfl

@[simp] theorem State.cutShort_powered (s : State) : s.cutShort.powered = s.powered := by
  unfold State.cutShort; dsimp only; (repeat' split) <;> rfl

@[simp] theorem State.cutShort_dev (s : State) : s.cutShort.dev = s.dev := by
  unfold State.cutShort; dsimp only; (repeat' split) <;> rfl

/-! ### What a command does to the array -/

/-- How a command leaves the array: as it was, after the end of a PROGRAM, after the end of an ERASE, or cut short. -/
inductive FlashStep (s : State) (c : Instr) : Memory → Prop where
  | same : FlashStep s c s.flash
  | programmed (who : Requester) (o : ProgramOutcome) (p : PageAddr) (a : Nat) (data : List Byte) (b : Nat)
      (spare : List Byte) (hc : c.programEnd = some (who, o))
      (hop : s.dev.arc.op = some ⟨who, .program p a data b spare⟩) :
      FlashStep s c (if o = .ok
        then (Job.program p a data b spare).programOn s.flash
        else (Job.program p a data b spare).failOn s.flash s.freeCount)
  | erased (who : Requester) (o : EraseOutcome) (phase : ErasePhase) (z : Zone)
      (hc : c.eraseEnd = some (who, o)) (he : s.dev.arc.erase = some ⟨phase, z, who⟩) :
      FlashStep s c (if (o == .ok) = true then s.flash.eraseZone z else s.flash.eraseZoneFail s.freeCount z)
  | cut (hc : c = .powerLoss ∨ ∃ a b, c = .deviceReset a b ∨ c = .powerUp a b) : FlashStep s c s.cutShort.flash

/-- Every command answers a next state, keeps the queue, and leaves the array in one of the four ways. -/
def Answers (s : State) (c : Instr) (x : Host.Outcome State Fault Refusal) : Prop :=
  ∃ t, x = .next t ∧ t.pending = s.pending ∧ FlashStep s c t.flash

theorem State.act_answers (s : State) (c : Instr) (f : Dev → Dev) : Answers s c (s.act f) :=
  ⟨_, s.act_spec f, rfl, .same⟩

theorem State.programDone_answers (s : State) (c : Instr) (who : Requester) (o : ProgramOutcome)
    (f : Bool → Dev → Dev) (hc : c.programEnd = some (who, o)) : Answers s c (s.programDone who o f) := by
  unfold State.programDone
  split
  · next w p a data b spare h =>
    dsimp only
    split
    · next hw =>
      obtain ⟨_, rfl⟩ := hw
      exact ⟨_, rfl, rfl, .programmed w o p a data b spare hc h⟩
    · exact ⟨_, rfl, rfl, .same⟩
  · exact ⟨_, rfl, rfl, .same⟩

theorem State.eraseDone_answers (s : State) (c : Instr) (who : Requester) (o : EraseOutcome)
    (f : Bool → Memory → Zone → Dev → Dev) (hc : c.eraseEnd = some (who, o)) : Answers s c (s.eraseDone who o f) := by
  unfold State.eraseDone
  split
  · next phase z w h =>
    dsimp only
    split
    · next hw =>
      obtain ⟨_, rfl, _⟩ := hw
      exact ⟨_, rfl, rfl, .erased w o phase z hc h⟩
    · exact ⟨_, rfl, rfl, .same⟩
  · exact ⟨_, rfl, rfl, .same⟩

theorem execPowerUp_answers (a b : Bool) (s : State) : Answers s (.powerUp a b) (execPowerUp a b s) :=
  ⟨_, rfl, by simp [State.restart], .cut (.inr ⟨a, b, .inr rfl⟩)⟩

theorem execDeviceReset_answers (a b : Bool) (s : State) : Answers s (.deviceReset a b) (execDeviceReset a b s) := by
  unfold execDeviceReset
  split
  · exact ⟨_, rfl, by simp [State.restart], .cut (.inr ⟨a, b, .inl rfl⟩)⟩
  · exact ⟨_, rfl, rfl, .same⟩

theorem execPowerLoss_answers (s : State) : Answers s .powerLoss (execPowerLoss s) := by
  unfold execPowerLoss
  split
  · exact ⟨_, rfl, by simp, .cut (.inl rfl)⟩
  · exact ⟨_, rfl, rfl, .same⟩

theorem execLineChange_answers (l : Line) (x : Bool) (s : State) : Answers s (.lineChange l x) (execLineChange l x s) := by
  unfold execLineChange
  refine ⟨_, rfl, rfl, ?_⟩
  dsimp only
  exact .same

/-- What every command answers. -/
theorem exec_answers (c : Instr) (s : State) : Answers s c (exec c s) := by
  cases c with
  | powerUp a b => exact execPowerUp_answers a b s
  | deviceReset a b => exact execDeviceReset_answers a b s
  | powerLoss => exact execPowerLoss_answers s
  | lineChange l x => exact execLineChange_answers l x s
  | commitProgramDone o =>
    show Answers s _ (execCommitProgramDone o s)
    unfold execCommitProgramDone; exact s.programDone_answers _ .commit o _ rfl
  | voidMarkDone o =>
    show Answers s _ (execVoidMarkDone o s)
    unfold execVoidMarkDone; exact s.programDone_answers _ .voidMark o _ rfl
  | journalProgramDone o =>
    show Answers s _ (execJournalProgramDone o s)
    unfold execJournalProgramDone; exact s.programDone_answers _ .journal o _ rfl
  | imageProgramDone o =>
    show Answers s _ (execImageProgramDone o s)
    unfold execImageProgramDone; exact s.programDone_answers _ .image o _ rfl
  | historyFlushDone o =>
    show Answers s _ (execHistoryFlushDone o s)
    unfold execHistoryFlushDone; exact s.programDone_answers _ .flush o _ rfl
  | settingsProgramDone o =>
    show Answers s _ (execSettingsProgramDone o s)
    unfold execSettingsProgramDone; exact s.programDone_answers _ .save o _ rfl
  | reclaimEraseDone o =>
    show Answers s _ (execReclaimEraseDone o s)
    unfold execReclaimEraseDone; exact s.eraseDone_answers _ .reclaim o _ rfl
  | ringEraseDone o =>
    show Answers s _ (execRingEraseDone o s)
    unfold execRingEraseDone; exact s.eraseDone_answers _ .ringPrep o _ rfl
  | spareZoneEraseDone o =>
    show Answers s _ (execSpareZoneEraseDone o s)
    unfold execSpareZoneEraseDone; exact s.eraseDone_answers _ .dirErase o _ rfl
  | settingsZoneEraseDone o =>
    show Answers s _ (execSettingsZoneEraseDone o s)
    unfold execSettingsZoneEraseDone; exact s.eraseDone_answers _ .settingsErase o _ rfl
  | openStream port tag payload =>
    show Answers s _ (execOpenStream port tag payload s)
    unfold execOpenStream; exact s.act_answers _ _
  | append port tag payload =>
    show Answers s _ (execAppend port tag payload s)
    unfold execAppend; exact s.act_answers _ _
  | withdraw port tag payload =>
    show Answers s _ (execWithdraw port tag payload s)
    unfold execWithdraw; exact s.act_answers _ _
  | logEvent port tag payload =>
    show Answers s _ (execLogEvent port tag payload s)
    unfold execLogEvent; exact s.act_answers _ _
  | declare port tag payload =>
    show Answers s _ (execDeclare port tag payload s)
    unfold execDeclare; exact s.act_answers _ _
  | getStatus port tag payload =>
    show Answers s _ (execGetStatus port tag payload s)
    unfold execGetStatus; exact s.act_answers _ _
  | nextNotice port tag payload =>
    show Answers s _ (execNextNotice port tag payload s)
    unfold execNextNotice; exact s.act_answers _ _
  | readParams port tag payload =>
    show Answers s _ (execReadParams port tag payload s)
    unfold execReadParams; exact s.act_answers _ _
  | listIncidents port tag payload =>
    show Answers s _ (execListIncidents port tag payload s)
    unfold execListIncidents; exact s.act_answers _ _
  | readIncident port tag payload =>
    show Answers s _ (execReadIncident port tag payload s)
    unfold execReadIncident; exact s.act_answers _ _
  | readStream port tag payload =>
    show Answers s _ (execReadStream port tag payload s)
    unfold execReadStream; exact s.act_answers _ _
  | readMore port tag payload =>
    show Answers s _ (execReadMore port tag payload s)
    unfold execReadMore; exact s.act_answers _ _
  | readHistory port tag payload =>
    show Answers s _ (execReadHistory port tag payload s)
    unfold execReadHistory; exact s.act_answers _ _
  | release port tag payload =>
    show Answers s _ (execRelease port tag payload s)
    unfold execRelease; exact s.act_answers _ _
  | hold port tag payload =>
    show Answers s _ (execHold port tag payload s)
    unfold execHold; exact s.act_answers _ _
  | unhold port tag payload =>
    show Answers s _ (execUnhold port tag payload s)
    unfold execUnhold; exact s.act_answers _ _
  | locate port tag payload =>
    show Answers s _ (execLocate port tag payload s)
    unfold execLocate; exact s.act_answers _ _
  | setWalltime port tag payload =>
    show Answers s _ (execSetWalltime port tag payload s)
    unfold execSetWalltime; exact s.act_answers _ _
  | getSettings port tag payload =>
    show Answers s _ (execGetSettings port tag payload s)
    unfold execGetSettings; exact s.act_answers _ _
  | putSettings port tag payload =>
    show Answers s _ (execPutSettings port tag payload s)
    unfold execPutSettings; exact s.act_answers _ _
  | saveSettings port tag payload =>
    show Answers s _ (execSaveSettings port tag payload s)
    unfold execSaveSettings; exact s.act_answers _ _
  | unknownRequest port code tag payload =>
    show Answers s _ (execUnknownRequest port code tag payload s)
    unfold execUnknownRequest; exact s.act_answers _ _
  | frameError port frame =>
    show Answers s _ (execFrameError port frame s)
    unfold execFrameError; exact s.act_answers _ _
  | overlapFrame port frame =>
    show Answers s _ (execOverlapFrame port frame s)
    unfold execOverlapFrame; exact s.act_answers _ _
  | fetch port count =>
    show Answers s _ (execFetch port count s)
    unfold execFetch; exact s.act_answers _ _
  | linkReset port =>
    show Answers s _ (execLinkReset port s)
    unfold execLinkReset; exact s.act_answers _ _
  | svcFrameGap =>
    show Answers s _ (execSvcFrameGap s)
    unfold execSvcFrameGap; exact s.act_answers _ _
  | filterExpiry line =>
    show Answers s _ (execFilterExpiry line s)
    unfold execFilterExpiry; exact s.act_answers _ _
  | captureWindowExpiry =>
    show Answers s _ (execCaptureWindowExpiry s)
    unfold execCaptureWindowExpiry; exact s.act_answers _ _
  | captureLimitExpiry =>
    show Answers s _ (execCaptureLimitExpiry s)
    unfold execCaptureLimitExpiry; exact s.act_answers _ _
  | holdupDeadlineExpiry =>
    show Answers s _ (execHoldupDeadlineExpiry s)
    unfold execHoldupDeadlineExpiry; exact s.act_answers _ _
  | rechargeExpiry =>
    show Answers s _ (execRechargeExpiry s)
    unfold execRechargeExpiry; exact s.act_answers _ _
  | flushIntervalExpiry =>
    show Answers s _ (execFlushIntervalExpiry s)
    unfold execFlushIntervalExpiry; exact s.act_answers _ _
  | locateExpiry =>
    show Answers s _ (execLocateExpiry s)
    unfold execLocateExpiry; exact s.act_answers _ _
  | eraseRunTimer =>
    show Answers s _ (execEraseRunTimer s)
    unfold execEraseRunTimer; exact s.act_answers _ _
  | eraseSuspended =>
    show Answers s _ (execEraseSuspended s)
    unfold execEraseSuspended; exact s.act_answers _ _
  | arbiterGrant =>
    show Answers s _ (execArbiterGrant s)
    unfold execArbiterGrant; exact s.act_answers _ _
  | streamReadDone =>
    show Answers s _ (execStreamReadDone s)
    unfold execStreamReadDone; exact s.act_answers _ _
  | historyReadDone =>
    show Answers s _ (execHistoryReadDone s)
    unfold execHistoryReadDone; exact s.act_answers _ _
  | recoveryReadDone =>
    show Answers s _ (execRecoveryReadDone s)
    unfold execRecoveryReadDone; exact s.act_answers _ _
  | captureWaiterServed =>
    show Answers s _ (execCaptureWaiterServed s)
    unfold execCaptureWaiterServed; exact s.act_answers _ _
  | maintenanceWaiterAccepted =>
    show Answers s _ (execMaintenanceWaiterAccepted s)
    unfold execMaintenanceWaiterAccepted; exact s.act_answers _ _
  | streamRelease slot =>
    show Answers s _ (execStreamRelease slot s)
    unfold execStreamRelease; exact s.act_answers _ _
  | incidentKept =>
    show Answers s _ (execIncidentKept s)
    unfold execIncidentKept; exact s.act_answers _ _
  | passToClosing =>
    show Answers s _ (execPassToClosing s)
    unfold execPassToClosing; exact s.act_answers _ _
  | loadPoint =>
    show Answers s _ (execLoadPoint s)
    unfold execLoadPoint; exact s.act_answers _ _
  | compactionStart =>
    show Answers s _ (execCompactionStart s)
    unfold execCompactionStart; exact s.act_answers _ _
  | reclaimStart =>
    show Answers s _ (execReclaimStart s)
    unfold execReclaimStart; exact s.act_answers _ _

end Sys2Proof.Machine
end

