-- ==== Sys2Proof/Laws/Halt.lean ====
section
/-! SUPPORT. R122's flag and count: every operation of the History Unit keeps `Hiu.haltFlagged`, and what a release does
while enough zones stay unpinned leaves history open. -/

namespace Sys2Proof.Machine

/-! ### The count -/

/-- The count does not fall where no zone stops counting. -/
theorem Hiu.unpinnedZones_mono {a b : Hiu} (h : ∀ k : RingIdx, (a.ring[k]).spare = true → (b.ring[k]).spare = true) :
    a.unpinnedZones ≤ b.unpinnedZones := by
  rw [a.unpinnedZones_eq, b.unpinnedZones_eq, ← List.countP_eq_length_filter, ← List.countP_eq_length_filter]
  exact List.countP_mono_left fun k _ hk => h k hk

/-- A change of one zone lowers the count by one at most. -/
theorem Hiu.unpinnedZones_le_succ {a b : Hiu} (k : RingIdx)
    (h : ∀ j : RingIdx, j ≠ k → (a.ring[j]).spare = true → (b.ring[j]).spare = true) :
    a.unpinnedZones ≤ b.unpinnedZones + 1 := by
  rw [a.unpinnedZones_eq, b.unpinnedZones_eq, ← List.countP_eq_length_filter, ← List.countP_eq_length_filter]
  have one : ∀ k : RingIdx, (List.finRange 16).countP (· == k) ≤ 1 := by decide
  have both : ∀ (p q r : RingIdx → Bool) (l : List RingIdx), (∀ j ∈ l, p j = true → q j = true ∨ r j = true) →
      l.countP p ≤ l.countP q + l.countP r := by
    intro p q r l
    induction l with
    | nil => simp
    | cons x l ih =>
      intro hl
      have := ih fun j hj => hl j (List.mem_cons_of_mem _ hj)
      have hx := hl x (List.mem_cons_self ..)
      simp only [List.countP_cons]
      split <;> rename_i px
      · rcases hx px with q' | r' <;> simp_all <;> split <;> omega
      · split <;> split <;> omega
  refine (both _ _ (· == k) _ fun j _ hj => ?_).trans (Nat.add_le_add_left (one k) _)
  by_cases e : j = k
  · exact .inr (by simpa using e)
  · exact .inl (h j e hj)

/-- A change of one zone that keeps it counting stops no zone counting. -/
theorem spare_modify (v : Vector RingZone 16) (i j : RingIdx) (f : RingZone → RingZone)
    (hf : (v[i]).spare = true → (f v[i]).spare = true) (h : (v[j]).spare = true) :
    ((modify v i f)[j]).spare = true := by
  rw [get_modify]; split
  · subst_vars; exact hf h
  · exact h

/-- The invariant holds on where the flag does not clear and no zone stops counting. -/
theorem Hiu.haltFlagged.mono {a b : Hiu} (f : a.haltFlagged) (hh : b.halted = false → a.halted = false)
    (h : ∀ k : RingIdx, (a.ring[k]).spare = true → (b.ring[k]).spare = true) : b.haltFlagged :=
  fun x => (f (hh x)).trans (Hiu.unpinnedZones_mono h)

/-- The invariant holds on where the flag and the ring stay. -/
theorem Hiu.haltFlagged.same {a b : Hiu} (f : a.haltFlagged) (hh : b.halted = a.halted) (hr : b.ring = a.ring) :
    b.haltFlagged := f.mono (fun x => hh ▸ x) (fun k hk => by rw [hr]; exact hk)

/-- The test of R122 makes the invariant hold. -/
theorem Dev.haltTest_haltFlagged (d : Dev) : d.haltTest.hiu.haltFlagged := by
  unfold Dev.haltTest
  dsimp only
  split
  · intro h; simp [Dev.setHiu] at h
  · next h => intro f; by_contra c; exact h ⟨by omega, f⟩

theorem Dev.haltTest_of_le {d : Dev} (h : 2 ≤ d.hiu.unpinnedZones) : d.haltTest = d := by
  unfold Dev.haltTest
  dsimp only
  rw [if_neg (by omega)]

/-! ### The moves of the History Unit keep the invariant -/

theorem Dev.activate_haltFlagged (d : Dev) (k : RingIdx) : (d.activate k).hiu.haltFlagged := Dev.haltTest_haltFlagged _

theorem Dev.prepare_haltFlagged {d : Dev} (f : d.hiu.haltFlagged) (k : RingIdx) : (d.prepare k).hiu.haltFlagged :=
  f.mono (fun x => x) fun _ hj => spare_modify _ _ _ _ (fun s => by
    simp only [RingZone.spare, Bool.and_eq_true] at s ⊢; exact ⟨rfl, s.2⟩) hj

theorem Dev.prepTest_haltFlagged {d : Dev} (f : d.hiu.haltFlagged) : d.prepTest.hiu.haltFlagged := by
  unfold Dev.prepTest
  (repeat' split) <;> first | exact f | exact Dev.prepare_haltFlagged f _

/-- A zone that fills stays one that counts. -/
theorem Dev.ringAdvance_haltFlagged {d : Dev} (f : d.hiu.haltFlagged) (k : RingIdx) :
    (d.ringAdvance k).hiu.haltFlagged := by
  unfold Dev.ringAdvance
  dsimp only
  refine Dev.prepTest_haltFlagged ?_
  (repeat' split) <;> first
    | exact Dev.activate_haltFlagged _ _
    | exact f.mono (fun x => x) fun _ hj => spare_modify _ _ _ _ (fun s => by
        simp only [RingZone.spare, Bool.and_eq_true] at s ⊢; exact ⟨rfl, s.2⟩) hj

theorem Dev.pageAdvance_haltFlagged {d : Dev} (f : d.hiu.haltFlagged) : d.pageAdvance.hiu.haltFlagged := by
  unfold Dev.pageAdvance
  (repeat' split) <;> first | exact f | exact Dev.ringAdvance_haltFlagged f _

theorem Dev.takeEntry_haltFlagged {d : Dev} (f : d.hiu.haltFlagged) (body : HBody) (severity : Nat) (source : Source)
    (code : Nat) : (d.takeEntry body severity source code).hiu.haltFlagged := by
  unfold Dev.takeEntry
  refine f.mono (fun x => ?_) fun k hk => ?_
  · simp only [Dev.setHiu] at x
    split at x <;> simp_all [Hiu.markTo]
    split at x <;> simp_all
  · simp only [Dev.setHiu]
    split
    · unfold Hiu.markTo; split <;> exact hk
    · exact hk

theorem Dev.gapTest_haltFlagged {d : Dev} (f : d.hiu.haltFlagged) : d.gapTest.hiu.haltFlagged := by
  unfold Dev.gapTest
  split
  · exact (Dev.takeEntry_haltFlagged f _ _ _ _).same rfl rfl
  · exact f

theorem Dev.stageHead_haltFlagged {d : Dev} (f : d.hiu.haltFlagged) (e : HEntry) (rest : List HEntry) :
    (d.stageHead e rest).hiu.haltFlagged := by
  unfold Dev.stageHead
  refine Dev.gapTest_haltFlagged ?_
  split
  · refine f.same ?_ ?_ <;> unfold Dev.armFlush <;> split <;> rfl
  · exact f.same rfl rfl

theorem Dev.moveOnce_haltFlagged {d e : Dev} (f : d.hiu.haltFlagged) (h : d.moveOnce = some e) :
    e.hiu.haltFlagged := by
  have m : ∀ n, ((d.setHiu fun h => { h.markTo n with closed := true }).hiu).haltFlagged := fun n =>
    f.same (by simp only [Dev.setHiu]; unfold Hiu.markTo; split <;> rfl)
      (by simp only [Dev.setHiu]; unfold Hiu.markTo; split <;> rfl)
  unfold Dev.moveOnce at h
  dsimp only at h
  (repeat' split at h) <;> first
    | contradiction
    | (obtain rfl := Option.some.inj h; first
        | exact Dev.stageHead_haltFlagged f _ _
        | exact m _
        | exact Dev.pageAdvance_haltFlagged (m _))

theorem Dev.hiuMove_haltFlagged {d : Dev} (f : d.hiu.haltFlagged) : d.hiuMove.hiu.haltFlagged := by
  have loop : ∀ (n : Nat) (d : Dev), d.hiu.haltFlagged → (d.moveLoop n).hiu.haltFlagged := by
    intro n
    induction n with
    | zero => intro d f; exact f
    | succ n ih =>
      intro d f
      unfold Dev.moveLoop
      split
      · next h => exact ih _ (Dev.moveOnce_haltFlagged f h)
      · exact f
  exact loop _ _ f

theorem Dev.offerSeq_haltFlagged {d : Dev} (f : d.hiu.haltFlagged) (body : HBody) (severity : Nat) (source : Source)
    (code : Nat) : (d.offerSeq body severity source code).dev.hiu.haltFlagged := by
  unfold Dev.offerSeq
  split
  · exact Dev.hiuMove_haltFlagged (Dev.takeEntry_haltFlagged f _ _ _ _)
  · exact f.same (by simp [Dev.setHiu]) (by simp [Dev.setHiu])

theorem Dev.event_haltFlagged {d : Dev} (f : d.hiu.haltFlagged) (code severity : Nat) (body : HBody) :
    (d.event code severity body).hiu.haltFlagged := Dev.offerSeq_haltFlagged f _ _ _ _

theorem Dev.markedEvent_haltFlagged {d : Dev} (f : d.hiu.haltFlagged) (code severity : Nat) (body : HBody) :
    (d.markedEvent code severity body).dev.hiu.haltFlagged := by
  unfold Dev.markedEvent
  refine (Dev.offerSeq_haltFlagged f body severity .internal code).same ?_ ?_ <;>
    simp only [Dev.setHiu] <;> unfold Hiu.markTo <;> split <;> rfl

theorem Dev.awaitTest_haltFlagged {d : Dev} (f : d.hiu.haltFlagged) : d.awaitTest.hiu.haltFlagged := by
  unfold Dev.awaitTest
  (repeat' split) <;> first
    | exact f
    | exact Dev.hiuMove_haltFlagged (Dev.prepTest_haltFlagged (Dev.activate_haltFlagged _ _))

theorem Dev.resumeTest_haltFlagged {d : Dev} (f : d.hiu.haltFlagged) : d.resumeTest.hiu.haltFlagged := by
  unfold Dev.resumeTest
  split
  · next h =>
    refine Dev.awaitTest_haltFlagged (Dev.hiuMove_haltFlagged (Dev.gapTest_haltFlagged fun _ => ?_))
    exact h.1
  · exact f

/-- A pin set that loses a number counts as much as before. -/
theorem Hiu.dropPins_haltFlagged {h : Hiu} (f : h.haltFlagged) (number : Nat) : (h.dropPins number).haltFlagged :=
  f.mono (fun x => x) fun k hk => by
    simp only [RingZone.spare, Bool.and_eq_true, List.isEmpty_iff] at hk ⊢
    simp only [Hiu.dropPins, Fin.getElem_fin, Vector.getElem_map]
    exact ⟨hk.1, by rw [show (h.ring[k.val]).pins = [] from hk.2]; rfl⟩

theorem Dev.unpin_haltFlagged {d : Dev} (f : d.hiu.haltFlagged) (number : Nat) : (d.unpin number).hiu.haltFlagged :=
  Dev.resumeTest_haltFlagged (Dev.prepTest_haltFlagged (Dev.awaitTest_haltFlagged (Hiu.dropPins_haltFlagged f number)))

theorem Dev.pinWindow_haltFlagged {d : Dev} (f : d.hiu.haltFlagged) (number : Nat) (trigger : Option Nat) :
    (d.pinWindow number trigger).1.hiu.haltFlagged := by
  unfold Dev.pinWindow
  dsimp only
  split
  · exact f
  · exact Dev.haltTest_haltFlagged _

theorem Dev.settle_haltFlagged {d : Dev} (f : d.hiu.haltFlagged) : d.settle.hiu.haltFlagged := by
  have h := d.settle_settlesTo
  unfold Dev.settlesTo at h
  rw [h]
  exact f.same rfl rfl

theorem Dev.prepEnds_erased_haltFlagged {d : Dev} (f : d.hiu.haltFlagged) : (d.prepEnds .erased).hiu.haltFlagged := by
  unfold Dev.prepEnds
  split
  · exact f.mono (fun x => x) fun _ hj => spare_modify _ _ _ _ (fun s => by
      simp only [RingZone.spare, Bool.and_eq_true] at s ⊢; exact ⟨rfl, s.2⟩) hj
  · exact f

theorem Dev.ringErased_haltFlagged {d : Dev} (f : d.hiu.haltFlagged) (ok : Bool) (flash : Memory) (z : Zone) :
    (d.ringErased ok flash z).hiu.haltFlagged := by
  unfold Dev.ringErased
  split
  · exact Dev.prepTest_haltFlagged (Dev.awaitTest_haltFlagged (Dev.prepEnds_erased_haltFlagged f))
  · exact Dev.prepTest_haltFlagged (Dev.haltTest_haltFlagged _)

theorem Dev.flushEnds_haltFlagged {d : Dev} (f : d.hiu.haltFlagged) : d.flushEnds.hiu.haltFlagged := by
  have a : ∀ x : Dev, x.armFlush.hiu = x.hiu := fun x => by unfold Dev.armFlush; split <;> rfl
  unfold Dev.flushEnds
  dsimp only
  split
  · exact f.same rfl rfl
  · rw [a]; exact f.same rfl rfl

theorem Dev.flushOk_haltFlagged {d : Dev} (f : d.hiu.haltFlagged) (t : WritePage) : (d.flushOk t).hiu.haltFlagged := by
  have r : ∀ (z : RingZone) (l : List HEntry), z.spare = true → (z.flushed l).spare = true := fun z l h => by
    unfold RingZone.flushed; split <;> exact h
  unfold Dev.flushOk
  refine Dev.hiuMove_haltFlagged ?_
  have g : (d.setHiu fun h =>
      { h with
        staging := h.staging.drop h.flushing
        target := some { t with programmed := t.programmed + entriesSize (d.hiu.staging.take d.hiu.flushing) }
        ring := modify h.ring t.zone (·.flushed (d.hiu.staging.take d.hiu.flushing)) }).flushEnds.hiu.haltFlagged :=
    Dev.flushEnds_haltFlagged (f.mono (fun x => x) fun _ hj => spare_modify _ _ _ _ (r _ _) hj)
  split
  · exact Dev.pageAdvance_haltFlagged g
  · exact g

theorem Dev.flushFail_haltFlagged {d : Dev} (f : d.hiu.haltFlagged) : d.flushFail.hiu.haltFlagged :=
  Dev.hiuMove_haltFlagged (Dev.pageAdvance_haltFlagged (Dev.flushEnds_haltFlagged (f.same rfl rfl)))

/-! ### A release that leaves history open -/

/-- History is open with no loss counted, no pin deferred and 2 zones that count. -/
def Hiu.openly (h : Hiu) : Prop := h.lost = 0 ∧ h.deferred = [] ∧ 2 ≤ h.unpinnedZones ∧ h.halted = false

/-- What the moves of an open history keep: it stays open, no number is given, and the intake queue does not grow. -/
def Hiu.staysOpen (a b : Hiu) : Prop := b.openly ∧ b.nextSeq = a.nextSeq ∧ b.intake.length ≤ a.intake.length

theorem Hiu.staysOpen.trans {a b c : Hiu} (h : a.staysOpen b) (g : b.staysOpen c) : a.staysOpen c :=
  ⟨g.1, g.2.1.trans h.2.1, g.2.2.trans h.2.2⟩

theorem Hiu.openly.self {a : Hiu} (h : a.openly) : a.staysOpen a := ⟨h, rfl, le_rfl⟩

/-- A change of the ring that stops no zone counting keeps history open. -/
theorem Hiu.openly.mono {a b : Hiu} (h : a.openly) (hl : b.lost = a.lost) (hd : b.deferred = a.deferred)
    (hh : b.halted = a.halted) (hn : b.nextSeq = a.nextSeq) (hi : b.intake.length ≤ a.intake.length)
    (hr : ∀ k : RingIdx, (a.ring[k]).spare = true → (b.ring[k]).spare = true) : a.staysOpen b :=
  ⟨⟨hl.trans h.1, hd.trans h.2.1, h.2.2.1.trans (Hiu.unpinnedZones_mono hr), hh.trans h.2.2.2⟩, hn, hi⟩

theorem Dev.prepare_staysOpen {d : Dev} (h : d.hiu.openly) (k : RingIdx) : d.hiu.staysOpen (d.prepare k).hiu :=
  h.mono rfl rfl rfl rfl le_rfl fun _ hj => spare_modify _ _ _ _ (fun s => by
    simp only [RingZone.spare, Bool.and_eq_true] at s ⊢; exact ⟨rfl, s.2⟩) hj

theorem Dev.prepTest_staysOpen {d : Dev} (h : d.hiu.openly) : d.hiu.staysOpen d.prepTest.hiu := by
  unfold Dev.prepTest
  (repeat' split) <;> first | exact h.self | exact Dev.prepare_staysOpen h _

theorem Dev.activate_staysOpen {d : Dev} (h : d.hiu.openly) (k : RingIdx) : d.hiu.staysOpen (d.activate k).hiu := by
  have o : d.hiu.staysOpen (d.setHiu fun h =>
      { h with
        ring := modify h.ring k fun z => { z with state := .active, pins := h.deferred ++ z.pins }
        deferred := []
        target := some ⟨k, 0, 0⟩
        newest := k
        closed := false }).hiu :=
    h.mono rfl h.2.1.symm rfl rfl le_rfl fun _ hj => spare_modify _ _ _ _ (fun s => by
      simp only [RingZone.spare, Bool.and_eq_true, h.2.1] at s ⊢; exact ⟨rfl, s.2⟩) hj
  unfold Dev.activate
  rw [Dev.haltTest_of_le o.1.2.2.1]
  exact o

theorem Dev.ringAdvance_staysOpen {d : Dev} (h : d.hiu.openly) (k : RingIdx) :
    d.hiu.staysOpen (d.ringAdvance k).hiu := by
  have o : d.hiu.staysOpen (d.setHiu fun h =>
      { h with
        ring := modify h.ring k fun z => { z with state := .filled }
        newest := k
        target := none
        closed := false }).hiu :=
    h.mono rfl rfl rfl rfl le_rfl fun _ hj => spare_modify _ _ _ _ (fun s => by
      simp only [RingZone.spare, Bool.and_eq_true] at s ⊢; exact ⟨rfl, s.2⟩) hj
  unfold Dev.ringAdvance
  refine Hiu.staysOpen.trans ?_ (Dev.prepTest_staysOpen ?_)
  all_goals
    split
    · split
      · first | exact o.trans (Dev.activate_staysOpen o.1 _) | exact (Dev.activate_staysOpen o.1 _).1
      · first | exact o | exact o.1
    · first | exact o | exact o.1

theorem Dev.pageAdvance_staysOpen {d : Dev} (h : d.hiu.openly) : d.hiu.staysOpen d.pageAdvance.hiu := by
  unfold Dev.pageAdvance
  (repeat' split) <;> first
    | exact h.self
    | exact Dev.ringAdvance_staysOpen h _

theorem Dev.gapTest_of_none {d : Dev} (h : d.hiu.lost = 0) : d.gapTest = d := by
  unfold Dev.gapTest; rw [if_neg fun c => c.1 h]

theorem Dev.moveOnce_staysOpen {d e : Dev} (h : d.hiu.openly) (m : d.moveOnce = some e) : d.hiu.staysOpen e.hiu := by
  have stage : ∀ e rest, d.hiu.intake = e :: rest → d.hiu.staysOpen (d.stageHead e rest).hiu := fun e rest q => by
    have a : (if d.hiu.staging.isEmpty then d.armFlush else d).hiu = d.hiu := by
      split
      · unfold Dev.armFlush; split <;> rfl
      · rfl
    unfold Dev.stageHead
    dsimp only
    rw [Dev.gapTest_of_none (by simp only [Dev.setHiu, a]; exact h.1)]
    simp only [Dev.setHiu, a]
    exact h.mono rfl rfl rfl rfl (by simp [q]) fun _ hj => hj
  have mark : ∀ n, d.hiu.staysOpen (d.setHiu fun h => { h.markTo n with closed := true }).hiu := fun n => by
    simp only [Dev.setHiu]
    unfold Hiu.markTo
    split <;> exact h.mono rfl rfl rfl rfl le_rfl fun _ hj => hj
  unfold Dev.moveOnce at m
  dsimp only at m
  (repeat' split at m) <;> first
    | contradiction
    | (obtain rfl := Option.some.inj m; first
        | exact stage _ _ ‹_›
        | exact mark _
        | exact (mark _).trans (Dev.pageAdvance_staysOpen (mark _).1))

theorem Dev.hiuMove_staysOpen {d : Dev} (h : d.hiu.openly) : d.hiu.staysOpen d.hiuMove.hiu := by
  have loop : ∀ (n : Nat) (d : Dev), d.hiu.openly → d.hiu.staysOpen (d.moveLoop n).hiu := by
    intro n
    induction n with
    | zero => intro d h; exact h.self
    | succ n ih =>
      intro d h
      unfold Dev.moveLoop
      split
      · next m =>
        have o := Dev.moveOnce_staysOpen h m
        exact o.trans (ih _ o.1)
      · exact h.self
  exact loop _ _ h

theorem Dev.resumeTest_of_open {d : Dev} (h : d.hiu.halted = false) : d.resumeTest = d := by
  unfold Dev.resumeTest
  rw [if_neg (by simp [h])]

/-- What ring preparation leaves of the intake. -/
theorem Dev.prepTest_intake (d : Dev) : d.prepTest.hiu.lost = d.hiu.lost ∧ d.prepTest.hiu.halted = d.hiu.halted
    ∧ d.prepTest.hiu.nextSeq = d.hiu.nextSeq ∧ d.prepTest.hiu.intake = d.hiu.intake := by
  unfold Dev.prepTest
  (repeat' split) <;> exact ⟨rfl, rfl, rfl, rfl⟩

/-- The activation that R120 makes leaves history open where 2 zones count without the deferred pins, or 3 with them. -/
theorem Dev.awaitTest_intake {d : Dev} (hl : d.hiu.lost = 0) (hh : d.hiu.halted = false) (hu : 2 ≤ d.hiu.unpinnedZones)
    (hp : d.hiu.target ≠ none ∨ d.hiu.deferred = [] ∨ 3 ≤ d.hiu.unpinnedZones) :
    d.awaitTest.hiu.lost = 0 ∧ d.awaitTest.hiu.halted = false ∧ d.awaitTest.hiu.nextSeq = d.hiu.nextSeq
      ∧ d.awaitTest.hiu.intake.length ≤ d.hiu.intake.length := by
  unfold Dev.awaitTest
  split
  · exact ⟨hl, hh, rfl, le_rfl⟩
  next ht =>
  have hp : d.hiu.deferred = [] ∨ 3 ≤ d.hiu.unpinnedZones := by
    rcases hp with h | h
    · exact absurd (by simpa using ht) h
    · exact h
  split
  · next k _ =>
    split
    · let b : Dev := d.setHiu fun h =>
        { h with
          ring := modify h.ring k fun z => { z with state := .active, pins := h.deferred ++ z.pins }
          deferred := []
          target := some ⟨k, 0, 0⟩
          newest := k
          closed := false }
      have ub : 2 ≤ b.hiu.unpinnedZones := by
        rcases hp with e | e
        · refine hu.trans (Hiu.unpinnedZones_mono fun _ hj => spare_modify _ _ _ _ (fun s => ?_) hj)
          simp only [RingZone.spare, Bool.and_eq_true, e] at s ⊢; exact ⟨rfl, s.2⟩
        · have : d.hiu.unpinnedZones ≤ b.hiu.unpinnedZones + 1 :=
            Hiu.unpinnedZones_le_succ k fun j hj s => by
              show ((modify d.hiu.ring k _)[j]).spare = true
              rw [get_modify, if_neg (Ne.symm hj)]; exact s
          omega
      have o : b.hiu.openly := ⟨hl, rfl, ub, hh⟩
      have ea : d.activate k = b := Dev.haltTest_of_le ub
      have s := (Dev.prepTest_staysOpen o).trans (Dev.hiuMove_staysOpen (Dev.prepTest_staysOpen o).1)
      rw [ea]
      exact ⟨s.1.1, s.1.2.2.2, s.2.1, s.2.2⟩
    · exact ⟨hl, hh, rfl, le_rfl⟩
  · exact ⟨hl, hh, rfl, le_rfl⟩

/-- After such a release an entry can still be taken, with the number that was next. -/
theorem Dev.unpin_canTake {d : Dev} (number : Nat) (hl : d.hiu.lost = 0) (hc : d.hiu.canTake = true)
    (hu : 2 ≤ (d.hiu.dropPins number).unpinnedZones)
    (hp : d.hiu.target ≠ none ∨ (d.hiu.dropPins number).deferred = [] ∨ 3 ≤ (d.hiu.dropPins number).unpinnedZones) :
    (d.unpin number).hiu.canTake = true ∧ (d.unpin number).hiu.nextSeq = d.hiu.nextSeq := by
  simp only [Hiu.canTake, Bool.and_eq_true, decide_eq_true_eq, Bool.not_eq_true'] at hc ⊢
  have a := Dev.awaitTest_intake (d := d.setHiu (·.dropPins number)) hl hc.1.2 hu hp
  have b := Dev.prepTest_intake (d.setHiu (·.dropPins number)).awaitTest
  have h : (d.setHiu (·.dropPins number)).awaitTest.prepTest.hiu.halted = false := b.2.1.trans a.2.1
  unfold Dev.unpin
  rw [Dev.resumeTest_of_open h]
  have n : (d.setHiu (·.dropPins number)).awaitTest.prepTest.hiu.nextSeq = d.hiu.nextSeq := b.2.2.1.trans a.2.2.1
  refine ⟨⟨⟨?_, h⟩, n ▸ hc.2⟩, n⟩
  rw [b.2.2.2]
  exact a.2.2.2.trans_lt hc.1.1

end Sys2Proof.Machine
end

