-- ==== Sys2Proof/Laws/PerInstr.lean ====
section
/-! SUPPORT. The form of every command, constructor by constructor: a well-formed request carries at most 520 payload
bytes, and a completion ends an operation of its own kind alone. -/

namespace Sys2Proof.Laws.CommandForm

/-- The payload of a command that carries one. -/
def payload : Instr → List Byte
  | .openStream _ _ b | .append _ _ b | .withdraw _ _ b | .logEvent _ _ b | .declare _ _ b | .getStatus _ _ b
  | .nextNotice _ _ b | .readParams _ _ b | .listIncidents _ _ b | .readIncident _ _ b | .readStream _ _ b
  | .readMore _ _ b | .readHistory _ _ b | .release _ _ b | .hold _ _ b | .unhold _ _ b | .locate _ _ b
  | .setWalltime _ _ b | .getSettings _ _ b | .putSettings _ _ b | .saveSettings _ _ b | .unknownRequest _ _ _ b => b
  | _ => []

/-- What the form of a command says. -/
def Statement (i : Instr) : Prop :=
  (i.wellFormed = true → (payload i).length ≤ 520)
    ∧ (i.programEnd ≠ none → i.endsProgram = true ∧ i.endsErase = false)
    ∧ (i.eraseEnd ≠ none → i.endsErase = true ∧ i.endsProgram = false)

/-- Every command has this form. -/
theorem all (i : Instr) : Statement i := by
  cases i <;>
    simp +contextual [Statement, payload, Instr.wellFormed, payloadFits, Instr.programEnd, Instr.eraseEnd,
      Instr.endsProgram, Instr.endsErase]

theorem openStream (port : Port) (tag : Byte) (payload : List Byte) : Statement (.openStream port tag payload) := all _

theorem append (port : Port) (tag : Byte) (payload : List Byte) : Statement (.append port tag payload) := all _

theorem withdraw (port : Port) (tag : Byte) (payload : List Byte) : Statement (.withdraw port tag payload) := all _

theorem logEvent (port : Port) (tag : Byte) (payload : List Byte) : Statement (.logEvent port tag payload) := all _

theorem declare (port : Port) (tag : Byte) (payload : List Byte) : Statement (.declare port tag payload) := all _

theorem getStatus (port : Port) (tag : Byte) (payload : List Byte) : Statement (.getStatus port tag payload) := all _

theorem nextNotice (port : Port) (tag : Byte) (payload : List Byte) : Statement (.nextNotice port tag payload) := all _

theorem readParams (port : Port) (tag : Byte) (payload : List Byte) : Statement (.readParams port tag payload) := all _

theorem listIncidents (port : Port) (tag : Byte) (payload : List Byte) :
    Statement (.listIncidents port tag payload) := all _

theorem readIncident (port : Port) (tag : Byte) (payload : List Byte) :
    Statement (.readIncident port tag payload) := all _

theorem readStream (port : Port) (tag : Byte) (payload : List Byte) : Statement (.readStream port tag payload) := all _

theorem readMore (port : Port) (tag : Byte) (payload : List Byte) : Statement (.readMore port tag payload) := all _

theorem readHistory (port : Port) (tag : Byte) (payload : List Byte) : Statement (.readHistory port tag payload) := all _

theorem release (port : Port) (tag : Byte) (payload : List Byte) : Statement (.release port tag payload) := all _

theorem hold (port : Port) (tag : Byte) (payload : List Byte) : Statement (.hold port tag payload) := all _

theorem unhold (port : Port) (tag : Byte) (payload : List Byte) : Statement (.unhold port tag payload) := all _

theorem locate (port : Port) (tag : Byte) (payload : List Byte) : Statement (.locate port tag payload) := all _

theorem setWalltime (port : Port) (tag : Byte) (payload : List Byte) : Statement (.setWalltime port tag payload) := all _

theorem getSettings (port : Port) (tag : Byte) (payload : List Byte) : Statement (.getSettings port tag payload) := all _

theorem putSettings (port : Port) (tag : Byte) (payload : List Byte) : Statement (.putSettings port tag payload) := all _

theorem saveSettings (port : Port) (tag : Byte) (payload : List Byte) :
    Statement (.saveSettings port tag payload) := all _

theorem unknownRequest (port : Port) (code tag : Byte) (payload : List Byte) :
    Statement (.unknownRequest port code tag payload) := by
  refine ⟨fun h => ?_, fun h => (h rfl).elim, fun h => (h rfl).elim⟩
  simp only [Instr.wellFormed, Bool.and_eq_true] at h
  exact of_decide_eq_true h.1.1

theorem frameError (port : Port) (frame : List Byte) : Statement (.frameError port frame) := all _

theorem overlapFrame (port : Port) (frame : List Byte) : Statement (.overlapFrame port frame) := all _

theorem fetch (port : Port) (count : Nat) : Statement (.fetch port count) := all _

theorem linkReset (port : Port) : Statement (.linkReset port) := all _

theorem svcFrameGap : Statement (.svcFrameGap) := all _

theorem powerUp (ma0 ma1 : Bool) : Statement (.powerUp ma0 ma1) := all _

theorem deviceReset (ma0 ma1 : Bool) : Statement (.deviceReset ma0 ma1) := all _

theorem lineChange (line : Line) (asserted : Bool) : Statement (.lineChange line asserted) := all _

theorem filterExpiry (line : Line) : Statement (.filterExpiry line) := all _

theorem captureWindowExpiry : Statement (.captureWindowExpiry) := all _

theorem captureLimitExpiry : Statement (.captureLimitExpiry) := all _

theorem holdupDeadlineExpiry : Statement (.holdupDeadlineExpiry) := all _

theorem rechargeExpiry : Statement (.rechargeExpiry) := all _

theorem flushIntervalExpiry : Statement (.flushIntervalExpiry) := all _

theorem locateExpiry : Statement (.locateExpiry) := all _

theorem eraseRunTimer : Statement (.eraseRunTimer) := all _

theorem eraseSuspended : Statement (.eraseSuspended) := all _

theorem arbiterGrant : Statement (.arbiterGrant) := all _

theorem commitProgramDone (outcome : ProgramOutcome) : Statement (.commitProgramDone outcome) := all _

theorem voidMarkDone (outcome : ProgramOutcome) : Statement (.voidMarkDone outcome) := all _

theorem journalProgramDone (outcome : ProgramOutcome) : Statement (.journalProgramDone outcome) := all _

theorem imageProgramDone (outcome : ProgramOutcome) : Statement (.imageProgramDone outcome) := all _

theorem historyFlushDone (outcome : ProgramOutcome) : Statement (.historyFlushDone outcome) := all _

theorem settingsProgramDone (outcome : ProgramOutcome) : Statement (.settingsProgramDone outcome) := all _

theorem reclaimEraseDone (outcome : EraseOutcome) : Statement (.reclaimEraseDone outcome) := all _

theorem ringEraseDone (outcome : EraseOutcome) : Statement (.ringEraseDone outcome) := all _

theorem spareZoneEraseDone (outcome : EraseOutcome) : Statement (.spareZoneEraseDone outcome) := all _

theorem settingsZoneEraseDone (outcome : EraseOutcome) : Statement (.settingsZoneEraseDone outcome) := all _

theorem streamReadDone : Statement (.streamReadDone) := all _

theorem historyReadDone : Statement (.historyReadDone) := all _

theorem recoveryReadDone : Statement (.recoveryReadDone) := all _

theorem captureWaiterServed : Statement (.captureWaiterServed) := all _

theorem maintenanceWaiterAccepted : Statement (.maintenanceWaiterAccepted) := all _

theorem streamRelease (slot : Fin 16) : Statement (.streamRelease slot) := all _

theorem incidentKept : Statement (.incidentKept) := all _

theorem passToClosing : Statement (.passToClosing) := all _

theorem loadPoint : Statement (.loadPoint) := all _

theorem compactionStart : Statement (.compactionStart) := all _

theorem reclaimStart : Statement (.reclaimStart) := all _

theorem powerLoss : Statement (.powerLoss) := all _

end Sys2Proof.Laws.CommandForm
end

