-- ==== Sys2Proof/Tests/Slice0.lean ====
section
/-! SUPPORT. Tests: ill-formed commands that the check refuses, a few steps on small states, and for every statement
with hypotheses a state and operands that meet them. -/

set_option Elab.async false

namespace Sys2Proof.Tests

open Sys2Proof.Machine

/-! ### Small states -/

/-- A part in NORMAL with an OPEN journal, an ACTIVE ring zone and nothing in hand. -/
def ready : State := { State.reset with
  dev := { State.reset.dev with
    hum := ⟨.normal, 32, none⟩
    arc := { State.reset.dev.arc with waiting := [] }
    drm := { State.reset.dev.drm with active := some 1, spare := some .erased, epoch := 1 }
    hiu := { State.reset.dev.hiu with target := some ⟨0, 0, 0⟩, newest := 0 } } }

/-- The same part with another volatile state. -/
def withDev (f : Dev → Dev) : State := { ready with dev := f ready.dev }

/-- A trigger record of FLT0. -/
def flt0 : TriggerRecord := ⟨.fault .flt0, 0, none, 1⟩

/-- A stream record of socket 0. -/
def rec0 : StreamRec := ⟨0, .port .s0, 1, 0, none, 0, 0, 0, .open, none, false⟩

/-- An incident record. -/
def inc (n : Nat) (st : SlotState) (streams : List StreamRec) : Incident :=
  { state := st, number := n, epoch := 1, primary := flt0, secondary := [], overflow := 0, streams, windowFirst := 1
    windowLast := 0, shortened := true, completeness := none, held := false, retrieved := false }

/-- A stream of incident 1 in slot 0, its fill block with some bytes. -/
def body0 (fill : Option (List Byte)) (queued : Nat) (ending : Option PendingEnd) : StreamBody :=
  { incident := 1, stream := 0, owner := .s0, cls := 1, declared := none, accepted := 0, committed := 0, pages := 0
    nextSeq := 1, fill := fill.map fun l => ⟨0, 0, 7, 1, 0, 1, 0, l⟩, queued, ending, short := false }

/-- A part whose directory slot 0 holds a record. -/
def holding (x : Incident) (d : Dev) : Dev :=
  { d with drm := { d.drm with dir := put d.drm.dir 0 (some x), nextIncident := 2 } }

/-- A part that records incident 1 in slot 0. -/
def recordingDev (streams : List StreamRec) (d : Dev) : Dev :=
  { holding (inc 1 .recording streams) d with ict := { d.ict with recording := some 0 } }

/-- A part that records incident 1 with a stream in slot 0. -/
def streamDev (x : StreamBody) (d : Dev) : Dev :=
  { recordingDev [rec0] d with cpm := { d.cpm with slots := put d.cpm.slots 0 ⟨7, some x⟩ } }

/-- A part whose commit engine is at work. -/
def busy (d : Dev) : Dev := { d with cme := { d.cme with state := .voiding } }

/-! ### Well-formed commands -/

theorem test_payload_too_long : (Instr.openStream .s0 0 (List.replicate 521 0)).wellFormed = false := by
  decide +kernel
theorem test_payload_fits : (Instr.saveSettings .svc 0 (List.replicate 520 0)).wellFormed = true := by
  decide +kernel
theorem test_unknown_payload_too_long : (Instr.unknownRequest .mgt 0x77 0 (List.replicate 521 0)).wellFormed = false := by
  decide +kernel
theorem test_unknown_code_is_a_request : (Instr.unknownRequest .mgt 0x01 0 []).wellFormed = false := by decide
theorem test_unknown_code_is_a_fetch : (Instr.unknownRequest .s0 0x00 0 []).wellFormed = false := by decide
theorem test_unknown_code_is_a_reset : (Instr.unknownRequest .s0 0xFF 0 []).wellFormed = false := by decide
theorem test_unknown_code : (Instr.unknownRequest .s0 0x77 0 []).wellFormed = true := by decide
theorem test_frame_error_of_a_good_frame : (Instr.frameError .mgt (requestFrame 0x12 0 [])).wellFormed = false := by
  decide +kernel
theorem test_frame_error_that_is_a_fetch : (Instr.frameError .s0 [0x00, 1]).wellFormed = false := by decide
theorem test_frame_error_of_no_byte : (Instr.frameError .s0 []).wellFormed = false := by decide
theorem test_frame_error_short_on_svc : (Instr.frameError .svc [1, 2]).wellFormed = false := by decide
theorem test_frame_error : (Instr.frameError .svc [0x12, 0, 0x09, 0x02]).wellFormed = true := by decide
theorem test_overlap_that_is_a_reset : (Instr.overlapFrame .s0 [0xFF]).wellFormed = false := by decide
theorem test_overlap : (Instr.overlapFrame .mgt []).wellFormed = true := by decide
theorem test_fetch_on_svc : (Instr.fetch .svc 4).wellFormed = false := by decide
theorem test_fetch : (Instr.fetch .s0 4).wellFormed = true := by decide

/-! ### The machine, the array and the encodings -/

theorem test_crc : crc16 [0x31, 0x32, 0x33, 0x34, 0x35, 0x36, 0x37, 0x38, 0x39] = 0x29B1#16 := by decide +kernel

theorem witness_EveryCommandIsAnswered_unpowered :
    ({ State.reset with powered := false } : State).powered = false ∧ ∀ a b, Instr.powerLoss ≠ .powerUp a b :=
  ⟨rfl, fun _ _ h => nomatch h⟩

theorem witness_TimePasses_idle :
    ready.pending = [] ∧ ready.powered = true ∧ ready.dev.expiryDue = false ∧ ready.dev.momentDue = false := by
  decide +kernel

theorem witness_TimePasses_grantDue : State.reset.pending = [] ∧ State.reset.dev.momentDue = true := by decide +kernel

theorem test_tick : ∃ t, step ready = .next t ∧ t.dev.tmb.tick = 1 := ⟨_, rfl, rfl⟩

/-- A part whose stream in slot 0 fills block 0. -/
def filled : State := withDev fun d => (streamDev (body0 (some [1]) 0 none) d).setStb fun b => { b with
  free := List.range' 1 63 }

theorem witness_Notices_ordered : (withDev fun d => (d.raise .poolLow 3).raise .incidentKept 1).dev.noticesOrdered := by
  unfold Dev.noticesOrdered; decide +kernel

theorem witness_Halt_flag : ready.dev.hiu.haltFlagged := by unfold Hiu.haltFlagged; decide +kernel

theorem witness_Blocks_placed : filled.dev.blocksPlaced := by
  refine ⟨List.isPerm_iff.mp ?_, ?_⟩ <;> decide +kernel

/-- A part whose SVC line sends a reply that the port keeps or no longer keeps, with an exchange at SVC. -/
def sendingOn (rest : List Byte) (phase : Nat) (x : Exchange) (kept : Bool := false) : State := withDev fun d => { d with
  pif := { (d.setPort .svc ⟨x, [], 0, []⟩).pif with svcOut := some ⟨rest, phase, kept⟩ } }

/-- A reply of no payload. -/
def reply0 : Reply := ⟨0x11, 9, .none, 0, .empty⟩

theorem witness_TimePasses_svc :
    (sendingOn [1] 3089 .empty).pending = [] ∧ (sendingOn [1] 3089 .empty).dev.expiryDue = false
      ∧ (sendingOn [1] 3089 .empty).dev.momentDue = false
      ∧ (sendingOn [1] 3089 .empty).dev.pif.svcOut = some ⟨[1], 3089, false⟩
      ∧ (sendingOn [1] 3088 .empty).dev.pif.svcOut = some ⟨[1], 3088, false⟩
      ∧ (sendingOn [1] 3089 (.ready 0x11 9 reply0) true).dev.momentDue = false
      ∧ (sendingOn [] 3124 (.ready 0x11 9 reply0)).dev.momentDue = false
      ∧ ((sendingOn [] 3124 (.ready 0x11 9 reply0)).dev.port .svc).exchange = .ready 0x11 9 reply0
      ∧ ((sendingOn [] 3124 .empty).dev.port .svc).exchange = .empty := by
  decide +kernel

theorem test_a_waiting_reply_begins :
    ∃ t, step (sendingOn [] 3124 (.ready 0x11 9 reply0)) = .next t
      ∧ (t.dev.port .svc).exchange = .ready 0x11 9 reply0 ∧ (t.dev.port .svc).sent = [0xA5]
      ∧ t.dev.pif.svcOut = some ⟨[0x11, 9, 0x1B, 0, 0, 0, 0xF0, 0xFC], 0, true⟩ :=
  ⟨_, rfl, by decide +kernel, by decide +kernel, by decide +kernel⟩

theorem test_the_code_byte_empties_svc :
    ∃ t, step (sendingOn [0x11, 9] 3124 (.ready 0x11 9 reply0) true) = .next t
      ∧ (t.dev.port .svc).exchange = .empty ∧ (t.dev.port .svc).sent = [0x11]
      ∧ t.dev.pif.svcOut = some ⟨[9], 35, false⟩ :=
  ⟨_, rfl, by decide +kernel, by decide +kernel, by decide +kernel⟩

theorem test_a_frame_takes_the_place_of_a_reply_behind_its_start_byte :
    ∃ t u, exec (.frameError .svc [0, 0, 9, 2]) (sendingOn [0x11, 9] 3124 (.ready 0x11 9 reply0) true) = .next t
      ∧ t.dev.pif.svcOut = some ⟨[0x11, 9], 3124, false⟩ ∧ step t = .next u
      ∧ (u.dev.port .svc).exchange = .ready 0 0 frameErrorReply ∧ (u.dev.port .svc).sent = [0x11] :=
  ⟨_, _, rfl, by decide +kernel, rfl, by decide +kernel, by decide +kernel⟩

/-- The image that a part writes. -/
def copy0 (defects : List Zone) : CompactionCopy := ⟨Vector.replicate 32 none, defects, none, 0, 1, 1⟩

theorem witness_Settles_directory :
    let s := withDev fun d => d.setDrm fun m => { m with queue := [.retrieved 9] }
    let t := withDev fun d => d.setDrm fun m => { m with copy := some (copy0 []), spare := some .image }
    s.dev.hum.mode ≠ .start ∧ s.dev.drm.writer = .idle ∧ s.dev.compactionReady = false ∧ s.dev.drm.copy = none
      ∧ s.dev.drm.journalOpen = true ∧ s.dev.drm.queue ≠ [] ∧ s.dev.drm.absorbed = [] ∧ s.dev.drm.pos < 512
      ∧ s.dev.drm.active = some 1 ∧ s.dev.drm.recoveryHeld = false
      ∧ (s.dev.setDrm fun m => { m with recoveryHeld := true }).journalHeld = true
      ∧ t.dev.drm.copy = some (copy0 []) ∧ t.dev.drm.writer = .idle ∧ t.dev.compactionReady = false
      ∧ ready.dev.drm.copy = none ∧ ready.dev.drm.queue = [] := by
  decide +kernel

/-- An entry of the history. -/
def event (n : Nat) : HEntry := ⟨.data8 5, 7, .internal, 65535, n, 9⟩

theorem witness_Settles_history :
    let s := withDev fun d => d.setHiu fun h => { h with staging := [event 1], mark := some 1 }
    s.dev.hum.mode ≠ .start ∧ s.dev.hiu.writer = .idle ∧ s.dev.hiu.staging = [event 1]
      ∧ (event 1).seq ≤ 1 ∧ s.dev.hiu.mark = some 1 ∧ s.dev.hiu.target = some ⟨0, 0, 0⟩ ∧ ready.dev.hiu.staging = [] := by
  decide +kernel

theorem witness_Settles_indicator :
    let d := ready.dev
    (d.deadlines fun t => { t with locate := some 5 }).tmb.deadlines.locate ≠ none
      ∧ d.tmb.deadlines.locate = none ∧ d.arc.storeFailed = false ∧ d.drm.records = []
      ∧ ({ d with arc := { d.arc with storeFailed := true } } : Dev).arc.storeFailed = true
      ∧ (recordingDev [] d).drm.records.map (·.state) = [.recording]
      ∧ (holding (inc 1 .kept []) d).drm.records.map (·.retrieved) = [false] := by
  decide +kernel

theorem test_the_indicator_is_lit_by_its_pattern :
    let at_ (p : IndPattern) (n : Nat) : Bool := (withDev fun d => { d with
      ntu := { d.ntu with ind := p, indTicks := n } }).dev.indLit
    at_ .locate 99999 = true ∧ at_ .locate 100000 = false ∧ at_ .locate 200000 = true ∧ at_ .locate 300000 = false
      ∧ at_ .fast 124999 = true ∧ at_ .fast 125000 = false ∧ at_ .slow 999999 = true ∧ at_ .slow 1000000 = false := by
  decide +kernel

/-- The expected drive is that of the pattern one tick on, where the tick counter returns to 0 (R157, R165). -/
theorem test_a_pattern_runs_on_where_the_counter_returns_to_0 :
    let s := withDev fun d => { d with
      ntu := { d.ntu with ind := .fast, indTicks := 281474976710655 }, tmb := { d.tmb with tick := 281474976710655 } }
    ∃ t, step s = .next t ∧ t.dev.tmb.tick = 0 ∧ t.dev.ntu.indTicks = 281474976710656
      ∧ t.dev.indLit = (281474976710656 % 250000 < 125000) :=
  ⟨_, rfl, by decide +kernel, by decide +kernel, by decide +kernel⟩

/-- A part with a PROGRAM of one byte in progress. -/
def programming (who : Requester) (p : PageAddr) : State :=
  withDev fun d => { d with arc := { d.arc with op := some ⟨who, .program p 0 [0x0F] 0 []⟩ } }

/-- A part with a RUNNING erase. -/
def erasing (who : Requester) (z : Zone) : State :=
  withDev fun d => { d with arc := { d.arc with erase := some ⟨.running, z, who⟩, runTimer := 1000 } }

theorem witness_TheArrayChanges :
    ∃ t, exec .powerLoss (programming .commit ⟨19, 0⟩) = .next t
      ∧ (programming .commit ⟨19, 0⟩).dev.arc.erase = none ∧ (programming .commit ⟨19, 0⟩).underProgram 0 = false
      ∧ (programming .commit ⟨19, 0⟩).underErase 0 = false := by
  refine ⟨_, rfl, ?_, ?_, ?_⟩ <;> decide +kernel

theorem witness_OperationsEnd_program :
    (Instr.historyFlushDone .ok).programEnd = some (.flush, .ok) ∧ (programming .flush ⟨3, 0⟩).powered = true
      ∧ (programming .flush ⟨3, 0⟩).dev.arc.op = some ⟨.flush, .program ⟨3, 0⟩ 0 [0x0F] 0 []⟩
      ∧ (Job.program ⟨3, 0⟩ 0 [0x0F] 0 []).verifies (programming .flush ⟨3, 0⟩).flash = true := by
  decide +kernel

theorem witness_OperationsEnd_erase :
    (Instr.reclaimEraseDone .eraseFail).eraseEnd = some (.reclaim, .eraseFail)
      ∧ (erasing .reclaim 255).dev.arc.erase = some ⟨.running, 255, .reclaim⟩ := by
  decide +kernel

theorem witness_Settles_erase :
    let s : State := erasing .reclaim 255
    let read : Dev := s.dev.place .scanner (.read ⟨0, 0⟩ 0 1 0 0)
    s.dev.arc.erase = some ⟨.running, 255, .reclaim⟩ ∧ s.dev.arc.runTimer = 1000 ∧ read.grantableOps ≠ []
      ∧ s.dev.grantableOps = []
      ∧ (s.dev.erasePhase .suspended).arc.erase = some ⟨.suspended, 255, .reclaim⟩
      ∧ (s.dev.erasePhase .suspended).arc.op = none ∧ s.dev.hum.mode = .normal ∧ s.dev.arc.storeFailed = false := by
  decide +kernel

theorem test_an_overprogrammed_byte_stores_old_and_new :
    let s := withDev fun d => { d with arc := { d.arc with op := some ⟨.flush, .program ⟨3, 0⟩ 0 [0xF3] 0 []⟩ } }
    let s : State := { s with flash := s.flash.program (PageAddr.base ⟨3, 0⟩) [0x3F] }
    (Job.program ⟨3, 0⟩ 0 [0xF3] 0 []).verifies s.flash = false
      ∧ ∃ t, exec (.historyFlushDone .ok) s = .next t ∧ t.flash.read (PageAddr.base ⟨3, 0⟩) = 0x33 := by
  refine ⟨by decide +kernel, _, rfl, by decide +kernel⟩

theorem witness_SupplyLoss : ∃ t, exec .powerLoss (erasing .reclaim 255) = .next t
    ∧ (erasing .reclaim 255).underErase 0 = false := by
  refine ⟨_, rfl, ?_⟩; decide +kernel

theorem witness_FramesRoundTrip : (List.replicate 520 (0xFF : Byte)).length ≤ 520 := by decide +kernel

theorem witness_JournalEntries_summary :
    (JEntry.incidentSummary 31 { inc 4294967295 .kept [] with secondary := List.replicate 4 (.power, 5) } 15).storable := by
  simp [JEntry.storable, Incident.storable, inc]

theorem witness_JournalEntries_open : (JEntry.incidentOpen 255 1 4294967295 flt0 0 4294967295 true).storable := by
  simp [JEntry.storable]

theorem witness_JournalEntries_unusual :
    (JEntry.triggerAdd 1 .none 0).storable ∧ (JEntry.incidentClose 1 none 0).storable
      ∧ (JEntry.streamOpen 1 0 .internal 0 0 none).storable
      ∧ (JEntry.streamSummary 1 { rec0 with source := .internal }).storable := by
  simp [JEntry.storable, StreamRec.storable, rec0]

theorem test_unusual_codes_are_read :
    JEntry.decode (JEntry.triggerAdd 7 .none 5).bytes = some (.triggerAdd 7 .none 5)
      ∧ JEntry.decode (JEntry.incidentClose 7 none 2).bytes = some (.incidentClose 7 none 2) := by
  decide +kernel

theorem witness_PageHeaders : ({ kind := 254, epoch := 4294967295 } : Header).storable := by
  simp [Header.storable]

theorem witness_Settings : Settings.defaults.storable := by
  refine ⟨by decide, by decide, by decide, by decide, by decide, by decide, by decide, by decide, by decide, ?_, by decide,
    by decide, by decide⟩
  decide

theorem witness_HistoryPages :
    (∀ e ∈ [event 7, event 8], e.severity < 8 ∧ e.code < 65536 ∧ fits32 e.seq
        ∧ (⟨7, [], 0, 0, 1, false⟩ : HistoryRead).wanted ≤ e.seq ∧ e.seq ≤ 8)
      ∧ ([event 7, event 8].map (·.seq)).Pairwise (· < ·)
      ∧ (⟨7, [], 0, 0, 1, false⟩ : HistoryRead).entries.length + entriesSize [event 7, event 8] ≤ 512
      ∧ ∀ b ∈ [(0xFF : Byte)], b = 0xFF := by
  decide +kernel

/-- A read that has gathered 480 bytes is full with 24 more, of 504; one of 472 bytes is not. -/
theorem test_a_reply_without_room_for_one_more_entry_is_full :
    let h (n : Nat) : HistoryRead := ⟨7, [⟨0, 1, some 6, List.replicate n 0⟩], 0, 0, 1, false⟩
    (walkPage 9 64 (h 480) (event 7).bytes).full = true ∧ (walkPage 9 64 (h 472) (event 7).bytes).full = false := by
  decide +kernel

/-- An entry whose CRC does not match. -/
def damagedEntry : List Byte := (event 8).bytes.set 23 0

/-- The premises on a mixed page, with each of its three ends. -/
theorem witness_HistoryPages_mixed :
    let h (n : Nat) : HistoryRead := ⟨7, [⟨0, 1, some 6, List.replicate n 0⟩], 0, 0, 1, false⟩
    damagedEntry.length = 24 ∧ byte damagedEntry 1 / 8 % 16 * 8 = 24 ∧ damagedEntry.getD 0 0xFF ≠ 0xFF
      ∧ slice damagedEntry 22 2 ≠ crcBytes (damagedEntry.take 22)
      ∧ byte [0, 8, 1] 1 / 8 % 16 * 8 = 8 ∧ (h 472).entries.length + entriesSize [event 7] + 16 ≤ 512
      ∧ 512 < (h 472).entries.length + entriesSize [event 7] + (event 8).size
      ∧ (h 480).entries.length + (event 7).size ≤ 512 ∧ 512 < (h 480).entries.length + (event 7).size + 16 := by
  decide +kernel

/-- Entry 6 is passed over, 7 taken, a damaged one and the rest of the page omitted, and a second 7 passed over. -/
theorem test_a_mixed_page_is_walked :
    let w := walkPage 9 64 ⟨7, [], 0, 0, 1, false⟩
      ((event 6).bytes ++ (event 7).bytes ++ damagedEntry ++ (event 7).bytes ++ [0, 8, 1, 0])
    w.full = false ∧ w.read.found = [⟨0, 1, some 7, (event 7).bytes⟩, ⟨0, 1, none, []⟩, ⟨0, 1, none, []⟩] := by
  decide +kernel

/-! ### Requests -/

/-- The two halves of `State.reaches`, as a test that can be evaluated. -/
def reached (s : State) (p : Port) (r : Request) (b : List Byte) : Bool :=
  s.powered && !s.dev.isOutstanding p && b.length ≤ 520 && (judge s.dev p r b == none)

theorem reached_spec {s : State} {p : Port} {r : Request} {b : List Byte} (h : reached s p r b = true) :
    s.reaches p r b := by
  unfold reached at h
  simp only [Bool.and_eq_true, Bool.not_eq_true', decide_eq_true_eq, beq_iff_eq] at h
  exact ⟨⟨h.1.1.1, h.1.1.2, h.1.2⟩, h.2⟩

/-- A state with a request outstanding at a port. -/
def waitingAt (p : Port) : State := withDev fun d => d.acceptFrame p 0x22 9

theorem witness_Refused_length : ready.hears .s0 [] ∧ judge ready.dev .s0 .openStream [] = some (.badLength, .empty) :=
  ⟨⟨rfl, rfl, by decide⟩, by decide +kernel⟩

theorem witness_Refused_value :
    lengthOk .locate 1 = true ∧ valueTest .locate [2] = some (.badValue, .empty) := by decide +kernel

/-- Settings whose closing reserve equals the credits fail at index 6; a HOLD bit for S0 fails at index 20. -/
theorem witness_Refusals_of_settings :
    let b := Settings.defaults.bytes
    valueTest .putSettings b = none
      ∧ field (b.set 12 32) 10 2 = field (b.set 12 32) 12 1
      ∧ valueTest .putSettings (b.set 12 32) = some (.badValue, .badIndex 6)
      ∧ ((b.set 34 0x20).getD (20 + 14) 0).getLsbD 5 = true
      ∧ valueTest .putSettings (b.set 34 0x20) = some (.badValue, .badIndex 20)
      ∧ valueTest .openStream (List.replicate 13 0) = some (.badValue, .empty)
      ∧ valueTest .openStream (List.replicate 9 0) = none := by
  decide +kernel

theorem witness_Refused_right :
    lengthOk .hold 4 = true ∧ valueTest .hold [1, 0, 0, 0] = none ∧ Request.allowsPort .hold .mgt = false := by
  decide +kernel

theorem witness_Refused_starting :
    rightTest State.reset.dev .svc .saveSettings [] = none ∧ State.reset.dev.hum.mode = .start := by decide +kernel

theorem witness_Refused_exhausted :
    let d : Dev := { ready.dev with hum := ⟨.exhausted, 0, some .reserve⟩ }
    rightTest d .s0 .append [0, 0, 0, 1] = none ∧ d.hum.mode = .exhausted := by decide +kernel

theorem witness_Refused_storeFailed :
    let d : Dev := { ready.dev with arc := { ready.dev.arc with storeFailed := true } }
    rightTest d .s0 .declare [] = none ∧ d.hum.mode = .normal ∧ d.arc.storeFailed = true := by decide +kernel

theorem witness_Refused_none : rightTest ready.dev .s0 .declare [] = none ∧ ready.dev.hum.mode = .normal
    ∧ ready.dev.arc.storeFailed = false := by decide +kernel

theorem witness_Refused_rights :
    let b : List Byte := { Settings.defaults with rights := Vector.replicate 5 0x07 }.bytes
    ready.hears .mgt b ∧ b.length = 39 ∧ (settingsOfBytes b).firstBad = none
      ∧ (settingsOfBytes b).rights[(4 : Fin 5)] ≠ ready.dev.sst.pending.rights[(4 : Fin 5)] :=
  ⟨⟨rfl, by decide +kernel, by decide +kernel⟩, by decide +kernel, by decide +kernel, by decide +kernel⟩

theorem witness_FramesAtABusyPort :
    (waitingAt .s0).powered = true ∧ (waitingAt .s0).dev.isOutstanding .s0 = true
      ∧ (Instr.unknownRequest .s0 0x77 0 []).wellFormed = true ∧ (Instr.frameError .s0 [1]).wellFormed = true
      ∧ (Instr.overlapFrame .s0 [1]).wellFormed = true
      ∧ ((waitingAt .s0).dev.port .s0).exchange = .outstanding 0x22 9 := by decide +kernel

theorem witness_FramesAtABusyPort_svc :
    ((sendingOn [1] 0 (.outstanding 0x22 9)).dev.port .svc).exchange = .outstanding 0x22 9
      ∧ (sendingOn [1] 0 (.outstanding 0x22 9)).dev.pif.svcOut ≠ none ∧ (waitingAt .svc).dev.pif.svcOut = none := by
  decide +kernel

theorem test_a_late_reply_begins_on_an_idle_line :
    ((waitingAt .svc).dev.port .svc).exchange = .outstanding 0x22 9
      ∧ ((((waitingAt .svc).dev.countOverlap .svc).reply .svc .ok 0 .empty).pif.svcOut.map fun x => x.rest.take 4)
        = some [0x22, 9, 0x00, 0x01] := by
  decide +kernel

theorem test_a_socket_sends_idle_bytes_while_it_hears :
    ∃ t, exec (.getStatus .s0 4 []) ready = .next t ∧ (t.dev.port .s0).sent = List.replicate 6 0xFF :=
  ⟨_, rfl, by decide +kernel⟩

theorem test_an_unknown_request_keeps_its_code :
    ∃ t r, exec (.unknownRequest .s0 0x77 3 []) ready = .next t
      ∧ (t.dev.port .s0).exchange = .ready 0x77 3 r ∧ r.code = 0x00 := ⟨_, _, rfl, rfl, rfl⟩

theorem witness_FramesAndFetches_svc :
    (sendingOn [1] 0 .empty).dev.isOutstanding .svc = false ∧ (sendingOn [1] 0 .empty).dev.pif.svcOut ≠ none
      ∧ ready.dev.pif.svcOut = none := by
  decide +kernel

theorem witness_FramesAndFetches :
    ready.dev.isOutstanding .svc = false ∧ (Instr.unknownRequest .svc 0x00 1 []).wellFormed = true
      ∧ (Instr.frameError .svc [0, 0, 0x09, 0x02]).wellFormed = true ∧ (Instr.frameError .s3 [1]).wellFormed = true := by
  decide +kernel

theorem test_fetch_takes_the_reply :
    let r : Reply := ⟨0x11, 9, .none, 0, .empty⟩
    let s := withDev fun d => d.setPort .mgt ⟨.ready 0x11 9 r, [], 0, []⟩
    ∃ t, exec (.fetch .mgt 8) s = .next t ∧ (t.dev.port .mgt).exchange = .empty
      ∧ (t.dev.port .mgt).sent = [0x11, 9, 0x1B, 0, 0, 0, 0xF0, 0xFC] :=
  ⟨_, rfl, by decide +kernel, by decide +kernel⟩

theorem test_fetch_while_outstanding :
    ∃ t, exec (.fetch .s0 2) (waitingAt .s0) = .next t ∧ (t.dev.port .s0).sent = [0xF0, 0xFF] :=
  ⟨_, rfl, by decide +kernel⟩

theorem witness_ReadParams : State.reset.hears .s3 [] ∧ State.reset.hears .s3 [1] := ⟨⟨rfl, rfl, by decide⟩, rfl, rfl, by decide⟩

theorem witness_StatusAndListings :
    State.reset.hears .s0 [] ∧ ready.reaches .mgt .listIncidents [] ∧ ready.dev.hum.mode ≠ .holdup
      ∧ (withDev fun d => { d with hum := ⟨.holdup, 9, none⟩ }).reaches .mgt .listIncidents []
      ∧ ready.reaches .svc .getSettings [0] ∧ ready.reaches .svc .getSettings [1] :=
  ⟨⟨rfl, rfl, by decide⟩, reached_spec (by decide +kernel), by decide, reached_spec (by decide +kernel),
    reached_spec (by decide +kernel), reached_spec (by decide +kernel)⟩

/-- A part with one notice in each set. -/
def noticed : State := withDev fun d => d.raise .poolLow 3

theorem witness_Notices :
    noticed.reaches .mgt .nextNotice [] ∧ noticed.dev.ntu.setOf .mgt = [⟨.poolLow, 3, 0⟩]
      ∧ ready.reaches .svc .nextNotice [] ∧ ready.dev.ntu.setOf .svc = [] :=
  ⟨reached_spec (by decide +kernel), by decide +kernel, reached_spec (by decide +kernel), by decide +kernel⟩

theorem witness_Notices_raise :
    let l : List Notice := [⟨.incidentKept, 1, 255⟩, ⟨.poolLow, 3, 0⟩]
    l.Pairwise (fun x y => NoticeCause.code x.cause < NoticeCause.code y.cause) ∧ ∀ n ∈ l, n.cause ≠ .recoveryDone := by
  decide +kernel

theorem witness_SetWalltime : ready.reaches .mgt .setWalltime [1, 2, 3, 4, 5, 6, 7, 8]
    ∧ ready.dev.tmb.wall = none := ⟨reached_spec (by decide +kernel), rfl⟩

/-- A part in a locate run that has 55 s left. -/
def locating : State := withDev fun d => d.deadlines fun t => { t with locate := some 55000000 }

theorem witness_Locate :
    locating.reaches .mgt .locate [0] ∧ locating.dev.tmb.deadlines.locate = some 55000000
      ∧ locating.reaches .mgt .locate [1] ∧ ready.reaches .mgt .locate [0]
      ∧ ready.dev.tmb.deadlines.locate = none :=
  ⟨reached_spec (by decide +kernel), rfl, reached_spec (by decide +kernel), reached_spec (by decide +kernel), rfl⟩

theorem witness_Settings_put : ready.reaches .svc .putSettings Settings.defaults.bytes :=
  reached_spec (by decide +kernel)

theorem witness_Settings_save :
    ready.reaches .mgt .saveSettings [] ∧ ready.dev.sst.busy = false
      ∧ (withDev fun d => { d with sst := { d.sst with busy := true } }).reaches .mgt .saveSettings []
      ∧ (withDev fun d => { d with sst := { d.sst with savePos := 32 } }).reaches .mgt .saveSettings [] :=
  ⟨reached_spec (by decide +kernel), rfl, reached_spec (by decide +kernel), reached_spec (by decide +kernel)⟩

/-! ### Holds, release and reading -/

/-- A part that keeps incident 1. -/
def kept : State := withDev (holding (inc 1 .kept [{ rec0 with committed := 100, pages := 1, endKind := .ended }]))

/-- The same part with 16 entries queued. -/
def keptFull : State := { kept with dev := { kept.dev with
  drm := { kept.dev.drm with queue := List.replicate 16 (.retrieved 9) } } }

/-- The same part with the incident held. -/
def keptHeld : State := withDev (holding { inc 1 .kept [] with held := true })

theorem witness_Hold :
    ready.hears .svc [1, 0, 0] ∧ ready.hears .svc [0, 0, 0, 0] ∧ ready.hears .mgt [1, 0, 0, 0]
      ∧ State.reset.hears .svc [1, 0, 0, 0] ∧ State.reset.dev.hum.mode = .start
      ∧ ({ ready.dev with hum := ⟨.exhausted, 0, none⟩ } : Dev).hum.mode = .exhausted
      ∧ (∀ x ∈ ready.dev.drm.records, x.number ≠ field [1, 0, 0, 0] 0 4) := by
  refine ⟨⟨rfl, rfl, by decide⟩, ⟨rfl, rfl, by decide⟩, ⟨rfl, rfl, by decide⟩, ⟨rfl, rfl, by decide⟩, rfl, rfl, ?_⟩
  decide +kernel

theorem witness_Hold_found :
    kept.hears .svc [1, 0, 0, 0] ∧ kept.dev.drm.slotOf (field [1, 0, 0, 0] 0 4) = some 0
      ∧ (∃ x, kept.dev.drm.dir[(0 : DirSlot)] = some x ∧ x.held = false) ∧ kept.dev.drm.queue.length < 16
      ∧ keptFull.dev.drm.slotOf (field [1, 0, 0, 0] 0 4) = some 0 ∧ 16 ≤ keptFull.dev.drm.queue.length :=
  ⟨⟨rfl, rfl, by decide⟩, by decide +kernel, ⟨_, rfl, rfl⟩, by decide +kernel, by decide +kernel, by decide +kernel⟩

theorem test_hold_of_an_absent_incident :
    ∃ t r, exec (.hold .svc 3 [1, 0, 0, 0]) ready = .next t ∧ (t.dev.port .svc).sent = [0xA5]
      ∧ (t.dev.port .svc).exchange = .ready 0x31 3 r
      ∧ (t.dev.pif.svcOut.map fun x => x.rest.take 4) = some [0x31, 3, 0x15, 0] :=
  ⟨_, _, rfl, by decide +kernel, rfl, by decide +kernel⟩

theorem witness_Release :
    ready.reaches .mgt .release [1, 0, 0, 0] ∧ kept.reaches .mgt .release [1, 0, 0, 0]
      ∧ kept.dev.drm.slotOf (field [1, 0, 0, 0] 0 4) = some 0 ∧ kept.dev.job .mgt = none
      ∧ kept.dev.hiu.lost = 0 ∧ kept.dev.hiu.canTake = true
      ∧ keptFull.reaches .mgt .release [1, 0, 0, 0] ∧ keptHeld.reaches .mgt .release [1, 0, 0, 0]
      ∧ (∃ x, keptHeld.dev.drm.dir[(0 : DirSlot)] = some x ∧ x.state = .kept ∧ x.held = true)
      ∧ (withDev (recordingDev [])).reaches .mgt .release [1, 0, 0, 0] :=
  ⟨reached_spec (by decide +kernel), reached_spec (by decide +kernel), by decide +kernel, rfl, rfl, by decide +kernel,
    reached_spec (by decide +kernel), reached_spec (by decide +kernel), ⟨_, rfl, rfl, rfl⟩,
    reached_spec (by decide +kernel)⟩

theorem witness_Release_event : kept.dev.hiu.haltFlagged ∧ kept.dev.hiu.target ≠ none := by
  unfold Hiu.haltFlagged; decide +kernel

/-- A part that awaits a ring zone, with deferred pins of incident 9 and the first zones pinned by it. -/
def awaiting (pinned : Nat) : State := { kept with dev := kept.dev.setHiu fun h => { h with
  target := none, newest := 0, deferred := [9]
  ring := h.ring.mapFinIdx fun k z _ => if 2 ≤ k ∧ k < 2 + pinned then { z with pins := [9] } else z } }

/-- A release that empties no pin set makes the ERASED successor ACTIVE; it halts history where 2 zones counted. -/
theorem test_a_release_tests_the_awaited_zone :
    let after (s : State) := (s.dev.releaseIncident 0 1 .internal).hiu
    (after (awaiting 0)).target = some ⟨1, 0, 0⟩ ∧ ((after (awaiting 0)).ring[(1 : RingIdx)]).pins = [9]
      ∧ (after (awaiting 0)).unflushed.map (·.code) = [0x000A] ∧ (after (awaiting 0)).lost = 0
      ∧ (awaiting 14).dev.hiu.unpinnedZones = 2 ∧ (after (awaiting 14)).halted = true ∧ (after (awaiting 14)).lost = 1 := by
  decide +kernel

theorem witness_ReadIncident :
    kept.reaches .svc .readIncident [1, 0, 0, 0] ∧ kept.dev.drm.slotOf (field [1, 0, 0, 0] 0 4) = some 0
      ∧ (∃ x, kept.dev.drm.dir[(0 : DirSlot)] = some x ∧ x.state = .kept ∧ x.retrieved = false)
      ∧ kept.reaches .mgt .readIncident [1, 0, 0, 0] ∧ ready.reaches .mgt .readIncident [1, 0, 0, 0]
      ∧ (withDev fun d => { d with hum := ⟨.holdup, 9, none⟩ }).reaches .mgt .readIncident [1, 0, 0, 0] :=
  ⟨reached_spec (by decide +kernel), by decide +kernel, ⟨_, rfl, rfl, rfl⟩, reached_spec (by decide +kernel),
    reached_spec (by decide +kernel), reached_spec (by decide +kernel)⟩

/-- A part whose incident 1 has its one page on page 0 of zone 19, with a cursor of MGT on it. -/
def paged : State := { kept with dev := ({ kept.dev with
  plm := { kept.dev.plm with pages := [(0, .live 1 0 0 100)] } }).setCursor .mgt (.stream 1 0 0 false) }

theorem witness_StreamReads :
    paged.reaches .mgt .readStream [1, 0, 0, 0, 0, 0, 0, 0, 0]
      ∧ paged.asksStream .mgt .readStream [1, 0, 0, 0, 0, 0, 0, 0, 0] 1 0 0
      ∧ paged.reaches .mgt .readMore [] ∧ paged.asksStream .mgt .readMore [] 1 0 0
      ∧ (paged.dev.drm.find 1).bind (·.streams.find? (·.number == 0))
        = some { rec0 with committed := 100, pages := 1, endKind := .ended }
      ∧ paged.dev.plm.livePage 1 0 0 = some (⟨19, 0⟩, 100)
      ∧ kept.dev.plm.livePage 1 0 0 = none
      ∧ (ready.dev.drm.find 1).bind (·.streams.find? (·.number == 0)) = none :=
  ⟨reached_spec (by decide +kernel), .inl (by decide +kernel), reached_spec (by decide +kernel),
    .inr (by decide +kernel), by decide +kernel, by decide +kernel, by decide +kernel, by decide +kernel⟩

theorem witness_StreamReads_more :
    ready.reaches .mgt .readMore [] ∧ ready.dev.hum.mode ≠ .holdup ∧ ready.dev.cursor .mgt = .empty
      ∧ (withDev fun d => d.setCursor .mgt (.stream 1 0 0 true)).reaches .mgt .readMore []
      ∧ (withDev fun d => d.setCursor .mgt (.stream 1 0 0 true)).dev.cursor .mgt = .stream 1 0 0 true :=
  ⟨reached_spec (by decide +kernel), by decide, rfl, reached_spec (by decide +kernel), rfl⟩

theorem witness_ReadMore_in_holdup :
    (withDev fun d => { d.setCursor .mgt (.stream 1 0 0 true) with hum := ⟨.holdup, 9, none⟩ }).reaches .mgt .readMore [] :=
  reached_spec (by decide +kernel)

/-- A part whose ring zone 0 stores entries 1 to 5. -/
def stored : State := withDev fun d => d.setHiu fun h => { h with ring := put h.ring 0 ⟨.active, some (1, 5), []⟩ }

theorem witness_HistoryReads :
    stored.reaches .mgt .readHistory [5, 0, 0, 0] ∧ field [5, 0, 0, 0] 0 4 = 5
      ∧ (∃ x, (stored.dev.hiu.ring[(0 : RingIdx)]).range = some x ∧ 5 ≤ x.2)
      ∧ stored.reaches .mgt .readHistory [6, 0, 0, 0]
      ∧ (∀ (k : RingIdx) (x : Nat × Nat), (stored.dev.hiu.ring[k]).range = some x → x.2 < 6)
      ∧ (withDev fun d => d.setCursor .mgt (.history 4)).reaches .mgt .readMore []
      ∧ (withDev fun d => d.setCursor .mgt (.history 4)).dev.cursor .mgt = .history 4 := by
  refine ⟨reached_spec (by decide +kernel), by decide, ⟨_, rfl, by decide⟩,
    reached_spec (by decide +kernel), ?_, reached_spec (by decide +kernel), rfl⟩
  have h : ∀ k : RingIdx, (stored.dev.hiu.ring[k]).range = none ∨ (stored.dev.hiu.ring[k]).range = some (1, 5) := by
    decide +kernel
  intro k x hx
  rcases h k with h | h <;> rw [h] at hx
  · cases hx
  · cases hx; decide

/-- A part whose read of a ring page is in progress. -/
def historyRead : State := { stored with dev := { (stored.dev.setJob .mgt
    (some ⟨.history ⟨1, [], 0, 0, 1, false⟩, .empty, true⟩)) with
  arc := { stored.dev.arc with op := some ⟨.rtu .mgt, .read ⟨3, 0⟩ 0 1024 0 0⟩ } } }

theorem witness_HistoryReads_done :
    historyRead.powered = true ∧ historyRead.dev.arc.op = some ⟨.rtu .mgt, .read ⟨3, 0⟩ 0 1024 0 0⟩
      ∧ historyRead.dev.job .mgt = some ⟨.history ⟨1, [], 0, 0, 1, false⟩, .empty, true⟩
      ∧ (historyRead.dev.hiu.ring[(0 : RingIdx)]).range = some (1, 5) := by
  decide +kernel

/-- What a read of page 0 of ring zone 0 gathers, up to the entry of a number, on an array. -/
def gathered (m : Memory) (h : HistoryRead) (last : Nat) : PageWalk :=
  walkPage last 64 h (m.readRange (PageAddr.base ⟨ringZone 0, 0⟩) 1024)

/-- A read in hand that has gathered 500 bytes, the last of them entry 1. -/
def nearlyFull : HistoryRead := ⟨1, [⟨0, 1, some 1, List.replicate 500 0⟩], 0, 0, 1, false⟩

theorem witness_HistoryReads_full :
    (gathered (historyRead.flash.program (PageAddr.base ⟨ringZone 0, 0⟩) (event 2).bytes) nearlyFull 5).full = true
      ∧ stored.dev.hiu.newestStored = 5 := by
  decide +kernel

/-- Reads of a page that the zone stores no more, of one before the zone's last, and of one before another zone. -/
theorem witness_HistoryReads_goOn :
    let h : HistoryRead := ⟨1, [], 0, 0, 1, false⟩
    let later := stored.dev.setHiu fun h => { h with target := some ⟨0, 3, 0⟩ }
    let two := stored.dev.setHiu fun h => { h with ring := put h.ring 1 ⟨.filled, some (6, 9), []⟩ }
    (gathered historyRead.flash h 5).full = false ∧ (gathered historyRead.flash h 5).read.wanted = 1
      ∧ 0 < later.hiu.lastPage 0 ∧ stored.dev.hiu.lastPage 0 = 0
      ∧ two.hiu.zoneFor 6 = some 1 ∧ stored.dev.hiu.zoneFor 6 = none
      ∧ (two.hiu.ring[(1 : RingIdx)]).range ≠ some (1, 9) := by
  decide +kernel

theorem test_a_read_whose_zone_is_erased_is_answered_skipped :
    let s := { historyRead with dev := historyRead.dev.setHiu fun h => { h with ring := put h.ring 0 ⟨.erasing, none, []⟩ } }
    ∃ t, exec .historyReadDone { s with dev := s.dev.setPort .mgt ⟨.outstanding 0x24 9, [], 0, []⟩ } = .next t
      ∧ (t.dev.port .mgt).exchange = .ready 0x24 9 ⟨0x24, 9, .ok, 0x08, .history [] 0⟩ := ⟨_, rfl, by decide +kernel⟩

/-- While a page of zone 0 is read, what the walk gathered from zone 1 is lost with that zone. -/
def leftBehind : Dev :=
  (historyRead.dev.setJob .mgt (some ⟨.history ⟨1, [⟨1, 1, some 1, (event 1).bytes⟩, ⟨1, 1, none, []⟩], 0, 0, 3, false⟩,
    .empty, true⟩)).setHiu fun h => { h with ring := put h.ring 0 ⟨.active, some (3, 5), []⟩ }

/-- The walk then ends without what zone 1 gave, and its reply carries SKIPPED. -/
theorem test_a_zone_left_behind_is_erased :
    ∃ t, exec .historyReadDone { historyRead with
        dev := leftBehind.setPort .mgt ⟨.outstanding 0x24 9, [], 0, []⟩ } = .next t
      ∧ (t.dev.port .mgt).exchange = .ready 0x24 9 ⟨0x24, 9, .ok, 0x08, .history [] 0⟩ := ⟨_, rfl, by decide +kernel⟩

/-- A part whose read of a pool page is in progress. -/
def streamRead : State := { paged with dev := { (paged.dev.setJob .mgt
    (some ⟨.stream 1 0 0 100 false ⟨19, 0⟩, .empty, true⟩)) with
  arc := { paged.dev.arc with op := some ⟨.rtu .mgt, .read ⟨19, 0⟩ 0 100 0 0⟩ } } }

theorem witness_StreamReadDone :
    streamRead.powered = true ∧ streamRead.dev.arc.op = some ⟨.rtu .mgt, .read ⟨19, 0⟩ 0 100 0 0⟩
      ∧ streamRead.dev.job .mgt = some ⟨.stream 1 0 0 100 false ⟨19, 0⟩, .empty, true⟩
      ∧ (List.replicate 64 (0xFF : Byte)).length = 64 := by
  decide +kernel

/-! ### History, triggers and streams -/

theorem witness_LogEvent :
    ready.reaches .s0 .logEvent [7, 1, 0] ∧ ready.dev.hiu.canTake = true
      ∧ (withDev fun d => d.setHiu fun h => { h with halted := true }).reaches .s0 .logEvent [7, 1, 0]
      ∧ (withDev fun d => d.setHiu fun h => { h with halted := true }).dev.hiu.canTake = false :=
  ⟨reached_spec (by decide +kernel), by decide +kernel, reached_spec (by decide +kernel), by decide +kernel⟩

theorem test_log_event_numbers_its_entry :
    ∃ t, exec (.logEvent .s0 1 [7, 1, 0]) ready = .next t ∧ t.dev.hiu.nextSeq = 2 ∧ t.dev.hiu.staging.length = 1 :=
  ⟨_, rfl, by decide +kernel, by decide +kernel⟩

theorem witness_DeclareOpens :
    ready.reaches .s0 .declare [] ∧ ready.dev.drm.at? ready.dev.ict.recording = none ∧ ready.dev.ict.opening = none
      ∧ ready.dev.drm.nextIncident ≤ 4294967295 ∧ ready.dev.drm.freeSlot = some 0
      ∧ ready.dev.drm.captureWaiters = [] ∧ ready.dev.drm.queue.length < 80 :=
  ⟨reached_spec (by decide +kernel), rfl, rfl, by decide, by decide +kernel, rfl, by decide⟩

theorem test_declare_opens :
    ∃ t, exec (.declare .s0 1 []) ready = .next t ∧ t.dev.ict.recording = some 0
      ∧ t.dev.ict.attn = #v[true, true, true, true] ∧ t.dev.drm.nextIncident = 2 :=
  ⟨_, rfl, by decide +kernel, by decide +kernel, by decide +kernel⟩

/-- A part whose 16 ring zones store ten entries each, with a window of 200 entries. -/
def storedRing : Dev := ({ ready.dev with sst := { ready.dev.sst with
    working := { ready.dev.sst.working with historyWindow := 200 } } }).setHiu fun h => { h with
  ring := Vector.ofFn fun k : RingIdx => ⟨.filled, some (10 * k.val + 1, 10 * k.val + 10), []⟩
  target := none, newest := 15, nextSeq := 161 }

/-- The premises on a release while a zone is awaited, and those of the two tests it makes. -/
theorem witness_Release_tests :
    (awaiting 13).dev.hiu.unpinnedZones = 3 ∧ (awaiting 13).dev.hiu.canTake = true
      ∧ (awaiting 13).dev.hiu.successor = some 1 ∧ ((awaiting 13).dev.hiu.ring[(1 : RingIdx)]).state = .erased
      ∧ storedRing.hiu.prep = none ∧ storedRing.hiu.successor = some 0
      ∧ (storedRing.hiu.ring[(0 : RingIdx)]).state = .filled := by
  decide +kernel

/-- The pin limit of 12 stops the window, and 4 zones stay unpinned. -/
theorem test_the_pin_limit_shortens_the_window :
    (storedRing.pinWindow 1 (some 160)).2 = ⟨41, 160, true⟩
      ∧ (storedRing.pinWindow 1 (some 160)).1.hiu.pinCount = 12
      ∧ (storedRing.pinWindow 1 (some 160)).1.hiu.halted = false := by
  decide +kernel

/-- A window of 91 entries, of which one zone holds ten, is shortened when that zone stores nothing. -/
theorem test_a_window_across_an_erased_zone_is_shortened :
    let d : Dev := { storedRing with sst := { storedRing.sst with
      working := { storedRing.sst.working with historyWindow := 90 } } }
    (d.pinWindow 1 (some 160)).2 = ⟨70, 160, false⟩
      ∧ ((d.setHiu fun h => { h with ring := put h.ring 10 ⟨.erased, none, []⟩ }).pinWindow 1 (some 160)).2
        = ⟨70, 160, true⟩ := by
  decide +kernel

theorem witness_Window :
    storedRing.hiu.oldest = some 1 ∧ (storedRing.hiu.windowZones 1 160).length = 16
      ∧ ready.dev.hiu.oldest = none ∧ ready.dev.hiu.nextSeq - 1 = 0
      ∧ (ready.dev.setHiu fun h => { h with staging := [event 9] }).hiu.oldest = some 9
      ∧ WindowZone.deferred ∈ (storedRing.setHiu fun h => { h with staging := [event 9] }).hiu.windowZones 1 160 := by
  decide +kernel

/-- Ring zones most of which are pinned: the test of R122 halts the history, or lets it go on. -/
theorem witness_Halts :
    let pins (n : Nat) (x : Bool) := storedRing.setHiu fun h => { h with
      halted := x, ring := h.ring.mapFinIdx fun k z _ => if k < n then { z with pins := [1] } else z }
    (pins 15 false).hiu.unpinnedZones = 1 ∧ (pins 15 false).hiu.halted = false
      ∧ (pins 14 true).hiu.unpinnedZones = 2 ∧ (pins 14 true).hiu.halted = true
      ∧ (pins 14 true).hiu.nextSeq ≤ 4294967295 := by
  decide +kernel

theorem witness_DeclareJoins :
    let s := withDev (recordingDev [])
    s.reaches .s0 .declare [] ∧ s.dev.ict.recording = some 0 ∧ s.dev.drm.dir[(0 : DirSlot)] = some (inc 1 .recording [])
      ∧ s.dev.drm.slotOf 1 = some 0 ∧ s.dev.secondaryCount (inc 1 .recording []) = 0 :=
  ⟨reached_spec (by decide +kernel), rfl, by decide +kernel, by decide +kernel, by decide +kernel⟩

/-- The zones of a window, from the newest back: stored ones alone, behind the write zone, and behind the deferred pins. -/
theorem test_window_zones_go_back_from_the_newest :
    let h := storedRing.hiu
    let staged : Hiu := { h with staging := [event 161] }
    h.windowZones 135 160 = [.ring 15, .ring 14, .ring 13]
      ∧ { staged with target := some ⟨15, 3, 0⟩ }.windowZones 135 161 = [.ring 15, .ring 14, .ring 13]
      ∧ staged.windowZones 135 161 = [.deferred, .ring 15, .ring 14, .ring 13] := by
  decide +kernel

/-- A part with its directory full of incidents that are held. -/
def crowded (rollOldest : Nat) : State := withDev fun d => { d with
  drm := { d.drm with dir := Vector.replicate 32 (some { inc 1 .kept [] with held := rollOldest = 0 }) }
  sst := { d.sst with working := { d.sst.working with rollOldest := rollOldest } } }

/-- The part with 80 entries queued. -/
def fullQueue (s : State) : State := { s with dev := { s.dev with
  drm := { s.dev.drm with queue := List.replicate 80 (.retrieved 9) } } }

theorem witness_DeclareWaits :
    let s := withDev fun d => { d with ict := { d.ict with opening := some ⟨flt0, none, []⟩ } }
    s.reaches .s0 .declare [] ∧ s.dev.drm.at? s.dev.ict.recording = none ∧ s.dev.ict.opening = some ⟨flt0, none, []⟩
      ∧ (crowded 0).reaches .s0 .declare [] ∧ (crowded 0).dev.openingWay = .refused
      ∧ (crowded 0).dev.ict.opening = none
      ∧ (fullQueue ready).reaches .s0 .declare [] ∧ (fullQueue ready).dev.openingWay = .slot 0
      ∧ (fullQueue ready).dev.drm.capRoom 1 = false :=
  ⟨reached_spec (by decide +kernel), rfl, rfl, reached_spec (by decide +kernel), by decide +kernel, rfl,
    reached_spec (by decide +kernel), by decide +kernel, by decide +kernel⟩

theorem witness_OpeningsGoByTheTable :
    4294967295 < ({ ready.dev.drm with nextIncident := 4294967296 } : Drm).nextIncident
      ∧ ready.dev.drm.freeSlot = some 0 ∧ (crowded 0).dev.drm.freeSlot = none
      ∧ (crowded 0).dev.sst.working.rollOldest ≠ 1 ∧ (crowded 1).dev.drm.freeSlot = none
      ∧ (crowded 1).dev.sst.working.rollOldest = 1
      ∧ ∃ x ∈ (crowded 1).dev.drm.records, x.state = .kept ∧ x.held = false := by
  refine ⟨?_, ?_, ?_, ?_, ?_, ?_, inc 1 .kept [], ?_, ?_, ?_⟩ <;> decide +kernel

theorem witness_RollOldest :
    (crowded 1).reaches .s0 .declare [] ∧ (crowded 1).dev.drm.at? (crowded 1).dev.ict.recording = none
      ∧ (crowded 1).dev.ict.opening = none ∧ (crowded 1).dev.openingWay = .roll 0 1
      ∧ (crowded 1).dev.drm.captureWaiters = [] ∧ (crowded 1).dev.drm.queue.length + 2 ≤ 80
      ∧ (crowded 1).dev.job .s0 = none :=
  ⟨reached_spec (by decide +kernel), rfl, rfl, by decide +kernel, rfl, by decide, rfl⟩

/-- The payload of an OPEN_STREAM of class 1. -/
def opening1 : List Byte := [1, 0, 0, 0, 0, 0, 0, 0, 0]

theorem witness_OpenStream_refused :
    (withDev fun d => { d with hum := ⟨.holdup, 9, some .reserve⟩ }).reaches .s0 .openStream opening1
      ∧ ready.reaches .s0 .openStream opening1 ∧ ready.dev.drm.at? ready.dev.ict.recording = none
      ∧ (withDev fun d => (recordingDev [] d).setIct fun c => { c with windowExpired := true }).reaches .s0 .openStream
          opening1
      ∧ (withDev (recordingDev (List.replicate 12 rec0))).reaches .s0 .openStream opening1
      ∧ (withDev fun d => { recordingDev [] d with cpm := ⟨Vector.replicate 16 ⟨7, some (body0 none 1 none)⟩⟩ }).reaches
          .s0 .openStream opening1
      ∧ (∀ i, ({ ready.dev with cpm := ⟨Vector.replicate 16 ⟨7, some (body0 none 1 none)⟩⟩ } : Dev).body i ≠ none)
      ∧ (fullQueue (withDev (recordingDev []))).reaches .s0 .openStream opening1 :=
  ⟨reached_spec (by decide +kernel), reached_spec (by decide +kernel), rfl, reached_spec (by decide +kernel),
    reached_spec (by decide +kernel), reached_spec (by decide +kernel), by decide +kernel,
    reached_spec (by decide +kernel)⟩

theorem witness_OpenStream_taken :
    let s := withDev (recordingDev [])
    s.reaches .s0 .openStream opening1 ∧ s.dev.hum.mode = .normal ∧ s.dev.ict.recording = some 0
      ∧ s.dev.drm.dir[(0 : DirSlot)] = some (inc 1 .recording []) ∧ s.dev.drm.slotOf 1 = some 0
      ∧ s.dev.ict.windowExpired = false ∧ s.dev.freeStreamSlot = some 0 ∧ s.dev.drm.captureWaiters = []
      ∧ s.dev.drm.queue.length < 80 :=
  ⟨reached_spec (by decide +kernel), rfl, rfl, by decide +kernel, by decide +kernel, rfl, by decide +kernel, rfl,
    by decide +kernel⟩

/-- A part with a stream in slot 0. -/
def streaming (fill : Option (List Byte)) (queued : Nat) (ending : Option PendingEnd) : State :=
  withDev (streamDev (body0 fill queued ending))

/-- An APPEND of 8 bytes to slot 0. -/
def append8 : List Byte := [0, 7, 0, 1, 2, 3, 4, 5, 6, 7, 8]

theorem witness_StreamRequests :
    (streaming none 0 none).reaches .s0 .append append8 ∧ (streaming none 0 none).dev.body 0 = some (body0 none 0 none)
      ∧ (streaming none 0 none).reaches .s1 .append append8
      ∧ (streaming none 0 (some .ended)).reaches .s0 .withdraw [0, 7]
      ∧ (streaming none 0 none).reaches .s0 .append [0, 6, 0, 1] ∧ (streaming none 0 none).reaches .s0 .append [0, 7, 0, 1]
      ∧ (streaming none 0 none).dev.cpm.slots[(0 : StreamIdx)].gen = 7 :=
  ⟨reached_spec (by decide +kernel), by decide +kernel, reached_spec (by decide +kernel), reached_spec (by decide +kernel),
    reached_spec (by decide +kernel), reached_spec (by decide +kernel), by decide +kernel⟩

theorem witness_StreamRequests_overrun :
    let x : StreamBody := { body0 none 0 none with declared := some 7 }
    (withDev (streamDev x)).reaches .s0 .append append8 ∧ 7 < x.accepted + 8 := ⟨reached_spec (by decide +kernel), by decide⟩

theorem witness_StreamRequests_full :
    let s : State := withDev fun d => (streamDev (body0 none 0 none) d).setStb fun b => { b with free := List.range 8 }
    s.reaches .s0 .append append8 ∧ s.dev.stb.free.length ≤ s.dev.sst.working.class0Reserve :=
  ⟨reached_spec (by decide +kernel), by decide +kernel⟩

/-- The part with its commit engine at work. -/
def busily (s : State) : State := { s with dev := busy s.dev }

/-- Whether an APPEND of 8 bytes to slot 0 passes Table 2.4. -/
def appends (s : State) (x : StreamBody) : Bool :=
  reached s .s0 .append append8 && (match s.dev.handleTest .s0 append8 with
    | .ok y => y == (0, x)
    | .error _ => false)
    && (s.dev.appendTest x false 8).isNone && s.dev.cme.state != .idle

theorem witness_Append_none : appends (busily (streaming none 0 none)) (body0 none 0 none) = true := by decide +kernel

theorem witness_Append_part :
    appends (busily (streaming (some (List.replicate 1015 0)) 0 none)) (body0 (some (List.replicate 1015 0)) 0 none)
      = true := by decide +kernel

theorem witness_Append_full :
    appends (busily (streaming (some (List.replicate 1016 0)) 0 none)) (body0 (some (List.replicate 1016 0)) 0 none)
      = true := by decide +kernel

theorem witness_Append_over :
    appends (busily (streaming (some (List.replicate 1017 0)) 0 none)) (body0 (some (List.replicate 1017 0)) 0 none)
      = true := by decide +kernel

/-- The stream records of the directory. -/
def recordsOf (d : Dev) : List StreamRec := d.drm.records.flatMap (·.streams)

theorem test_the_record_follows_an_append :
    ∃ t, exec (.append .s0 1 append8) (busily (streaming none 0 none)) = .next t
      ∧ recordsOf t.dev = [⟨0, .port .s0, 1, 0, none, 8, 0, 0, .open, none, false⟩] :=
  ⟨_, rfl, by decide +kernel⟩

/-- Pool zones none of which is FREE. -/
def poolFull (d : Dev) : Dev := { d with plm := { d.plm with
  zones := (List.range' 19 237).map fun z => (z, ⟨.full, 32, [1]⟩) } }

/-- The part with a pool that has no page to give. -/
def poolless (s : State) : State := { s with dev := poolFull s.dev }

theorem witness_Append_notTaking :
    let s := streaming none 0 none
    let s : State := { s with dev := { s.dev with hum := ⟨.holdup, 9, some .reserve⟩ } }
    reached s .s0 .append append8 = true ∧ s.dev.body 0 = some (body0 none 0 none)
      ∧ (s.dev.appendTest (body0 none 0 none) false 8).isNone = true ∧ s.dev.hum.closing ≠ none := by
  decide +kernel

/-- A stream whose block is eight bytes short of full, in a part whose CME is at rest. -/
def block1016 : State := streaming (some (List.replicate 1016 0)) 0 none

theorem witness_Append_quiet :
    reached block1016 .s0 .append append8 = true ∧ reached (poolless block1016) .s0 .append append8 = true
      ∧ (poolless block1016).dev.commitQuiet ∧ block1016.dev.commitQuiet := by
  have h : ∀ i, block1016.dev.body i = none
      ∨ (i = 0 ∧ block1016.dev.body i = some (body0 (some (List.replicate 1016 0)) 0 none)) := by
    decide +kernel
  have g : block1016.dev.commitQuiet := by
    refine .inr ⟨rfl, ?_⟩
    intro i x f hx hf
    rcases h i with h | ⟨rfl, h⟩ <;> rw [h] at hx <;> cases hx
    cases hf; rfl
  exact ⟨by decide +kernel, by decide +kernel, g, g⟩

theorem test_the_record_of_a_block_that_is_taken :
    ∃ t, exec (.append .s0 1 append8) block1016 = .next t ∧ (t.dev.body 0).isSome = true
      ∧ recordsOf t.dev = [⟨0, .port .s0, 1, 0, none, 8, 0, 0, .open, none, false⟩] :=
  ⟨_, rfl, by decide +kernel, by decide +kernel⟩

theorem test_the_record_of_a_stream_cut_at_its_append :
    ∃ t, exec (.append .s0 1 append8) (poolless block1016) = .next t ∧ t.dev.body 0 = none
      ∧ recordsOf t.dev = [⟨0, .port .s0, 1, 0, none, 8, 0, 0, .truncated, some .storeFull, false⟩] :=
  ⟨_, rfl, by decide +kernel, by decide +kernel⟩

theorem witness_BlocksInSize : State.reset.dev.stb.queue = [] ∧ ∃ t, step State.reset = .next t := ⟨rfl, _, rfl⟩

/-- A staging block of class 2. -/
def block2 : Block := ⟨5, 0, 7, 1, 0, 2, 0, [1]⟩

theorem witness_CommitQueue :
    [{ block2 with cls := 0 }, block2].Pairwise (fun x y => x.cls ≤ y.cls)
      ∧ (withDev fun d => d.setStb fun b => { b with queue := [block2] }).dev.cme.state = .idle
      ∧ (ready.dev.givePage).isSome = true := by
  decide +kernel

/-- Whether a WITHDRAW reaches slot 0. -/
def withdraws (s : State) : Bool :=
  reached s .s0 .withdraw [0, 7] && (match s.dev.handleTest .s0 [0, 7] with
    | .ok _ => true
    | .error _ => false) && s.dev.cme.state != .idle

theorem witness_Withdraw :
    withdraws (busily (streaming (some [1]) 0 none)) = true ∧ withdraws (busily (streaming none 1 none)) = true
      ∧ withdraws (busily (streaming none 0 none)) = true := by
  decide +kernel

theorem test_withdraw_releases_an_empty_stream :
    ∃ t, exec (.withdraw .s0 1 [0, 7]) (busily (streaming none 0 none)) = .next t ∧ t.dev.body 0 = none
      ∧ recordsOf t.dev = [⟨0, .port .s0, 1, 0, none, 0, 0, 0, .abandoned, none, false⟩] :=
  ⟨_, rfl, by decide +kernel, by decide +kernel⟩

/-! ### Links, supply, lines and deadlines -/

theorem witness_LinkReset : (waitingAt .s0).powered = true ∧ (streaming none 1 none).dev.body 0 = some (body0 none 1 none) :=
  ⟨rfl, by decide +kernel⟩

theorem test_link_reset_abandons :
    ∃ t, exec (.linkReset .s0) (busily (streaming none 1 none)) = .next t
      ∧ t.dev.body 0 = some (body0 none 1 (some .abandoned)) := ⟨_, rfl, by decide +kernel⟩

theorem witness_Quiet : (busily (streaming (some [1]) 0 none)).dev.commitQuiet ∧ filled.dev.commitQuiet := by
  refine ⟨.inl (by decide +kernel), .inr ⟨rfl, ?_⟩⟩
  have h : ∀ i, filled.dev.body i = none ∨ (i = 0 ∧ filled.dev.body i = some (body0 (some [1]) 0 none)) := by
    decide +kernel
  intro i x f hx hf
  rcases h i with h | ⟨rfl, h⟩ <;> rw [h] at hx <;> cases hx
  cases hf; rfl

theorem witness_LinkReset_ended :
    (busily (streaming none 1 (some .ended))).dev.body 0 = some (body0 none 1 (some .ended))
      ∧ ((busily (streaming (some [1]) 0 none)).dev.body 0).map (·.owner) = some .s0
      ∧ (busily (streaming none 0 none)).dev.cme.state ≠ .idle := by
  decide +kernel

theorem witness_StartIsEntered : ready.powered = true := rfl

theorem test_device_reset_samples_the_straps :
    ∃ t, exec (.deviceReset true false) ready = .next t ∧ t.dev.pif.i2cAddr = 0x35 ∧ t.dev.hum.mode = .start :=
  ⟨_, rfl, by decide +kernel, by decide +kernel⟩

/-- A part whose line FLT0 is asserted and being filtered, due at tick 0. -/
def filtering (l : Line) (m : Mode) : State := withDev fun d => { (d.setFilter l (some 0)).setLevel l true with
  hum := ⟨m, 9, none⟩ }

theorem witness_LineChange :
    ready.dev.tru.qualified[Line.idx .pwrwarn] = false ∧ ready.dev.tru.timing[Line.idx .pwrwarn] = false
      ∧ ready.dev.sst.working.filters[Line.idx .pwrwarn] = 50
      ∧ (withDev fun d => { d with sst := { d.sst with
          working := { d.sst.working with filters := Vector.replicate 6 0 } } }).dev.sst.working.filters[Line.idx .pwrwarn] = 0
      ∧ (filtering .pwrwarn .normal).dev.tru.timing[Line.idx .pwrwarn] = true
      ∧ (filtering .pwrwarn .normal).dev.tru.qualified[Line.idx .pwrwarn] = false := by
  decide +kernel

/-- Whether the filter of a line expires now. -/
def expires (l : Line) (s : State) : Bool := s.powered && s.dev.tmb.deadlines.filters[Line.idx l] == some s.dev.tmb.tick

theorem witness_FilterExpiry :
    expires (.fault .fltb) (filtering (.fault .fltb) .normal) = true
      ∧ expires (.fault .flt0) (filtering (.fault .flt0) .start) = true
      ∧ expires (.fault .flt0) (filtering (.fault .flt0) .exhausted) = true
      ∧ (filtering (.fault .flt0) .start).dev.sst.working.lineEnables.getLsbD 0 = true
      ∧ (filtering (.fault .flt0) .start).dev.tru.latches[FaultLine.idx .flt0] = none
      ∧ expires .pwrwarn (filtering .pwrwarn .normal) = true ∧ expires .pwrwarn (filtering .pwrwarn .start) = true
      ∧ expires .pwrwarn { filtering .pwrwarn .holdup with
          dev := (filtering .pwrwarn .holdup).dev.setLevel .pwrwarn false } = true := by
  decide +kernel

theorem test_a_latched_fault :
    ∃ t, exec (.filterExpiry (.fault .flt0)) (filtering (.fault .flt0) .start) = .next t
      ∧ (t.dev.tru.latches[FaultLine.idx .flt0]).map (·.snapshot) = some 0x01 := ⟨_, rfl, by decide +kernel⟩

theorem witness_Warning : ready.dev.hum.mode = .normal
    ∧ (filtering .pwrwarn .holdup).dev.hum.mode = .holdup ∧ (filtering .pwrwarn .exhausted).dev.hum.mode = .exhausted := by
  decide +kernel

theorem test_the_warning_enters_holdup :
    ∃ t, exec (.filterExpiry .pwrwarn) (filtering .pwrwarn .normal) = .next t ∧ t.dev.hum.mode = .holdup
      ∧ t.dev.tmb.deadlines.holdup = some 60000 := ⟨_, rfl, by decide +kernel, by decide +kernel⟩

/-- A part that records incident 1 with two streams: stream 0, of class 1 with bytes, in slot 0, and stream 1, of class 2
with none, in slot 5. -/
def twoStreams (d : Dev) : Dev :=
  let d := streamDev (body0 (some [1]) 0 none) d
  { recordingDev [rec0, { rec0 with number := 1, cls := 2 }] d with
    cpm := { d.cpm with slots := put d.cpm.slots 5 ⟨9, some { body0 none 0 none with stream := 1, cls := 2 }⟩ } }

theorem witness_Warning_cuts :
    let d := (busily (withDev twoStreams)).dev
    d.hum.mode = .normal ∧ d.sst.working.reserve < d.hum.credits ∧ d.cme.state ≠ .idle
      ∧ (d.body 5).map (fun x => (x.cls, x.ending)) = some (2, none)
      ∧ (d.body 0).map (fun x => (x.cls, x.ending)) = some (1, none) := by
  decide +kernel

theorem test_the_warning_cuts_class_2_and_takes_its_trigger :
    let e := (busily (withDev twoStreams)).dev.enterHoldup
    (e.body 0).map (·.ending) = some none ∧ e.body 5 = none
      ∧ e.drm.queue = [.streamEnd 1 1 .truncated (some .power) false 0 0 0, .triggerAdd 1 .power 0]
      ∧ (e.hiu.unflushed.map (·.code)).take 2 = [0x0005, 0x0002]
      ∧ e.ntu.management.map (·.cause) = [.powerWarn, .streamCut] := by
  decide +kernel

/-- A part whose read of a stream waits, under another setting of the power trigger. -/
def warnedReader (power : Nat) : State := withDev fun d =>
  let d := (d.setPort .mgt ⟨.outstanding 0x22 9, [], 0, []⟩).setJob .mgt
    (some ⟨.stream 1 0 0 8 false ⟨19, 0⟩, .history 4, false⟩)
  { d.place (.rtu .mgt) (.read ⟨19, 0⟩ 0 8 0 0) with
    sst := { d.sst with working := { d.sst.working with powerTrigger := power } } }

theorem witness_Warning_reads :
    (warnedReader 0).dev.job .mgt = some ⟨.stream 1 0 0 8 false ⟨19, 0⟩, .history 4, false⟩
      ∧ (warnedReader 0).dev.arc.waits (.rtu .mgt) = true ∧ (warnedReader 0).dev.sst.working.powerTrigger ≠ 1
      ∧ ((warnedReader 0).dev.enterHoldup.port .mgt).exchange = .ready 0x22 9 ⟨0x22, 9, .power, 0, .empty⟩
      ∧ (warnedReader 0).dev.enterHoldup.cursor .mgt = .history 4 := by
  decide +kernel

theorem witness_Warning_trigger :
    let x : Incident := { inc 1 .recording [] with secondary := List.replicate 4 (.power, 0) }
    let d : Dev := { (withDev (holding x)).dev with ict := { ready.dev.ict with recording := some 0 } }
    d.sst.working.powerTrigger = 1 ∧ d.arc.storeFailed = false ∧ d.ict.windowExpired = false
      ∧ d.ict.recording = some 0 ∧ d.drm.dir[(0 : DirSlot)] = some x ∧ d.drm.slotOf x.number = some 0
      ∧ 4 ≤ d.secondaryCount x ∧ (recordingDev [] ready.dev).secondaryCount (inc 1 .recording []) < 4
      ∧ (d.enterHoldup.drm.dir[(0 : DirSlot)]).map (·.overflow) = some 1 := by
  decide +kernel

/-- A part in EXHAUSTED with settings to load, and latches of equal and of lower ticks. -/
def drained : Dev := { ready.dev with
  hum := ⟨.exhausted, 0, some .reserve⟩
  sst := { ready.dev.sst with loadDue := true, pending := { Settings.defaults with credits := 20, recharge := 0 } }
  tru := { ready.dev.tru with latches := #v[some { flt0 with tick := 4 }, none, some { flt0 with tick := 3 },
    some { flt0 with tick := 3 }, none] } }

theorem witness_Return_exhausted :
    drained.hum.mode = .exhausted ∧ drained.sst.loadDue = true ∧ drained.ict.recording = none
      ∧ drained.ict.closing = none ∧ ready.dev.sst.loadDue = false
      ∧ drained.tru.latches[(2 : Fin 5)] = some { flt0 with tick := 3 }
      ∧ (∀ (j : Fin 5) (u : TriggerRecord), drained.tru.latches[j] = some u → 3 < u.tick ∨ (3 = u.tick ∧ 2 ≤ j))
      ∧ drained.powerReturn.hum.credits = 0 ∧ drained.powerReturn.tru.latches = Vector.replicate 5 none
      ∧ drained.powerReturn.drm.records.map (fun x => (x.primary.tick, x.secondary.map (·.2))) = [(3, [3, 4])] := by
  refine ⟨rfl, rfl, rfl, rfl, rfl, by decide +kernel, ?_, by decide +kernel, by decide +kernel, by decide +kernel⟩
  have h : ∀ j : Fin 5, (drained.tru.latches[j]).all (fun u => 3 < u.tick ∨ (3 = u.tick ∧ 2 ≤ j)) = true := by
    decide +kernel
  intro j u hu
  have := h j
  rw [hu] at this
  simpa using this

/-- A part with every deadline at tick 5, at a tick. -/
def armed (tick : Tick) (f : Dev → Dev) : State := withDev fun d => f { d with
  tmb := { d.tmb with
    tick
    deadlines := ⟨some 5, some 5, some 5, some 5, some 5, some 5, Vector.replicate 6 (some 5)⟩ } }

theorem witness_Deadlines :
    (armed 5 id).dev.tmb.deadlines.recharge = some (armed 5 id).dev.tmb.tick
      ∧ (armed 5 id).dev.tmb.deadlines.flush = some (armed 5 id).dev.tmb.tick ∧ (armed 5 id).dev.hiu.staging = []
      ∧ (armed 5 id).dev.tmb.deadlines.locate = some (armed 5 id).dev.tmb.tick
      ∧ (armed 4 id).dev.tmb.deadlines.locate ≠ some (armed 4 id).dev.tmb.tick
      ∧ (armed 5 fun d => d.setHiu fun h => { h with staging := [event 1] }).dev.hiu.staging.getLast? = some (event 1) := by
  decide +kernel

theorem witness_CaptureDeadlines :
    let s := armed 5 (streamDev (body0 none 1 none))
    s.powered = true ∧ s.dev.tmb.deadlines.window = some s.dev.tmb.tick
      ∧ s.dev.tmb.deadlines.limit = some s.dev.tmb.tick ∧ s.dev.ict.recording = some 0
      ∧ s.dev.drm.dir[(0 : DirSlot)] = some (inc 1 .recording [rec0])
      ∧ s.dev.body 0 = some (body0 none 1 none) ∧ (body0 none 1 none).ending = none := by
  decide +kernel

theorem witness_CaptureDeadlines_noStream :
    let s := armed 5 (recordingDev [])
    s.dev.ict.closing = none ∧ ∀ j, s.dev.body j = none := by
  decide +kernel

theorem test_the_window_expires :
    ∃ t, exec .captureWindowExpiry (armed 5 (recordingDev [])) = .next t ∧ t.dev.ict.recording = none :=
  ⟨_, rfl, by decide +kernel⟩

/-- A part that records incident 1, its window due, while incident 2 is CLOSING with a stream slot. -/
def closingOther : State := armed 5 fun d =>
  let d := recordingDev [] d
  { d with
    drm := { d.drm with dir := put d.drm.dir 1 (some (inc 2 .closing [rec0])), nextIncident := 3 }
    ict := { d.ict with closing := some 1 }
    cpm := { d.cpm with slots := put d.cpm.slots 3 ⟨4, some { body0 none 1 (some .ended) with incident := 2 }⟩ } }

theorem witness_CaptureDeadlines_closing :
    closingOther.dev.tmb.deadlines.window = some closingOther.dev.tmb.tick ∧ closingOther.dev.ict.recording = some 0
      ∧ closingOther.dev.ict.closing = some 1
      ∧ closingOther.dev.drm.dir[(1 : DirSlot)] = some (inc 2 .closing [rec0])
      ∧ (closingOther.dev.body 3).map (·.incident) = some 2 := by
  decide +kernel

theorem test_the_limit_cuts_every_stream :
    ∃ t, exec .captureLimitExpiry (busily (armed 5 twoStreams)) = .next t
      ∧ (t.dev.body 0).map (·.ending) = some (some (.truncated .limit)) ∧ t.dev.body 5 = none
      ∧ t.dev.stb.queue.map (·.data) = [[1]]
      ∧ t.dev.hiu.unflushed.map (·.body) = [cutBody (body0 none 0 none) .limit,
          cutBody { body0 none 0 none with stream := 1 } .limit]
      ∧ t.dev.drm.queue = [.streamEnd 1 1 .truncated (some .limit) false 0 0 0] :=
  ⟨_, rfl, by decide +kernel, by decide +kernel, by decide +kernel, by decide +kernel, by decide +kernel⟩

theorem witness_HoldupDeadline :
    let s := armed 5 fun d => { d with hum := ⟨.holdup, 9, none⟩ }
    s.powered = true ∧ s.dev.tmb.deadlines.holdup = some s.dev.tmb.tick ∧ s.dev.hum.mode = .holdup
      ∧ s.dev.hum.closing = none
      ∧ ¬((armed 5 id).dev.hum.mode = .holdup ∧ (armed 5 id).dev.hum.closing = none)
      ∧ (armed 5 fun d => d.setCme fun c => { c with state := .programming }).dev.cme.state = .programming := by
  decide +kernel

/-- A part in HOLDUP whose deadline is due, with two streams. -/
def heldUp (f : Dev → Dev) : State := armed 5 fun d => f { twoStreams d with hum := ⟨.holdup, 9, none⟩ }

theorem witness_HoldupDeadline_streams :
    let s := heldUp id
    s.dev.hum.mode = .holdup ∧ s.dev.hum.closing = none ∧ s.dev.cme.block = none ∧ s.dev.drm.captureWaiters = []
      ∧ s.dev.drm.queue.length + 18 ≤ 80
      ∧ (∀ i, (s.dev.body i).all (fun x => x.queued = (s.dev.stb.queue.filter (·.slot == i)).length) = true)
      ∧ (s.dev.body 0).map (·.ending) = some none
      ∧ (armed 5 fun d => { d with hum := ⟨.holdup, 9, none⟩ }).dev.ict.recording = none
      ∧ (armed 5 fun d => { d with hum := ⟨.holdup, 9, none⟩ }).dev.ict.closing = none := by
  decide +kernel

theorem test_the_closing_phase_ends_every_stream :
    ∃ t, exec .holdupDeadlineExpiry (heldUp id) = .next t
      ∧ t.dev.drm.queue = [.streamEnd 1 0 .truncated (some .power) false 0 0 0,
          .streamEnd 1 1 .truncated (some .power) false 0 0 0, .incidentClose 1 (some .partly) 0]
      ∧ t.dev.hiu.unflushed.map (·.code) = [0x0005, 0x0005, 0x0007, 0x0003] ∧ t.dev.hum.closing = some .deadline :=
  ⟨_, rfl, by decide +kernel, by decide +kernel, by decide +kernel⟩

/-! ### The array's events -/

theorem witness_Erases_running :
    (erasing .reclaim 255).dev.arc.erase = some ⟨.running, 255, .reclaim⟩ ∧ 1000 ≤ (erasing .reclaim 255).dev.arc.runTimer
      ∧ ({ (erasing .reclaim 255).dev with hum := ⟨.holdup, 9, none⟩ } : Dev).hum.mode = .holdup
      ∧ ((erasing .reclaim 255).dev.erasePhase .suspending).arc.erase = some ⟨.suspending, 255, .reclaim⟩
      ∧ ((erasing .reclaim 255).dev.erasePhase .suspended).nextGrant = none
      ∧ (((erasing .reclaim 255).dev.place .scanner (.read ⟨0, 0⟩ 0 1 0 0)).erasePhase .suspended).nextGrant
        = some ⟨.scanner, .read ⟨0, 0⟩ 0 1 0 0⟩ := by
  decide +kernel

/-- A part with a request waiting. -/
def asking (who : Requester) (j : Job) : State := withDev (·.place who j)

theorem witness_Arbiter :
    ready.dev.nextGrant = none
      ∧ (asking .ringPrep (.erase 3)).dev.nextGrant = some ⟨.ringPrep, .erase 3⟩
      ∧ (asking .commit (.program ⟨19, 0⟩ 0 [1] 0 [])).dev.nextGrant = some ⟨.commit, .program ⟨19, 0⟩ 0 [1] 0 []⟩
      ∧ (asking .journal (.program ⟨1, 0⟩ 0 [1] 0 [])).dev.nextGrant = some ⟨.journal, .program ⟨1, 0⟩ 0 [1] 0 []⟩
      ∧ (asking .journal (.program ⟨1, 0⟩ 0 [1] 0 [])).dev.drm.active = some 1
      ∧ (asking .flush (.program ⟨3, 0⟩ 0 [1] 0 [])).dev.nextGrant = some ⟨.flush, .program ⟨3, 0⟩ 0 [1] 0 []⟩
      ∧ (asking .flush (.program ⟨3, 0⟩ 0 [1] 0 [])).dev.hiu.target = some ⟨0, 0, 0⟩ := by
  decide +kernel

/-- Of two reads the one that has waited longest is granted; a program placed behind them goes first. -/
theorem test_the_arbiter_grants_by_class_and_then_by_age :
    let read (p : PageNo) : Job := .read ⟨19, p⟩ 0 16 0 0
    let two := (asking (.rtu .svc) (read 0)).dev.place (.rtu .s0) (read 1)
    two.nextGrant = some ⟨.rtu .svc, read 0⟩
      ∧ (two.place .flush (.program ⟨3, 0⟩ 0 [1] 0 [])).nextGrant = some ⟨.flush, .program ⟨3, 0⟩ 0 [1] 0 []⟩
      ∧ (((asking .reclaim (.erase 255)).dev.place .dirErase (.erase 2)).nextGrant) = some ⟨.dirErase, .erase 2⟩ := by
  decide +kernel

/-- A part in HOLDUP with some credits and a request waiting. -/
def askingInHoldup (credits : Nat) (who : Requester) (j : Job) : State := withDev fun d =>
  { streamDev (body0 (some [1]) 0 none) d with hum := ⟨.holdup, credits, none⟩ }.place who j

theorem witness_Arbiter_holdup :
    let ask (n : Nat) (who : Requester) (p : PageAddr) := (askingInHoldup n who (.program p 0 [1] 0 [])).dev
    (ask 7 .commit ⟨19, 0⟩).nextGrant = some ⟨.commit, .program ⟨19, 0⟩ 0 [1] 0 []⟩
      ∧ (ask 7 .journal ⟨1, 0⟩).nextGrant = some ⟨.journal, .program ⟨1, 0⟩ 0 [1] 0 []⟩
      ∧ (ask 1 .flush ⟨3, 0⟩).nextGrant = some ⟨.flush, .program ⟨3, 0⟩ 0 [1] 0 []⟩
      ∧ (ask 7 .commit ⟨19, 0⟩).hum.credits - 1 ≤ (ask 7 .commit ⟨19, 0⟩).sst.working.reserve
      ∧ (ask 1 .flush ⟨3, 0⟩).hum.credits - 1 = 0 := by
  decide +kernel

theorem test_a_grant_at_the_reserve_begins_the_closing_phase :
    ∃ t, exec .arbiterGrant (askingInHoldup 7 .journal (.program ⟨1, 0⟩ 0 [1] 0 [])) = .next t
      ∧ t.dev.hum = ⟨.holdup, 6, some .reserve⟩ ∧ t.dev.body 0 = none ∧ t.dev.arc.op.isSome = true :=
  ⟨_, rfl, by decide +kernel, by decide +kernel, by decide +kernel⟩

theorem test_the_last_credit_exhausts :
    ∃ t, exec .arbiterGrant (askingInHoldup 1 .flush (.program ⟨3, 0⟩ 0 [1] 0 [])) = .next t
      ∧ t.dev.hum = ⟨.exhausted, 0, some .reserve⟩ := ⟨_, rfl, by decide +kernel⟩

/-- A part whose PROGRAM of a DUMP page, or of a void mark, is in progress. -/
def committing (who : Requester) (retry : Nat) (held : Bool) (x : StreamBody) (h : Hum) : State :=
  withDev fun d => { streamDev x d with
    hum := h
    cme := ⟨if who = .commit then .programming else .voiding,
      if held then some { block2 with cls := 1 } else none, some ⟨19, 0⟩, retry, false⟩
    arc := { d.arc with op := some ⟨who, .program ⟨19, 0⟩ 0 [0x0F] 0 []⟩ } }

theorem witness_Commit :
    let s := committing .commit 0 true (body0 none 1 (some .ended)) ⟨.normal, 32, none⟩
    s.powered = true ∧ s.dev.arc.op = some ⟨.commit, .program ⟨19, 0⟩ 0 [0x0F] 0 []⟩
      ∧ s.dev.cme.block = some { block2 with cls := 1 } ∧ s.dev.cme.page = some ⟨19, 0⟩ ∧ s.dev.stb.queue = []
      ∧ (Job.program ⟨19, 0⟩ 0 [0x0F] 0 []).verifies s.flash = true
      ∧ s.dev.body 0 = some (body0 none 1 (some .ended)) ∧ s.dev.drm.queue.length + 3 ≤ 80
      ∧ s.dev.hum.closing = none ∧ s.dev.cme.retry = 0 := by
  decide +kernel

theorem witness_Commit_others :
    (committing .commit 1 true (body0 none 1 none) ⟨.normal, 32, none⟩).dev.cme.retry ≠ 0
      ∧ (committing .commit 1 true (body0 none 1 none) ⟨.normal, 32, none⟩).dev.body 0 ≠ none
      ∧ (committing .commit 0 true (body0 none 1 none) ⟨.holdup, 9, some .reserve⟩).dev.hum.closing ≠ none
      ∧ (committing .commit 0 true (body0 none 1 none) ⟨.holdup, 9, some .reserve⟩).dev.hum.mode = .holdup := by
  decide +kernel

/-- The part with blocks on the commit queue. -/
def queueing (l : List Block) (s : State) : State := { s with dev := s.dev.setStb fun b => { b with queue := l } }

theorem witness_Commit_next :
    let s := queueing [block2] (committing .commit 0 true (body0 none 2 none) ⟨.normal, 32, none⟩)
    s.dev.stb.queue = [block2] ∧ s.dev.cme.block = some { block2 with cls := 1 }
      ∧ (Job.program ⟨19, 0⟩ 0 [0x0F] 0 []).verifies s.flash = true
      ∧ (({ s.dev with plm := (s.dev.plm.setLive ⟨19, 0⟩ block2).usedUpTest } : Dev).givePage).isSome = true
      ∧ s.dev.body 0 = some (body0 none 2 none) := by
  decide +kernel

theorem test_the_second_failure_cuts_the_stream :
    let s := queueing [block2] (committing .commit 1 true (body0 (some [1]) 2 none) ⟨.normal, 32, none⟩)
    ∃ t, exec (.commitProgramDone .programFail) s = .next t ∧ t.dev.body 0 = none ∧ t.dev.stb.queue = []
      ∧ t.dev.drm.queue = [.streamEnd 1 0 .truncated (some .media) false 0 0 0]
      ∧ t.dev.hiu.unflushed.map (·.body) = [cutBody (body0 none 0 none) .media]
      ∧ t.dev.ntu.service = [⟨.streamCut, 1, 0⟩] :=
  ⟨_, rfl, by decide +kernel, by decide +kernel, by decide +kernel, by decide +kernel, by decide +kernel⟩

/-- A part whose program of CME was in progress when the closing phase began. -/
def dropping (who : Requester) : State :=
  let s := committing who 0 true (body0 none 1 none) ⟨.normal, 32, none⟩
  { s with dev := s.dev.setCme fun c => { c with dropping := true } }

theorem witness_Commit_dropping :
    (dropping .commit).dev.cme.dropping = true ∧ (dropping .commit).dev.stb.queue = []
      ∧ (dropping .voidMark).dev.cme.dropping = true ∧ (dropping .voidMark).dev.cme.block ≠ none
      ∧ (dropping .commit).dev.cme.page = some ⟨19, 0⟩ := by
  decide +kernel

theorem test_a_dropped_block_is_not_tried_again :
    ∃ t, exec (.commitProgramDone .programFail) (dropping .commit) = .next t
      ∧ t.dev.cme = Cme.rest ∧ t.dev.plm.page ⟨19, 0⟩ = .torn := ⟨_, rfl, by decide +kernel, by decide +kernel⟩

theorem test_a_commit_counts :
    ∃ t, exec (.commitProgramDone .ok) (committing .commit 0 true (body0 none 1 none) ⟨.normal, 32, none⟩) = .next t
      ∧ (t.dev.body 0).map (fun x => (x.committed, x.pages, x.queued)) = some (1, 1, 0)
      ∧ recordsOf t.dev = [⟨0, .port .s0, 1, 0, none, 0, 1, 1, .open, none, false⟩]
      ∧ t.dev.plm.page ⟨19, 0⟩ = .live 1 0 0 1 := ⟨_, rfl, by decide +kernel, by decide +kernel, by decide +kernel⟩

theorem test_a_commit_that_releases_closes_the_record :
    ∃ t, exec (.commitProgramDone .ok) (committing .commit 0 true (body0 none 1 (some .ended)) ⟨.normal, 32, none⟩)
        = .next t
      ∧ t.dev.body 0 = none ∧ recordsOf t.dev = [⟨0, .port .s0, 1, 0, none, 0, 1, 1, .ended, none, false⟩] :=
  ⟨_, rfl, by decide +kernel, by decide +kernel⟩

theorem witness_Commit_waits :
    let s := fullQueue (committing .commit 0 true (body0 none 1 (some .ended)) ⟨.normal, 32, none⟩)
    s.dev.body 0 = some (body0 none 1 (some .ended)) ∧ 80 ≤ s.dev.drm.queue.length ∧ s.dev.stb.queue = []
      ∧ (Job.program ⟨19, 0⟩ 0 [0x0F] 0 []).verifies s.flash = true := by
  decide +kernel

/-- A commit after which the pool has no page for the stream's next block. -/
def lastPage : State := poolless (queueing [block2] (committing .commit 0 true (body0 none 2 none) ⟨.normal, 32, none⟩))

theorem witness_Commit_ownBlocks :
    lastPage.dev.body 0 = some (body0 none 2 none) ∧ (∀ g ∈ lastPage.dev.stb.queue, g.slot = 0)
      ∧ (Job.program ⟨19, 0⟩ 0 [0x0F] 0 []).verifies lastPage.flash = true := by
  decide +kernel

theorem test_the_record_of_a_stream_cut_after_a_commit :
    ∃ t, exec (.commitProgramDone .ok) lastPage = .next t ∧ t.dev.body 0 = none
      ∧ recordsOf t.dev = [⟨0, .port .s0, 1, 0, none, 0, 1, 1, .truncated, some .storeFull, false⟩] :=
  ⟨_, rfl, by decide +kernel, by decide +kernel⟩

theorem witness_VoidMark :
    let s := committing .voidMark 1 false (body0 none 1 none) ⟨.normal, 32, none⟩
    s.powered = true ∧ s.dev.arc.op = some ⟨.voidMark, .program ⟨19, 0⟩ 0 [0x0F] 0 []⟩ ∧ s.dev.cme.block = none
      ∧ s.dev.stb.queue = [] ∧ s.dev.cme.page = some ⟨19, 0⟩
      ∧ (committing .voidMark 1 true (body0 none 1 none) ⟨.normal, 32, none⟩).dev.cme.block ≠ none
      ∧ ((committing .voidMark 1 true (body0 none 1 none) ⟨.normal, 32, none⟩).dev.givePage).isSome = true
      ∧ (committing .voidMark 1 true (body0 none 1 none) ⟨.holdup, 9, some .deadline⟩).dev.hum.closing ≠ none := by
  decide +kernel

theorem witness_VoidMark_noPage :
    (poolFull (committing .voidMark 1 true (body0 none 1 none) ⟨.normal, 32, none⟩).dev).givePage.isNone = true := by
  decide +kernel

theorem witness_VoidMark_cut :
    let s := poolless (committing .voidMark 1 true (body0 none 1 (some .ended)) ⟨.normal, 32, none⟩)
    s.dev.cme.block = some { block2 with cls := 1 } ∧ s.dev.cme.dropping = false
      ∧ s.dev.body 0 = some (body0 none 1 (some .ended)) := by
  decide +kernel

theorem test_want_of_a_page_cuts_the_stream :
    let s := poolless (committing .voidMark 1 true (body0 none 1 (some .ended)) ⟨.normal, 32, none⟩)
    ∃ t, exec (.voidMarkDone .ok) s = .next t ∧ t.dev.body 0 = none ∧ t.dev.cme = Cme.rest
      ∧ t.dev.drm.queue = [.streamEnd 1 0 .truncated (some .storeFull) false 0 0 0]
      ∧ t.dev.hiu.unflushed.map (·.body) = [cutBody (body0 none 0 none) .storeFull] :=
  ⟨_, rfl, by decide +kernel, by decide +kernel, by decide +kernel, by decide +kernel⟩

theorem witness_CommitQueue_noPage :
    let d := (poolless (queueing [block2, block2] (streaming none 2 (some .abandoned)))).dev
    d.cme.state = .idle ∧ (∀ b ∈ d.stb.queue, d.body b.slot ≠ none) ∧ d.hum.mode = .normal ∧ d.givePage.isNone = true
      ∧ d.cmeTest.body 0 = none ∧ d.cmeTest.stb.queue = []
      ∧ d.cmeTest.drm.queue = [.streamEnd 1 0 .abandoned none false 0 0 0] := by
  decide +kernel

/-- Fill zones with a page left, with none, and of a pool whose last FREE zone comes round the search. -/
theorem witness_CommitQueue_pages :
    let fill (n : Nat) (h : List Nat) : Dev := { poolFull ready.dev with plm := { (poolFull ready.dev).plm with
      zones := [(19, ⟨.filling, n, h⟩)] ++ (List.range' 20 235).map (fun z => (z, ⟨.full, 32, [1]⟩)), fillZone := some 19 } }
    (fill 31 []).givePage.map (·.1) = some ⟨19, 31⟩ ∧ (fill 32 [1]).givePage.map (·.1) = some ⟨255, 0⟩
      ∧ (fill 32 []).plm.usedUpTest.zone 19 = ⟨.retired, 32, []⟩ ∧ (fill 32 [1]).plm.usedUpTest.zone 19 = ⟨.full, 32, [1]⟩
      ∧ (fill 32 [1]).plm.freeZones < (fill 32 [1]).sst.working.poolLow
      ∧ (fill 32 [1]).plm.cursor = 255 ∧ ready.dev.givePage.map (·.1) = some ⟨19, 0⟩
      ∧ ready.dev.sst.working.poolLow ≤ ready.dev.plm.freeZones := by
  decide +kernel

/-- A part whose journal batch is in progress. -/
def journaling (e : JEntry) (r : ReclaimStep) : State := withDev fun d => { d with
  drm := { d.drm with queue := [e], batch := 1, writer := .programming }
  plm := { d.plm with reclaim := r }
  arc := { d.arc with op := some ⟨.journal, .program ⟨1, 0⟩ 0 [0x0F] 0 []⟩ } }

theorem witness_Journal :
    let s := journaling (.reclaimStart 19) (.startWait 19)
    s.powered = true ∧ s.dev.arc.op = some ⟨.journal, .program ⟨1, 0⟩ 0 [0x0F] 0 []⟩
      ∧ (Job.program ⟨1, 0⟩ 0 [0x0F] 0 []).verifies s.flash = true ∧ s.dev.plm.reclaim = .startWait 19
      ∧ JEntry.reclaimStart 19 ∈ s.dev.drm.queue.take s.dev.drm.batch
      ∧ (journaling (.reclaimDone 255) (.doneWait 255)).dev.plm.reclaim = .doneWait 255
      ∧ JEntry.reclaimDone 255 ∈ (journaling (.reclaimDone 255) (.doneWait 255)).dev.drm.queue.take 1 := by
  decide +kernel

/-- A part whose journal is nearly full. -/
def compacting (r : ReclaimStep) : State := withDev fun d => { d with
  drm := { d.drm with pos := 481 }, plm := { d.plm with reclaim := r } }

theorem witness_Compaction :
    let s := compacting .idle
    s.powered = true ∧ s.dev.drm.active ≠ none ∧ 512 - s.dev.drm.pos < 32 ∧ s.dev.hum.mode = .normal
      ∧ s.dev.arc.storeFailed = false ∧ s.dev.drm.spare = some .erased ∧ s.dev.drm.writer = .idle
      ∧ s.dev.drm.generation < 4294967295 ∧ s.dev.drm.copy = none ∧ s.dev.plm.reErase = []
      ∧ (compacting (.doneQueue 255)).dev.plm.reclaim = .doneQueue 255
      ∧ ¬(512 - ready.dev.drm.pos < 32 ∨ ready.dev.drm.journalOpen = false) := by
  decide +kernel

theorem witness_Compaction_unfinished :
    let s := { compacting .idle with dev := (compacting .idle).dev.setPlm fun m => { m with reErase := [19, 255] } }
    s.dev.plm.reclaim = .idle ∧ s.dev.plm.reErase.head? = some 19 ∧ (compacting (.doneWait 255)).dev.plm.reErase = []
      ∧ ∃ t, exec .compactionStart s = .next t ∧ t.dev.drm.copy.bind (·.unfinished) = some 19 :=
  ⟨rfl, rfl, rfl, _, rfl, by decide +kernel⟩

/-- A part whose image page is in progress. -/
def imaging (defects : List Zone) : State := withDev fun d => { d with
  drm := { d.drm with
    copy := some ⟨Vector.replicate 32 none, defects, none, 0, 1, 1⟩, spare := some .image, writer := .programming }
  arc := { d.arc with op := some ⟨.image, .program ⟨2, 0⟩ 0 [0x0F] 0 []⟩ } }

theorem witness_Compaction_image :
    (imaging []).dev.arc.op = some ⟨.image, .program ⟨2, 0⟩ 0 [0x0F] 0 []⟩
      ∧ ((imaging []).dev.drm.copy.map (·.image.length)) = some 2
      ∧ ((imaging ((List.finRange 256).drop 241)).dev.drm.copy.map (·.image.length)) = some 17
      ∧ (imaging []).dev.arc.defects.contains (imaging []).dev.drm.spareZone = false := by
  decide +kernel

/-- A part whose flush is in progress, at a page. -/
def flushing (p : PageNo) : State := withDev fun d => { d with
  hiu := { d.hiu with staging := [event 1, event 2], flushing := 1, target := some ⟨0, p, 0⟩, writer := .programming }
  arc := { d.arc with op := some ⟨.flush, .program ⟨3, p⟩ 0 [0x0F] 0 []⟩ } }

theorem witness_Flush :
    let s := flushing 30
    s.powered = true ∧ s.dev.arc.op = some ⟨.flush, .program ⟨3, 30⟩ 0 [0x0F] 0 []⟩
      ∧ s.dev.hiu.target = some ⟨0, 30, 0⟩ ∧ (Job.program ⟨3, 30⟩ 0 [0x0F] 0 []).verifies s.flash = true
      ∧ (s.dev.hiu.staging.take s.dev.hiu.flushing).head? = some (event 1)
      ∧ (s.dev.hiu.staging.take s.dev.hiu.flushing).getLast? = some (event 1) ∧ s.dev.hiu.staging ≠ [] := by
  decide +kernel

/-- The part whose ring zones 1 and on are in a state; zone 0 is ACTIVE. -/
def ringOf (x : RingState) (range : Option (Nat × Nat)) (s : State) : State := { s with
  dev := s.dev.setHiu fun h => { h with
    ring := Vector.ofFn fun k : RingIdx => if k = 0 then ⟨.active, none, []⟩ else ⟨x, range, []⟩
    staging := [event 1], closed := true } }

theorem witness_Flush_advances :
    (ringOf .erased none (flushing 30)).dev.hiu.closed = true
      ∧ (ringOf .erased none (flushing 30)).dev.hiu.staging.drop 1 = []
      ∧ ((flushing 30).dev.hiu.closed = false ∧ (flushing 30).dev.hiu.intake = [])
      ∧ (ringOf .erased none (flushing 31)).dev.hiu.ring[(15 : RingIdx)].state = .erased
      ∧ (ringOf .filled (some (2, 3)) (flushing 31)).dev.hiu.ring[(15 : RingIdx)].state = .filled
      ∧ (ringOf .filled (some (2, 3)) (flushing 31)).dev.hiu.prep = none
      ∧ (∀ j : RingIdx, (ringOf .filled (some (2, 3)) (flushing 31)).dev.hiu.ring[j].state ≠ .erasing)
      ∧ (∀ k : RingIdx, k = 0 ∨ (ringOf .defective none (flushing 31)).dev.hiu.ring[k].state = .defective) := by
  decide +kernel

theorem test_the_ring_goes_on_to_an_erased_zone :
    ∃ t, exec (.historyFlushDone .ok) (ringOf .erased none (flushing 31)) = .next t
      ∧ t.dev.hiu.target = some ⟨1, 0, 0⟩ ∧ t.dev.hiu.ring[(0 : RingIdx)].state = .filled :=
  ⟨_, rfl, by decide +kernel, by decide +kernel⟩

theorem test_the_ring_prepares_a_filled_zone :
    ∃ t, exec (.historyFlushDone .programFail) (ringOf .filled (some (2, 3)) (flushing 31)) = .next t
      ∧ t.dev.hiu.target = none ∧ t.dev.hiu.prep = some 1 ∧ t.dev.hiu.ring[(1 : RingIdx)] = ⟨.erasing, none, []⟩ :=
  ⟨_, rfl, by decide +kernel, by decide +kernel, by decide +kernel⟩

/-- A part that saves its settings. -/
def saving (fails : Nat) : State := withDev fun d => { d with
  sst := { d.sst with saves := [⟨none, Settings.defaults, fails⟩], busy := true }
  arc := { d.arc with
    op := some ⟨.save, .program ⟨0, 0⟩ 0 [0x0F] 0 []⟩, erase := some ⟨.suspending, 0, .settingsErase⟩ } }

theorem witness_Saves :
    (saving 0).powered = true ∧ (saving 0).dev.sst.saves = [⟨none, Settings.defaults, 0⟩]
      ∧ (saving 1).dev.sst.saves = [⟨none, Settings.defaults, 1⟩]
      ∧ (saving 0).dev.arc.op = some ⟨.save, .program ⟨0, 0⟩ 0 [0x0F] 0 []⟩ ∧ (saving 0).dev.arc.storeFailed = false
      ∧ (Job.program ⟨0, 0⟩ 0 [0x0F] 0 []).verifies (saving 0).flash = true
      ∧ (saving 0).dev.arc.erase = some ⟨.suspending, 0, .settingsErase⟩ ∧ ErasePhase.suspending ≠ .suspended := by
  decide +kernel

/-- A part whose saves of socket 0 and of SVC wait for the erase of zone 0. -/
def savesWaiting : State := withDev fun d =>
  let d := ((d.acceptFrame .s0 0x52 4).countOverlap .s0).acceptFrame .svc 0x52 5
  { d with
    sst := { d.sst with
      saves := [⟨some .s0, Settings.defaults, 0⟩, ⟨some .svc, Settings.defaults, 0⟩], savePos := 32, busy := true }
    arc := { d.arc with erase := some ⟨.running, 0, .settingsErase⟩ } }

theorem witness_Saves_dropped :
    (savesWaiting.dev.port .s0).exchange = .outstanding 0x52 4 ∧ (savesWaiting.dev.port .s0).overlap ≠ 0
      ∧ (savesWaiting.dev.port .svc).exchange = .outstanding 0x52 5 ∧ (savesWaiting.dev.port .svc).overlap = 0
      ∧ savesWaiting.dev.pif.svcOut = none ∧ (∀ y ∈ savesWaiting.dev.sst.saves, y.port ≠ some .mgt)
      ∧ savesWaiting.dev.arc.erase = some ⟨.running, 0, .settingsErase⟩ := by
  decide +kernel

theorem test_dropped_saves_are_answered :
    ∃ t, exec (.settingsZoneEraseDone .eraseFail) savesWaiting = .next t
      ∧ (t.dev.port .s0).exchange = .ready 0x52 4 ⟨0x52, 4, .storeFailed, 1, .empty⟩
      ∧ (t.dev.port .svc).exchange = .ready 0x52 5 ⟨0x52, 5, .storeFailed, 0, .empty⟩
      ∧ t.dev.pif.svcOut = some ⟨(⟨0x52, 5, .storeFailed, 0, .empty⟩ : Reply).frame, 0, true⟩ :=
  ⟨_, rfl, by decide +kernel, by decide +kernel, by decide +kernel⟩

/-- A part with a RETIRED zone. -/
def retired : State := withDev fun d => { d with plm := { d.plm with zones := [(255, ⟨.retired, 32, []⟩)] } }

theorem witness_Reclaim :
    ready.dev.reclaimReady = false ∧ retired.dev.reclaimReady = true ∧ retired.dev.plm.reErase = []
      ∧ retired.dev.plm.retiredZone = some 255 ∧ retired.dev.drm.queue.length < 16 ∧ retired.dev.drm.maintWaiters = []
      ∧ ({ retired.dev with drm := { retired.dev.drm with queue := List.replicate 16 (.retrieved 9) } } : Dev).reclaimReady
        = true
      ∧ ({ ready.dev with plm := { ready.dev.plm with reErase := [19] } } : Dev).reclaimReady = true := by
  decide +kernel

theorem witness_ZoneErases :
    (erasing .reclaim 255).powered = true ∧ ErasePhase.running ≠ .suspended
      ∧ (erasing .ringPrep 4).dev.arc.erase = some ⟨.running, 4, .ringPrep⟩
      ∧ ((erasing .ringPrep 4).dev.setHiu fun h => { h with prep := some 1 }).hiu.prep = some 1
      ∧ (erasing .dirErase 2).dev.arc.erase = some ⟨.running, 2, .dirErase⟩ := by
  decide +kernel

theorem test_a_failed_reclaim_marks_its_zone :
    ∃ t, exec (.reclaimEraseDone .eraseFail) (erasing .reclaim 255) = .next t
      ∧ t.dev.drm.queue = [.zoneDefect 255] ∧ t.dev.plm.page ⟨255, 31⟩ = .torn
      ∧ t.dev.hiu.unflushed.map (·.code) = [0x0004] :=
  ⟨_, rfl, by decide +kernel, by decide +kernel, by decide +kernel⟩

theorem test_a_defect_entry_waits_for_room :
    let s := { erasing .dirErase 2 with dev := (erasing .dirErase 2).dev.setDrm fun m => { m with
      queue := List.replicate 16 (.retrieved 9) } }
    ∃ t, exec (.spareZoneEraseDone .eraseFail) s = .next t ∧ t.dev.drm.maintWaiters = [.zoneDefect 2]
      ∧ t.dev.drm.queue.length = 16 ∧ t.dev.arc.storeFailed = true :=
  ⟨_, rfl, by decide +kernel, by decide +kernel, by decide +kernel⟩

/-! ### Recovery and the part's own moments -/

/-- A part whose scan stands at a position. -/
def scanning (pos : ScanPos) : State := { State.reset with dev := { State.reset.dev with
  rcs := { State.reset.dev.rcs with pos }, arc := { State.reset.dev.arc with op := some firstScanRead, waiting := [] } } }

theorem witness_Scan :
    (scanning (.settings 30)).powered = true ∧ (scanning (.settings 30)).dev.arc.op = some firstScanRead
      ∧ (scanning (.settings 30)).dev.rcs.pos = .settings 30 ∧ (scanning (.settings 31)).dev.rcs.pos = .settings 31
      ∧ (scanning (.directory ⟨2, 30⟩)).dev.rcs.pos = .directory ⟨2, 30⟩
      ∧ (scanning (.directory ⟨1, 31⟩)).dev.rcs.pos = .directory ⟨1, 31⟩
      ∧ (scanning (.poolHeader ⟨19, 0⟩)).dev.rcs.pos = .poolHeader ⟨19, 0⟩
      ∧ headerOutcome ((scanning (.poolHeader ⟨19, 0⟩)).flash.header ⟨19, 0⟩) = .erased := by
  decide +kernel

/-- A journal of nothing, with defect marks, and a pool of nothing. -/
def journal0 (defects : List Zone) : JournalScan := { noJournal (some 2) (some .erased) none none with defects }

def pool0 : PoolScan := ⟨Vector.replicate 32 none, [], [], none, 255, [], [], 0, none, none⟩

/-- The same with what the phases before it found. -/
def scanned (defects : List Zone) (pos : ScanPos) : State :=
  let s := scanning pos
  { s with dev := { s.dev with rcs := { s.dev.rcs with journal := some (journal0 defects), pool := some pool0 } } }

/-- Every zone of the pool, and every zone. -/
def poolZones : List Zone := (List.finRange 256).drop 19

theorem witness_Scan_directory :
    (scanning (.directory ⟨2, 31⟩)).dev.rcs.pos = .directory ⟨2, 31⟩
      ∧ poolToRead (journal0 []) ≠ [] ∧ poolToRead (journal0 poolZones) = [] := by
  decide +kernel

theorem witness_Scan_pool :
    let s := scanned [] (.poolHeader ⟨19, 31⟩)
    s.dev.rcs.journal = some (journal0 []) ∧ headerOutcome (s.flash.header ⟨19, 31⟩) = .erased
      ∧ headerOutcome ((s.flash.program (PageAddr.spareBase ⟨19, 31⟩) [0x00]).header ⟨19, 31⟩) ≠ .erased
      ∧ nextPage (poolToRead (journal0 [])) ⟨19, 31⟩ = some ⟨20, 0⟩
      ∧ nextPage (poolToRead (journal0 [])) ⟨255, 31⟩ = none
      ∧ (scanned [] (.poolFull ⟨255, 31⟩)).dev.rcs.pos = .poolFull ⟨255, 31⟩
      ∧ (scanned [] (.poolDecode ⟨19, 0⟩ [⟨20, 0⟩])).dev.rcs.pos = .poolDecode ⟨19, 0⟩ [⟨20, 0⟩]
      ∧ (scanned [] (.poolDecode ⟨19, 0⟩ [])).dev.rcs.journal = some (journal0 [])
      ∧ ringToRead (journal0 []) ≠ [] ∧ ringToRead (journal0 (List.finRange 256)) = [] := by
  decide +kernel

theorem witness_Scan_ring :
    (scanned [] (.ring ⟨3, 31⟩)).dev.rcs.journal = some (journal0 [])
      ∧ (scanned [] (.ring ⟨3, 31⟩)).dev.rcs.pool = some pool0
      ∧ nextPage (ringToRead (journal0 [])) ⟨3, 31⟩ = some ⟨4, 0⟩ := by
  decide +kernel

theorem witness_Scan_end :
    let s := scanned [] (.ring ⟨18, 31⟩)
    s.dev.rcs.pos = .ring ⟨18, 31⟩ ∧ s.dev.rcs.journal = some (journal0 []) ∧ s.dev.rcs.pool = some pool0
      ∧ s.dev.arc.op = some firstScanRead ∧ nextPage (ringToRead (journal0 [])) ⟨18, 31⟩ = none
      ∧ (∀ k : Fin 5, s.dev.tru.latches[k] = none) ∧ s.dev.tru.qualified[Line.idx .pwrwarn] = false
      ∧ (s.dev.latch .flt0 flt0).tru.latches[(0 : Fin 5)] = some flt0
      ∧ ({ s.dev.tru with qualified := Vector.replicate 6 true } : Tru).qualified[Line.idx .pwrwarn] = true := by
  decide +kernel

/-- The cells of an entry slot of page 0 of a directory zone, from the entry's first bytes and its CRC as numbers. -/
def slotCells (z : Zone) (k first crc : Nat) : Memory := (List.range 64).map fun i =>
  (zoneBase z + 64 * k + i, BitVec.ofNat 8 ((first + crc <<< 496) >>> (8 * i)))

/-- An image of nothing but COMPACT_HEAD and COMPACT_TAIL: of generation 3 in zone 1, of generation 5 in zone 2. -/
def image3 : Memory := slotCells 1 0 0x900000004000000030E 0x2A2F ++ slotCells 1 1 0x20000000311 0xBA1B
def image5 : Memory := slotCells 2 0 0x900000004000000050E 0xEFAE ++ slotCells 2 1 0x20000000511 0x7F9A

theorem witness_Journal_images :
    completeImage image3 1 = some 3 ∧ completeImage image3 2 = none ∧ image3.blankZone 1 = false
      ∧ image3.blankZone 2 = true ∧ Memory.blankZone [] 1 = true ∧ Memory.blankZone [] 2 = true := by
  decide +kernel

theorem witness_Journal_two :
    completeImage (image3 ++ image5) 1 = some 3 ∧ completeImage (image3 ++ image5) 2 = some 5 := by
  decide +kernel

theorem test_replay_stops_behind_the_image :
    (replayZone image3 1 3 .erased none).pos = 2 ∧ (replayZone image3 1 3 .erased none).headNext = some 9 := by
  decide +kernel

theorem witness_Replay :
    let r : Replay := { Replay.blank with dir := (recordingDev [] ready.dev).drm.dir }
    (∀ i : DirSlot, i.val = 1 → r.dir[i] = none) ∧ r.dir[(0 : DirSlot)] ≠ none
      ∧ JEntry.decode (JEntry.release 1).bytes = some (.release 1) ∧ JEntry.decode (List.replicate 64 0) = none := by
  decide +kernel

/-- What phase 2 found where phase 3 reads zone 255 alone: incident 1 with one OPEN stream, zone 19 left for re-erase and
every other zone defective. -/
def journal255 : JournalScan := { journal0 (poolZones.filter fun z => z ≠ 19 ∧ z ≠ 255) with
  dir := (recordingDev [rec0] ready.dev).drm.dir, unfinished := [19] }

/-- An array whose zone 255 begins with a DUMP page of a stream of incident 1. -/
def dumped (stream : Nat) : Memory :=
  let h : Header := { kind := kindDump, epoch := 4, incident := 1, stream := stream, seq := 0, fill := 8 }
  Memory.program [] (PageAddr.spareBase ⟨255, 0⟩) h.bytes

theorem witness_Pool :
    poolToRead journal255 = [255] ∧ (19 : Zone) ∈ journal255.unfinished ∧ (20 : Zone) ∈ journal255.defects
      ∧ headerOutcome ((dumped 0).header ⟨255, 1⟩) = .erased
      ∧ headerOutcome ((dumped 0).header ⟨255, 0⟩)
        = .good { kind := kindDump, epoch := 4, incident := 1, stream := 0, seq := 0, fill := 8 }
      ∧ journal255.dir[(0 : DirSlot)] = some (inc 1 .recording [rec0])
      ∧ (∀ i : DirSlot, i ≠ 0 → journal255.dir[i] = none) ∧ ([rec0].map (·.number)).Nodup := by
  decide +kernel

theorem test_the_scan_goes_on :
    ∃ t, exec .recoveryReadDone (scanning (.settings 0)) = .next t ∧ t.dev.rcs.pos = .settings 1
      ∧ t.dev.arc.waiting = [⟨.scanner, .read ⟨0, 1⟩ 0 1024 0 64⟩] := ⟨_, rfl, by decide +kernel, by decide +kernel⟩

/-- A latched trigger opens by roll-oldest at the end of recovery, and the zone that the release retires is reclaimed. -/
theorem test_a_zone_retired_at_the_end_of_recovery_is_reclaimed :
    let p : PoolScan := { pool0 with
      dir := Vector.replicate 32 (some (inc 1 .kept [])), zones := [(255, ⟨.full, 32, [1]⟩)] }
    let d : Dev := { (crowded 1).dev with tru := { ready.dev.tru with latches := put ready.dev.tru.latches 0 (some flt0) } }
    let e := d.enterNormal (journal0 []) p ⟨ready.dev.hiu.ring, some ⟨0, 0, 0⟩, 0, 1, none⟩
    e.plm.reclaim = .startWait 255 ∧ e.drm.queue.getLast? = some (.reclaimStart 255) ∧ e.ict.recording = some 0 := by
  decide +kernel

/-- With an OPEN journal at slot 481 and a DIRTY spare the entries of recovery wait for the compaction, in a hold-up
entered at once too; at slot 480 no compaction is due, and with an ERASED spare none is waited for (R156). -/
theorem test_recovery_entries_wait_for_the_compaction :
    let writer (pos : Nat) (spare : SpareState) (warned : Bool) : WriterState :=
      let j : JournalScan := { journal0 [] with active := some 1, spare := some spare, pos := pos, journalOpen := true }
      let d : Dev := { ready.dev with tru := { ready.dev.tru with qualified := Vector.replicate 6 warned } }
      (d.enterNormal j pool0 ⟨ready.dev.hiu.ring, some ⟨0, 0, 0⟩, 0, 1, none⟩).settle.drm.writer
    writer 481 .dirty false = .idle ∧ writer 481 .dirty true = .idle ∧ writer 480 .dirty false = .waitGrant
      ∧ writer 481 .erased true = .waitGrant := by
  decide +kernel

/-- A part with waiters. -/
def waited (w : CapWaiter) (e : JEntry) (queued : Nat) : State := withDev fun d => { recordingDev [] d with
  drm := { (recordingDev [] d).drm with
    captureWaiters := [w], maintWaiters := [e], queue := List.replicate queued (.retrieved 9) } }

theorem witness_Waiters :
    let s := waited (.triggerAdd 1 .power 3) (.zoneDefect 255) 15
    s.powered = true ∧ s.dev.drm.captureWaiters = [.triggerAdd 1 .power 3]
      ∧ s.dev.drm.queue.length + s.dev.waiterNeeds (.triggerAdd 1 .power 3) ≤ 80
      ∧ s.dev.drm.slotOf 1 = some 0 ∧ s.dev.drm.dir[(0 : DirSlot)] = some (inc 1 .recording [])
      ∧ s.dev.drm.maintWaiters = [.zoneDefect 255] ∧ s.dev.drm.queue.length < 16
      ∧ 80 < (waited (.recovery (.epoch 1)) (.reclaimStart 19) 80).dev.drm.queue.length
        + (waited (.recovery (.epoch 1)) (.reclaimStart 19) 80).dev.waiterNeeds (.recovery (.epoch 1))
      ∧ 16 ≤ (waited (.recovery (.epoch 1)) (.reclaimStart 19) 16).dev.drm.queue.length := by
  decide +kernel

/-- The part with one waiter of another kind. -/
def waiting (w : CapWaiter) (f : Dev → Dev) : State := withDev fun d =>
  (f d).setDrm fun m => { m with captureWaiters := [w] }

theorem witness_Waiters_openStream :
    let w : CapWaiter := .openStream .s0 1 0 none
    let s := waiting w (recordingDev [])
    (waiting w id).dev.drm.at? (waiting w id).dev.ict.recording = none
      ∧ s.dev.drm.captureWaiters = [w] ∧ s.dev.hum.mode = .normal ∧ s.dev.ict.recording = some 0
      ∧ s.dev.drm.dir[(0 : DirSlot)] = some (inc 1 .recording []) ∧ s.dev.drm.slotOf 1 = some 0
      ∧ s.dev.ict.windowExpired = false ∧ s.dev.freeStreamSlot = some 0
      ∧ (waiting w fun d => (recordingDev [] d).setIct fun c => { c with windowExpired := true }).dev.ict.windowExpired
        = true
      ∧ (waiting w (recordingDev (List.replicate 12 rec0))).dev.drm.records.map (·.streams.length) = [12] := by
  decide +kernel

theorem witness_Waiters_streamEnd :
    (waiting (.streamEnd 0) (streamDev (body0 none 0 (some .abandoned)))).dev.body 0
        = some (body0 none 0 (some .abandoned))
      ∧ (waiting (.streamEnd 0) (streamDev (body0 none 1 (some .abandoned)))).dev.body 0
        = some (body0 none 1 (some .abandoned))
      ∧ (waiting (.streamEnd 0) (streamDev (body0 none 0 (some .abandoned)))).dev.drm.captureWaiters
        = [.streamEnd 0] := by
  decide +kernel

theorem witness_Waiters_incidentClose :
    let closing (f : Dev → Dev) := waiting .incidentClose fun d => (f (holding (inc 1 .closing []) d)).setIct fun c =>
      { c with closing := some 0 }
    (closing id).dev.ict.closing = some 0 ∧ (closing id).dev.drm.dir[(0 : DirSlot)] = some (inc 1 .closing [])
      ∧ (closing id).dev.ict.recording ≠ some 0 ∧ (∀ j, (closing id).dev.body j = none)
      ∧ (closing fun d => { d with cpm := ⟨put d.cpm.slots 0 ⟨7, some (body0 none 1 none)⟩⟩ }).dev.body 0
        = some (body0 none 1 none) := by
  decide +kernel

/-- A pending opening that six triggers have joined. -/
def opening6 : Opening := ⟨flt0, some .s0, List.replicate 6 ⟨⟨.declared .s1, 4, none, 0⟩, none⟩⟩

theorem witness_Waiters_opening :
    let s (f : Dev → Dev) := waiting .opening fun d => (f d).setIct fun c => { c with opening := some opening6 }
    (s id).dev.drm.captureWaiters = [.opening] ∧ (s id).dev.ict.opening = some opening6
      ∧ (s id).dev.openingWay = .slot 0 ∧ (s id).dev.arc.storeFailed = false ∧ (s id).dev.drm.records = []
      ∧ (s fun _ => (crowded 0).dev).dev.openingWay = .refused
      ∧ (s fun _ => (crowded 1).dev).dev.openingWay = .roll 0 1 := by
  decide +kernel

theorem test_a_served_opening_takes_its_joined_triggers :
    let s := waiting .opening fun d => { d with
      ict := { d.ict with opening := some opening6 }
      drm := { d.drm with queue := List.replicate 77 (.retrieved 9) } }
    ∃ t, exec .captureWaiterServed s = .next t ∧ t.dev.drm.queue.length = 80
      ∧ t.dev.drm.captureWaiters = List.replicate 2 (.triggerAdd 1 (.declared .s1) 4)
      ∧ t.dev.drm.records.map (fun x => (x.secondary.length, x.overflow)) = [(2, 2)] :=
  ⟨_, rfl, by decide +kernel, by decide +kernel, by decide +kernel⟩

/-- The joined triggers join the end of the waiters while another waits, though places are free (R95). -/
theorem test_joined_triggers_wait_behind_another_waiter :
    let s := withDev fun d => { d with
      ict := { d.ict with opening := some opening6 }
      drm := { d.drm with captureWaiters := [.opening, .recovery (.retrieved 9)] } }
    ∃ t, exec .captureWaiterServed s = .next t ∧ t.dev.drm.queue.length = 1
      ∧ t.dev.drm.captureWaiters = .recovery (.retrieved 9) :: List.replicate 4 (.triggerAdd 1 (.declared .s1) 4)
      ∧ t.dev.drm.records.map (fun x => (x.secondary.length, x.overflow)) = [(0, 2)] :=
  ⟨_, rfl, by decide +kernel, by decide +kernel, by decide +kernel⟩

theorem witness_Streams :
    let s := streaming none 0 (some .abandoned)
    s.powered = true ∧ s.dev.body 0 = some (body0 none 0 (some .abandoned))
      ∧ CapWaiter.streamEnd 0 ∉ s.dev.drm.captureWaiters ∧ s.dev.drm.captureWaiters = []
      ∧ s.dev.drm.queue.length < 80 ∧ 80 ≤ (fullQueue s).dev.drm.queue.length := by
  decide +kernel

theorem test_a_release_closes_the_record :
    ∃ t, exec (.streamRelease 0) (streaming none 0 (some .abandoned)) = .next t ∧ t.dev.body 0 = none
      ∧ recordsOf t.dev = [⟨0, .port .s0, 1, 0, none, 0, 0, 0, .abandoned, none, false⟩] :=
  ⟨_, rfl, by decide +kernel, by decide +kernel⟩

/-- A part whose RECORDING incident may pass on. -/
def passing : State := withDev fun d => (streamDev (body0 none 1 (some .ended)) d).setIct fun c =>
  { c with windowExpired := true }

/-- A part whose CLOSING incident has no stream slot. -/
def closing : State := withDev fun d => { holding (inc 1 .closing []) d with ict := { d.ict with closing := some 0 } }

theorem witness_Incidents :
    passing.powered = true ∧ passing.dev.drm.dir[(0 : DirSlot)] = some (inc 1 .recording [rec0])
      ∧ passing.dev.ict.recording = some 0 ∧ passing.dev.ict.windowExpired = true ∧ passing.dev.ict.closing = none
      ∧ (∀ j, passing.dev.body j = none ∨ passing.dev.body j = some (body0 none 1 (some .ended)))
      ∧ closing.dev.drm.dir[(0 : DirSlot)] = some (inc 1 .closing []) ∧ closing.dev.ict.closing = some 0
      ∧ closing.dev.ict.recording ≠ some 0 ∧ (∀ j, closing.dev.body j = none)
      ∧ CapWaiter.incidentClose ∉ closing.dev.drm.captureWaiters ∧ closing.dev.drm.queue.length < 80 := by
  decide +kernel

theorem test_an_incident_is_kept :
    ∃ t, exec .incidentKept closing = .next t ∧ t.dev.ict.closing = none
      ∧ t.dev.drm.queue = [.incidentClose 1 (some .noData) 0] := ⟨_, rfl, by decide +kernel, by decide +kernel⟩

theorem witness_LoadPoint :
    let s := withDev fun d => { d with sst := { d.sst with loadDue := true } }
    s.powered = true ∧ s.dev.sst.loadDue = true ∧ s.dev.hum.mode = .normal ∧ s.dev.ict.recording = none
      ∧ s.dev.ict.closing = none ∧ ready.dev.sst.loadDue = false := by
  decide +kernel

end Sys2Proof.Tests
end

section
/-! PROOFS. HOLD and UNHOLD (R189, R105): the order of the tests of Table 10.3 that a refusal stops at, the answer to a
request that is refused or answered in its own step, and each way HOLD and UNHOLD can be served. -/

namespace Sys2Proof.Machine

/-! ### The first test of Table 10.3 that fails -/

section
variable {d : Dev} {p : Port} {r : Request} {b : List Byte}

theorem judge_of_lengthOk_false (hl : lengthOk r b.length = false) : judge d p r b = some (.badLength, .empty) := by
  simp [judge, need, Refused.orElse', hl]

theorem judge_of_valueTest {x : Status × ReplyBody} (hl : lengthOk r b.length = true)
    (hv : valueTest r b = some x) : judge d p r b = some x := by
  simp [judge, need, Refused.orElse', hl, hv]

theorem judge_of_rightTest {x : Status × ReplyBody} (hl : lengthOk r b.length = true) (hv : valueTest r b = none)
    (hr : rightTest d p r b = some x) : judge d p r b = some x := by
  simp [judge, need, Refused.orElse', hl, hv, hr]

/-- A request of good form from a port that may make it is judged by the mode and the STORE_FAILED condition. -/
theorem judge_eq_modeTest (hl : lengthOk r b.length = true) (hv : valueTest r b = none)
    (hr : rightTest d p r b = none) : judge d p r b = modeTest d r := by
  simp [judge, need, Refused.orElse', hl, hv, hr]

end

/-- SVC holds every right (R178). -/
@[simp] theorem Dev.holds_svc (d : Dev) (x : Right) : d.holds .svc x = true := by
  cases x <;> simp [Dev.holds, Rqd.of, Right.bit]

/-! ### Answers in the step of the request -/

/-- The reply to a request that has just been taken changes the ports alone. -/
theorem Dev.takeFrame_reply (d : Dev) (p : Port) (r : Request) (tag : Byte) (b : List Byte) {status : Status}
    (hs : status ≠ .unknownRequest) (flags : Byte) (body : ReplyBody) :
    (d.takeFrame p r.code tag b).reply p status flags body
      = { d with pif := d.answers p b (r.says tag status flags body) } := by
  rw [Dev.reply_of_pif rfl status flags body hs, Dev.takeFrame_eq]
  rfl

/-- The reply to a request that has just been taken and has changed the directory. -/
theorem Dev.takeFrame_setDrm_reply (d : Dev) (p : Port) (r : Request) (tag : Byte) (b : List Byte) (f : Drm → Drm)
    {status : Status} (hs : status ≠ .unknownRequest) (flags : Byte) (body : ReplyBody) :
    ((d.takeFrame p r.code tag b).setDrm f).reply p status flags body
      = { d with pif := d.answers p b (r.says tag status flags body), drm := f d.drm } := by
  have hpif : ((d.takeFrame p r.code tag b).setDrm f).pif = (d.takeFrame p r.code tag b).pif := rfl
  rw [Dev.reply_of_pif hpif status flags body hs, Dev.takeFrame_eq]
  rfl

/-- A request that a test of Table 10.3 refuses is answered, and nothing else changes (R171). -/
theorem State.act_refused {s : State} {p : Port} {r : Request} {b : List Byte} {status : Status} {body : ReplyBody}
    (h : s.hears p b) (hj : judge s.dev p r b = some (status, body)) (hs : status ≠ .unknownRequest) (tag : Byte)
    (serve : Dev → Dev) :
    s.act (·.arrive p r tag b serve) = .next (s.onlyAnswers p b (r.says tag status 0 body)) := by
  obtain ⟨hpower, hfree, hlen⟩ := h
  rw [State.act_of_powered hpower, Dev.arrive_refused hfree hlen hj, Dev.takeFrame_reply _ _ _ _ _ hs]
  rfl

/-! ### The tests of HOLD and UNHOLD -/

/-- The request that sets the held flag, or the one that clears it. -/
def Request.holdTo (held : Bool) : Request := if held then .hold else .unhold

/-- The journal entry of the held flag's new value. -/
def JEntry.holdTo (held : Bool) (number : Nat) : JEntry := if held then .holdSet number else .holdClear number

/-- The directory with the flag of the record `x` of slot `i` changed and the change queued (R105). -/
def Drm.holdTo (m : Drm) (held : Bool) (number : Nat) (i : DirSlot) (x : Incident) : Drm :=
  { m with queue := m.queue ++ [JEntry.holdTo held number], dir := put m.dir i (some { x with held := held }) }

theorem exec_holdTo (held : Bool) (p : Port) (tag : Byte) (b : List Byte) (s : State) :
    exec ((Request.holdTo held).instr p tag b) s
      = s.act (·.arrive p (.holdTo held) tag b (Dev.serveHold held p b)) := by
  cases held <;> rfl

theorem lengthOk_holdTo (held : Bool) (n : Nat) : lengthOk (.holdTo held) n = true ↔ n = 4 := by
  cases held <;> simp [Request.holdTo, lengthOk]

theorem valueTest_holdTo (held : Bool) (b : List Byte) :
    valueTest (.holdTo held) b = need (field b 0 4 != 0) .badValue := by
  cases held <;> rfl

/-- Only SVC may make them (Table 10.4). -/
theorem rightTest_holdTo (held : Bool) (d : Dev) (p : Port) (b : List Byte) :
    rightTest d p (.holdTo held) b = if p = .svc then none else some (.noRight, .empty) := by
  by_cases h : p = .svc <;> cases held <;>
    simp [rightTest, Request.holdTo, Request.right, Request.allowsPort, need, h]

/-- The STORE_FAILED condition refuses neither. -/
theorem modeTest_holdTo (held : Bool) (d : Dev) :
    modeTest d (.holdTo held) = if d.hum.mode = .start then some (.starting, .empty)
      else if d.hum.mode = .exhausted then some (.exhausted, .empty) else none := by
  cases held <;> simp [modeTest, Request.holdTo, Request.refusedByStoreFailed, need]

theorem judge_holdTo_badLength {held : Bool} {d : Dev} {p : Port} {b : List Byte} (hb : b.length ≠ 4) :
    judge d p (.holdTo held) b = some (.badLength, .empty) :=
  judge_of_lengthOk_false (Bool.eq_false_iff.2 fun h => hb ((lengthOk_holdTo held _).1 h))

theorem judge_holdTo_badValue {held : Bool} {d : Dev} {p : Port} {b : List Byte} (hb : b.length = 4)
    (hn : field b 0 4 = 0) : judge d p (.holdTo held) b = some (.badValue, .empty) :=
  judge_of_valueTest ((lengthOk_holdTo held _).2 hb) (by simp [valueTest_holdTo, need, hn])

theorem judge_holdTo_noRight {held : Bool} {d : Dev} {p : Port} {b : List Byte} (hb : b.length = 4)
    (hn : field b 0 4 ≠ 0) (hp : p ≠ .svc) : judge d p (.holdTo held) b = some (.noRight, .empty) :=
  judge_of_rightTest ((lengthOk_holdTo held _).2 hb) (by simp [valueTest_holdTo, need, hn])
    (by rw [rightTest_holdTo, if_neg hp])

theorem judge_holdTo_svc {held : Bool} {d : Dev} {b : List Byte} (hb : b.length = 4) (hn : field b 0 4 ≠ 0) :
    judge d .svc (.holdTo held) b = modeTest d (.holdTo held) :=
  judge_eq_modeTest ((lengthOk_holdTo held _).2 hb) (by simp [valueTest_holdTo, need, hn])
    (by rw [rightTest_holdTo, if_pos rfl])

/-! ### The serving of HOLD and UNHOLD -/

theorem Drm.hasRoom_iff (m : Drm) : m.hasRoom = true ↔ m.queue.length < 16 := by
  simp [Drm.hasRoom, Config.housekeepingDepth]

section
variable {held : Bool} {p : Port} {b : List Byte} {d : Dev}

theorem Dev.serveHold_of_absent (h : ∀ x ∈ d.drm.records, x.number ≠ field b 0 4) :
    d.serveHold held p b = d.reply p .notFound 0 .empty := by
  simp [Dev.serveHold, Drm.find_none h]

variable {x : Incident}

theorem Dev.serveHold_of_same (hf : d.drm.find (field b 0 4) = some x) (hx : x.held = held) :
    d.serveHold held p b = d.reply p .ok 0 (.heldFlag held) := by
  simp [Dev.serveHold, hf, hx]

theorem Dev.serveHold_of_full (hf : d.drm.find (field b 0 4) = some x) (hx : x.held ≠ held)
    (hq : 16 ≤ d.drm.queue.length) : d.serveHold held p b = d.reply p .directoryBusy 0 .empty := by
  have hroom : d.drm.hasRoom = false := Bool.eq_false_iff.2 fun h => absurd ((Drm.hasRoom_iff _).1 h) (by omega)
  simp [Dev.serveHold, hf, hx, hroom]

/-- The flag changes where its entry has a place in the queue (R189, R105). -/
theorem Dev.serveHold_of_other {i : DirSlot} (hi : d.drm.slotOf (field b 0 4) = some i)
    (hd : d.drm.dir[i] = some x) (hx : x.held ≠ held) (hq : d.drm.queue.length < 16) :
    d.serveHold held p b
      = ((d.setDrm (·.holdTo held (field b 0 4) i x)).reply p .ok 0 (.heldFlag held)).settle := by
  have hf : d.drm.find (field b 0 4) = some x := (Drm.find_of_slotOf hi).trans hd
  have hroom : d.drm.hasRoom = true := (Drm.hasRoom_iff _).2 hq
  have hflag := Dev.modIncident_of_slotOf (d := d.queueEntry (.holdTo held (field b 0 4))) hi hd
    fun y => { y with held := held }
  simp only [Dev.serveHold, hf, hx, hroom, if_false, Bool.true_eq_false]
  exact congrArg (fun e : Dev => (e.reply p .ok 0 (.heldFlag held)).settle) hflag

end

/-! ### HOLD and UNHOLD at a part that hears them -/

section
variable {held : Bool} {p : Port} {tag : Byte} {b : List Byte} {s : State}

theorem exec_holdTo_refused (h : s.hears p b) {status : Status} {body : ReplyBody}
    (hj : judge s.dev p (.holdTo held) b = some (status, body)) (hs : status ≠ .unknownRequest) :
    exec ((Request.holdTo held).instr p tag b) s
      = .next (s.onlyAnswers p b ((Request.holdTo held).says tag status 0 body)) := by
  rw [exec_holdTo, State.act_refused h hj hs]

theorem exec_holdTo_served (h : s.reaches p (.holdTo held) b) :
    exec ((Request.holdTo held).instr p tag b) s
      = .next { s with dev := (s.dev.takeFrame p (Request.holdTo held).code tag b).serveHold held p b } := by
  rw [exec_holdTo, State.act_reaches h]

/-- A HOLD or UNHOLD that is served by its reply alone changes nothing else. -/
theorem exec_holdTo_onlyAnswers (h : s.reaches p (.holdTo held) b) {status : Status} {body : ReplyBody}
    (hs : status ≠ .unknownRequest)
    (hserve : (s.dev.takeFrame p (Request.holdTo held).code tag b).serveHold held p b
      = (s.dev.takeFrame p (Request.holdTo held).code tag b).reply p status 0 body) :
    exec ((Request.holdTo held).instr p tag b) s
      = .next (s.onlyAnswers p b ((Request.holdTo held).says tag status 0 body)) := by
  rw [exec_holdTo_served h, hserve, Dev.takeFrame_reply _ _ _ _ _ hs]
  rfl

/-- A change of the flag that is taken: its entry is queued, the record follows, and the port is answered. -/
theorem exec_holdTo_other (h : s.reaches p (.holdTo held) b) {i : DirSlot} {x : Incident}
    (hi : s.dev.drm.slotOf (field b 0 4) = some i) (hd : s.dev.drm.dir[i] = some x) (hx : x.held ≠ held)
    (hq : s.dev.drm.queue.length < 16) :
    exec ((Request.holdTo held).instr p tag b) s = .next { s with dev := ({ s.dev with
      pif := s.dev.answers p b ((Request.holdTo held).says tag .ok 0 (.heldFlag held))
      drm := s.dev.drm.holdTo held (field b 0 4) i x }).settle } := by
  have hserve := Dev.serveHold_of_other (d := s.dev.takeFrame p (Request.holdTo held).code tag b) (p := p)
    (by simpa using hi) (by simpa using hd) hx (by simpa using hq)
  rw [exec_holdTo_served h, hserve, Dev.takeFrame_setDrm_reply _ _ _ _ _ _ (by decide)]

end

/-- Settles O24: the refusals by the tests of Table 10.3 in their order, then each way the request is served. -/
theorem holdAndUnhold : Obligations.HoldAndUnhold := by
  intro held p tag b s hears r
  -- the statement's choice between HOLD and UNHOLD under its name here
  have hr : r = .holdTo held := rfl
  clear_value r
  subst hr
  refine ⟨fun hb => exec_holdTo_refused hears (judge_holdTo_badLength hb) (by decide),
    fun hb hn => exec_holdTo_refused hears (judge_holdTo_badValue hb hn) (by decide),
    fun hb hn hp => exec_holdTo_refused hears (judge_holdTo_noRight hb hn hp) (by decide), ?_⟩
  rintro hb hn rfl
  have judged : judge s.dev .svc (.holdTo held) b = _ := (judge_holdTo_svc hb hn).trans (modeTest_holdTo held s.dev)
  refine ⟨fun hm => exec_holdTo_refused hears (judged.trans (by simp [hm])) (by decide),
    fun hm => exec_holdTo_refused hears (judged.trans (by simp [hm])) (by decide), fun hm => ?_⟩
  have reaches : s.reaches .svc (.holdTo held) b :=
    ⟨hears, judged.trans (by rcases hm with hm | hm <;> simp [hm])⟩
  refine ⟨fun absent => exec_holdTo_onlyAnswers reaches (by decide) (Dev.serveHold_of_absent (by simpa using absent)),
    fun i x hi hd => ?_⟩
  have found : (s.dev.takeFrame .svc (Request.holdTo held).code tag b).drm.find (field b 0 4) = some x := by
    simpa using (Drm.find_of_slotOf hi).trans hd
  exact ⟨fun hx => exec_holdTo_onlyAnswers reaches (by decide) (Dev.serveHold_of_same found hx),
    fun hx hq => exec_holdTo_onlyAnswers reaches (by decide) (Dev.serveHold_of_full found hx (by simpa using hq)),
    fun hx hq => exec_holdTo_other reaches hi hd hx hq⟩

end Sys2Proof.Machine
end

section
/-! PROOFS. READ_PARAMS (R195): the length test is the only test of Table 10.3 that it can fail, its serving is its
answer, and the answer's bytes are those of Table 12.2. -/

namespace Sys2Proof.Machine

/-! ### The tests of READ_PARAMS -/

theorem lengthOk_readParams (b : List Byte) : lengthOk .readParams b.length = true ↔ b = [] := by
  simp [lengthOk]

/-- Every port may make it, without a right (Table 10.4). -/
theorem rightTest_readParams (d : Dev) (p : Port) (b : List Byte) : rightTest d p .readParams b = none := by
  simp [rightTest, Request.right, Request.allowsPort, need]

/-- No mode refuses it, nor does the STORE_FAILED condition (R195). -/
theorem modeTest_readParams (d : Dev) : modeTest d .readParams = none := if_pos (Or.inr rfl)

/-- The length decides for every state and port. -/
theorem judge_readParams (d : Dev) (p : Port) (b : List Byte) :
    judge d p .readParams b = if b = [] then none else some (.badLength, .empty) := by
  by_cases hb : b = []
  · rw [if_pos hb, judge_eq_modeTest ((lengthOk_readParams b).2 hb) rfl (rightTest_readParams d p b),
      modeTest_readParams]
  · rw [if_neg hb,
      judge_of_lengthOk_false (Bool.eq_false_iff.2 fun h => hb ((lengthOk_readParams b).1 h))]

theorem exec_readParams (p : Port) (tag : Byte) (b : List Byte) (s : State) :
    exec (.readParams p tag b) s = s.act (·.arrive p .readParams tag b (Dev.serveReadParams p)) := rfl

/-! ### The answer -/

/-- The serving of READ_PARAMS is its reply, and changes the ports alone. -/
theorem Dev.serveReadParams_takeFrame (d : Dev) (p : Port) (tag : Byte) (b : List Byte) :
    (d.takeFrame p Request.readParams.code tag b).serveReadParams p
      = { d with pif := d.answers p b (Request.readParams.says tag .ok 0 .params) } :=
  Dev.takeFrame_reply d p .readParams tag b (by decide) 0 .params

theorem exec_readParams_empty {p : Port} {s : State} (hears : s.hears p []) (tag : Byte) :
    exec (.readParams p tag []) s
      = .next (s.onlyAnswers p [] (Request.readParams.says tag .ok 0 .params)) := by
  have reaches : s.reaches p .readParams [] := ⟨hears, judge_readParams s.dev p []⟩
  rw [exec_readParams, State.act_reaches reaches, Dev.serveReadParams_takeFrame]
  rfl

theorem exec_readParams_badLength {p : Port} {b : List Byte} {s : State} (hears : s.hears p b) (hb : b ≠ [])
    (tag : Byte) :
    exec (.readParams p tag b) s
      = .next (s.onlyAnswers p b (Request.readParams.says tag .badLength 0 .empty)) := by
  have judged : judge s.dev p .readParams b = some (.badLength, .empty) :=
    (judge_readParams s.dev p b).trans (if_neg hb)
  rw [exec_readParams, State.act_refused hears judged (by decide)]

/-- Table 12.2 as the reply carries it: the identification, then each parameter in two bytes, the low one first. -/
theorem ReplyBody.params_bytes : ReplyBody.params.bytes =
    [0x46, 0x44, 0x43, 0x32, 0x01, 0x00, 6, 0, 16, 0, 64, 0, 0x00, 0x04, 32, 0, 12, 0, 0x00, 0x01, 32, 0, 0x00, 0x04,
      237, 0, 16, 0, 12, 0, 32, 0, 0x08, 0x02, 0x00, 0x02, 80, 0] := by
  decide

/-- Settles O18: a READ_PARAMS that a port hears is answered by the length of its payload alone. -/
theorem readParamsAnswersTheFixedTable : Obligations.ReadParamsAnswersTheFixedTable := by
  refine ⟨fun p tag b s hears => ?_, ReplyBody.params_bytes⟩
  by_cases hb : b = []
  · subst hb
    exact exec_readParams_empty hears tag
  · rw [if_neg hb]
    exact exec_readParams_badLength hears hb tag

end Sys2Proof.Machine
end

section
/-! PROOFS. The array: its canonical form along every step, where a command may change a byte, what the completions of
a PROGRAM and of an ERASE leave, and what a loss of supply leaves (R49, R57, R58, R69). Each statement goes by
`exec_answers`: a command leaves the array as it was, or after one end of an operation, or cut short. -/

namespace Sys2Proof.Machine

/-! ### Bits of a byte -/

/-- Every bit that is one in `b` is one in `a`. -/
def Byte.under (b a : Byte) : Prop := b &&& a = b

theorem Byte.under_refl (b : Byte) : Byte.under b b := BitVec.and_self

theorem Byte.under_trans {a b c : Byte} (h : Byte.under a b) (g : Byte.under b c) : Byte.under a c := by
  unfold Byte.under at *
  rw [← h, BitVec.and_assoc, g]

theorem Byte.and_under (a b : Byte) : Byte.under (a &&& b) a := by
  unfold Byte.under
  rw [BitVec.and_comm a b, BitVec.and_assoc, BitVec.and_self]

theorem Byte.and_under_and {a b : Byte} (h : Byte.under a b) (c : Byte) : Byte.under (a &&& c) (b &&& c) := by
  unfold Byte.under at *
  calc (a &&& c) &&& (b &&& c) = (a &&& b) &&& (c &&& c) := by ac_rfl
    _ = a &&& c := by rw [h, BitVec.and_self]

theorem Byte.under_or (a b : Byte) : Byte.under a (a ||| b) := by
  unfold Byte.under
  ext i
  simp +contextual

/-! ### Programs -/

section
variable (m : Memory) (a : Nat) (bs : List Byte)

theorem Memory.program_read_under (x : Nat) : Byte.under ((m.program a bs).read x) (m.read x) := by
  rw [Memory.read_program]
  split
  · exact Byte.and_under _ _
  · exact Byte.under_refl _

theorem Memory.programFail_read_under (nonce x : Nat) :
    Byte.under ((m.programFail nonce a bs).read x) (m.read x) := by
  rw [Memory.read_programFail]
  split
  · exact Byte.and_under _ _
  · exact Byte.under_refl _

/-- A PROGRAM stores what it asks for of a byte, and FFH is no request (R49). -/
theorem Memory.read_program_requested (x : Nat) :
    (m.program a bs).read x = m.read x &&& Machine.requested a bs x := by
  rw [Memory.read_program]
  unfold Machine.requested byteAt
  by_cases ha : a ≤ x
  · by_cases hx : x < a + bs.length
    · simp [ha, hx]
    · have hlen : bs.length ≤ x - a := by omega
      simp only [ha, hx, and_false, if_false, if_true]
      rw [List.getD_eq_default _ _ hlen, show erasedByte = BitVec.allOnes 8 from rfl, BitVec.and_allOnes]
  · simp only [ha, false_and, if_false]
    rw [show erasedByte = BitVec.allOnes 8 from rfl, BitVec.and_allOnes]

/-- A PROGRAM that fails clears no bit that was to stay one (R57, R69). -/
theorem Memory.requested_under_programFail (nonce x : Nat) :
    Byte.under (m.read x &&& Machine.requested a bs x) ((m.programFail nonce a bs).read x) := by
  rw [← Memory.read_program_requested, Memory.read_program, Memory.read_programFail]
  split
  · unfold Byte.under
    ext i
    simp +contextual
  · exact Byte.under_refl _

end

/-! ### The two ranges of a PROGRAM -/

section
variable (m : Memory) (p : PageAddr) (a : Nat) (data : List Byte) (b : Nat) (spare : List Byte)

theorem Job.read_programOn (x : Nat) : ((Job.program p a data b spare).programOn m).read x
    = m.read x &&& (Job.program p a data b spare).requested x := by
  simp only [Job.programOn, Job.requested, Memory.read_program_requested, BitVec.and_assoc]

theorem Job.failOn_under (nonce x : Nat) :
    Byte.under (((Job.program p a data b spare).failOn m nonce).read x) (m.read x) :=
  Byte.under_trans (Memory.programFail_read_under _ _ _ _ _) (Memory.programFail_read_under _ _ _ _ _)

theorem Job.requested_under_failOn (nonce x : Nat) :
    Byte.under (m.read x &&& (Job.program p a data b spare).requested x)
      (((Job.program p a data b spare).failOn m nonce).read x) := by
  have first := Memory.requested_under_programFail m (p.base + a) data nonce x
  have second := Memory.requested_under_programFail (m.programFail nonce (p.base + a) data) (p.spareBase + b) spare nonce x
  simp only [Job.requested, Job.failOn, ← BitVec.and_assoc]
  refine Byte.under_trans ?_ second
  exact Byte.and_under_and first _

/-- A PROGRAM, whole or cut short, leaves the bytes that it does not name. -/
theorem Job.read_of_not_covers (x : Nat) (h : (Job.program p a data b spare).covers x = false) (nonce : Nat) :
    ((Job.program p a data b spare).programOn m).read x = m.read x
      ∧ ((Job.program p a data b spare).failOn m nonce).read x = m.read x := by
  simp only [Job.covers, Bool.or_eq_false_iff, Bool.and_eq_false_iff, decide_eq_false_iff_not] at h
  obtain ⟨hdata, hspare⟩ := h
  have outData : ¬(p.base + a ≤ x ∧ x < p.base + a + data.length) := by omega
  have outSpare : ¬(p.spareBase + b ≤ x ∧ x < p.spareBase + b + spare.length) := by omega
  simp only [Job.programOn, Job.failOn, Memory.read_program, Memory.read_programFail, outData, outSpare, if_false,
    and_self]

end

/-! ### What a cut leaves -/

/-- The array after a PROGRAM in progress is cut short; the array itself where none is in progress. -/
def State.afterCutProgram (s : State) : Memory :=
  match s.dev.arc.programs with
  | some j => j.failOn s.flash s.freeCount
  | none => s.flash

/-- A cut leaves what the PROGRAM left; in the zone of an erase each bit may be one besides (R69). -/
theorem State.cutShort_flash (s : State) :
    (s.dev.arc.erase = none → s.cutShort.flash = s.afterCutProgram)
      ∧ ∀ e, s.dev.arc.erase = some e → ∃ n, s.cutShort.flash = s.afterCutProgram.eraseZoneCut n e.zone := by
  unfold State.cutShort State.afterCutProgram
  cases s.dev.arc.programs <;> dsimp only <;>
    exact ⟨fun h => by rw [h], fun e h => by rw [h]; exact ⟨_, rfl⟩⟩

/-- The only operations that are programs are those whose two ranges are named. -/
theorem Arc.programs_cases (a : Arc) :
    a.programs = none ∨ ∃ who p n data k spare, a.op = some ⟨who, .program p n data k spare⟩
      ∧ a.programs = some (.program p n data k spare) := by
  unfold Arc.programs
  rcases a.op with _ | ⟨who, _ | ⟨p, n, data, k, spare⟩ | _⟩ <;> simp [Option.filter, Job.isProgram]

theorem State.afterCutProgram_under (s : State) (x : Nat) : Byte.under (s.afterCutProgram.read x) (s.flash.read x) := by
  unfold State.afterCutProgram
  rcases s.dev.arc.programs_cases with h | ⟨who, p, n, data, k, spare, -, h⟩ <;> rw [h]
  · exact Byte.under_refl _
  · exact Job.failOn_under _ _ _ _ _ _ _ _

theorem State.read_afterCutProgram (s : State) (x : Nat) (h : s.underProgram x = false) :
    s.afterCutProgram.read x = s.flash.read x := by
  unfold State.afterCutProgram
  rcases s.dev.arc.programs_cases with hp | ⟨who, p, n, data, k, spare, hop, hp⟩ <;> rw [hp]
  rw [State.underProgram, hop, Option.any_some] at h
  exact (Job.read_of_not_covers _ _ _ _ _ _ _ h _).2

theorem State.wf_afterCutProgram {s : State} (h : s.flash.wf) : s.afterCutProgram.wf := by
  unfold State.afterCutProgram
  rcases s.dev.arc.programs_cases with hp | ⟨who, p, n, data, k, spare, -, hp⟩ <;> rw [hp]
  · exact h
  · exact Memory.wf_programFail (Memory.wf_programFail h _ _ _) _ _ _

/-- Outside the zone of the erase a cut leaves what the PROGRAM left. -/
theorem State.read_cutShort (s : State) (x : Nat) (h : s.underErase x = false) :
    s.cutShort.flash.read x = s.afterCutProgram.read x := by
  obtain ⟨hnone, hsome⟩ := s.cutShort_flash
  cases he : s.dev.arc.erase with
  | none => rw [hnone he]
  | some e =>
    obtain ⟨n, hn⟩ := hsome e he
    have outside : ¬(zoneBase e.zone ≤ x ∧ x < zoneBase e.zone + zoneBytes) := by
      simpa [State.underErase, he] using h
    rw [hn, Memory.read_eraseZoneCut, if_neg outside]

/-- A cut sets bits of the zone of the erase alone, and clears none that the PROGRAM left. -/
theorem State.afterCutProgram_under_cutShort (s : State) (x : Nat) :
    Byte.under (s.afterCutProgram.read x) (s.cutShort.flash.read x) := by
  obtain ⟨hnone, hsome⟩ := s.cutShort_flash
  cases he : s.dev.arc.erase with
  | none => rw [hnone he]; exact Byte.under_refl _
  | some e =>
    obtain ⟨n, hn⟩ := hsome e he
    rw [hn, Memory.read_eraseZoneCut]
    split
    · exact Byte.under_or _ _
    · exact Byte.under_refl _

theorem State.wf_cutShort {s : State} (h : s.flash.wf) : s.cutShort.flash.wf := by
  obtain ⟨hnone, hsome⟩ := s.cutShort_flash
  cases he : s.dev.arc.erase with
  | none => rw [hnone he]; exact State.wf_afterCutProgram h
  | some e =>
    obtain ⟨n, hn⟩ := hsome e he
    rw [hn]
    exact Memory.wf_eraseZoneCut (State.wf_afterCutProgram h) _ _

/-! ### One command -/

theorem Instr.endsProgram_of_programEnd {c : Instr} {x : Requester × ProgramOutcome} (h : c.programEnd = some x) :
    c.endsProgram = true := by
  cases c <;> first | rfl | cases h

theorem Instr.endsErase_of_eraseEnd {c : Instr} {x : Requester × EraseOutcome} (h : c.eraseEnd = some x) :
    c.endsErase = true := by
  cases c <;> first | rfl | cases h

section
variable {s : State} {c : Instr} {m : Memory}

theorem FlashStep.wf (h : FlashStep s c m) (hs : s.flash.wf) : m.wf := by
  cases h with
  | same => exact hs
  | programmed who o p a data b spare =>
    split
    · exact Memory.wf_program (Memory.wf_program hs _ _) _ _
    · exact Memory.wf_programFail (Memory.wf_programFail hs _ _ _) _ _ _
  | erased who o phase z =>
    split
    · exact Memory.wf_eraseZone hs _
    · exact Memory.wf_eraseZoneFail hs _ _
  | cut => exact State.wf_cutShort hs

/-- Without the end of an erase no bit is set. -/
theorem FlashStep.under (h : FlashStep s c m) (hc : c.endsErase = false ∨ s.dev.arc.erase = none) (x : Nat) :
    Byte.under (m.read x) (s.flash.read x) := by
  cases h with
  | same => exact Byte.under_refl _
  | programmed who o p a data b spare =>
    split
    · rw [Job.read_programOn]
      exact Byte.and_under _ _
    · exact Job.failOn_under _ _ _ _ _ _ _ _
  | erased who o phase z hend he =>
    rcases hc with hc | hc
    · exact absurd (Instr.endsErase_of_eraseEnd hend) (by simp [hc])
    · exact absurd he (by simp [hc])
  | cut hcut =>
    have ends : c.endsErase = true := by rcases hcut with rfl | ⟨a, b, rfl | rfl⟩ <;> rfl
    have none : s.dev.arc.erase = none := hc.resolve_left (by simp [ends])
    rw [s.read_cutShort x (by simp [State.underErase, none])]
    exact s.afterCutProgram_under x

/-- A byte changes only where an operation that names it ends. -/
theorem FlashStep.read (h : FlashStep s c m) (x : Nat) (hp : c.endsProgram = false ∨ s.underProgram x = false)
    (he : c.endsErase = false ∨ s.underErase x = false) : m.read x = s.flash.read x := by
  cases h with
  | same => rfl
  | programmed who o p a data b spare hend hop =>
    have hx := hp.resolve_left (by simp [Instr.endsProgram_of_programEnd hend])
    rw [State.underProgram, hop, Option.any_some] at hx
    obtain ⟨ok, fail⟩ := Job.read_of_not_covers s.flash p a data b spare x hx s.freeCount
    split <;> assumption
  | erased who o phase z hend herase =>
    have hx := he.resolve_left (by simp [Instr.endsErase_of_eraseEnd hend])
    have outside : ¬(zoneBase z ≤ x ∧ x < zoneBase z + zoneBytes) := by
      simpa [State.underErase, herase] using hx
    split
    · rw [Memory.read_eraseZone, if_neg outside]
    · rw [Memory.read_eraseZoneFail, if_neg outside]
  | cut hcut =>
    have ends : c.endsErase = true ∧ c.endsProgram = true := by
      rcases hcut with rfl | ⟨a, b, rfl | rfl⟩ <;> exact ⟨rfl, rfl⟩
    rw [s.read_cutShort x (he.resolve_left (by simp [ends])),
      s.read_afterCutProgram x (hp.resolve_left (by simp [ends]))]

end

/-- The next state of a command is the one that `exec_answers` describes. -/
theorem exec_flashStep {c : Instr} {s t : State} (h : exec c s = .next t) : FlashStep s c t.flash := by
  obtain ⟨u, hu, -, step⟩ := exec_answers c s
  cases hu.symm.trans h
  exact step

/-- A step is a command on the queue's rest, or a tick, which leaves the array. -/
theorem step_cases {s t : State} (h : step s = .next t) :
    (∃ c rest, s.pending = c :: rest ∧ exec c { s with pending := rest } = .next t)
      ∨ (s.pending = [] ∧ t = s.idle) := by
  unfold step at h
  split at h
  · next c rest hc => exact .inl ⟨c, rest, hc, h⟩
  · next hc => exact .inr ⟨hc, (Host.Outcome.next.inj h).symm⟩

theorem State.idle_flash (s : State) : s.idle.flash = s.flash := by
  unfold State.idle
  split <;> rfl

/-- Settles O7: by the four ways in which a command can leave the array, each of which keeps the canonical form. -/
theorem everyStepKeepsFlashCanonical : Obligations.EveryStepKeepsFlashCanonical := by
  intro s t hs h
  rcases step_cases h with ⟨c, rest, -, hc⟩ | ⟨-, rfl⟩
  · exact (exec_flashStep hc).wf hs
  · simpa [State.flashCanonical, State.idle_flash] using hs

/-- Settles O8: by the four ways in which a command can leave the array. -/
theorem theArrayChangesWhereItIsTold : Obligations.TheArrayChangesWhereItIsTold :=
  ⟨fun _ _ _ h hc x => (exec_flashStep h).under hc x, fun _ _ _ h x hp he => (exec_flashStep h).read x hp he⟩

/-- Settles O1: the queue's front decides. -/
theorem stepRunsTheFrontCommand : Obligations.StepRunsTheFrontCommand := fun _ _ _ => rfl

end Sys2Proof.Machine
end

section
/-! PROOFS. The ends of operations of the array (R57, R58, R69), the answer of every command, and the state after
reset. -/

namespace Sys2Proof.Machine

/-! ### What each command does -/

/-- The form of a command: an act on the volatile state, the end of a PROGRAM or of an ERASE with what its requester
does then, a change of an input, or one of the three events of the supply. -/
inductive Meaning where
  | acts (f : Dev → Dev)
  | programEnds (who : Requester) (o : ProgramOutcome) (f : Bool → Dev → Dev)
  | eraseEnds (who : Requester) (o : EraseOutcome) (f : Bool → Memory → Zone → Dev → Dev)
  | lineMoves (l : Line) (x : Bool)
  | powersUp (ma0 ma1 : Bool)
  | resets (ma0 ma1 : Bool)
  | losesPower

/-- What a command of a form does. -/
def Meaning.run (s : State) : Meaning → Host.Outcome State Fault Refusal
  | .acts f => s.act f
  | .programEnds who o f => s.programDone who o f
  | .eraseEnds who o f => s.eraseDone who o f
  | .lineMoves l x => execLineChange l x s
  | .powersUp ma0 ma1 => execPowerUp ma0 ma1 s
  | .resets ma0 ma1 => execDeviceReset ma0 ma1 s
  | .losesPower => execPowerLoss s

/-- What HIU does at the end of a flush. -/
def Dev.flushDone (ok : Bool) (d : Dev) : Dev :=
  match ok, d.hiu.target with
  | true, some t => d.flushOk t
  | _, _ => d.flushFail

/-- What the part does when the tick of a deadline has come. -/
def Dev.atExpiry (slot : Deadlines → Option Tick) (f : Dev → Dev) (d : Dev) : Dev :=
  d.onlyIf (d.due (slot d.tmb.deadlines)) f

/-- The window of a RECORDING incident expires (R13). -/
def Dev.windowExpires (d : Dev) : Dev :=
  ((d.deadlines fun t => { t with window := none }).onlyIf d.ict.recording.isSome fun d => d.expireWindow.closeRun).settle

/-- The hold-up deadline expires (R133). -/
def Dev.holdupExpires (d : Dev) : Dev :=
  ((d.deadlines fun t => { t with holdup := none }).onlyIf (d.hum.mode == .holdup && d.hum.closing.isNone)
    fun d => d.beginClosing .deadline).settle

/-- The capture waiter at the front is served (R95). -/
def Dev.serveFront (d : Dev) : Dev :=
  match d.waiterReady with
  | some (w, rest) => ((d.setDrm fun m => { m with captureWaiters := rest }).serveWaiter w).settle
  | none => d

/-- The maintenance waiter at the front is accepted (R94). -/
def Dev.acceptFront (d : Dev) : Dev :=
  match d.drm.maintWaiters with
  | e :: rest =>
    if d.drm.hasRoom then ((d.setDrm fun m => { m with maintWaiters := rest }).acceptMaint e).settle else d
  | [] => d

/-- The form of each command, on an array that holds `m`. -/
def Meaning.of (m : Memory) : Instr → Meaning
  | .openStream p tag b => .acts (·.arrive p .openStream tag b (Dev.serveOpenStream p b))
  | .append p tag b => .acts (·.arrive p .append tag b (Dev.serveAppend p b))
  | .withdraw p tag b => .acts (·.arrive p .withdraw tag b (Dev.serveWithdraw p b))
  | .logEvent p tag b => .acts (·.arrive p .logEvent tag b (Dev.serveLogEvent p b))
  | .declare p tag b => .acts (·.arrive p .declare tag b (Dev.serveDeclare p))
  | .getStatus p tag b => .acts (·.arrive p .getStatus tag b (Dev.serveGetStatus p))
  | .nextNotice p tag b => .acts (·.arrive p .nextNotice tag b (Dev.serveNextNotice p))
  | .readParams p tag b => .acts (·.arrive p .readParams tag b (Dev.serveReadParams p))
  | .listIncidents p tag b => .acts (·.arrive p .listIncidents tag b (Dev.serveListIncidents p))
  | .readIncident p tag b => .acts (·.arrive p .readIncident tag b (Dev.serveReadIncident p b))
  | .readStream p tag b => .acts (·.arrive p .readStream tag b (Dev.serveReadStream p b))
  | .readMore p tag b => .acts (·.arrive p .readMore tag b (Dev.serveReadMore m p))
  | .readHistory p tag b => .acts (·.arrive p .readHistory tag b (Dev.serveReadHistory m p b))
  | .release p tag b => .acts (·.arrive p .release tag b (Dev.serveRelease p b))
  | .hold p tag b => .acts (·.arrive p .hold tag b (Dev.serveHold true p b))
  | .unhold p tag b => .acts (·.arrive p .unhold tag b (Dev.serveHold false p b))
  | .locate p tag b => .acts (·.arrive p .locate tag b (Dev.serveLocate p b))
  | .setWalltime p tag b => .acts (·.arrive p .setWalltime tag b (Dev.serveSetWalltime p b))
  | .getSettings p tag b => .acts (·.arrive p .getSettings tag b (Dev.serveGetSettings p b))
  | .putSettings p tag b => .acts (·.arrive p .putSettings tag b (Dev.servePutSettings p b))
  | .saveSettings p tag b => .acts (·.arrive p .saveSettings tag b (Dev.serveSaveSettings p))
  | .unknownRequest p code tag b => .acts (·.unknown p code tag b)
  | .frameError p f => .acts (·.badFrame p f)
  | .overlapFrame p f => .acts (·.overlapAt p f)
  | .fetch p n => .acts (·.fetch p n)
  | .linkReset p => .acts (·.linkReset p)
  | .svcFrameGap => .acts (·.frameGap)
  | .powerUp ma0 ma1 => .powersUp ma0 ma1
  | .deviceReset ma0 ma1 => .resets ma0 ma1
  | .lineChange l x => .lineMoves l x
  | .filterExpiry l => .acts (Dev.atExpiry (·.filters[Line.idx l]) fun d => (d.qualify l).settle)
  | .captureWindowExpiry => .acts (Dev.atExpiry (·.window) Dev.windowExpires)
  | .captureLimitExpiry => .acts (Dev.atExpiry (·.limit) fun d => d.limitExpires.settle)
  | .holdupDeadlineExpiry => .acts (Dev.atExpiry (·.holdup) Dev.holdupExpires)
  | .rechargeExpiry => .acts (Dev.atExpiry (·.recharge) Dev.rechargeNow)
  | .flushIntervalExpiry => .acts (Dev.atExpiry (·.flush) fun d => d.flushExpires.settle)
  | .locateExpiry => .acts (Dev.atExpiry (·.locate) fun d => (d.deadlines fun t => { t with locate := none }).showInd)
  | .eraseRunTimer => .acts fun d =>
      d.onlyIf (d.arc.erase.any (·.phase == .running) && Config.eraseMinRun ≤ d.arc.runTimer && d.suspendWanted)
        (·.erasePhase .suspending)
  | .eraseSuspended => .acts fun d =>
      d.onlyIf (d.arc.erase.any (·.phase == .suspending)) fun d => (d.erasePhase .suspended).grantNext.settle
  | .arbiterGrant => .acts fun d => d.onlyIf d.nextGrant.isSome fun d => d.grantNext.settle
  | .commitProgramDone o => .programEnds .commit o fun ok d => if ok then d.commitOk else d.commitFail
  | .voidMarkDone o => .programEnds .voidMark o Dev.voidDone
  | .journalProgramDone o => .programEnds .journal o Dev.journalWritten
  | .imageProgramDone o => .programEnds .image o Dev.imageWritten
  | .historyFlushDone o => .programEnds .flush o Dev.flushDone
  | .settingsProgramDone o => .programEnds .save o fun ok d => d.saveDone ok
  | .reclaimEraseDone o => .eraseEnds .reclaim o Dev.reclaimErased
  | .ringEraseDone o => .eraseEnds .ringPrep o Dev.ringErased
  | .spareZoneEraseDone o => .eraseEnds .dirErase o Dev.spareErased
  | .settingsZoneEraseDone o => .eraseEnds .settingsErase o Dev.settingsErased
  | .streamReadDone => .acts (·.streamReadEnds m)
  | .historyReadDone => .acts (·.historyReadEnds m)
  | .recoveryReadDone => .acts fun d => d.onlyIf d.arc.scans fun d => (d.opEnds.scanNext m).settle
  | .captureWaiterServed => .acts Dev.serveFront
  | .maintenanceWaiterAccepted => .acts Dev.acceptFront
  | .streamRelease i => .acts fun d => d.onlyIf (d.releasable i) fun d => (d.tryRelease i).settle
  | .incidentKept => .acts fun d => d.onlyIf d.closable fun d => d.tryKeep.closeRun.settle
  | .passToClosing => .acts fun d => d.onlyIf d.passes.isSome fun d => d.closeRun.settle
  | .loadPoint => .acts fun d => d.onlyIf d.loadReady fun d => d.load.settle
  | .compactionStart => .acts fun d => d.onlyIf d.compactionReady fun d => d.startCompaction.settle
  | .reclaimStart => .acts fun d => d.onlyIf d.reclaimReady fun d => d.startReclaim.settle
  | .powerLoss => .losesPower

/-- Every command has its form: `exec` unfolded, constructor by constructor. -/
theorem exec_eq_run (c : Instr) (s : State) : exec c s = (Meaning.of s.flash c).run s := by
  cases c <;> rfl

/-! ### Completions -/

theorem Dev.flushEnds_logsTo (d : Dev) : d.logsTo d.flushEnds := by
  unfold Dev.flushEnds
  dsimp only
  split
  · exact d.setHiu_logsTo _
  · exact Dev.logsTo_trans (d.setHiu_logsTo _) (Dev.armFlush_logsTo _)

theorem Dev.flushOk_logsTo (d : Dev) (t : WritePage) : d.logsTo (d.flushOk t) := by
  unfold Dev.flushOk
  dsimp only
  refine Dev.logsTo_trans ?_ (Dev.hiuMove_logsTo _)
  split
  · exact Dev.logsTo_trans (d.setHiu_logsTo _) (Dev.logsTo_trans (Dev.flushEnds_logsTo _) (Dev.pageAdvance_logsTo _))
  · exact Dev.logsTo_trans (d.setHiu_logsTo _) (Dev.flushEnds_logsTo _)

theorem Dev.flushFail_logsTo (d : Dev) : d.logsTo d.flushFail :=
  Dev.logsTo_trans (d.setHiu_logsTo _)
    (Dev.logsTo_trans (Dev.flushEnds_logsTo _) (Dev.logsTo_trans (Dev.pageAdvance_logsTo _) (Dev.hiuMove_logsTo _)))

theorem Dev.flushDone_logsTo (ok : Bool) (d : Dev) : d.logsTo (d.flushDone ok) := by
  unfold Dev.flushDone
  split
  · exact d.flushOk_logsTo _
  · exact d.flushFail_logsTo

theorem Dev.logsTo_op {d e : Dev} (h : d.logsTo e) : e.arc.op = d.arc.op := by rw [h]

/-- The requester of a PROGRAM leaves the operation in progress as it is. -/
theorem Meaning.of_programEnd {c : Instr} {who : Requester} {o : ProgramOutcome}
    (h : c.programEnd = some (who, o)) (m : Memory) :
    ∃ f, Meaning.of m c = .programEnds who o f ∧ ∀ ok d, (f ok d).arc.op = d.arc.op := by
  cases c with
  | commitProgramDone o' => cases h; exact ⟨_, rfl, fun ok d => by cases ok <;> simp⟩
  | voidMarkDone o' => cases h; exact ⟨_, rfl, fun ok d => by simp⟩
  | journalProgramDone o' => cases h; exact ⟨_, rfl, fun ok d => by simp⟩
  | imageProgramDone o' => cases h; exact ⟨_, rfl, fun ok d => by simp⟩
  | historyFlushDone o' => cases h; exact ⟨_, rfl, fun ok d => Dev.logsTo_op (d.flushDone_logsTo ok)⟩
  | settingsProgramDone o' => cases h; exact ⟨_, rfl, fun ok d => by simp⟩
  | _ => cases h

/-- The requester of an ERASE leaves the erase that exists as it is. -/
theorem Meaning.of_eraseEnd {c : Instr} {who : Requester} {o : EraseOutcome}
    (h : c.eraseEnd = some (who, o)) (m : Memory) :
    ∃ f, Meaning.of m c = .eraseEnds who o f ∧ ∀ ok m z d, (f ok m z d).arc.erase = d.arc.erase := by
  cases c with
  | reclaimEraseDone o' => cases h; exact ⟨_, rfl, fun ok m z d => by simp⟩
  | ringEraseDone o' => cases h; exact ⟨_, rfl, fun ok m z d => by simp⟩
  | spareZoneEraseDone o' => cases h; exact ⟨_, rfl, fun ok m z d => by simp⟩
  | settingsZoneEraseDone o' => cases h; exact ⟨_, rfl, fun ok m z d => by simp⟩
  | _ => cases h

/-- Without an erase ARC has nothing to suspend or resume. -/
theorem Dev.arcSettle_of_no_erase {d : Dev} (h : d.arc.erase = none) : d.arcSettle = d := by
  unfold Dev.arcSettle
  rw [h]

theorem Dev.settle_no_erase {d : Dev} (h : d.arc.erase = none) : d.settle.arc.erase = none := by
  unfold Dev.settle
  rw [Dev.arcSettle_of_no_erase (by simpa using h)]
  simpa using h

section
variable {c : Instr} {s : State}

/-- The end of a PROGRAM, whatever its requester does with it. -/
theorem exec_programEnd {who : Requester} {o : ProgramOutcome} {p : PageAddr} {a : Nat} {data : List Byte} {b : Nat}
    {spare : List Byte} (hc : c.programEnd = some (who, o)) (hp : s.powered = true)
    (hop : s.dev.arc.op = some ⟨who, .program p a data b spare⟩) :
    ∃ t, exec c s = .next t ∧ t.dev.arc.op = none ∧ t.powered = true
      ∧ t.flash = if o = .ok then (Job.program p a data b spare).programOn s.flash
          else (Job.program p a data b spare).failOn s.flash s.freeCount := by
  obtain ⟨f, hform, hf⟩ := Meaning.of_programEnd hc s.flash
  rw [exec_eq_run, hform]
  exact ⟨_, State.programDone_eq hp hop o f, by simp [hf], hp, rfl⟩

/-- The end of an ERASE, whatever its requester does with it. -/
theorem exec_eraseEnd {who : Requester} {o : EraseOutcome} {phase : ErasePhase} {z : Zone}
    (hc : c.eraseEnd = some (who, o)) (hp : s.powered = true) (he : s.dev.arc.erase = some ⟨phase, z, who⟩)
    (hs : phase ≠ .suspended) :
    ∃ t, exec c s = .next t ∧ t.dev.arc.erase = none ∧ t.powered = true
      ∧ t.flash = if o = .ok then s.flash.eraseZone z else s.flash.eraseZoneFail s.freeCount z := by
  obtain ⟨f, hform, hf⟩ := Meaning.of_eraseEnd hc s.flash
  rw [exec_eq_run, hform]
  refine ⟨_, State.eraseDone_eq hp he hs o f, Dev.settle_no_erase (by rw [hf]), hp, ?_⟩
  cases o <;> rfl

end

theorem Byte.eq_and_of_under {a b : Byte} (h : Byte.under b a) : b = a &&& b := by
  rw [BitVec.and_comm]
  exact h.symm

/-- Settles O9: by what the array is after the end of an operation, byte by byte. -/
theorem operationsEnd : Obligations.OperationsEnd := by
  refine ⟨fun c who o s p a data b spare hc hp hop => ?_, fun c who o s phase z hc hp he hs => ?_⟩
  · obtain ⟨t, ht, hnone, hpow, hflash⟩ := exec_programEnd hc hp hop
    refine ⟨t, ht, hnone, hpow, fun ho x => ?_, fun x => ?_, fun x => ?_⟩ <;> rw [hflash]
    · rw [if_pos ho, Job.read_programOn]
    · split
      · rw [Job.read_programOn]
        exact Byte.and_under _ _
      · exact Job.failOn_under _ _ _ _ _ _ _ _
    · refine Byte.eq_and_of_under ?_
      split
      · rw [Job.read_programOn]
        exact Byte.under_refl _
      · exact Job.requested_under_failOn _ _ _ _ _ _ _ _
  · obtain ⟨t, ht, hnone, hpow, hflash⟩ := exec_eraseEnd hc hp he hs
    refine ⟨t, ht, hnone, hpow, fun ho x hlo hhi => ?_, fun x hx => ?_⟩ <;> rw [hflash]
    · rw [if_pos ho, Memory.read_eraseZone, if_pos ⟨hlo, hhi⟩]
    · have outside : ¬(zoneBase z ≤ x ∧ x < zoneBase z + zoneBytes) := by
        simp only [zoneBytes, Config.pagesPerZone, Config.pageBytes]
        omega
      split
      · rw [Memory.read_eraseZone, if_neg outside]
      · rw [Memory.read_eraseZoneFail, if_neg outside]

/-! ### Cuts by the supply -/

/-- POWER_LOSS, POWER_UP and DEVICE_RESET cut the operations of the array short, or leave it. -/
theorem exec_supply_flash {c : Instr} {s t : State}
    (hc : c = .powerLoss ∨ ∃ a b, c = .deviceReset a b ∨ c = .powerUp a b) (h : exec c s = .next t) :
    t.flash = s.flash ∨ t.flash = s.cutShort.flash := by
  have hstep := exec_flashStep h
  generalize t.flash = m at hstep ⊢
  cases hstep with
  | same => exact .inl rfl
  | programmed who o p a data b spare hend => rcases hc with rfl | ⟨_, _, rfl | rfl⟩ <;> cases hend
  | erased who o phase z hend => rcases hc with rfl | ⟨_, _, rfl | rfl⟩ <;> cases hend
  | cut => exact .inr rfl

/-- What the operation in progress asks of a byte: FFH where it is no PROGRAM. -/
def State.asked (s : State) (x : Nat) : Byte := (s.dev.arc.op.map (·.job.requested x)).getD 0xFF

/-- A cut PROGRAM clears no bit that was to stay one. -/
theorem State.asked_under_afterCutProgram (s : State) (x : Nat) :
    Byte.under (s.flash.read x &&& s.asked x) (s.afterCutProgram.read x) := by
  unfold State.afterCutProgram
  rcases s.dev.arc.programs_cases with h | ⟨who, p, n, data, k, spare, hop, h⟩ <;> rw [h]
  · exact Byte.and_under _ _
  · have asked : s.asked x = (Job.program p n data k spare).requested x := by simp [State.asked, hop]
    rw [asked]
    exact Job.requested_under_failOn _ _ _ _ _ _ _ _

/-- Settles O10: the PROGRAM's cut first, then the erase's. -/
theorem supplyLossCutsOperationsShort : Obligations.SupplyLossCutsOperationsShort := by
  refine ⟨fun c s t hc h => ⟨fun x hx => ?_, fun x => ?_⟩, fun s hp => ?_⟩
  · rcases exec_supply_flash hc h with hf | hf <;> rw [hf]
    · exact Byte.under_refl _
    · rw [s.read_cutShort x hx]
      exact s.afterCutProgram_under x
  · show t.flash.read x &&& (s.flash.read x &&& s.asked x) = s.flash.read x &&& s.asked x
    refine (Byte.eq_and_of_under ?_).symm
    rcases exec_supply_flash hc h with hf | hf <;> rw [hf]
    · exact Byte.and_under _ _
    · exact Byte.under_trans (s.asked_under_afterCutProgram x) (s.afterCutProgram_under_cutShort x)
  · show execPowerLoss s = _
    simp [execPowerLoss, hp]

/-! ### Every command -/

theorem State.programDone_of_unpowered {s : State} (hp : s.powered = false) (who : Requester) (o : ProgramOutcome)
    (f : Bool → Dev → Dev) : s.programDone who o f = .next s := by
  unfold State.programDone
  split <;> simp [hp]

theorem State.eraseDone_of_unpowered {s : State} (hp : s.powered = false) (who : Requester) (o : EraseOutcome)
    (f : Bool → Memory → Zone → Dev → Dev) : s.eraseDone who o f = .next s := by
  unfold State.eraseDone
  split <;> simp [hp]

theorem Meaning.of_eq_lineMoves {c : Instr} {m : Memory} {l : Line} {x : Bool} (h : Meaning.of m c = .lineMoves l x) :
    c = .lineChange l x := by
  cases c <;> cases h
  rfl

theorem Meaning.of_eq_powersUp {c : Instr} {m : Memory} {ma0 ma1 : Bool} (h : Meaning.of m c = .powersUp ma0 ma1) :
    c = .powerUp ma0 ma1 := by
  cases c <;> cases h
  rfl

/-- A part without power keeps its state at every command but a power-up, and but for the level of an input. -/
theorem exec_unpowered {c : Instr} {s : State} (hp : s.powered = false) (hup : ∀ a b, c ≠ .powerUp a b) :
    (∃ l x, c = .lineChange l x ∧ exec c s = .next { s with dev := s.dev.setLevel l x }) ∨ exec c s = .next s := by
  rw [exec_eq_run]
  cases hm : Meaning.of s.flash c with
  | acts f => exact .inr (State.act_of_unpowered hp f)
  | programEnds who o f => exact .inr (State.programDone_of_unpowered hp who o f)
  | eraseEnds who o f => exact .inr (State.eraseDone_of_unpowered hp who o f)
  | resets ma0 ma1 => exact .inr (if_neg (by simp [hp]))
  | losesPower => exact .inr (if_neg (by simp [hp]))
  | lineMoves l x =>
    refine .inl ⟨l, x, Meaning.of_eq_lineMoves hm, ?_⟩
    simp [Meaning.run, execLineChange, hp]
  | powersUp ma0 ma1 => exact absurd (Meaning.of_eq_powersUp hm) (hup ma0 ma1)

/-- Settles O2: every command answers a next state (`exec_answers`); without power all but POWER_UP and the input's level
change nothing. -/
theorem everyCommandIsAnswered : Obligations.EveryCommandIsAnswered := by
  refine ⟨fun c s => ?_, fun c s hp hup => exec_unpowered hp hup⟩
  obtain ⟨t, ht, hpending, -⟩ := exec_answers c s
  exact ⟨t, ht, hpending⟩

/-! ### Reset -/

/-- Settles O4: the fields of the reset state, read off it. -/
theorem resetState : Obligations.ResetState := by
  have ports : ∀ p, State.reset.dev.port p = ⟨.empty, [], 0, []⟩ ∧ State.reset.dev.cursor p = .empty
      ∧ State.reset.dev.job p = none := fun p => by cases p <;> exact ⟨rfl, rfl, rfl⟩
  have slots : ∀ i, State.reset.dev.body i = none := fun i => by simp [Dev.body, State.reset, Dev.reset]
  have directory : ∀ i : DirSlot, State.reset.dev.drm.dir[i] = none := by decide
  have lines : ∀ i : Fin 6, State.reset.dev.tru.qualified[i] = false := by decide
  have latches : ∀ i : Fin 5, State.reset.dev.tru.latches[i] = none := by decide
  have deadlines : ∀ x ∈ State.reset.dev.tmb.deadlines.all, x = none := by
    simp [Deadlines.all, State.reset, Dev.reset]
  have free : State.reset.dev.plm.freeZones = 237 := by decide +kernel
  exact ⟨rfl, rfl, rfl, rfl, rfl, rfl, rfl, deadlines, ports, rfl, rfl, slots, rfl, rfl, directory, rfl, rfl, rfl, rfl,
    rfl, lines, latches, rfl, rfl, rfl, rfl, rfl, rfl, rfl, rfl, rfl, rfl, rfl, free, rfl, rfl, rfl⟩

/-- Settles O6: the array is blank, no block is in use, no notice stands, and no ring zone is pinned after reset. -/
theorem invariantsHoldAfterReset : Obligations.InvariantsHoldAfterReset := by
  have noBody : ∀ i, State.reset.dev.body i = none := fun i => by simp [Dev.body, State.reset, Dev.reset]
  refine ⟨SMap.wf_nil _, ⟨fun i x f hx => absurd hx (by simp [noBody i]), ?_, ?_⟩, ⟨?_, fun _ => rfl⟩, ?_, ?_⟩
  · exact fun f hf => nomatch hf
  · exact fun f hf => nomatch hf
  · exact List.Perm.of_eq (by decide +kernel)
  · intro l hl
    simp only [List.mem_cons, List.not_mem_nil, or_false] at hl
    rcases hl with rfl | rfl <;> exact List.Pairwise.nil
  · exact fun _ => by decide +kernel

end Sys2Proof.Machine
end

section
/-! PROOFS. What every operation of the part but a flush, a fetch of a notice and a restart keeps or lets grow: the
notices raised stand, the entries taken stand until they are programmed, the halted flag is set where R122 wants it, and
each staging block is in one of its four places within its size (R30, R109, R122, R162). -/

namespace Sys2Proof.Machine

/-! ### Notices -/

/-- The notices after some raises. -/
def raiseAll (l : List Notice) (x : List (NoticeCause × BitVec 32)) : List Notice :=
  x.foldl (fun l y => raiseIn l y.1 y.2) l

theorem raiseAll_append (l : List Notice) (x y : List (NoticeCause × BitVec 32)) :
    raiseAll l (x ++ y) = raiseAll (raiseAll l x) y := List.foldl_append ..

/-- The sets of `e` are those of `d` after some raises (R162: a raise reaches both). -/
def Dev.raisedTo (d e : Dev) : Prop :=
  ∃ x, e.ntu.management = raiseAll d.ntu.management x ∧ e.ntu.service = raiseAll d.ntu.service x

theorem Dev.raisedTo_of_same {d e : Dev} (hm : e.ntu.management = d.ntu.management)
    (hs : e.ntu.service = d.ntu.service) : d.raisedTo e := ⟨[], hm, hs⟩

theorem Dev.raisedTo_trans {a b c : Dev} (h : a.raisedTo b) (g : b.raisedTo c) : a.raisedTo c := by
  obtain ⟨x, hm, hs⟩ := h
  obtain ⟨y, gm, gs⟩ := g
  exact ⟨x ++ y, by rw [gm, hm, raiseAll_append], by rw [gs, hs, raiseAll_append]⟩

theorem Dev.raise_raisedTo (d : Dev) (c : NoticeCause) (n : Nat) : d.raisedTo (d.raise c n) :=
  ⟨[(c, BitVec.ofNat 32 n)], rfl, rfl⟩

theorem Dev.setHiu_raisedTo (d : Dev) (f : Hiu → Hiu) : d.raisedTo (d.setHiu f) := Dev.raisedTo_of_same rfl rfl

theorem Dev.haltTest_raisedTo (d : Dev) : d.raisedTo d.haltTest := by
  unfold Dev.haltTest
  dsimp only
  split
  · exact Dev.raise_raisedTo _ _ _
  · exact Dev.raisedTo_of_same rfl rfl

theorem Dev.prepTest_raisedTo (d : Dev) : d.raisedTo d.prepTest := Dev.raisedTo_of_same (by simp) (by simp)

theorem Dev.activate_raisedTo (d : Dev) (k : RingIdx) : d.raisedTo (d.activate k) :=
  Dev.haltTest_raisedTo _

theorem Dev.ringAdvance_raisedTo (d : Dev) (k : RingIdx) : d.raisedTo (d.ringAdvance k) := by
  unfold Dev.ringAdvance
  refine Dev.raisedTo_trans ?_ (Dev.prepTest_raisedTo _)
  split
  · split
    · exact Dev.activate_raisedTo _ _
    · exact Dev.raisedTo_of_same rfl rfl
  · exact Dev.raisedTo_of_same rfl rfl

theorem Dev.pageAdvance_raisedTo (d : Dev) : d.raisedTo d.pageAdvance := by
  unfold Dev.pageAdvance
  split
  · exact Dev.raisedTo_of_same rfl rfl
  · split
    · exact d.ringAdvance_raisedTo _
    · exact Dev.raisedTo_of_same rfl rfl

theorem Dev.moveOnce_raisedTo {d e : Dev} (h : d.moveOnce = some e) : d.raisedTo e := by
  unfold Dev.moveOnce at h
  split at h
  · cases h
  · next x rest _ =>
    have stage : d.raisedTo (d.stageHead x rest) := Dev.raisedTo_of_same (by simp) (by simp)
    split at h
    · split at h
      · cases h; exact stage
      · cases h
    · split at h
      · cases h
      · split at h
        · cases h; exact stage
        · cases h
          split
          · exact Dev.raisedTo_trans (Dev.raisedTo_of_same rfl rfl) (Dev.pageAdvance_raisedTo _)
          · exact Dev.raisedTo_of_same rfl rfl

theorem Dev.hiuMove_raisedTo (d : Dev) : d.raisedTo d.hiuMove := by
  suffices ∀ n (d : Dev), d.raisedTo (d.moveLoop n) from this _ d
  intro n
  induction n with
  | zero => exact fun d => Dev.raisedTo_of_same rfl rfl
  | succ n ih =>
    intro d
    unfold Dev.moveLoop
    split
    · next e he => exact Dev.raisedTo_trans (Dev.moveOnce_raisedTo he) (ih e)
    · exact Dev.raisedTo_of_same rfl rfl

theorem Dev.offerSeq_raisedTo (d : Dev) (body : HBody) (severity : Nat) (source : Source) (code : Nat) :
    d.raisedTo (d.offerSeq body severity source code).dev := by
  unfold Dev.offerSeq
  split
  · exact Dev.raisedTo_trans (d.setHiu_raisedTo _) (Dev.hiuMove_raisedTo _)
  · exact Dev.raisedTo_trans (d.setHiu_raisedTo _) (Dev.raise_raisedTo _ _ _)

theorem Dev.awaitTest_raisedTo (d : Dev) : d.raisedTo d.awaitTest := by
  unfold Dev.awaitTest
  split
  · exact Dev.raisedTo_of_same rfl rfl
  · split
    · split
      · exact Dev.raisedTo_trans (d.activate_raisedTo _)
          (Dev.raisedTo_trans (Dev.prepTest_raisedTo _) (Dev.hiuMove_raisedTo _))
      · exact Dev.raisedTo_of_same rfl rfl
    · exact Dev.raisedTo_of_same rfl rfl

theorem Dev.gapTest_raisedTo (d : Dev) : d.raisedTo d.gapTest := Dev.raisedTo_of_same (by simp) (by simp)

theorem Dev.resumeTest_raisedTo (d : Dev) : d.raisedTo d.resumeTest := by
  unfold Dev.resumeTest
  split
  · exact Dev.raisedTo_trans (d.setHiu_raisedTo _)
      (Dev.raisedTo_trans (Dev.gapTest_raisedTo _)
        (Dev.raisedTo_trans (Dev.hiuMove_raisedTo _) (Dev.awaitTest_raisedTo _)))
  · exact Dev.raisedTo_of_same rfl rfl

theorem Dev.unpin_raisedTo (d : Dev) (n : Nat) : d.raisedTo (d.unpin n) :=
  Dev.raisedTo_trans (d.setHiu_raisedTo _)
    (Dev.raisedTo_trans (Dev.awaitTest_raisedTo _)
      (Dev.raisedTo_trans (Dev.prepTest_raisedTo _) (Dev.resumeTest_raisedTo _)))

theorem Dev.pinWindow_raisedTo (d : Dev) (n : Nat) (t : Option Nat) : d.raisedTo (d.pinWindow n t).1 := by
  unfold Dev.pinWindow
  dsimp only
  split
  · exact Dev.raisedTo_of_same rfl rfl
  · exact Dev.haltTest_raisedTo _

/-! ### Notices under raises -/

theorem mem_raiseIn_of_mem {l : List Notice} {c : NoticeCause}
    (h : ∃ n ∈ l, n.cause = c) (c' : NoticeCause) (detail : BitVec 32) : ∃ n ∈ raiseIn l c' detail, n.cause = c := by
  obtain ⟨n, hn, rfl⟩ := h
  unfold raiseIn
  split
  · refine ⟨_, List.mem_map_of_mem hn, ?_⟩
    split <;> rfl
  · next hno =>
    have other : n.cause ≠ c' := fun hc => hno (List.any_eq_true.2 ⟨n, hn, by simpa using hc⟩)
    have codes : NoticeCause.code n.cause < NoticeCause.code c' ∨ NoticeCause.code c' < NoticeCause.code n.cause := by
      revert other
      generalize n.cause = a
      cases a <;> cases c' <;> decide
    refine ⟨n, ?_, rfl⟩
    simp only [List.mem_append, List.mem_filter, List.mem_singleton, decide_eq_true_eq, hn, true_and]
    rcases codes with h | h
    · exact .inl (.inl h)
    · exact .inr h

theorem mem_raiseIn_self (l : List Notice) (c : NoticeCause) (detail : BitVec 32) :
    ∃ n ∈ raiseIn l c detail, n.cause = c := by
  unfold raiseIn
  split
  · next h =>
    obtain ⟨n, hn, hc⟩ := List.any_eq_true.1 h
    refine ⟨_, List.mem_map_of_mem hn, ?_⟩
    rw [beq_iff_eq] at hc
    simp [hc]
  · exact ⟨⟨c, detail, 0⟩, by simp, rfl⟩

/-- Priority order (R162). -/
def ordered (l : List Notice) : Prop := l.Pairwise fun x y => NoticeCause.code x.cause < NoticeCause.code y.cause

theorem ordered_raiseIn {l : List Notice} (h : ordered l) (c : NoticeCause) (detail : BitVec 32) :
    ordered (raiseIn l c detail) := by
  unfold raiseIn
  split
  · refine List.pairwise_map.2 (h.imp fun {x y} hxy => ?_)
    split <;> split <;> exact hxy
  · refine List.pairwise_append.2 ⟨List.pairwise_append.2 ⟨h.filter _, List.pairwise_singleton _ _, ?_⟩, h.filter _, ?_⟩
    · intro x hx y hy
      rw [List.mem_singleton] at hy
      subst hy
      simpa using (List.mem_filter.1 hx).2
    · intro x hx y hy
      have hy' : NoticeCause.code c < NoticeCause.code y.cause := by simpa using (List.mem_filter.1 hy).2
      rcases List.mem_append.1 hx with hx | hx
      · have hx' : NoticeCause.code x.cause < NoticeCause.code c := by simpa using (List.mem_filter.1 hx).2
        exact hx'.trans hy'
      · rw [List.mem_singleton] at hx
        subst hx
        exact hy'

theorem ordered_raiseAll (x : List (NoticeCause × BitVec 32)) {l : List Notice} (h : ordered l) :
    ordered (raiseAll l x) := by
  induction x generalizing l with
  | nil => exact h
  | cons y x ih => exact ih (ordered_raiseIn h _ _)

theorem mem_raiseAll_of_mem (x : List (NoticeCause × BitVec 32)) {l : List Notice} {c : NoticeCause}
    (h : ∃ n ∈ l, n.cause = c) : ∃ n ∈ raiseAll l x, n.cause = c := by
  induction x generalizing l with
  | nil => exact h
  | cons y x ih => exact ih (mem_raiseIn_of_mem h _ _)

/-- Both sets hold a notice of a cause. -/
def Dev.notifies (d : Dev) (c : NoticeCause) : Prop :=
  ∀ l ∈ [d.ntu.management, d.ntu.service], ∃ n ∈ l, n.cause = c

theorem Dev.notifies_iff (d : Dev) (c : NoticeCause) :
    d.notifies c ↔ (∃ n ∈ d.ntu.management, n.cause = c) ∧ ∃ n ∈ d.ntu.service, n.cause = c := by
  simp [Dev.notifies]

theorem Dev.noticesOrdered_iff (d : Dev) :
    d.noticesOrdered ↔ ordered d.ntu.management ∧ ordered d.ntu.service := by
  simp [Dev.noticesOrdered, ordered]

theorem Dev.raise_notifies (d : Dev) (c : NoticeCause) (n : Nat) : (d.raise c n).notifies c :=
  (Dev.notifies_iff _ _).2 ⟨mem_raiseIn_self _ _ _, mem_raiseIn_self _ _ _⟩

theorem Dev.raisedTo.notifies {d e : Dev} (h : d.raisedTo e) {c : NoticeCause} (hd : d.notifies c) : e.notifies c := by
  obtain ⟨x, hm, hs⟩ := h
  rw [Dev.notifies_iff] at hd ⊢
  rw [hm, hs]
  exact ⟨mem_raiseAll_of_mem x hd.1, mem_raiseAll_of_mem x hd.2⟩

theorem Dev.raisedTo.ordered {d e : Dev} (h : d.raisedTo e) (hd : d.noticesOrdered) : e.noticesOrdered := by
  obtain ⟨x, hm, hs⟩ := h
  rw [Dev.noticesOrdered_iff] at hd ⊢
  rw [hm, hs]
  exact ⟨ordered_raiseAll x hd.1, ordered_raiseAll x hd.2⟩

end Sys2Proof.Machine
end

section
/-! PROOFS. `Dev.flowsTo`: what every operation of the part but a flush, a fetch of a notice and a restart keeps or lets
grow. The notices raised stand, the entries taken stand until they are programmed, the halted flag is set where R122
wants it, and each staging block is in one of its four places within its size (R30, R109, R122, R162). -/

namespace Sys2Proof.Machine

/-! ### Staging blocks -/

/-- The fill block of a stream slot. -/
def Dev.fillOf (d : Dev) (i : StreamIdx) : Option Block := (d.body i).bind (·.fill)

/-- The blocks are within their size and, where `placed` asks for it, each in one of the four places (R30). -/
def Dev.blocksSound (placed : Prop) (d : Dev) : Prop := d.blocksFit ∧ (placed → d.blocksPlaced)

theorem Dev.blocksFit_iff (d : Dev) : d.blocksFit ↔ (∀ i f, d.fillOf i = some f → f.data.length ≤ 1024)
    ∧ (∀ f ∈ d.stb.queue, f.data.length ≤ 1024) ∧ ∀ f, d.cme.block = some f → f.data.length ≤ 1024 := by
  unfold Dev.blocksFit Dev.fillOf
  refine and_congr ⟨fun h i f hf => ?_, fun h i x f hx hf => h i f (by simp [hx, hf])⟩ Iff.rfl
  obtain ⟨x, hx, hxf⟩ := Option.bind_eq_some_iff.1 hf
  exact h i x f hx hxf

/-- The numbers of the fill blocks. -/
def Dev.fillIds (d : Dev) : List Nat := (List.finRange 16).filterMap fun i => (d.fillOf i).map (·.id)

theorem Dev.blockIds_eq (d : Dev) : d.blockIds
    = d.stb.free ++ d.fillIds ++ d.stb.queue.map (·.id) ++ (d.cme.block.map (·.id)).toList := rfl

/-- Blocks stay sound where every place of theirs stays. -/
theorem Dev.blocksSound_of_same {placed : Prop} {d e : Dev} (hf : ∀ i, e.fillOf i = d.fillOf i) (hs : e.stb = d.stb)
    (hb : e.cme.block = d.cme.block)
    (hc : d.cme.state = .idle ∨ d.cme.page = none → d.cme.block = none →
      e.cme.state = .idle ∨ e.cme.page = none → e.cme.block = none)
    (hc' : e.cme.state = .idle ∨ e.cme.page = none → d.cme.state = .idle ∨ d.cme.page = none)
    (h : d.blocksSound placed) : e.blocksSound placed := by
  obtain ⟨hfit, hplaced⟩ := h
  refine ⟨?_, fun p => ?_⟩
  · rw [Dev.blocksFit_iff] at hfit ⊢
    simpa only [hf, hs, hb] using hfit
  · obtain ⟨perm, rest⟩ := hplaced p
    refine ⟨?_, fun he => hc (hc' he) (rest (hc' he)) he⟩
    rw [Dev.blockIds_eq] at perm ⊢
    simpa only [Dev.fillIds, hf, hs, hb] using perm

/-- What an operation keeps or lets grow. -/
structure Dev.flowsTo (d e : Dev) : Prop where
  notices : d.raisedTo e
  entries : d.hiu.unflushed <+: e.hiu.unflushed
  halt : d.hiu.haltFlagged → e.hiu.haltFlagged
  blocks : ∀ placed, d.blocksSound placed → e.blocksSound placed

theorem Dev.flowsTo_rfl (d : Dev) : d.flowsTo d :=
  ⟨Dev.raisedTo_of_same rfl rfl, List.prefix_rfl, id, fun _ => id⟩

theorem Dev.flowsTo.trans {a b c : Dev} (h : a.flowsTo b) (g : b.flowsTo c) : a.flowsTo c :=
  ⟨Dev.raisedTo_trans h.notices g.notices, h.entries.trans g.entries, g.halt ∘ h.halt,
    fun p => g.blocks p ∘ h.blocks p⟩

/-- An operation that leaves the blocks. -/
theorem Dev.flowsTo_of_history {d e : Dev} (hcpm : e.cpm = d.cpm) (hstb : e.stb = d.stb) (hcme : e.cme = d.cme)
    (notices : d.raisedTo e) (entries : d.hiu.unflushed <+: e.hiu.unflushed)
    (halt : d.hiu.haltFlagged → e.hiu.haltFlagged) : d.flowsTo e := by
  refine ⟨notices, entries, halt, fun p => Dev.blocksSound_of_same (fun i => ?_) hstb ?_ ?_ ?_⟩
  · simp [Dev.fillOf, Dev.body, hcpm]
  all_goals simp only [hcme]
  · exact fun _ h _ => h
  · exact id

/-- An operation that leaves the history and the notices. -/
theorem Dev.flowsTo_of_blocks {d e : Dev} (hhiu : e.hiu = d.hiu) (hm : e.ntu.management = d.ntu.management)
    (hs : e.ntu.service = d.ntu.service) (blocks : ∀ placed, d.blocksSound placed → e.blocksSound placed) :
    d.flowsTo e :=
  ⟨Dev.raisedTo_of_same hm hs, by rw [hhiu], by rw [hhiu]; exact id, blocks⟩

/-- An operation that leaves the blocks, the entries, the ring and the notices. -/
theorem Dev.flowsTo_of_same {d e : Dev} (hcpm : e.cpm = d.cpm) (hstb : e.stb = d.stb) (hcme : e.cme = d.cme)
    (hstaging : e.hiu.staging = d.hiu.staging) (hintake : e.hiu.intake = d.hiu.intake)
    (hhalted : e.hiu.halted = d.hiu.halted) (hring : e.hiu.ring = d.hiu.ring)
    (hm : e.ntu.management = d.ntu.management) (hs : e.ntu.service = d.ntu.service) : d.flowsTo e :=
  Dev.flowsTo_of_history hcpm hstb hcme (Dev.raisedTo_of_same hm hs)
    (by rw [Hiu.unflushed, Hiu.unflushed, hstaging, hintake]) fun h => h.same hhalted hring

theorem Dev.flowsTo_onlyIf (d : Dev) (b : Bool) {f : Dev → Dev} (h : d.flowsTo (f d)) : d.flowsTo (d.onlyIf b f) := by
  cases b
  · exact d.flowsTo_rfl
  · exact h

theorem Dev.flowsTo_foldl {α : Type} (f : Dev → α → Dev) (h : ∀ (d : Dev) (x : α), d.flowsTo (f d x)) (l : List α) (d : Dev) :
    d.flowsTo (l.foldl f d) := by
  induction l generalizing d with
  | nil => exact d.flowsTo_rfl
  | cons x l ih => exact (h d x).trans (ih _)

/-! ### The history -/

theorem Dev.haltTest_flowsTo (d : Dev) : d.flowsTo d.haltTest :=
  Dev.flowsTo_of_history (by simp) (by simp) (by simp) d.haltTest_raisedTo (by rw [d.unflushed_haltTest])
    fun _ => d.haltTest_haltFlagged

theorem Dev.prepTest_flowsTo (d : Dev) : d.flowsTo d.prepTest :=
  Dev.flowsTo_of_history (by simp) (by simp) (by simp) d.prepTest_raisedTo (by rw [d.unflushed_prepTest])
    Dev.prepTest_haltFlagged

theorem Dev.activate_flowsTo (d : Dev) (k : RingIdx) : d.flowsTo (d.activate k) :=
  Dev.flowsTo_of_history (by simp) (by simp) (by simp) (d.activate_raisedTo k) (by rw [d.unflushed_activate])
    fun _ => d.activate_haltFlagged k

theorem prefix_of_append {α : Type} {a b : List α} (h : ∃ l, b = a ++ l) : a <+: b :=
  h.imp fun _ hl => hl.symm

theorem Dev.hiuMove_flowsTo (d : Dev) : d.flowsTo d.hiuMove :=
  Dev.flowsTo_of_history (by simp) (by simp) (by simp) d.hiuMove_raisedTo
    (prefix_of_append d.unflushed_hiuMove) Dev.hiuMove_haltFlagged

theorem Dev.offerSeq_flowsTo (d : Dev) (body : HBody) (severity : Nat) (source : Source) (code : Nat) :
    d.flowsTo (d.offerSeq body severity source code).dev := by
  obtain ⟨l, hl⟩ := d.unflushed_offerSeq body severity source code
  exact Dev.flowsTo_of_history (by simp) (by simp) (by simp) (d.offerSeq_raisedTo ..)
    (prefix_of_append ⟨_, hl.trans (List.append_assoc ..)⟩) fun h => Dev.offerSeq_haltFlagged h body severity source code

theorem Dev.event_flowsTo (d : Dev) (code severity : Nat) (body : HBody) : d.flowsTo (d.event code severity body) :=
  d.offerSeq_flowsTo ..

theorem Dev.raise_flowsTo (d : Dev) (c : NoticeCause) (n : Nat) : d.flowsTo (d.raise c n) :=
  Dev.flowsTo_of_history rfl rfl rfl (d.raise_raisedTo c n) List.prefix_rfl id

theorem Dev.markTo_flowsTo (d : Dev) (n : Nat) : d.flowsTo (d.setHiu (·.markTo n)) := by
  have ring : (d.hiu.markTo n).ring = d.hiu.ring ∧ (d.hiu.markTo n).halted = d.hiu.halted := by
    unfold Hiu.markTo; split <;> exact ⟨rfl, rfl⟩
  exact Dev.flowsTo_of_history rfl rfl rfl (Dev.raisedTo_of_same rfl rfl)
    (by rw [Dev.setHiu_fields d _ |>.2.2.2.2.2.2.2.2.2.2.2.2.2.2.2.2, Hiu.unflushed_markTo])
    fun h => Hiu.haltFlagged.same h ring.2 ring.1

theorem Dev.markedEvent_flowsTo (d : Dev) (code severity : Nat) (body : HBody) :
    d.flowsTo (d.markedEvent code severity body).dev :=
  (d.offerSeq_flowsTo ..).trans (Dev.markTo_flowsTo _ _)

theorem Dev.awaitTest_flowsTo (d : Dev) : d.flowsTo d.awaitTest := by
  unfold Dev.awaitTest
  split
  · exact d.flowsTo_rfl
  · split
    · split
      · exact (d.activate_flowsTo _).trans ((Dev.prepTest_flowsTo _).trans (Dev.hiuMove_flowsTo _))
      · exact d.flowsTo_rfl
    · exact d.flowsTo_rfl

theorem Dev.gapTest_flowsTo (d : Dev) : d.flowsTo d.gapTest :=
  Dev.flowsTo_of_history (by simp) (by simp) (by simp) d.gapTest_raisedTo (prefix_of_append d.unflushed_gapTest)
    Dev.gapTest_haltFlagged

theorem Dev.resumeTest_flowsTo (d : Dev) : d.flowsTo d.resumeTest := by
  unfold Dev.resumeTest
  split
  · next h =>
    refine Dev.flowsTo.trans ?_
      ((Dev.gapTest_flowsTo _).trans ((Dev.hiuMove_flowsTo _).trans (Dev.awaitTest_flowsTo _)))
    exact Dev.flowsTo_of_history rfl rfl rfl (Dev.raisedTo_of_same rfl rfl) List.prefix_rfl fun _ _ => h.1
  · exact d.flowsTo_rfl

theorem Dev.unpin_flowsTo (d : Dev) (n : Nat) : d.flowsTo (d.unpin n) := by
  have drop : d.flowsTo (d.setHiu (·.dropPins n)) :=
    Dev.flowsTo_of_history rfl rfl rfl (d.setHiu_raisedTo _) List.prefix_rfl fun h => Hiu.dropPins_haltFlagged h n
  exact drop.trans ((Dev.awaitTest_flowsTo _).trans ((Dev.prepTest_flowsTo _).trans (Dev.resumeTest_flowsTo _)))

theorem Hiu.pinZone_unflushed {h h' : Hiu} {number : Nat} {z : WindowZone} (hz : h.pinZone number z = some h') :
    h'.unflushed = h.unflushed := by
  cases z <;>
  · simp only [Hiu.pinZone, Option.ite_none_left_eq_some, Option.some.injEq] at hz
    rw [← hz.2]
    rfl

/-- Pins alone change while a window is pinned. -/
theorem Hiu.pinAll_unflushed (number : Nat) (zs : List WindowZone) (h : Hiu) (n : Nat) :
    (Hiu.pinAll number h zs n).1.unflushed = h.unflushed := by
  induction zs generalizing h n with
  | nil => rfl
  | cons z zs ih =>
    unfold Hiu.pinAll
    split
    · next h' hz =>
      rw [ih]
      exact Hiu.pinZone_unflushed hz
    · rfl

theorem Dev.pinWindow_flowsTo (d : Dev) (n : Nat) (t : Option Nat) : d.flowsTo (d.pinWindow n t).1 := by
  refine Dev.flowsTo_of_history (by simp) (by simp) (by simp) (d.pinWindow_raisedTo n t) ?_
    fun h => Dev.pinWindow_haltFlagged h n t
  unfold Dev.pinWindow
  dsimp only
  split
  · exact List.prefix_rfl
  · rw [Dev.unflushed_haltTest, Hiu.pinAll_unflushed]

/-! ### What leaves history and blocks -/

theorem Dev.settle_flowsTo (d : Dev) : d.flowsTo d.settle := by
  apply Dev.flowsTo_of_same <;> simp

theorem Dev.showInd_flowsTo (d : Dev) : d.flowsTo d.showInd := by
  apply Dev.flowsTo_of_same <;> simp

theorem Dev.arcSettle_flowsTo (d : Dev) : d.flowsTo d.arcSettle := by
  apply Dev.flowsTo_of_same <;> simp

theorem Dev.reply_flowsTo (d : Dev) (p : Port) (s : Status) (f : Byte) (b : ReplyBody) :
    d.flowsTo (d.reply p s f b) := by
  apply Dev.flowsTo_of_same <;> simp

theorem Dev.replyTo_flowsTo (d : Dev) (p : Option Port) (s : Status) (f : Byte) (b : ReplyBody) :
    d.flowsTo (d.replyTo p s f b) := by
  apply Dev.flowsTo_of_same <;> simp

theorem Dev.setDrm_flowsTo (d : Dev) (f : Drm → Drm) : d.flowsTo (d.setDrm f) := by
  apply Dev.flowsTo_of_same <;> rfl

theorem Dev.setPlm_flowsTo (d : Dev) (f : Plm → Plm) : d.flowsTo (d.setPlm f) := by
  apply Dev.flowsTo_of_same <;> rfl

theorem Dev.setIct_flowsTo (d : Dev) (f : Ict → Ict) : d.flowsTo (d.setIct f) := by
  apply Dev.flowsTo_of_same <;> rfl

theorem Dev.setHum_flowsTo (d : Dev) (f : Hum → Hum) : d.flowsTo (d.setHum f) := by
  apply Dev.flowsTo_of_same <;> rfl

theorem Dev.setRtu_flowsTo (d : Dev) (f : Rtu → Rtu) : d.flowsTo (d.setRtu f) := by
  apply Dev.flowsTo_of_same <;> rfl

theorem Dev.setSst_flowsTo (d : Dev) (f : Sst → Sst) : d.flowsTo (d.setSst f) := by
  apply Dev.flowsTo_of_same <;> rfl

theorem Dev.setTru_flowsTo (d : Dev) (f : Tru → Tru) : d.flowsTo (d.setTru f) := by
  apply Dev.flowsTo_of_same <;> rfl

theorem Dev.deadlines_flowsTo (d : Dev) (f : Deadlines → Deadlines) : d.flowsTo (d.deadlines f) := by
  apply Dev.flowsTo_of_same <;> rfl

theorem Dev.place_flowsTo (d : Dev) (who : Requester) (j : Job) : d.flowsTo (d.place who j) := by
  apply Dev.flowsTo_of_same <;> rfl

theorem Dev.withdraw_flowsTo (d : Dev) (who : Requester) : d.flowsTo (d.withdraw who) := by
  apply Dev.flowsTo_of_same <;> rfl

theorem Dev.queueEntry_flowsTo (d : Dev) (e : JEntry) : d.flowsTo (d.queueEntry e) := d.setDrm_flowsTo _

theorem Dev.addWaiter_flowsTo (d : Dev) (w : CapWaiter) : d.flowsTo (d.addWaiter w) := d.setDrm_flowsTo _

theorem Dev.modSlot_flowsTo (d : Dev) (i : DirSlot) (f : Incident → Incident) : d.flowsTo (d.modSlot i f) :=
  d.setDrm_flowsTo _

theorem Dev.modIncident_flowsTo (d : Dev) (n : Nat) (f : Incident → Incident) : d.flowsTo (d.modIncident n f) := by
  apply Dev.flowsTo_of_same <;> simp

theorem Dev.waitCapture_flowsTo (d : Dev) (w : CapWaiter) : d.flowsTo (d.waitCapture w) := by
  apply Dev.flowsTo_of_same <;> simp

theorem Dev.poolLowTest_flowsTo (d : Dev) : d.flowsTo d.poolLowTest := by
  unfold Dev.poolLowTest
  split
  · exact d.raise_flowsTo _ _
  · exact d.flowsTo_rfl

/-! ### The close of an incident -/

theorem Dev.tryPass_flowsTo (d : Dev) : d.flowsTo d.tryPass := by
  unfold Dev.tryPass
  split
  · exact (d.modSlot_flowsTo _ _).trans ((Dev.showInd_flowsTo _).trans
      ((Dev.setIct_flowsTo _ _).trans ((Dev.setIct_flowsTo _ _).trans (Dev.deadlines_flowsTo _ _))))
  · exact d.flowsTo_rfl

theorem Dev.keep_flowsTo (d : Dev) (s : DirSlot) (r : Incident) : d.flowsTo (d.keep s r) :=
  (d.queueEntry_flowsTo _).trans ((Dev.modSlot_flowsTo _ _ _).trans ((Dev.showInd_flowsTo _).trans
    ((Dev.setIct_flowsTo _ _).trans ((Dev.event_flowsTo _ _ _ _).trans (Dev.raise_flowsTo _ _ _)))))

theorem Dev.tryKeep_flowsTo (d : Dev) : d.flowsTo d.tryKeep := by
  unfold Dev.tryKeep
  split
  · split
    · exact d.keep_flowsTo _ _
    · exact d.waitCapture_flowsTo _
  · exact d.flowsTo_rfl

theorem Dev.closeRun_flowsTo (d : Dev) : d.flowsTo d.closeRun :=
  d.tryPass_flowsTo.trans ((Dev.tryKeep_flowsTo _).trans ((Dev.tryPass_flowsTo _).trans (Dev.tryKeep_flowsTo _)))

theorem Dev.reportCut_flowsTo (d : Dev) (b : StreamBody) (r : Reason) : d.flowsTo (d.reportCut b r) :=
  (d.event_flowsTo _ _ _).trans (Dev.raise_flowsTo _ _ _)

end Sys2Proof.Machine
end

section
/-! PROOFS. The moves of staging blocks between their four places (R30 to R33, R43 to R47, R71, R78 to R80): each keeps
every block within its size and in one place. -/

namespace Sys2Proof.Machine

/-! ### Fill blocks -/

theorem Dev.fillOf_of_body {d e : Dev} {i : StreamIdx} (h : e.body i = d.body i) : e.fillOf i = d.fillOf i := by
  rw [Dev.fillOf, h, Dev.fillOf]

theorem Dev.fillOf_of_cpm {d e : Dev} (h : e.cpm = d.cpm) (i : StreamIdx) : e.fillOf i = d.fillOf i :=
  Dev.fillOf_of_body (by rw [Dev.body, h, Dev.body])

theorem Dev.fillOf_modBody (d : Dev) (i j : StreamIdx) (f : StreamBody → StreamBody) :
    (d.modBody i f).fillOf j = if i = j then (d.body j).bind fun x => (f x).fill else d.fillOf j := by
  rw [Dev.fillOf, Dev.body_modBody]
  split
  · rw [Option.bind_map]; rfl
  · rfl

/-- The number of a block, where there is one. -/
def blockId (o : Option Block) : List Nat := (o.map (·.id)).toList

theorem filterMap_perm_of_eq_elsewhere {α β : Type} [DecidableEq α] {f g : α → Option β} {i : α}
    (h : ∀ j, j ≠ i → f j = g j) : ∀ {l : List α}, l.Nodup → i ∈ l →
      (l.filterMap f ++ (g i).toList).Perm (l.filterMap g ++ (f i).toList)
  | a :: l, hn, hi => by
    obtain ⟨ha, hl⟩ := List.nodup_cons.1 hn
    have heads : ∀ (k : α → Option β), (a :: l).filterMap k = (k a).toList ++ l.filterMap k := fun k => by
      rw [List.filterMap_cons]
      cases k a <;> rfl
    rw [heads, heads]
    by_cases hia : i = a
    · subst hia
      have tail : l.filterMap f = l.filterMap g := List.filterMap_congr fun j hj => h j fun e => ha (e ▸ hj)
      rw [tail]
      exact List.perm_append_comm.trans ((List.perm_append_comm.append_left _).trans (by rw [List.append_assoc]))
    · have hi' : i ∈ l := (List.mem_cons.1 hi).resolve_left hia
      rw [h a (Ne.symm hia), List.append_assoc, List.append_assoc]
      exact (filterMap_perm_of_eq_elsewhere h hl hi').append_left _

/-- The fill blocks where one slot's alone changes. -/
theorem Dev.fillIds_perm {d e : Dev} {i : StreamIdx} (h : ∀ j, j ≠ i → e.fillOf j = d.fillOf j) :
    (e.fillIds ++ blockId (d.fillOf i)).Perm (d.fillIds ++ blockId (e.fillOf i)) :=
  filterMap_perm_of_eq_elsewhere (f := fun j => (e.fillOf j).map Block.id) (g := fun j => (d.fillOf j).map Block.id)
    (fun j hj => by rw [h j hj]) (List.nodup_finRange 16) (List.mem_finRange i)

/-- The numbers in the four places, counted. -/
theorem Dev.count_blockIds (d : Dev) (n : Nat) : d.blockIds.count n = d.stb.free.count n + d.fillIds.count n
    + (d.stb.queue.map (·.id)).count n + (blockId d.cme.block).count n := by
  simp only [Dev.blockIds_eq, List.count_append, blockId]

/-- Blocks stay sound where each is moved, one slot's fill block at most among them. -/
theorem Dev.blocksSound_of_move {placed : Prop} {d e : Dev} (i : StreamIdx)
    (fills : ∀ j, j ≠ i → e.fillOf j = d.fillOf j)
    (fit : d.blocksFit → (∀ f, e.fillOf i = some f → f.data.length ≤ 1024)
      ∧ (∀ f ∈ e.stb.queue, f.data.length ≤ 1024) ∧ ∀ f, e.cme.block = some f → f.data.length ≤ 1024)
    (counts : placed → d.blocksFit → d.blocksPlaced → ∀ n,
      e.stb.free.count n + (blockId (e.fillOf i)).count n + (e.stb.queue.map (·.id)).count n
          + (blockId e.cme.block).count n
        = d.stb.free.count n + (blockId (d.fillOf i)).count n + (d.stb.queue.map (·.id)).count n
          + (blockId d.cme.block).count n)
    (held : placed → d.blocksPlaced → e.cme.state = .idle ∨ e.cme.page = none → e.cme.block = none)
    (h : d.blocksSound placed) : e.blocksSound placed := by
  obtain ⟨hfit, hplaced⟩ := h
  obtain ⟨fitFill, fitQueue, fitHeld⟩ := fit hfit
  refine ⟨(Dev.blocksFit_iff e).2 ⟨fun j f hf => ?_, fitQueue, fitHeld⟩, fun p => ⟨?_, held p (hplaced p)⟩⟩
  · by_cases hj : j = i
    · exact fitFill f (hj ▸ hf)
    · exact ((Dev.blocksFit_iff d).1 hfit).1 j f (fills j hj ▸ hf)
  · refine List.Perm.trans (List.perm_iff_count.2 fun n => ?_) (hplaced p).1
    have moved := (Dev.fillIds_perm fills).count_eq n
    have others := counts p hfit (hplaced p) n
    simp only [List.count_append] at moved
    rw [Dev.count_blockIds, Dev.count_blockIds]
    omega

/-! ### Slots -/

theorem Dev.modBody_flowsTo (d : Dev) (i : StreamIdx) (f : StreamBody → StreamBody)
    (h : ∀ x, d.body i = some x → (f x).fill = x.fill) : d.flowsTo (d.modBody i f) := by
  refine Dev.flowsTo_of_blocks rfl rfl rfl fun p => Dev.blocksSound_of_same (fun j => ?_) rfl rfl (fun _ h _ => h) id
  rw [Dev.fillOf_modBody]
  split
  · next hij =>
    subst hij
    rw [Dev.fillOf]
    cases hb : d.body i with
    | none => rfl
    | some x => exact h x hb
  · rfl

theorem joinQueue_perm (q : List Block) (b : Block) : (joinQueue q b).Perm (b :: q) := by
  unfold joinQueue
  rw [List.append_assoc]
  refine List.perm_middle.trans (List.Perm.cons b ?_)
  have other : q.filter (b.cls < ·.cls) = q.filter fun x => !decide (x.cls ≤ b.cls) :=
    List.filter_congr fun x _ => by
      by_cases hx : x.cls ≤ b.cls <;> simp [hx, Nat.lt_of_not_le]
  rw [other]
  exact List.filter_append_perm _ _

theorem Dev.fillOf_queueFill {d : Dev} {i : StreamIdx} {f : Block} (h : d.fillOf i = some f) (j : StreamIdx) :
    (d.queueFill i).fillOf j = if i = j then none else d.fillOf j := by
  unfold Dev.queueFill
  rw [show (d.body i).bind (·.fill) = some f from h]
  dsimp only
  rw [Dev.fillOf_modBody]
  split
  · cases d.setStb _ |>.body j <;> rfl
  · rfl

theorem Dev.queueFill_of_fillOf {d : Dev} {i : StreamIdx} {f : Block} (h : d.fillOf i = some f) :
    (d.queueFill i).stb = { d.stb with queue := joinQueue d.stb.queue f } := by
  unfold Dev.queueFill
  rw [show (d.body i).bind (·.fill) = some f from h]
  rfl

theorem Dev.queueFill_of_no_fill {d : Dev} {i : StreamIdx} (h : d.fillOf i = none) : d.queueFill i = d := by
  unfold Dev.queueFill
  rw [show (d.body i).bind (·.fill) = none from h]

theorem Dev.queueFill_flowsTo (d : Dev) (i : StreamIdx) : d.flowsTo (d.queueFill i) := by
  cases hf : d.fillOf i with
  | none => rw [Dev.queueFill_of_no_fill hf]; exact d.flowsTo_rfl
  | some f =>
    refine Dev.flowsTo_of_blocks (by simp) (by simp) (by simp) fun p => Dev.blocksSound_of_move i (fun j hj => ?_)
      (fun hfit => ?_) (fun _ _ _ n => ?_) (fun _ hp => by simpa using hp.2)
    · rw [Dev.fillOf_queueFill hf, if_neg (Ne.symm hj)]
    · obtain ⟨fills, queued, held⟩ := (Dev.blocksFit_iff d).1 hfit
      rw [Dev.queueFill_of_fillOf hf]
      refine ⟨fun g hg => by simp [Dev.fillOf_queueFill hf] at hg, fun g hg => ?_, by simpa using held⟩
      rcases List.mem_cons.1 ((joinQueue_perm _ _).mem_iff.1 hg) with rfl | hg
      · exact fills i g hf
      · exact queued g hg
    · have joined := ((joinQueue_perm d.stb.queue f).map (·.id)).count_eq n
      rw [Dev.queueFill_of_fillOf hf, Dev.fillOf_queueFill hf, if_pos rfl, hf]
      simp only [Dev.queueFill_frame, blockId, Option.map_some, Option.map_none, Option.toList_some, Option.toList_none,
        List.map_cons, List.count_nil, List.count_cons] at joined ⊢
      omega

theorem Dev.leaveOpen_flowsTo (d : Dev) (i : StreamIdx) (e : PendingEnd) : d.flowsTo (d.leaveOpen i e) :=
  (d.modBody_flowsTo i (fun b => { b with ending := some e }) fun _ _ => rfl).trans (Dev.queueFill_flowsTo _ i)

theorem Dev.fillOf_discardBlocks (d : Dev) (i j : StreamIdx) :
    (d.discardBlocks i).fillOf j = if i = j then none else d.fillOf j := by
  unfold Dev.discardBlocks
  dsimp only
  rw [Dev.fillOf_modBody]
  split
  · cases Dev.body _ j <;> rfl
  · rfl

theorem Dev.discardBlocks_flowsTo (d : Dev) (i : StreamIdx) : d.flowsTo (d.discardBlocks i) := by
  have stb : (d.discardBlocks i).stb = ⟨d.stb.free ++ (d.stb.queue.filter (·.slot == i)
      ++ (d.fillOf i).toList).map (·.id), d.stb.queue.filter (·.slot != i)⟩ := rfl
  refine Dev.flowsTo_of_blocks rfl rfl rfl fun p => Dev.blocksSound_of_move i (fun j hj => ?_)
    (fun hfit => ?_) (fun _ _ _ n => ?_) (fun _ hp => hp.2)
  · rw [Dev.fillOf_discardBlocks, if_neg (Ne.symm hj)]
  · obtain ⟨-, queued, held⟩ := (Dev.blocksFit_iff d).1 hfit
    refine ⟨fun g hg => by simp [Dev.fillOf_discardBlocks] at hg, fun g hg => ?_, held⟩
    exact queued g (List.mem_filter.1 (stb ▸ hg)).1
  · have parts := ((List.filter_append_perm (·.slot == i) d.stb.queue).map (·.id)).count_eq n
    have fill : (d.fillOf i).toList.map (·.id) = blockId (d.fillOf i) := by cases d.fillOf i <;> rfl
    rw [Dev.fillOf_discardBlocks, if_pos rfl, stb]
    show _ + _ + _ + (blockId d.cme.block).count n = _
    simp only [List.map_append, List.count_append, fill, blockId, Option.map_none, Option.toList_none, List.count_nil,
      bne] at parts ⊢
    omega

end Sys2Proof.Machine
end

section
/-! PROOFS. `Dev.flowsTo` of the blocks' operations: release, cuts, the Commit Engine, the closing phase. -/

namespace Sys2Proof.Machine

/-! ### Release -/

theorem Dev.releaseSlot_flowsTo {d : Dev} {i : StreamIdx} {b : StreamBody} (hb : d.body i = some b)
    (hf : b.fill = none) (e : PendingEnd) : d.flowsTo (d.releaseSlot i b e) := by
  refine Dev.flowsTo_of_blocks (by simp) (by simp) (by simp) fun p =>
    Dev.blocksSound_of_same (fun j => ?_) (by simp) (by simp) (fun _ h _ => by simpa using h) (by simp)
  by_cases hij : i = j
  · subst hij
    have gone : (d.releaseSlot i b e).body i = none := by simp [Dev.releaseSlot, Dev.body]
    simp [Dev.fillOf, gone, hb, hf]
  · have other : (d.releaseSlot i b e).body j = d.body j := by
      simpa [Dev.releaseSlot, Dev.body] using congrArg StreamSlot.body
        (get_modify_ne d.cpm.slots hij fun s => { s with body := none })
    exact Dev.fillOf_of_body other

theorem StreamBody.fill_of_drained {b : StreamBody} {e : PendingEnd} (h : b.drained = some e) : b.fill = none := by
  unfold StreamBody.drained at h
  split at h
  · next hf => simpa using (Bool.and_eq_true_iff.1 hf).1
  · cases h

theorem Dev.releaseKeeping_flowsTo (d : Dev) (i : StreamIdx) : d.flowsTo (d.releaseKeeping i) := by
  unfold Dev.releaseKeeping
  split
  · next b hb =>
    split
    · next e he =>
      split
      · exact (Dev.releaseSlot_flowsTo hb (StreamBody.fill_of_drained he) e).trans (Dev.tryKeep_flowsTo _)
      · exact d.waitCapture_flowsTo _
    · exact d.flowsTo_rfl
  · exact d.flowsTo_rfl

theorem Dev.tryRelease_flowsTo (d : Dev) (i : StreamIdx) : d.flowsTo (d.tryRelease i) :=
  (d.releaseKeeping_flowsTo i).trans (Dev.closeRun_flowsTo _)

theorem Dev.cutDiscard_flowsTo (d : Dev) (i : StreamIdx) (r : Reason) : d.flowsTo (d.cutDiscard i r) := by
  unfold Dev.cutDiscard
  split
  · exact (d.modBody_flowsTo i (fun b => { b with ending := some (cutEnding r b.ending) }) fun _ _ => rfl).trans
      ((Dev.discardBlocks_flowsTo _ i).trans ((Dev.reportCut_flowsTo _ _ r).trans
        ((Dev.closeRun_flowsTo _).trans (Dev.tryRelease_flowsTo _ i))))
  · exact d.flowsTo_rfl

theorem Dev.syncRecord_flowsTo (d : Dev) (i : StreamIdx) : d.flowsTo (d.syncRecord i) := by
  unfold Dev.syncRecord
  split
  · exact d.modIncident_flowsTo _ _
  · exact d.flowsTo_rfl

/-! ### The Commit Engine -/

theorem Dev.newFillZone_flowsTo {d e : Dev} (h : d.newFillZone = some e) : d.flowsTo e := by
  unfold Dev.newFillZone at h
  obtain ⟨z, -, rfl⟩ := Option.map_eq_some_iff.1 h
  exact (d.setPlm_flowsTo _).trans (Dev.poolLowTest_flowsTo _)

theorem Dev.givePage_flowsTo {d e : Dev} {p : PageAddr} (h : d.givePage = some (p, e)) : d.flowsTo e := by
  unfold Dev.givePage at h
  split at h
  · cases h
    exact d.setPlm_flowsTo _
  · split at h
    · next d' hd' =>
      obtain ⟨z, -, hz⟩ := Option.map_eq_some_iff.1 h
      cases hz
      exact (Dev.newFillZone_flowsTo hd').trans (Dev.setPlm_flowsTo _ _)
    · cases h

/-- CME changes its state and keeps its block (R70). -/
theorem Dev.setCme_flowsTo (d : Dev) (f : Cme → Cme) (hb : (f d.cme).block = d.cme.block)
    (hheld : (f d.cme).state = .idle ∨ (f d.cme).page = none → d.cme.state = .idle ∨ d.cme.page = none ∨
      d.cme.block = none) : d.flowsTo (d.setCme f) := by
  refine Dev.flowsTo_of_blocks rfl rfl rfl fun p h => ⟨?_, fun hp => ?_⟩
  · have fit := (Dev.blocksFit_iff d).1 h.1
    exact (Dev.blocksFit_iff _).2 ⟨fit.1, fit.2.1, fun g hg => fit.2.2 g (hb ▸ hg)⟩
  · obtain ⟨perm, held⟩ := h.2 hp
    refine ⟨?_, fun he => ?_⟩
    · rw [Dev.blockIds_eq] at perm ⊢
      show (d.stb.free ++ d.fillIds ++ d.stb.queue.map (·.id) ++ ((f d.cme).block.map (·.id)).toList).Perm _
      rwa [hb]
    · show (f d.cme).block = none
      rw [hb]
      rcases hheld he with h | h | h
      · exact held (.inl h)
      · exact held (.inr h)
      · exact h

/-- CME comes to rest with nothing in hand. -/
theorem Dev.cmeRest_flowsTo (d : Dev) (h : d.cme.block = none) : d.flowsTo (d.setCme fun _ => Cme.rest) :=
  d.setCme_flowsTo _ h.symm fun _ => .inr (.inr h)

/-- CME comes to rest without a page, hence without a block. -/
theorem Dev.cmeRest_of_no_page_flowsTo (d : Dev) (h : d.cme.page = none) : d.flowsTo (d.setCme fun _ => Cme.rest) := by
  refine Dev.flowsTo_of_blocks rfl rfl rfl fun p hs => ?_
  have fit := (Dev.blocksFit_iff d).1 hs.1
  refine ⟨(Dev.blocksFit_iff _).2 ⟨fit.1, fit.2.1, fun g hg => nomatch hg⟩, fun hp => ⟨?_, fun _ => rfl⟩⟩
  obtain ⟨perm, held⟩ := hs.2 hp
  rw [Dev.blockIds_eq, held (.inr h)] at perm
  exact perm

/-- The block under program returns to the free list. -/
theorem Dev.freeUnderProgram_flowsTo {d : Dev} {b : Block} (h : d.cme.block = some b) (f : Cme → Cme)
    (hf : (f d.cme).block = none) : d.flowsTo ((d.setCme f).freeBlocks [b.id]) := by
  refine Dev.flowsTo_of_blocks rfl rfl rfl fun p => Dev.blocksSound_of_move 0 (fun _ _ => rfl) (fun hfit => ?_)
    (fun _ _ _ n => ?_) (fun _ _ _ => hf)
  · have fit := (Dev.blocksFit_iff d).1 hfit
    exact ⟨fit.1 0, fit.2.1, fun g hg => nomatch hf.symm.trans hg⟩
  · show (d.stb.free ++ [b.id]).count n + (blockId (d.fillOf 0)).count n + (d.stb.queue.map (·.id)).count n
      + (blockId (f d.cme).block).count n = _
    rw [hf, h, List.count_append]
    simp only [blockId, Option.map_none, Option.map_some, Option.toList_none, Option.toList_some, List.count_nil]
    omega

theorem Dev.dropUnderProgram_flowsTo (d : Dev) : d.flowsTo d.dropUnderProgram := by
  unfold Dev.dropUnderProgram
  split
  · next b hb =>
    exact (Dev.freeUnderProgram_flowsTo hb (fun c => { c with block := none }) rfl).trans
      (Dev.modBody_flowsTo _ b.slot (fun x => { x with queued := x.queued - 1 }) fun _ _ => rfl)
  · exact d.flowsTo_rfl

theorem Dev.dropUnderProgram_block (d : Dev) : d.dropUnderProgram.cme.block = none := by
  unfold Dev.dropUnderProgram
  split
  · rfl
  · next h => exact h

/-- CME takes the block at the head of the queue (R71). -/
theorem Dev.takeHead_flowsTo {d : Dev} {b : Block} {rest : List Block} (hq : d.stb.queue = b :: rest)
    (hc : d.cme.state = .idle) (p : PageAddr) (retry : Nat) :
    d.flowsTo ((d.setStb fun s => { s with queue := rest }).commitOn b p retry) := by
  refine Dev.flowsTo_of_blocks rfl rfl rfl fun q => Dev.blocksSound_of_move 0 (fun _ _ => rfl) (fun hfit => ?_)
    (fun hp _ hplaced n => ?_) (fun _ _ h => ?_)
  · have fit := (Dev.blocksFit_iff d).1 hfit
    refine ⟨fit.1 0, fun g hg => fit.2.1 g (hq ▸ List.mem_cons_of_mem b hg), fun g hg => ?_⟩
    cases hg
    exact fit.2.1 b (hq ▸ List.mem_cons_self)
  · show d.stb.free.count n + (blockId (d.fillOf 0)).count n + (rest.map (·.id)).count n
      + (blockId (some b)).count n = _
    rw [hplaced.2 (.inl hc), hq, List.map_cons, List.count_cons]
    simp only [blockId, Option.map_none, Option.map_some, Option.toList_none, Option.toList_some, List.count_nil,
      List.count_cons]
    omega
  · rcases h with h | h <;> cases h

theorem Dev.cmeOnce_flowsTo {d : Dev} (hc : d.cme.state = .idle) : d.flowsTo d.cmeOnce := by
  unfold Dev.cmeOnce
  split
  · exact d.flowsTo_rfl
  · next b rest hq =>
    split
    · next p e hg =>
      obtain ⟨-, -, -, -, -, hstb, hcme, -⟩ := Dev.givePage_frame hg
      exact (Dev.givePage_flowsTo hg).trans (Dev.takeHead_flowsTo (hstb ▸ hq) (hcme ▸ hc) p 0)
    · exact d.cutDiscard_flowsTo b.slot .storeFull

theorem Dev.cmeTest_flowsTo (d : Dev) : d.flowsTo d.cmeTest := by
  suffices ∀ n (d : Dev), d.flowsTo (d.cmeLoop n) from this _ d
  intro n
  induction n with
  | zero => exact fun d => d.flowsTo_rfl
  | succ n ih =>
    intro d
    unfold Dev.cmeLoop
    split
    · next h => exact (Dev.cmeOnce_flowsTo h.1).trans (ih _)
    · exact d.flowsTo_rfl

theorem Dev.endStream_flowsTo (d : Dev) (i : StreamIdx) (e : PendingEnd) : d.flowsTo (d.endStream i e) := by
  unfold Dev.endStream
  split
  · next b _ =>
    split
    · refine (d.leaveOpen_flowsTo i e).trans (Dev.flowsTo.trans (b := match e.reason with
        | some r => (d.leaveOpen i e).reportCut b r
        | none => d.leaveOpen i e) ?_ ((Dev.closeRun_flowsTo _).trans
          ((Dev.cmeTest_flowsTo _).trans (Dev.tryRelease_flowsTo _ i))))
      split
      · exact Dev.reportCut_flowsTo _ _ _
      · exact Dev.flowsTo_rfl _
    · exact d.flowsTo_rfl
  · exact d.flowsTo_rfl

theorem Dev.endStreams_flowsTo (d : Dev) (p : StreamBody → Bool) (e : PendingEnd) : d.flowsTo (d.endStreams p e) :=
  Dev.flowsTo_foldl _ (fun d i => d.endStream_flowsTo i e) _ d

/-! ### Completions of CME's programs -/

theorem Dev.cmePage_flowsTo (d : Dev) (e : PageEntry) : d.flowsTo (d.cmePage e) := by
  unfold Dev.cmePage
  split
  · exact d.setPlm_flowsTo _
  · exact d.flowsTo_rfl

theorem Dev.cmePage_cme (d : Dev) (e : PageEntry) : (d.cmePage e).cme = d.cme := by
  unfold Dev.cmePage
  split <;> rfl

/-- What follows CME's rest: the release of a slot and the next block (R47, R71). -/
def Dev.afterRest (d : Dev) (slot : Option StreamIdx) : Dev :=
  (match slot with
    | some i => d.tryRelease i
    | none => d).cmeTest

theorem Dev.cmeFree_eq (d : Dev) (slot : Option StreamIdx) :
    d.cmeFree slot = (d.setCme fun _ => Cme.rest).afterRest slot := rfl

theorem Dev.afterRest_flowsTo (d : Dev) (slot : Option StreamIdx) : d.flowsTo (d.afterRest slot) := by
  cases slot with
  | none => exact d.cmeTest_flowsTo
  | some i => exact (d.tryRelease_flowsTo i).trans (Dev.cmeTest_flowsTo _)

theorem Dev.cmeFree_flowsTo {d : Dev} (h : d.cme.block = none) (slot : Option StreamIdx) :
    d.flowsTo (d.cmeFree slot) := by
  rw [Dev.cmeFree_eq]
  exact (d.cmeRest_flowsTo h).trans (Dev.afterRest_flowsTo _ slot)

theorem Dev.commitOk_flowsTo (d : Dev) : d.flowsTo d.commitOk := by
  unfold Dev.commitOk
  split
  · next b p hb _ =>
    dsimp only
    rw [Dev.cmeFree_eq]
    refine (d.setPlm_flowsTo fun m => (m.setLive p b).usedUpTest).trans
      ((Dev.modBody_flowsTo _ b.slot (fun x => { x with
        committed := x.committed + b.data.length, pages := x.pages + 1, queued := x.queued - 1 }) fun _ _ => rfl).trans
      ((Dev.syncRecord_flowsTo _ b.slot).trans ?_))
    refine Dev.flowsTo.trans ?_ (Dev.afterRest_flowsTo _ _)
    exact Dev.freeUnderProgram_flowsTo (by simpa using hb) (fun _ => Cme.rest) rfl
  · next h =>
    rw [Dev.cmeFree_eq]
    refine Dev.flowsTo.trans ?_ (Dev.afterRest_flowsTo _ _)
    cases hb : d.cme.block with
    | none => exact d.cmeRest_flowsTo hb
    | some b =>
      cases hp : d.cme.page with
      | none => exact d.cmeRest_of_no_page_flowsTo hp
      | some p => exact (h b p hb hp).elim

theorem Dev.askVoid_flowsTo (d : Dev) : d.flowsTo d.askVoid := by
  unfold Dev.askVoid
  split
  · next p hp =>
    refine (d.setCme_flowsTo (fun c => { c with state := .voidWait, retry := 1 }) rfl fun h => ?_).trans
      (Dev.place_flowsTo _ _ _)
    rcases h with h | h
    · cases h
    · exact .inr (.inl h)
  · exact d.flowsTo_rfl

theorem Dev.commitFail_flowsTo (d : Dev) : d.flowsTo d.commitFail := by
  have drops : ∀ e : Dev, e.flowsTo (e.setPlm Plm.usedUpTest).dropUnderProgram := fun e =>
    (e.setPlm_flowsTo _).trans (Dev.dropUnderProgram_flowsTo _)
  unfold Dev.commitFail
  refine (d.cmePage_flowsTo .torn).trans ?_
  dsimp only
  split
  · exact (drops _).trans (Dev.cmeFree_flowsTo (Dev.dropUnderProgram_block _) _)
  · split
    · exact Dev.askVoid_flowsTo _
    · have waits := Dev.setCme_flowsTo (d.cmePage .torn) (fun c => { c with state := .voidWait }) rfl fun h =>
        .inr (.inl (h.resolve_left nofun))
      refine Dev.flowsTo.trans ((waits.trans (Dev.dropUnderProgram_flowsTo _)).trans ?_) (Dev.askVoid_flowsTo _)
      split
      · exact Dev.cutDiscard_flowsTo _ _ _
      · exact Dev.flowsTo_rfl _

theorem Dev.voidDone_flowsTo (d : Dev) (ok : Bool) : d.flowsTo (d.voidDone ok) := by
  unfold Dev.voidDone
  refine (d.cmePage_flowsTo (if ok then .void else .torn)).trans ((Dev.setPlm_flowsTo _ Plm.usedUpTest).trans ?_)
  dsimp only
  generalize (d.cmePage _).setPlm Plm.usedUpTest = e
  split
  · next hb => exact Dev.cmeFree_flowsTo hb none
  · next b hb =>
    split
    · exact (Dev.dropUnderProgram_flowsTo _).trans (Dev.cmeFree_flowsTo (Dev.dropUnderProgram_block _) _)
    · split
      · next p e' hg =>
        obtain ⟨-, -, -, -, -, -, hcme, -⟩ := Dev.givePage_frame hg
        refine (Dev.givePage_flowsTo hg).trans ((Dev.setCme_flowsTo _ (fun _ => ⟨.waitGrant, some b, some p, 1, false⟩) ?_
          fun h => ?_).trans (Dev.place_flowsTo _ _ _))
        · rw [hcme]; exact hb.symm
        · rcases h with h | h <;> cases h
      · refine (Dev.dropUnderProgram_flowsTo _).trans ((Dev.cutDiscard_flowsTo _ _ _).trans (Dev.cmeFree_flowsTo ?_ none))
        simp [Dev.dropUnderProgram_block]

/-! ### The closing phase -/

theorem Dev.attnOff_flowsTo (d : Dev) : d.flowsTo d.attnOff := d.setIct_flowsTo _

theorem Dev.expireWindow_flowsTo (d : Dev) : d.flowsTo d.expireWindow :=
  (d.setIct_flowsTo _).trans (Dev.attnOff_flowsTo _)

theorem Dev.cancelCapture_flowsTo (d : Dev) : d.flowsTo d.cancelCapture := d.deadlines_flowsTo _

theorem Dev.cmeClosing_flowsTo (d : Dev) : d.flowsTo d.cmeClosing := by
  have rests : ∀ e : Dev, e.flowsTo (e.dropUnderProgram.setCme fun _ => Cme.rest) := fun e =>
    e.dropUnderProgram_flowsTo.trans (Dev.cmeRest_flowsTo _ e.dropUnderProgram_block)
  unfold Dev.cmeClosing
  split
  · refine (d.withdraw_flowsTo .commit).trans (Dev.flowsTo.trans ?_ (rests _))
    split
    · exact Dev.setPlm_flowsTo _ _
    · exact Dev.flowsTo_rfl _
  · exact (d.withdraw_flowsTo .voidMark).trans ((Dev.setPlm_flowsTo _ Plm.usedUpTest).trans (rests _))
  · exact d.setCme_flowsTo (fun c => { c with dropping := true }) rfl fun h => h.imp id .inl
  · exact d.setCme_flowsTo (fun c => { c with dropping := true }) rfl fun h => h.imp id .inl
  · exact d.flowsTo_rfl

theorem Dev.ictClosing_flowsTo (d : Dev) : d.flowsTo d.ictClosing := by
  unfold Dev.ictClosing
  split
  · exact d.cancelCapture_flowsTo.trans (Dev.expireWindow_flowsTo _)
  · exact d.flowsTo_rfl

theorem Dev.cutClosing_flowsTo (d : Dev) (i : StreamIdx) : d.flowsTo (d.cutClosing i) := by
  unfold Dev.cutClosing
  split
  · exact (d.modBody_flowsTo i (fun b => { b with ending := some (.truncated .power) }) fun _ _ => rfl).trans
      (Dev.reportCut_flowsTo _ _ _)
  · exact d.flowsTo_rfl

theorem Dev.cpmClosing_flowsTo (d : Dev) : d.flowsTo d.cpmClosing :=
  (Dev.flowsTo_foldl _ Dev.cutClosing_flowsTo _ d).trans
    ((Dev.flowsTo_foldl _ Dev.discardBlocks_flowsTo _ _).trans (Dev.flowsTo_foldl _ Dev.releaseKeeping_flowsTo _ _))

theorem Dev.beginClosing_flowsTo (d : Dev) (c : ClosingCause) : d.flowsTo (d.beginClosing c) :=
  (d.setHum_flowsTo _).trans ((Dev.deadlines_flowsTo _ _).trans ((Dev.cmeClosing_flowsTo _).trans
    ((Dev.ictClosing_flowsTo _).trans ((Dev.cpmClosing_flowsTo _).trans ((Dev.closeRun_flowsTo _).trans
      (Dev.markedEvent_flowsTo _ _ _ _))))))

theorem Dev.reserveTest_flowsTo (d : Dev) : d.flowsTo d.reserveTest := by
  unfold Dev.reserveTest
  split
  · exact d.beginClosing_flowsTo _
  · exact d.flowsTo_rfl

theorem Dev.exhaustTest_flowsTo (d : Dev) : d.flowsTo d.exhaustTest := by
  unfold Dev.exhaustTest
  split
  · exact d.setHum_flowsTo _
  · exact d.flowsTo_rfl

end Sys2Proof.Machine
end

section
/-! PROOFS. `Dev.flowsTo` of the requests, the incidents, the supply, the reads, the saves and the erases. -/

namespace Sys2Proof.Machine

/-! ### Streams -/

theorem firstFin_spec {n : Nat} {p : Fin n → Bool} {i : Fin n} (h : firstFin n p = some i) : p i = true :=
  List.find?_some h

/-- A slot is filled that was FREE, with a stream that has no fill block. -/
theorem Dev.fillSlot_flowsTo {d : Dev} {i : StreamIdx} (h : d.body i = none) {x : StreamBody} (hx : x.fill = none)
    (gen : Byte) : d.flowsTo { d with cpm := { d.cpm with slots := put d.cpm.slots i ⟨gen, some x⟩ } } := by
  refine Dev.flowsTo_of_blocks rfl rfl rfl fun p =>
    Dev.blocksSound_of_same (fun j => ?_) rfl rfl (fun _ h _ => h) id
  by_cases hij : i = j
  · subst hij
    have old : d.fillOf i = none := by rw [Dev.fillOf, h]; rfl
    rw [old, Dev.fillOf, Dev.body, get_put, if_pos rfl]
    exact hx
  · exact Dev.fillOf_of_body (congrArg StreamSlot.body (get_put_ne d.cpm.slots hij _))

theorem Dev.takeStream_flowsTo {d : Dev} {i : StreamIdx} (h : d.freeStreamSlot = some i) (r : Incident) (p : Port)
    (cls : Nat) (label : BitVec 64) (declared : Option Nat) : d.flowsTo (d.takeStream i r p cls label declared) := by
  have free : d.body i = none := by simpa using firstFin_spec h
  refine .trans (.trans (.trans (.trans ?_ (Dev.queueEntry_flowsTo _ _)) (Dev.modIncident_flowsTo _ _ _))
    (Dev.setIct_flowsTo _ _)) (Dev.reply_flowsTo _ _ _ _ _)
  exact Dev.fillSlot_flowsTo free rfl _

/-! ### Staging -/

/-- A stream without a fill block takes a block for some data (R31). -/
theorem Dev.takeBlock_flowsTo {d : Dev} {i : StreamIdx} (hf : d.fillOf i = none) {data : List Byte}
    (hl : data.length ≤ 1024) : d.flowsTo (d.takeBlock i data) := by
  unfold Dev.takeBlock
  split
  · next id rest x hfree hx =>
    have filled : ∀ j, (((d.setStb fun s => { s with free := rest }).modBody i fun x' =>
        { x' with
          fill := some ⟨id, i, (d.cpm.slots[i]).gen, x.incident, x.stream, x.cls, x.nextSeq, data⟩
          nextSeq := x.nextSeq + 1 }).fillOf j)
        = if i = j then some ⟨id, i, (d.cpm.slots[i]).gen, x.incident, x.stream, x.cls, x.nextSeq, data⟩
          else d.fillOf j := fun j => by
      rw [Dev.fillOf_modBody]
      split
      · next hij =>
        subst hij
        rw [show (d.setStb _).body i = some x from hx]
        rfl
      · rfl
    refine Dev.flowsTo_of_blocks rfl rfl rfl fun p => Dev.blocksSound_of_move i (fun j hj => ?_) (fun hfit => ?_)
      (fun _ _ _ n => ?_) (fun _ hp => hp.2)
    · rw [filled, if_neg (Ne.symm hj)]
    · have fit := (Dev.blocksFit_iff d).1 hfit
      refine ⟨fun f h => ?_, fit.2⟩
      rw [filled, if_pos rfl] at h
      cases h
      exact hl
    · rw [filled, if_pos rfl, hf]
      show rest.count n + _ + (d.stb.queue.map (·.id)).count n + (blockId d.cme.block).count n = _
      rw [hfree]
      simp only [blockId, Option.map_some, Option.map_none, Option.toList_some, Option.toList_none, List.count_nil,
        List.count_cons]
      omega
  · exact d.flowsTo_rfl

theorem Dev.joinIfFull_flowsTo (d : Dev) (i : StreamIdx) : d.flowsTo (d.joinIfFull i) := by
  unfold Dev.joinIfFull
  split
  · exact d.queueFill_flowsTo i
  · exact d.flowsTo_rfl

@[simp] theorem Dev.takeBlock_frame (d : Dev) (i : StreamIdx) (data : List Byte) :
    (d.takeBlock i data).hiu = d.hiu ∧ (d.takeBlock i data).ntu = d.ntu := by
  unfold Dev.takeBlock
  split <;> exact ⟨rfl, rfl⟩

@[simp] theorem Dev.joinIfFull_frame (d : Dev) (i : StreamIdx) :
    (d.joinIfFull i).hiu = d.hiu ∧ (d.joinIfFull i).ntu = d.ntu := by
  unfold Dev.joinIfFull
  split <;> simp

/-- The fill block of a slot is rewritten. -/
theorem Dev.fillOf_setFill {d : Dev} {i : StreamIdx} {f : Block} (hf : d.fillOf i = some f) (g : Block) (j : StreamIdx) :
    (d.modBody i fun x => { x with fill := some g }).fillOf j = if i = j then some g else d.fillOf j := by
  rw [Dev.fillOf_modBody]
  split
  · next hij =>
    subst hij
    obtain ⟨x, hx, -⟩ := Option.bind_eq_some_iff.1 hf
    rw [hx]
    rfl
  · rfl

/-- The fill block of a slot takes more data, within its size. -/
theorem Dev.growFill_flowsTo {d : Dev} {i : StreamIdx} {f g : Block} (hf : d.fillOf i = some f) (hid : g.id = f.id)
    (hl : d.blocksFit → g.data.length ≤ 1024) : d.flowsTo (d.modBody i fun x => { x with fill := some g }) := by
  have filled := Dev.fillOf_setFill hf g
  refine Dev.flowsTo_of_blocks rfl rfl rfl fun p => Dev.blocksSound_of_move i (fun j hj => ?_) (fun hfit => ?_)
    (fun _ _ _ n => ?_) (fun _ hp => hp.2)
  · rw [filled, if_neg (Ne.symm hj)]
  · have fit := (Dev.blocksFit_iff d).1 hfit
    refine ⟨fun f h => ?_, fit.2⟩
    rw [filled, if_pos rfl] at h
    cases h
    exact hl hfit
  · rw [filled, if_pos rfl, hf]
    simp only [blockId, Option.map_some, hid]
    rfl

theorem Dev.fillOf_joinIfFull {d : Dev} {i : StreamIdx} {f : Block} (hf : d.fillOf i = some f)
    (hl : f.data.length = 1024) : (d.joinIfFull i).fillOf i = none := by
  unfold Dev.joinIfFull
  rw [show (d.body i).bind (·.fill) = some f from hf, if_pos (by simpa using hl), Dev.fillOf_queueFill hf, if_pos rfl]

theorem Dev.writeBytes_flowsTo (d : Dev) (i : StreamIdx) {data : List Byte} (hl : data.length ≤ 1024) :
    d.flowsTo (d.writeBytes i data) := by
  unfold Dev.writeBytes
  split
  · next hf => exact (Dev.takeBlock_flowsTo hf hl).trans (Dev.joinIfFull_flowsTo _ i)
  · next f hf =>
    have grows := Dev.growFill_flowsTo (g := { f with data := f.data ++ data.take (1024 - f.data.length) }) hf rfl
      fun hfit => by
        have fit := ((Dev.blocksFit_iff d).1 hfit).1 i f hf
        simp only [List.length_append, List.length_take]
        omega
    have joins := grows.trans (Dev.joinIfFull_flowsTo _ i)
    dsimp only
    split
    · next hroom =>
      by_cases hfit : f.data.length ≤ 1024
      · have full : (f.data ++ data.take (1024 - f.data.length)).length = 1024 := by
          simp only [Config.blockSize] at hroom
          simp only [List.length_append, List.length_take]
          omega
        refine joins.trans (Dev.takeBlock_flowsTo (Dev.fillOf_joinIfFull (f := { f with
          data := f.data ++ data.take (1024 - f.data.length) }) ((Dev.fillOf_setFill hf _ i).trans (if_pos rfl)) full) ?_)
        rw [List.length_drop]
        omega
      · exact Dev.flowsTo_of_blocks (by simp) (by simp) (by simp) fun p h =>
          absurd (((Dev.blocksFit_iff d).1 h.1).1 i f hf) hfit
    · exact joins

/-! ### Incidents -/

theorem Dev.setCursor_flowsTo (d : Dev) (p : Port) (c : Cursor) : d.flowsTo (d.setCursor p c) := d.setRtu_flowsTo _

theorem Dev.setJob_flowsTo (d : Dev) (p : Port) (j : Option ReadJob) : d.flowsTo (d.setJob p j) := d.setRtu_flowsTo _

theorem Dev.dropRead_flowsTo (d : Dev) (p : Port) : d.flowsTo (d.dropRead p) :=
  (d.withdraw_flowsTo _).trans (Dev.setJob_flowsTo _ _ _)

theorem Dev.goneFor_flowsTo (d : Dev) (n : Nat) (p : Port) : d.flowsTo (d.goneFor n p) := by
  unfold Dev.goneFor
  dsimp only
  refine (d.setCursor_flowsTo p ((d.cursor p).markGone n)).trans ?_
  split
  · split
    · exact (Dev.dropRead_flowsTo _ p).trans (Dev.reply_flowsTo _ _ _ _ _)
    · exact Dev.setJob_flowsTo _ _ _
  · exact Dev.flowsTo_rfl _

theorem Dev.releaseIncident_flowsTo (d : Dev) (s : DirSlot) (n : Nat) (source : Source) :
    d.flowsTo (d.releaseIncident s n source) :=
  (d.queueEntry_flowsTo _).trans ((Dev.setDrm_flowsTo _ _).trans ((Dev.showInd_flowsTo _).trans
    ((Dev.setPlm_flowsTo _ _).trans ((Dev.unpin_flowsTo _ n).trans
      ((Dev.flowsTo_foldl _ (fun d p => d.goneFor_flowsTo n p) allPorts _).trans (Dev.event_flowsTo _ _ _ _))))))

theorem Dev.triggerEvent_flowsTo (d : Dev) (t : TriggerRecord) (n : Nat) (x : Disposition) :
    d.flowsTo (d.triggerEvent t n x).dev := d.markedEvent_flowsTo _ _ _

theorem Dev.answer_flowsTo (d : Dev) (p : Option Port) (x : Disposition) (n : Nat) : d.flowsTo (d.answer p x n) :=
  d.replyTo_flowsTo _ _ _ _

theorem Dev.refuseTrigger_flowsTo (d : Dev) (t : TriggerRecord) (p : Option Port) : d.flowsTo (d.refuseTrigger t p) := by
  unfold Dev.refuseTrigger
  refine (d.triggerEvent_flowsTo t 0 .refused).trans (Dev.flowsTo.trans ?_ (Dev.answer_flowsTo _ _ _ _))
  split
  · exact Dev.flowsTo_rfl _
  · exact Dev.raise_flowsTo _ _ _

theorem Dev.openIncident_flowsTo (d : Dev) (s : DirSlot) (t : TriggerRecord) (p : Option Port) :
    d.flowsTo (d.openIncident s t p) :=
  (d.triggerEvent_flowsTo t _ .opened).trans ((Dev.pinWindow_flowsTo _ _ _).trans ((Dev.queueEntry_flowsTo _ _).trans
    ((Dev.setDrm_flowsTo _ _).trans ((Dev.showInd_flowsTo _).trans ((Dev.setIct_flowsTo _ _).trans
      ((Dev.deadlines_flowsTo _ _).trans ((Dev.raise_flowsTo _ _ _).trans (Dev.answer_flowsTo _ _ _ _))))))))

theorem Dev.openBy_flowsTo (d : Dev) (w : OpeningWay) (t : TriggerRecord) (p : Option Port) :
    d.flowsTo (d.openBy w t p) := by
  cases w with
  | slot s => exact d.openIncident_flowsTo s t p
  | roll s n => exact (d.releaseIncident_flowsTo s n .internal).trans (Dev.openIncident_flowsTo _ s t p)
  | refused => exact d.refuseTrigger_flowsTo t p

theorem Dev.addSecondary_flowsTo (d : Dev) (n : Nat) (c : Cause) (k : Tick) : d.flowsTo (d.addSecondary n c k) :=
  (d.queueEntry_flowsTo _).trans (Dev.modIncident_flowsTo _ _ _)

theorem Dev.secondaryOf_flowsTo (d : Dev) (number n : Nat) (t : TriggerRecord) (p : Option Port) :
    d.flowsTo (d.secondaryOf number n t p) := by
  unfold Dev.secondaryOf
  refine (d.triggerEvent_flowsTo t number .secondary).trans (Dev.flowsTo.trans ?_ (Dev.answer_flowsTo _ _ _ _))
  split
  · split
    · exact Dev.addSecondary_flowsTo _ _ _ _
    · exact Dev.addWaiter_flowsTo _ _
  · exact Dev.modIncident_flowsTo _ _ _

theorem Dev.takeTrigger_flowsTo (d : Dev) (t : TriggerRecord) (p : Option Port) : d.flowsTo (d.takeTrigger t p) := by
  unfold Dev.takeTrigger
  split
  · exact d.refuseTrigger_flowsTo t p
  · split
    · exact d.secondaryOf_flowsTo _ _ t p
    · exact d.setIct_flowsTo _
    · dsimp only
      split
      · exact d.openBy_flowsTo _ t p
      · exact (d.setIct_flowsTo _).trans (Dev.addWaiter_flowsTo _ _)

theorem Dev.joinedSecondary_flowsTo (number : Nat) (l : List Joined) (d : Dev) (n : Nat) :
    d.flowsTo (Dev.joinedSecondary number d l n) := by
  induction l generalizing d n with
  | nil => exact d.flowsTo_rfl
  | cons j l ih => exact (d.secondaryOf_flowsTo _ _ _ _).trans (ih _ _)

theorem Dev.takeTriggers_flowsTo (l : List Joined) (d : Dev) :
    d.flowsTo (l.foldl (fun d j => d.takeTrigger j.trigger j.port) d) :=
  Dev.flowsTo_foldl (fun d (j : Joined) => d.takeTrigger j.trigger j.port)
    (fun d j => d.takeTrigger_flowsTo j.trigger j.port) l d

theorem Dev.serveOpening_flowsTo (d : Dev) (o : Opening) : d.flowsTo (d.serveOpening o) := by
  unfold Dev.serveOpening
  refine (d.setIct_flowsTo fun c => { c with opening := none }).trans ?_
  dsimp only
  generalize d.setIct _ = e
  generalize (if e.arc.storeFailed = true then OpeningWay.refused else e.openingWay) = w
  split
  · exact (e.refuseTrigger_flowsTo o.trigger o.port).trans (Dev.takeTriggers_flowsTo _ _)
  · exact (e.openBy_flowsTo _ o.trigger o.port).trans (Dev.joinedSecondary_flowsTo _ o.joined _ 0)

theorem Dev.emptyLatches_flowsTo (n : Nat) (d : Dev) : d.flowsTo (Dev.emptyLatches n d) := by
  induction n generalizing d with
  | zero => exact d.flowsTo_rfl
  | succ n ih =>
    unfold Dev.emptyLatches
    split
    · next i t _ =>
      refine Dev.flowsTo.trans (Dev.flowsTo.trans ?_ (Dev.takeTrigger_flowsTo _ t none)) (ih _)
      exact d.setTru_flowsTo fun x => { x with latches := put x.latches i none }
    · exact d.flowsTo_rfl

/-! ### The supply -/

theorem Dev.withdrawRead_flowsTo (d : Dev) (p : Port) : d.flowsTo (d.withdrawRead p) := by
  unfold Dev.withdrawRead
  split
  · split
    · exact (d.dropRead_flowsTo p).trans ((Dev.setCursor_flowsTo _ _ _).trans (Dev.reply_flowsTo _ _ _ _ _))
    · exact d.flowsTo_rfl
  · exact d.flowsTo_rfl

theorem Dev.enterHoldup_flowsTo (d : Dev) : d.flowsTo d.enterHoldup := by
  unfold Dev.enterHoldup
  dsimp only
  refine .trans (.trans ?_ (Dev.reserveTest_flowsTo _)) (Dev.exhaustTest_flowsTo _)
  have warned : ∀ c : Dev, d.flowsTo c → ∀ t : TriggerRecord,
      d.flowsTo (if c.sst.working.powerTrigger = 1 then c.takeTrigger t none else c) :=
    fun c h t => by
      split
      · exact h.trans (c.takeTrigger_flowsTo t none)
      · exact h
  refine warned _ (.trans (.trans (.trans (.trans (.trans ?_ (Dev.setHum_flowsTo _ _)) (Dev.endStreams_flowsTo _ _ _))
    (Dev.flowsTo_foldl _ Dev.withdrawRead_flowsTo allPorts _)) (Dev.markedEvent_flowsTo _ _ _ _))
    (Dev.raise_flowsTo _ _ _)) _
  exact d.deadlines_flowsTo _

theorem Dev.rechargeNow_flowsTo (d : Dev) : d.flowsTo d.rechargeNow :=
  (d.deadlines_flowsTo _).trans (Dev.setHum_flowsTo _ _)

theorem Dev.armRecharge_flowsTo (d : Dev) : d.flowsTo d.armRecharge := by
  unfold Dev.armRecharge
  split
  · exact d.rechargeNow_flowsTo
  · exact d.deadlines_flowsTo _

theorem Dev.load_flowsTo (d : Dev) : d.flowsTo d.load := by
  have loaded : d.flowsTo { d with
      sst := { d.sst with working := d.sst.pending, loadDue := false }
      rqd := ⟨d.sst.pending.rights⟩ } := Dev.flowsTo_of_same rfl rfl rfl rfl rfl rfl rfl rfl rfl
  exact loaded.trans ((Dev.setHum_flowsTo _ _).trans ((Dev.poolLowTest_flowsTo _).trans (Dev.event_flowsTo _ _ _ _)))

theorem Dev.acceptMaint_flowsTo (d : Dev) (e : JEntry) : d.flowsTo (d.acceptMaint e) := by
  unfold Dev.acceptMaint
  refine (d.queueEntry_flowsTo e).trans ?_
  dsimp only
  split
  · exact Dev.setPlm_flowsTo _ _
  · exact Dev.setPlm_flowsTo _ _
  · exact Dev.flowsTo_rfl _

theorem Dev.maintEntry_flowsTo (d : Dev) (e : JEntry) : d.flowsTo (d.maintEntry e) := by
  unfold Dev.maintEntry
  split
  · exact d.acceptMaint_flowsTo e
  · exact d.setDrm_flowsTo _

theorem Dev.reclaimErase_flowsTo (d : Dev) (z : Zone) : d.flowsTo (d.reclaimErase z) :=
  (d.setPlm_flowsTo _).trans (Dev.place_flowsTo _ _ _)

theorem Dev.startReclaim_flowsTo (d : Dev) : d.flowsTo d.startReclaim := by
  unfold Dev.startReclaim
  split
  · exact (d.setPlm_flowsTo _).trans (Dev.reclaimErase_flowsTo _ _)
  · split
    · exact (d.setPlm_flowsTo _).trans (Dev.maintEntry_flowsTo _ _)
    · exact d.flowsTo_rfl

theorem Dev.reportDurable_flowsTo (d : Dev) (e : JEntry) : d.flowsTo (d.reportDurable e) := by
  unfold Dev.reportDurable
  split
  · split
    · exact d.reclaimErase_flowsTo _
    · exact d.flowsTo_rfl
  · split
    · exact d.setPlm_flowsTo _
    · exact d.flowsTo_rfl
  · exact d.flowsTo_rfl

theorem Dev.startCompaction_flowsTo (d : Dev) : d.flowsTo d.startCompaction := d.setDrm_flowsTo _

theorem Dev.returnTests_flowsTo (d : Dev) : d.flowsTo d.returnTests :=
  (d.flowsTo_onlyIf _ d.startCompaction_flowsTo).trans ((Dev.flowsTo_onlyIf _ _ (Dev.startReclaim_flowsTo _)).trans
    (Dev.flowsTo_onlyIf _ _ (Dev.load_flowsTo _)))

theorem Dev.powerReturn_flowsTo (d : Dev) : d.flowsTo d.powerReturn := by
  unfold Dev.powerReturn
  dsimp only
  have ends : ∀ c : Dev, d.flowsTo c → ∀ b : Bool, d.flowsTo (if b then Dev.emptyLatches 5 c.returnTests else c) :=
    fun c h b => by
      split
      · exact h.trans (c.returnTests_flowsTo.trans (Dev.emptyLatches_flowsTo _ _))
      · exact h
  refine ends _ (.trans (.trans (.trans (.trans ?_ (Dev.deadlines_flowsTo _ _)) (Dev.armRecharge_flowsTo _))
    (Dev.cmeTest_flowsTo _)) (Dev.event_flowsTo _ _ _ _)) _
  exact d.setHum_flowsTo _

/-! ### Lines -/

theorem Dev.powerEdge_flowsTo (d : Dev) (x : Bool) : d.flowsTo (d.powerEdge x) := by
  unfold Dev.powerEdge
  split
  · exact d.enterHoldup_flowsTo
  · exact d.powerReturn_flowsTo
  · exact d.powerReturn_flowsTo
  · exact d.flowsTo_rfl

theorem Dev.latch_flowsTo (d : Dev) (f : FaultLine) (t : TriggerRecord) : d.flowsTo (d.latch f t) := by
  unfold Dev.latch
  split
  · exact d.flowsTo_rfl
  · exact d.setTru_flowsTo fun x => { x with latches := put x.latches (FaultLine.idx f) (some t) }

theorem Dev.faultEdge_flowsTo (d : Dev) (f : FaultLine) (x : Bool) : d.flowsTo (d.faultEdge f x) := by
  unfold Dev.faultEdge
  split
  · dsimp only
    split
    · exact d.takeTrigger_flowsTo _ _
    · exact d.latch_flowsTo _ _
  · exact d.flowsTo_rfl

theorem Dev.setFilter_flowsTo (d : Dev) (l : Line) (x : Option Tick) : d.flowsTo (d.setFilter l x) :=
  (d.deadlines_flowsTo _).trans (Dev.setTru_flowsTo _ _)

theorem Dev.qualify_flowsTo (d : Dev) (l : Line) : d.flowsTo (d.qualify l) := by
  unfold Dev.qualify
  dsimp only
  have qualified := (d.setFilter_flowsTo l none).trans
    (Dev.setTru_flowsTo _ fun t => { t with qualified := put t.qualified (Line.idx l) d.tru.levels[Line.idx l] })
  refine qualified.trans ?_
  cases l with
  | fault f => exact Dev.faultEdge_flowsTo _ _ _
  | pwrwarn => exact Dev.powerEdge_flowsTo _ _

theorem Dev.filterLine_flowsTo (d : Dev) (l : Line) : d.flowsTo (d.filterLine l) := by
  unfold Dev.filterLine
  dsimp only
  split
  · split
    · exact d.qualify_flowsTo l
    · exact d.setFilter_flowsTo l _
  · split
    · exact d.setFilter_flowsTo l _
    · exact d.flowsTo_rfl

theorem Dev.setLevel_flowsTo (d : Dev) (l : Line) (x : Bool) : d.flowsTo (d.setLevel l x) := d.setTru_flowsTo _

end Sys2Proof.Machine
end

section
/-! PROOFS. `Dev.flowsTo` of the requests and of the events of the array. -/

namespace Sys2Proof.Machine

/-! ### Frames -/

/-- PIF's state alone changes. -/
theorem Dev.pif_flowsTo (d : Dev) (x : Pif) : d.flowsTo { d with pif := x } :=
  Dev.flowsTo_of_same rfl rfl rfl rfl rfl rfl rfl rfl rfl

/-- What changes PIF alone. -/
theorem Dev.flowsTo_of_pif {d e : Dev} (h : e = { d with pif := e.pif }) : d.flowsTo e := by
  rw [h]
  exact d.pif_flowsTo _

theorem Dev.setPort_flowsTo (d : Dev) (p : Port) (x : PortState) : d.flowsTo (d.setPort p x) := d.pif_flowsTo _

theorem Dev.hearFrame_flowsTo (d : Dev) (p : Port) (n : Nat) : d.flowsTo (d.hearFrame p n) := by
  unfold Dev.hearFrame
  split
  · exact d.setPort_flowsTo _ _
  · exact d.flowsTo_rfl

theorem Dev.deliver_flowsTo (d : Dev) (p : Port) (code : Byte) (r : Reply) : d.flowsTo (d.deliver p code r) :=
  Dev.flowsTo_of_pif (d.deliver_eq p code r)

theorem Dev.refuseFrame_flowsTo (d : Dev) (p : Port) : d.flowsTo (d.refuseFrame p) :=
  (d.pif_flowsTo _).trans (Dev.deliver_flowsTo _ _ _ _)

theorem Dev.takeFrame_flowsTo (d : Dev) (p : Port) (code tag : Byte) (b : List Byte) :
    d.flowsTo (d.takeFrame p code tag b) := by
  rw [Dev.takeFrame_eq]
  exact d.pif_flowsTo _

theorem Dev.arriveFrame_flowsTo (d : Dev) (p : Port) (code tag : Byte) (b : List Byte) {act : Dev → Dev}
    (h : ∀ e : Dev, e.flowsTo (act e)) : d.flowsTo (d.arriveFrame p code tag b act) := by
  unfold Dev.arriveFrame
  split
  · exact (d.hearFrame_flowsTo _ _).trans (Dev.setPort_flowsTo _ _ _)
  · split
    · exact (d.hearFrame_flowsTo _ _).trans (Dev.refuseFrame_flowsTo _ _)
    · exact (d.takeFrame_flowsTo _ _ _ _).trans (h _)

/-- A request that the tests of Table 10.3 pass is of a length that its rule allows. -/
theorem lengthOk_of_judge {d : Dev} {p : Port} {r : Request} {b : List Byte} (h : judge d p r b = none) :
    lengthOk r b.length = true := by
  unfold judge need at h
  by_contra hl
  rw [if_neg hl] at h
  exact nomatch h

theorem Dev.arrive_flowsTo (d : Dev) (p : Port) (r : Request) (tag : Byte) (b : List Byte) {serve : Dev → Dev}
    (h : lengthOk r b.length = true → ∀ e : Dev, e.flowsTo (serve e)) : d.flowsTo (d.arrive p r tag b serve) :=
  d.arriveFrame_flowsTo p r.code tag b fun e => by
    split
    · exact e.reply_flowsTo _ _ _ _
    · next hj => exact h (lengthOk_of_judge hj) e

/-! ### Capture -/

theorem Dev.openStreamNow_flowsTo (d : Dev) (p : Port) (cls : Nat) (label : BitVec 64) (declared : Option Nat) :
    d.flowsTo (d.openStreamNow p cls label declared) := by
  unfold Dev.openStreamNow
  split
  · exact d.reply_flowsTo _ _ _ _
  · split
    · next i r hi _ => exact (Dev.takeStream_flowsTo hi r p cls label declared).trans (Dev.settle_flowsTo _)
    · exact d.flowsTo_rfl

theorem Dev.serveOpenStream_flowsTo (p : Port) (b : List Byte) (d : Dev) : d.flowsTo (d.serveOpenStream p b) := by
  unfold Dev.serveOpenStream
  dsimp only
  split
  · exact d.addWaiter_flowsTo _
  · exact d.openStreamNow_flowsTo _ _ _ _

theorem Dev.acceptAppend_flowsTo (d : Dev) (p : Port) (i : StreamIdx) (final : Bool) {data : List Byte}
    (hl : data.length ≤ 1024) : d.flowsTo (d.acceptAppend p i final data) := by
  have written := ((d.writeBytes_flowsTo i hl).trans (Dev.modBody_flowsTo _ i
    (fun x => { x with accepted := x.accepted + data.length }) fun _ _ => rfl)).trans (Dev.syncRecord_flowsTo _ i)
  unfold Dev.acceptAppend
  refine written.trans ?_
  dsimp only
  split
  · next x _ =>
    split
    · have marked := fun e : Dev => e.modBody_flowsTo i
        (fun x => { x with short := x.declared.any (x.accepted < ·) }) fun _ _ => rfl
      exact ((marked _).trans (Dev.leaveOpen_flowsTo _ i .ended)).trans ((Dev.reply_flowsTo _ _ _ _ _).trans ((Dev.closeRun_flowsTo _).trans
        ((Dev.cmeTest_flowsTo _).trans ((Dev.tryRelease_flowsTo _ i).trans (Dev.settle_flowsTo _)))))
    · exact (Dev.reply_flowsTo _ _ _ _ _).trans ((Dev.cmeTest_flowsTo _).trans (Dev.settle_flowsTo _))
  · exact Dev.flowsTo_rfl _

theorem Dev.serveAppend_flowsTo (p : Port) {b : List Byte} (hl : lengthOk .append b.length = true) (d : Dev) :
    d.flowsTo (d.serveAppend p b) := by
  unfold Dev.serveAppend
  split
  · exact d.reply_flowsTo _ _ _ _
  · dsimp only
    split
    · exact d.reply_flowsTo _ _ _ _
    · refine d.acceptAppend_flowsTo _ _ _ ?_
      simp only [lengthOk, Config.maxData, Bool.and_eq_true, decide_eq_true_eq] at hl
      rw [List.length_drop]
      omega

theorem Dev.serveWithdraw_flowsTo (p : Port) (b : List Byte) (d : Dev) : d.flowsTo (d.serveWithdraw p b) := by
  unfold Dev.serveWithdraw
  split
  · exact d.reply_flowsTo _ _ _ _
  · exact (d.endStream_flowsTo _ _).trans ((Dev.reply_flowsTo _ _ _ _ _).trans (Dev.settle_flowsTo _))

/-! ### Events, triggers and time -/

theorem Dev.serveLogEvent_flowsTo (p : Port) (b : List Byte) (d : Dev) : d.flowsTo (d.serveLogEvent p b) := by
  unfold Dev.serveLogEvent
  dsimp only
  split <;> exact (d.offerSeq_flowsTo _ _ _ _).trans ((Dev.reply_flowsTo _ _ _ _ _).trans (Dev.settle_flowsTo _))

theorem Dev.serveDeclare_flowsTo (p : Port) (d : Dev) : d.flowsTo (d.serveDeclare p) :=
  (d.takeTrigger_flowsTo _ _).trans (Dev.settle_flowsTo _)

theorem Dev.serveLocate_flowsTo (p : Port) (b : List Byte) (d : Dev) : d.flowsTo (d.serveLocate p b) :=
  (d.deadlines_flowsTo _).trans ((Dev.reply_flowsTo _ _ _ _ _).trans (Dev.showInd_flowsTo _))

theorem Dev.serveSetWalltime_flowsTo (p : Port) (b : List Byte) (d : Dev) : d.flowsTo (d.serveSetWalltime p b) := by
  have timed : d.flowsTo { d with tmb := { d.tmb with wall := some ⟨BitVec.ofNat 64 (field b 0 8), d.tmb.tick, 0⟩ } } :=
    Dev.flowsTo_of_same rfl rfl rfl rfl rfl rfl rfl rfl rfl
  exact timed.trans ((Dev.event_flowsTo _ _ _ _).trans ((Dev.reply_flowsTo _ _ _ _ _).trans (Dev.settle_flowsTo _)))

/-! ### Reading -/

theorem Dev.readGate_flowsTo (d : Dev) (p : Port) {serve : Dev → Dev} (h : d.flowsTo (serve d)) :
    d.flowsTo (d.readGate p serve) := by
  unfold Dev.readGate
  split
  · exact d.reply_flowsTo _ _ _ _
  · exact h

theorem Dev.markRetrieved_flowsTo (d : Dev) (p : Port) (r : Incident) : d.flowsTo (d.markRetrieved p r) := by
  unfold Dev.markRetrieved
  split
  · exact (d.queueEntry_flowsTo _).trans ((Dev.modIncident_flowsTo _ _ _).trans (Dev.settle_flowsTo _))
  · exact d.flowsTo_rfl

theorem Dev.serveReadIncident_flowsTo (p : Port) (b : List Byte) (d : Dev) : d.flowsTo (d.serveReadIncident p b) :=
  d.readGate_flowsTo p <| by
    split
    · exact d.reply_flowsTo _ _ _ _
    · exact (d.markRetrieved_flowsTo _ _).trans (Dev.reply_flowsTo _ _ _ _ _)

theorem Dev.serveStream_flowsTo (d : Dev) (p : Port) (n : Nat) (r : StreamRec) (o : Nat) :
    d.flowsTo (d.serveStream p n r o) := by
  unfold Dev.serveStream
  dsimp only
  have moved := d.setCursor_flowsTo p (.stream n r.number o false)
  refine moved.trans ?_
  split
  · exact (Dev.setJob_flowsTo _ _ _).trans ((Dev.place_flowsTo _ _ _).trans (Dev.arcSettle_flowsTo _))
  · exact Dev.reply_flowsTo _ _ _ _ _

theorem Dev.readStreamAt_flowsTo (d : Dev) (p : Port) (n s o : Nat) : d.flowsTo (d.readStreamAt p n s o) := by
  unfold Dev.readStreamAt
  split
  · exact d.serveStream_flowsTo _ _ _ _
  · exact d.reply_flowsTo _ _ _ _

theorem Dev.placeHistory_flowsTo (d : Dev) (p : Port) (c : Cursor) (h : HistoryRead) :
    d.flowsTo (d.placeHistory p c h) := (d.setJob_flowsTo _ _).trans (Dev.place_flowsTo _ _ _)

theorem Dev.historyReply_flowsTo (d : Dev) (p : Port) (h : HistoryRead) (full : Bool) :
    d.flowsTo (d.historyReply p h full) :=
  (d.setJob_flowsTo p none).trans ((Dev.setCursor_flowsTo _ p (.history h.wanted)).trans (Dev.reply_flowsTo _ _ _ _ _))

theorem Dev.historyZone_flowsTo (d : Dev) (m : Memory) (p : Port) (c : Cursor) (h : HistoryRead) (n : Nat) :
    d.flowsTo (d.historyZone m p c h n) := by
  unfold Dev.historyZone
  split
  · exact d.placeHistory_flowsTo _ _ _
  · exact d.historyReply_flowsTo _ _ _

theorem Dev.historyNext_flowsTo (d : Dev) (m : Memory) (p : Port) (c : Cursor) (h : HistoryRead) (n : Nat) :
    d.flowsTo (d.historyNext m p c h n) := by
  unfold Dev.historyNext
  split
  · exact d.placeHistory_flowsTo _ _ _
  · exact d.historyZone_flowsTo _ _ _ _ _

theorem Dev.serveHistory_flowsTo (d : Dev) (m : Memory) (p : Port) (n : Nat) : d.flowsTo (d.serveHistory m p n) := by
  unfold Dev.serveHistory
  dsimp only
  refine (d.setCursor_flowsTo p (.history n)).trans ?_
  split
  · exact (Dev.placeHistory_flowsTo _ _ _ _).trans (Dev.arcSettle_flowsTo _)
  · exact Dev.historyReply_flowsTo _ _ _ _

theorem Dev.historyLoss_flowsTo (d : Dev) (m : Memory) (p : Port) (c : Cursor) (h : HistoryRead) :
    d.flowsTo (d.historyLoss m p c h) := d.historyZone_flowsTo _ _ _ _ _

theorem Dev.historyDone_flowsTo (d : Dev) (m : Memory) (p : Port) (c : Cursor) (h : HistoryRead) :
    d.flowsTo (d.historyDone m p c h) := by
  unfold Dev.historyDone
  split
  · dsimp only
    split
    · exact d.historyReply_flowsTo _ _ _
    · exact d.historyNext_flowsTo _ _ _ _ _
  · exact d.historyLoss_flowsTo _ _ _ _

theorem Dev.defectiveRead_flowsTo (d : Dev) (m : Memory) (z : Zone) (p : Port) : d.flowsTo (d.defectiveRead m z p) := by
  unfold Dev.defectiveRead
  split
  · split
    · exact (d.dropRead_flowsTo p).trans (Dev.historyLoss_flowsTo _ _ _ _ _)
    · exact d.flowsTo_rfl
  · exact d.flowsTo_rfl

theorem Dev.readOn_flowsTo (d : Dev) (m : Memory) (p : Port) : d.flowsTo (d.readOn m p) := by
  unfold Dev.readOn
  split
  · exact d.reply_flowsTo _ _ _ _
  · exact d.reply_flowsTo _ _ _ _
  · exact d.readStreamAt_flowsTo _ _ _ _
  · exact d.serveHistory_flowsTo _ _ _

theorem Dev.integrity_flowsTo (d : Dev) (n s bad : Nat) : d.flowsTo (d.integrity n s bad) := by
  unfold Dev.integrity
  split
  · exact d.flowsTo_rfl
  · exact (d.event_flowsTo _ _ _).trans (Dev.raise_flowsTo _ _ _)

theorem Dev.streamDone_flowsTo (d : Dev) (m : Memory) (p : Port) (n s o len : Nat) (more : Bool) (page : PageAddr) :
    d.flowsTo (d.streamDone m p n s o len more page) := by
  unfold Dev.streamDone
  dsimp only
  refine .trans (.trans (.trans ?_ (Dev.setCursor_flowsTo _ _ _)) (Dev.integrity_flowsTo _ _ _ _))
    (Dev.reply_flowsTo _ _ _ _ _)
  exact d.setJob_flowsTo p none

/-! ### Release, holds and settings -/

theorem Dev.serveRelease_flowsTo (p : Port) (b : List Byte) (d : Dev) : d.flowsTo (d.serveRelease p b) := by
  unfold Dev.serveRelease
  dsimp only
  split
  · split
    · exact d.reply_flowsTo _ _ _ _
    · split
      · exact d.reply_flowsTo _ _ _ _
      · split
        · exact d.reply_flowsTo _ _ _ _
        · exact (d.releaseIncident_flowsTo _ _ _).trans ((Dev.reply_flowsTo _ _ _ _ _).trans (Dev.settle_flowsTo _))
  · exact d.reply_flowsTo _ _ _ _

theorem Dev.serveHold_flowsTo (held : Bool) (p : Port) (b : List Byte) (d : Dev) : d.flowsTo (d.serveHold held p b) := by
  unfold Dev.serveHold
  dsimp only
  split
  · exact d.reply_flowsTo _ _ _ _
  · split
    · exact d.reply_flowsTo _ _ _ _
    · split
      · exact d.reply_flowsTo _ _ _ _
      · exact (d.queueEntry_flowsTo _).trans ((Dev.modIncident_flowsTo _ _ _).trans
          ((Dev.reply_flowsTo _ _ _ _ _).trans (Dev.settle_flowsTo _)))

theorem Dev.dropSaves_flowsTo (d : Dev) : d.flowsTo d.dropSaves :=
  (d.setSst_flowsTo _).trans (Dev.flowsTo_foldl (fun d (s : Save) => d.replyTo s.port .storeFailed 0 .empty)
    (fun d s => d.replyTo_flowsTo s.port _ _ _) _ _)

theorem Dev.sstServe_flowsTo (d : Dev) : d.flowsTo d.sstServe := by
  unfold Dev.sstServe
  split
  · exact d.flowsTo_rfl
  · split
    · exact d.flowsTo_rfl
    · split
      · exact (d.setSst_flowsTo _).trans (Dev.place_flowsTo _ _ _)
      · split
        · exact d.dropSaves_flowsTo
        · exact (d.setSst_flowsTo _).trans (Dev.place_flowsTo _ _ _)

theorem Dev.serveSaveSettings_flowsTo (p : Port) (d : Dev) : d.flowsTo (d.serveSaveSettings p) :=
  (d.setSst_flowsTo _).trans ((Dev.sstServe_flowsTo _).trans (Dev.arcSettle_flowsTo _))

theorem Dev.saveAnswered_flowsTo (d : Dev) (o : SaveOutcome) : d.flowsTo (d.saveAnswered o) := by
  unfold Dev.saveAnswered
  split
  · next s rest _ =>
    exact (d.setSst_flowsTo fun x => { x with saves := rest, busy := false }).trans
      ((Dev.replyTo_flowsTo _ s.port _ _ _).trans (Dev.sstServe_flowsTo _))
  · exact d.flowsTo_rfl

theorem Dev.saveDone_flowsTo (d : Dev) (ok : Bool) : d.flowsTo (d.saveDone ok) := by
  unfold Dev.saveDone
  dsimp only
  refine (d.setSst_flowsTo fun x => { x with savePos := d.sst.savePos + 1 }).trans ?_
  split
  · exact Dev.saveAnswered_flowsTo _ _
  · split
    · split
      · exact (Dev.setSst_flowsTo _ _).trans (Dev.sstServe_flowsTo _)
      · exact Dev.saveAnswered_flowsTo _ _
    · exact Dev.flowsTo_rfl _

end Sys2Proof.Machine
end

section
/-! PROOFS. `Dev.flowsTo` of grants, completions, defects, waiters and recovery; what every step keeps (R30, R122, R162). -/

namespace Sys2Proof.Machine

/-! ### Defects and erases -/

theorem Dev.arc_flowsTo (d : Dev) (x : Arc) : d.flowsTo { d with arc := x } :=
  Dev.flowsTo_of_same rfl rfl rfl rfl rfl rfl rfl rfl rfl

theorem Dev.enterStoreFailed_flowsTo (d : Dev) (n : Nat) : d.flowsTo (d.enterStoreFailed n) := by
  unfold Dev.enterStoreFailed
  split
  · exact d.flowsTo_rfl
  · dsimp only
    refine (d.arc_flowsTo { d.arc with storeFailed := true }).trans
      ((Dev.showInd_flowsTo _).trans ((Dev.raise_flowsTo _ .storeFailed n).trans ?_))
    split
    · exact (Dev.withdraw_flowsTo _ _).trans (Dev.dropSaves_flowsTo _)
    · exact Dev.flowsTo_rfl _

theorem Dev.defectiveReads_flowsTo (m : Memory) (z : Zone) (l : List Port) (d : Dev) :
    d.flowsTo (l.foldl (fun d p => d.defectiveRead m z p) d) :=
  Dev.flowsTo_foldl (fun d p => d.defectiveRead m z p) (fun d p => d.defectiveRead_flowsTo m z p) l d

theorem Dev.markDefect_flowsTo (d : Dev) (m : Memory) (z : Zone) : d.flowsTo (d.markDefect m z) := by
  unfold Dev.markDefect
  dsimp only
  refine .trans (.trans (.trans ?_ (Dev.maintEntry_flowsTo _ _)) (Dev.event_flowsTo _ _ _ _))
    (Dev.defectiveReads_flowsTo m z allPorts _)
  exact d.arc_flowsTo _

theorem Dev.defectTest_flowsTo (d : Dev) (z : Zone) : d.flowsTo (d.defectTest z) := by
  unfold Dev.defectTest
  split
  · exact d.enterStoreFailed_flowsTo _
  · exact d.flowsTo_rfl

theorem Dev.settingsErased_flowsTo (d : Dev) (ok : Bool) (m : Memory) (z : Zone) :
    d.flowsTo (d.settingsErased ok m z) := by
  unfold Dev.settingsErased
  split
  · exact (d.setSst_flowsTo _).trans (Dev.sstServe_flowsTo _)
  · exact (d.markDefect_flowsTo _ _).trans ((Dev.dropSaves_flowsTo _).trans (Dev.defectTest_flowsTo _ _))

theorem Dev.reclaimErased_flowsTo (d : Dev) (ok : Bool) (m : Memory) (z : Zone) :
    d.flowsTo (d.reclaimErased ok m z) := by
  unfold Dev.reclaimErased
  split
  · exact (d.setPlm_flowsTo _).trans (Dev.maintEntry_flowsTo _ _)
  · exact (d.markDefect_flowsTo _ _).trans ((Dev.setPlm_flowsTo _ _).trans (Dev.defectTest_flowsTo _ _))

theorem Dev.spareErased_flowsTo (d : Dev) (ok : Bool) (m : Memory) (z : Zone) : d.flowsTo (d.spareErased ok m z) := by
  unfold Dev.spareErased
  split
  · exact d.setDrm_flowsTo _
  · exact (d.markDefect_flowsTo _ _).trans ((Dev.setDrm_flowsTo _ _).trans (Dev.defectTest_flowsTo _ _))

/-! ### The halted flag where a test follows -/

/-- What an operation keeps or lets grow that may leave R122's flag to a test behind it. -/
structure Dev.flowsBut (d e : Dev) : Prop where
  notices : d.raisedTo e
  entries : d.hiu.unflushed <+: e.hiu.unflushed
  blocks : ∀ placed, d.blocksSound placed → e.blocksSound placed

theorem Dev.flowsTo.but {d e : Dev} (h : d.flowsTo e) : d.flowsBut e := ⟨h.notices, h.entries, h.blocks⟩

theorem Dev.flowsBut.trans {a b c : Dev} (h : a.flowsBut b) (g : b.flowsBut c) : a.flowsBut c :=
  ⟨Dev.raisedTo_trans h.notices g.notices, h.entries.trans g.entries, fun p => g.blocks p ∘ h.blocks p⟩

theorem Dev.flowsBut.flagged {d e : Dev} (h : d.flowsBut e) (hf : e.hiu.haltFlagged) : d.flowsTo e :=
  ⟨h.notices, h.entries, fun _ => hf, h.blocks⟩

/-- R122's test sets the flag where it is wanted. -/
theorem Dev.flowsBut.haltTest {d e : Dev} (h : d.flowsBut e) : d.flowsTo e.haltTest :=
  (h.trans e.haltTest_flowsTo.but).flagged e.haltTest_haltFlagged

theorem Dev.prepEnds_flowsBut (d : Dev) (x : RingState) : d.flowsBut (d.prepEnds x) := by
  unfold Dev.prepEnds
  split
  · exact ⟨d.setHiu_raisedTo _, List.prefix_rfl,
      (Dev.flowsTo_of_blocks (e := d.setHiu fun h => h) rfl rfl rfl fun _ => id).blocks⟩
  · exact d.flowsTo_rfl.but

theorem Dev.prepEnds_erased_flowsTo (d : Dev) : d.flowsTo (d.prepEnds .erased) := by
  refine ⟨(d.prepEnds_flowsBut _).notices, (d.prepEnds_flowsBut _).entries, fun h => ?_, (d.prepEnds_flowsBut _).blocks⟩
  unfold Dev.prepEnds
  split
  · refine h.mono id fun j hj => spare_modify _ _ j _ (fun hs => ?_) hj
    simp only [RingZone.spare, Bool.and_eq_true] at hs ⊢
    exact ⟨rfl, hs.2⟩
  · exact h

theorem Dev.ringErased_flowsTo (d : Dev) (ok : Bool) (m : Memory) (z : Zone) : d.flowsTo (d.ringErased ok m z) := by
  unfold Dev.ringErased
  split
  · exact d.prepEnds_erased_flowsTo.trans ((Dev.awaitTest_flowsTo _).trans (Dev.prepTest_flowsTo _))
  · refine Dev.flowsTo.trans (Dev.flowsBut.haltTest ?_) (Dev.prepTest_flowsTo _)
    exact (d.markDefect_flowsTo m z).but.trans ((Dev.prepEnds_flowsBut _ _).trans
      ((Dev.defectTest_flowsTo _ z).trans (Dev.awaitTest_flowsTo _)).but)

/-! ### Directory -/

theorem Dev.reportAll_flowsTo (d : Dev) (l : List JEntry) : d.flowsTo (d.reportAll l) :=
  Dev.flowsTo_foldl _ Dev.reportDurable_flowsTo l d

theorem Dev.journalWritten_flowsTo (d : Dev) (ok : Bool) : d.flowsTo (d.journalWritten ok) := by
  unfold Dev.journalWritten
  dsimp only
  refine (d.setDrm_flowsTo fun m => { m with writer := .idle, batch := 0 }).trans ?_
  split
  · exact (Dev.setDrm_flowsTo _ _).trans (Dev.reportAll_flowsTo _ _)
  · exact Dev.setDrm_flowsTo _ _

theorem Dev.eraseSpare_flowsTo (d : Dev) : d.flowsTo d.eraseSpare := by
  unfold Dev.eraseSpare
  split
  · exact d.flowsTo_rfl
  · exact d.place_flowsTo _ _

theorem Dev.dirtySpare_flowsTo (d : Dev) : d.flowsTo d.dirtySpare := (d.setDrm_flowsTo _).trans (Dev.eraseSpare_flowsTo _)

theorem Dev.imageWritten_flowsTo (d : Dev) (ok : Bool) : d.flowsTo (d.imageWritten ok) := by
  unfold Dev.imageWritten
  dsimp only
  refine (d.setDrm_flowsTo fun m => { m with writer := .idle }).trans ?_
  split
  · split
    · exact (Dev.setDrm_flowsTo _ _).trans ((Dev.reportAll_flowsTo _ _).trans (Dev.dirtySpare_flowsTo _))
    · exact Dev.setDrm_flowsTo _ _
  · exact (Dev.setDrm_flowsTo _ _).trans (Dev.dirtySpare_flowsTo _)

/-! ### Grants -/

theorem Dev.granted_flowsTo (d : Dev) (r : ArrReq) : d.flowsTo (d.granted r).2 := by
  have waits : ∀ s : CmeState, s ≠ .idle → d.flowsTo (d.setCme fun c => { c with state := s }) := fun s hs =>
    d.setCme_flowsTo _ rfl fun h => .inr (.inl (h.resolve_left hs))
  unfold Dev.granted
  split <;> dsimp only
  · exact d.setDrm_flowsTo _
  · exact d.setDrm_flowsTo _
  · exact waits _ nofun
  · exact waits _ nofun
  · exact Dev.flowsTo_of_same rfl rfl rfl rfl rfl rfl rfl rfl rfl
  · exact d.setJob_flowsTo _ _
  · exact d.setDrm_flowsTo _
  · exact d.setPlm_flowsTo _
  all_goals exact d.flowsTo_rfl

theorem Dev.grant_flowsTo (d : Dev) (r : ArrReq) : d.flowsTo (d.grant r) := by
  unfold Dev.grant
  dsimp only
  have taken := (d.arc_flowsTo { d.arc with waiting := d.arc.waiting.erase r }).trans (Dev.granted_flowsTo _ r)
  refine taken.trans ?_
  generalize (Dev.granted _ r).2 = e
  generalize (Dev.granted _ r).1 = job
  refine Dev.flowsTo.trans (b := match job with
    | .erase z => { e with arc := { e.arc with erase := some ⟨.running, z, r.who⟩, runTimer := 0 } }
    | job => { e with arc := { e.arc with op := some ⟨r.who, job⟩ } }) ?_ (Dev.flowsTo_onlyIf _ _ ?_)
  · split <;> exact e.arc_flowsTo _
  · exact (Dev.setHum_flowsTo _ _).trans ((Dev.reserveTest_flowsTo _).trans (Dev.exhaustTest_flowsTo _))

theorem Dev.grantNext_flowsTo (d : Dev) : d.flowsTo d.grantNext := by
  unfold Dev.grantNext
  split
  · exact d.grant_flowsTo _
  · exact d.flowsTo_rfl

/-! ### Reads -/

theorem Dev.opEnds_flowsTo (d : Dev) : d.flowsTo d.opEnds := d.arc_flowsTo _

theorem Dev.streamReadEnds_flowsTo (d : Dev) (m : Memory) : d.flowsTo (d.streamReadEnds m) := by
  unfold Dev.streamReadEnds
  split
  · split
    · split
      · exact d.opEnds_flowsTo.trans ((Dev.streamDone_flowsTo _ _ _ _ _ _ _ _ _).trans (Dev.settle_flowsTo _))
      · exact d.opEnds_flowsTo.trans (Dev.settle_flowsTo _)
    · exact d.flowsTo_rfl
  · exact d.flowsTo_rfl

theorem Dev.historyReadEnds_flowsTo (d : Dev) (m : Memory) : d.flowsTo (d.historyReadEnds m) := by
  unfold Dev.historyReadEnds
  split
  · split
    · split
      · exact d.opEnds_flowsTo.trans ((Dev.historyDone_flowsTo _ _ _ _ _).trans (Dev.settle_flowsTo _))
      · exact d.opEnds_flowsTo.trans (Dev.settle_flowsTo _)
    · exact d.flowsTo_rfl
  · exact d.flowsTo_rfl

/-! ### Waiters -/

theorem Dev.serveWaiter_flowsTo (d : Dev) (w : CapWaiter) : d.flowsTo (d.serveWaiter w) := by
  unfold Dev.serveWaiter
  split
  · split
    · exact d.serveOpening_flowsTo _
    · exact d.flowsTo_rfl
  · exact d.addSecondary_flowsTo _ _ _
  · exact d.openStreamNow_flowsTo _ _ _ _
  · split
    · next b hb =>
      split
      · next e he =>
        exact (Dev.releaseSlot_flowsTo hb (StreamBody.fill_of_drained he) e).trans (Dev.closeRun_flowsTo _)
      · exact d.flowsTo_rfl
    · exact d.flowsTo_rfl
  · split
    · exact (d.keep_flowsTo _ _).trans (Dev.closeRun_flowsTo _)
    · exact d.flowsTo_rfl
  · exact d.queueEntry_flowsTo _

theorem Dev.serveFront_flowsTo (d : Dev) : d.flowsTo d.serveFront := by
  unfold Dev.serveFront
  split
  · next w rest _ =>
    exact (d.setDrm_flowsTo fun m => { m with captureWaiters := rest }).trans
      ((Dev.serveWaiter_flowsTo _ w).trans (Dev.settle_flowsTo _))
  · exact d.flowsTo_rfl

theorem Dev.acceptFront_flowsTo (d : Dev) : d.flowsTo d.acceptFront := by
  unfold Dev.acceptFront
  split
  · next e rest _ =>
    split
    · exact (d.setDrm_flowsTo fun m => { m with maintWaiters := rest }).trans
        ((Dev.acceptMaint_flowsTo _ e).trans (Dev.settle_flowsTo _))
    · exact d.flowsTo_rfl
  · exact d.flowsTo_rfl

/-! ### Links and deadlines -/

theorem Dev.forgetPort_flowsTo (d : Dev) (p : Port) : d.flowsTo (d.forgetPort p) := by
  unfold Dev.forgetPort
  dsimp only
  refine .trans (.trans (.trans (.trans ?_ (Dev.setIct_flowsTo _ _)) (Dev.setSst_flowsTo _ _)) (Dev.dropRead_flowsTo _ p))
    (Dev.setCursor_flowsTo _ p _)
  exact d.setDrm_flowsTo _

theorem Dev.linkReset_flowsTo (d : Dev) (p : Port) : d.flowsTo (d.linkReset p) := by
  unfold Dev.linkReset
  dsimp only
  refine .trans (.trans (.trans ?_ (Dev.forgetPort_flowsTo _ p)) (Dev.endStreams_flowsTo _ _ _)) (Dev.settle_flowsTo _)
  split
  · exact (d.setPort_flowsTo _ _).trans (Dev.pif_flowsTo _ _)
  · exact d.setPort_flowsTo _ _

theorem Dev.fetch_flowsTo (d : Dev) (p : Port) (n : Nat) : d.flowsTo (d.fetch p n) := by
  unfold Dev.fetch
  split
  · exact d.flowsTo_rfl
  · dsimp only
    split <;> exact d.setPort_flowsTo _ _

theorem Dev.unknown_flowsTo (d : Dev) (p : Port) (code tag : Byte) (b : List Byte) : d.flowsTo (d.unknown p code tag b) := by
  unfold Dev.unknown
  split
  · exact d.flowsTo_rfl
  · exact d.arriveFrame_flowsTo _ _ _ _ fun e => e.reply_flowsTo _ _ _ _

theorem Dev.badFrame_flowsTo (d : Dev) (p : Port) (f : List Byte) : d.flowsTo (d.badFrame p f) := by
  unfold Dev.badFrame
  split
  · exact d.flowsTo_rfl
  · split
    · exact (d.hearFrame_flowsTo _ _).trans (Dev.setPort_flowsTo _ _ _)
    · exact (d.hearFrame_flowsTo _ _).trans (Dev.refuseFrame_flowsTo _ _)

theorem Dev.overlapAt_flowsTo (d : Dev) (p : Port) (f : List Byte) : d.flowsTo (d.overlapAt p f) := by
  unfold Dev.overlapAt
  split
  · exact (d.hearFrame_flowsTo _ _).trans (Dev.setPort_flowsTo _ _ _)
  · exact d.flowsTo_rfl

theorem Dev.limitExpires_flowsTo (d : Dev) : d.flowsTo d.limitExpires := by
  unfold Dev.limitExpires
  split
  · exact d.cancelCapture_flowsTo.trans ((Dev.expireWindow_flowsTo _).trans ((Dev.endStreams_flowsTo _ _ _).trans
      (Dev.closeRun_flowsTo _)))
  · exact d.cancelCapture_flowsTo

theorem Dev.flushExpires_flowsTo (d : Dev) : d.flowsTo d.flushExpires := by
  unfold Dev.flushExpires
  dsimp only
  refine (d.deadlines_flowsTo fun t => { t with flush := none }).trans ?_
  split
  · exact Dev.markTo_flowsTo _ _
  · exact Dev.flowsTo_rfl _

theorem Dev.windowExpires_flowsTo (d : Dev) : d.flowsTo d.windowExpires :=
  (d.deadlines_flowsTo _).trans ((Dev.flowsTo_onlyIf _ _ ((Dev.expireWindow_flowsTo _).trans
    (Dev.closeRun_flowsTo _))).trans (Dev.settle_flowsTo _))

theorem Dev.holdupExpires_flowsTo (d : Dev) : d.flowsTo d.holdupExpires :=
  (d.deadlines_flowsTo _).trans ((Dev.flowsTo_onlyIf _ _ (Dev.beginClosing_flowsTo _ _)).trans (Dev.settle_flowsTo _))

end Sys2Proof.Machine
end

section
/-! PROOFS. Recovery, and what every step keeps: the blocks' places, R122's flag and the notices' order (R30, R122,
R162). -/

namespace Sys2Proof.Machine

/-! ### Recovery -/

theorem pinKept_unflushed (h : Hiu) (r : Incident) : (pinKept h r).unflushed = h.unflushed := Hiu.pinAll_unflushed _ _ _ _

theorem Dev.handOver_flowsBut (d : Dev) (j : JournalScan) (p : PoolScan) (r : RingScan) :
    d.flowsBut (d.handOver j p r) := by
  have kept : ∀ (l : List Incident) (h : Hiu), (l.foldl pinKept h).unflushed = h.unflushed := fun l =>
    foldl_keeps Hiu.unflushed pinKept pinKept_unflushed l
  refine ⟨Dev.raisedTo_of_same rfl rfl, ?_, (Dev.flowsTo_of_blocks (e := d) rfl rfl rfl fun _ => id).blocks⟩
  unfold Dev.handOver
  dsimp only
  rw [kept]
  exact List.prefix_rfl

theorem Dev.recoveryEntry_flowsTo (d : Dev) (e : JEntry) : d.flowsTo (d.recoveryEntry e) := by
  unfold Dev.recoveryEntry
  split
  · exact d.queueEntry_flowsTo e
  · exact d.addWaiter_flowsTo _

theorem Dev.rcs_flowsTo (d : Dev) (x : Rcs) : d.flowsTo { d with rcs := x } :=
  Dev.flowsTo_of_same rfl rfl rfl rfl rfl rfl rfl rfl rfl

theorem Dev.raises_flowsTo (c : NoticeCause) (l : List Nat) (d : Dev) : d.flowsTo (l.foldl (fun d n => d.raise c n) d) := by
  induction l generalizing d with
  | nil => exact d.flowsTo_rfl
  | cons n l ih => exact (d.raise_flowsTo c n).trans (ih _)

/-- The entry to NORMAL: the tables handed over bring their own ring, which R122's test follows (R122, R156). -/
theorem Dev.enterNormal_flowsTo (d : Dev) (j : JournalScan) (p : PoolScan) (r : RingScan) :
    d.flowsTo (d.enterNormal j p r) := by
  unfold Dev.enterNormal
  extract_lets held interrupted d1 d2 d3 d4 d5 d6 d7 d8 d9 d10 d11 d12 d13 rcs d14 d15 d16
  have handed : d.flowsBut d1 := d.handOver_flowsBut j p r
  have normal : d1.flowsTo d2 := (d1.setHum_flowsTo _).trans (Dev.deadlines_flowsTo _ _)
  have failed : d2.flowsTo d3 := by
    unfold d3
    split
    · exact d2.enterStoreFailed_flowsTo _
    · exact d2.flowsTo_rfl
  have queued : d3.flowsTo d4 := Dev.flowsTo_foldl _ Dev.recoveryEntry_flowsTo _ d3
  have started : d4.flowsTo d5 := d4.event_flowsTo _ _ _
  have defaulted : d5.flowsTo d6 := d5.flowsTo_onlyIf _ (d5.event_flowsTo _ _ _)
  have done : d6.flowsTo d7 := d6.raise_flowsTo _ _
  have told : d7.flowsTo d8 := d7.flowsTo_onlyIf _ (d7.raise_flowsTo _ _)
  have shortened : d8.flowsTo d9 := d8.raises_flowsTo _ _
  have toTest : d1.flowsTo d9.poolLowTest := normal.trans (failed.trans (queued.trans (started.trans
    (defaulted.trans (done.trans (told.trans (shortened.trans d9.poolLowTest_flowsTo)))))))
  have tested : d.flowsTo d10 := (handed.trans toTest.but).haltTest.trans (Dev.showInd_flowsTo _)
  have prepared : d10.flowsTo d11 := d10.awaitTest_flowsTo.trans (Dev.prepTest_flowsTo _)
  have spared : d11.flowsTo d12 := d11.flowsTo_onlyIf _ d11.eraseSpare_flowsTo
  have reclaimed : d12.flowsTo d13 := d12.flowsTo_onlyIf _ d12.startReclaim_flowsTo
  have told' : d13.flowsTo d14 := d13.rcs_flowsTo _
  have emptied : d14.flowsTo d15 := d14.emptyLatches_flowsTo 5
  have reclaimed' : d15.flowsTo d16 := d15.flowsTo_onlyIf _ d15.startReclaim_flowsTo
  exact tested.trans (prepared.trans (spared.trans (reclaimed.trans (told'.trans (emptied.trans (reclaimed'.trans
    (d16.flowsTo_onlyIf _ d16.enterHoldup_flowsTo)))))))

theorem Dev.scanAt_flowsTo (d : Dev) (pos : ScanPos) : d.flowsTo (d.scanAt pos) := by
  unfold Dev.scanAt
  refine (d.rcs_flowsTo { d.rcs with pos }).trans ?_
  dsimp only
  split
  · exact Dev.place_flowsTo _ _ _
  · exact Dev.flowsTo_rfl _

theorem Dev.adoptSettings_flowsTo (d : Dev) (s : Settings) (pos : Nat) (b : Bool) : d.flowsTo (d.adoptSettings s pos b) :=
  Dev.flowsTo_of_same rfl rfl rfl rfl rfl rfl rfl rfl rfl

theorem Dev.settingsPhase_flowsTo (d : Dev) (m : Memory) : d.flowsTo (d.settingsPhase m) := by
  unfold Dev.settingsPhase
  split <;> exact d.adoptSettings_flowsTo _ _ _

theorem Dev.startRing_flowsTo (d : Dev) (m : Memory) (j : JournalScan) (p : PoolScan) : d.flowsTo (d.startRing m j p) := by
  unfold Dev.startRing
  split
  · exact d.scanAt_flowsTo _
  · exact d.enterNormal_flowsTo _ _ _

theorem Dev.startDecode_flowsTo (d : Dev) (m : Memory) (j : JournalScan) (l : List PageAddr) :
    d.flowsTo (d.startDecode m j l) := by
  cases l with
  | nil => exact (d.rcs_flowsTo { d.rcs with pool := some (poolPhase m j) }).trans (Dev.startRing_flowsTo _ m j _)
  | cons p l => exact d.scanAt_flowsTo (.poolDecode p l)

theorem Dev.poolNext_flowsTo (d : Dev) (m : Memory) (j : JournalScan) (p : PageAddr) : d.flowsTo (d.poolNext m j p) := by
  unfold Dev.poolNext
  split
  · exact d.scanAt_flowsTo _
  · exact d.startDecode_flowsTo _ _ _

theorem Dev.journalDone_flowsTo (d : Dev) (m : Memory) : d.flowsTo (d.journalDone m) := by
  unfold Dev.journalDone
  dsimp only
  refine (d.rcs_flowsTo { d.rcs with journal := some (journalPhase m) }).trans ?_
  split
  · exact Dev.adoptSettings_flowsTo _ _ _ _
  · exact Dev.flowsTo_rfl _

theorem Dev.startPool_flowsTo (d : Dev) (m : Memory) : d.flowsTo (d.startPool m) := by
  unfold Dev.startPool
  refine (d.journalDone_flowsTo m).trans ?_
  dsimp only
  split
  · exact Dev.scanAt_flowsTo _ _
  · exact Dev.startDecode_flowsTo _ _ _ _

theorem Dev.scanNext_flowsTo (d : Dev) (m : Memory) : d.flowsTo (d.scanNext m) := by
  unfold Dev.scanNext
  split
  · exact d.flowsTo_rfl
  · split
    · exact d.scanAt_flowsTo _
    · exact (d.settingsPhase_flowsTo m).trans (Dev.scanAt_flowsTo _ _)
  · split
    · exact d.scanAt_flowsTo _
    · exact d.startPool_flowsTo m
  · split
    · exact d.scanAt_flowsTo _
    · exact d.poolNext_flowsTo _ _ _
  · exact d.poolNext_flowsTo _ _ _
  · exact d.startDecode_flowsTo _ _ _
  · split
    · exact d.scanAt_flowsTo _
    · exact d.enterNormal_flowsTo _ _ _
  · exact d.flowsTo_rfl

/-! ### What every step keeps -/

/-- What an operation keeps of the part: the notices' order, R122's flag and the blocks' places. -/
structure Dev.keepsTo (d e : Dev) : Prop where
  notices : d.noticesOrdered → e.noticesOrdered
  halt : d.hiu.haltFlagged → e.hiu.haltFlagged
  blocks : ∀ placed, d.blocksSound placed → e.blocksSound placed

theorem Dev.flowsTo.keeps {d e : Dev} (h : d.flowsTo e) : d.keepsTo e := ⟨h.notices.ordered, h.halt, h.blocks⟩

theorem Dev.keepsTo.trans {a b c : Dev} (h : a.keepsTo b) (g : b.keepsTo c) : a.keepsTo c :=
  ⟨g.notices ∘ h.notices, g.halt ∘ h.halt, fun p => g.blocks p ∘ h.blocks p⟩

/-- The state after reset stands well, whatever the inputs. -/
theorem Dev.keepsTo_reset (d : Dev) (levels : Vector Bool 6) (a : BitVec 7) : d.keepsTo (Dev.reset levels a) := by
  obtain ⟨-, fit, placed, notices, halt⟩ := invariantsHoldAfterReset
  exact ⟨fun _ => notices, fun _ => halt, fun _ _ => ⟨fit, fun _ => placed⟩⟩

theorem Dev.startDev_keeps (d : Dev) (levels : Vector Bool 6) (a : BitVec 7) : d.keepsTo (startDev levels a) :=
  (d.keepsTo_reset levels a).trans
    ((Dev.scanAt_flowsTo _ _).trans (Dev.flowsTo_foldl _ Dev.filterLine_flowsTo allLines _)).keeps

theorem Dev.keepsTo_of_logsTo {d e : Dev} (h : d.logsTo e) (notices : d.raisedTo e)
    (halt : d.hiu.haltFlagged → e.hiu.haltFlagged) : d.keepsTo e := by
  obtain ⟨cpm, stb, cme⟩ : e.cpm = d.cpm ∧ e.stb = d.stb ∧ e.cme = d.cme := by
    unfold Dev.logsTo at h
    rw [h]
    exact ⟨rfl, rfl, rfl⟩
  exact ⟨notices.ordered, halt, fun p => Dev.blocksSound_of_same (Dev.fillOf_of_cpm cpm) stb (by rw [cme])
    (fun _ h _ => by rw [cme]; exact h) (by rw [cme]; exact id)⟩

theorem Dev.armFlush_raisedTo (d : Dev) : d.raisedTo d.armFlush := by
  unfold Dev.armFlush
  split <;> exact Dev.raisedTo_of_same rfl rfl

theorem Dev.flushEnds_raisedTo (d : Dev) : d.raisedTo d.flushEnds := by
  unfold Dev.flushEnds
  dsimp only
  split
  · exact d.setHiu_raisedTo _
  · exact Dev.raisedTo_trans (d.setHiu_raisedTo _) (Dev.armFlush_raisedTo _)

theorem Dev.flushOk_raisedTo (d : Dev) (t : WritePage) : d.raisedTo (d.flushOk t) := by
  unfold Dev.flushOk
  dsimp only
  refine Dev.raisedTo_trans ?_ (Dev.hiuMove_raisedTo _)
  have ends := fun e : Dev => Dev.raisedTo_trans (d.setHiu_raisedTo fun h => { h with
    staging := h.staging.drop h.flushing
    target := some { t with programmed := t.programmed + entriesSize (d.hiu.staging.take d.hiu.flushing) }
    ring := modify h.ring t.zone (·.flushed (d.hiu.staging.take d.hiu.flushing)) }) (Dev.flushEnds_raisedTo _)
  split
  · exact Dev.raisedTo_trans (ends d) (Dev.pageAdvance_raisedTo _)
  · exact ends d

theorem Dev.flushFail_raisedTo (d : Dev) : d.raisedTo d.flushFail :=
  Dev.raisedTo_trans (d.setHiu_raisedTo _) (Dev.raisedTo_trans (Dev.flushEnds_raisedTo _)
    (Dev.raisedTo_trans (Dev.pageAdvance_raisedTo _) (Dev.hiuMove_raisedTo _)))

/-- A flush leaves blocks and notices; the entries programmed leave the history (R117). -/
theorem Dev.flushDone_keeps (d : Dev) (ok : Bool) : d.keepsTo (d.flushDone ok) := by
  refine Dev.keepsTo_of_logsTo (d.flushDone_logsTo ok) ?_ fun h => ?_ <;> unfold Dev.flushDone <;> split
  · exact d.flushOk_raisedTo _
  · exact d.flushFail_raisedTo
  · exact Dev.flushOk_haltFlagged h _
  · exact Dev.flushFail_haltFlagged h

theorem ordered_tail {n : Notice} {l : List Notice} (h : ordered (n :: l)) : ordered l := (List.pairwise_cons.1 h).2

/-- A fetch of a notice takes the first of a set (R163). -/
theorem Dev.serveNextNotice_keeps (p : Port) (d : Dev) : d.keepsTo (d.serveNextNotice p) := by
  unfold Dev.serveNextNotice
  split
  · exact (d.reply_flowsTo _ _ _ _).keeps
  · next n rest hset =>
    have taken : d.keepsTo { d with ntu := d.ntu.withSet p rest } := by
      refine ⟨fun h => ?_, id, fun q => Dev.blocksSound_of_same (fun _ => rfl) rfl rfl (fun _ h _ => h) id⟩
      obtain ⟨management, service⟩ := (Dev.noticesOrdered_iff d).1 h
      rw [Dev.noticesOrdered_iff]
      cases p
      case mgt =>
        rw [show d.ntu.management = n :: rest from hset] at management
        exact ⟨ordered_tail management, service⟩
      case svc =>
        rw [show d.ntu.service = n :: rest from hset] at service
        exact ⟨management, ordered_tail service⟩
      all_goals exact nomatch hset
    exact taken.trans (Dev.reply_flowsTo _ _ _ _ _).keeps

theorem Dev.arrive_keeps (d : Dev) (p : Port) (r : Request) (tag : Byte) (b : List Byte) {serve : Dev → Dev}
    (h : ∀ e : Dev, e.keepsTo (serve e)) : d.keepsTo (d.arrive p r tag b serve) := by
  unfold Dev.arrive Dev.arriveFrame
  split
  · exact ((d.hearFrame_flowsTo _ _).trans (Dev.setPort_flowsTo _ _ _)).keeps
  · split
    · exact ((d.hearFrame_flowsTo _ _).trans (Dev.refuseFrame_flowsTo _ _)).keeps
    · refine (d.takeFrame_flowsTo p r.code tag b).keeps.trans ?_
      dsimp only
      split
      · exact (Dev.reply_flowsTo _ _ _ _ _).keeps
      · exact h _

/-! ### Every command -/

theorem Dev.atExpiry_flowsTo (slot : Deadlines → Option Tick) {f : Dev → Dev} (h : ∀ d : Dev, d.flowsTo (f d)) (d : Dev) :
    d.flowsTo (d.atExpiry slot f) := d.flowsTo_onlyIf _ (h d)

theorem Dev.erasePhase_flowsTo (d : Dev) (p : ErasePhase) : d.flowsTo (d.erasePhase p) := d.arc_flowsTo _

/-- A command that acts on the volatile state, but a fetch of a notice. -/
theorem Meaning.acts_flowsTo {c : Instr} {m : Memory} {f : Dev → Dev} (h : Meaning.of m c = .acts f)
    (hc : ∀ p tag b, c ≠ .nextNotice p tag b) (d : Dev) : d.flowsTo (f d) := by
  cases c <;> cases h
  case openStream p tag b => exact d.arrive_flowsTo _ _ _ _ fun _ => Dev.serveOpenStream_flowsTo p b
  case append p tag b => exact d.arrive_flowsTo _ _ _ _ (Dev.serveAppend_flowsTo p)
  case withdraw p tag b => exact d.arrive_flowsTo _ _ _ _ fun _ => Dev.serveWithdraw_flowsTo p b
  case logEvent p tag b => exact d.arrive_flowsTo _ _ _ _ fun _ => Dev.serveLogEvent_flowsTo p b
  case declare p tag b => exact d.arrive_flowsTo _ _ _ _ fun _ => Dev.serveDeclare_flowsTo p
  case getStatus p tag b => exact d.arrive_flowsTo _ _ _ _ fun _ e => e.reply_flowsTo _ _ _ _
  case nextNotice p tag b => exact absurd rfl (hc p tag b)
  case readParams p tag b => exact d.arrive_flowsTo _ _ _ _ fun _ e => e.reply_flowsTo _ _ _ _
  case listIncidents p tag b =>
    exact d.arrive_flowsTo _ _ _ _ fun _ e => e.readGate_flowsTo p (e.reply_flowsTo _ _ _ _)
  case readIncident p tag b => exact d.arrive_flowsTo _ _ _ _ fun _ => Dev.serveReadIncident_flowsTo p b
  case readStream p tag b =>
    exact d.arrive_flowsTo _ _ _ _ fun _ e => e.readGate_flowsTo p (e.readStreamAt_flowsTo _ _ _ _)
  case readMore p tag b => exact d.arrive_flowsTo _ _ _ _ fun _ e => e.readGate_flowsTo p (e.readOn_flowsTo _ _)
  case readHistory p tag b => exact d.arrive_flowsTo _ _ _ _ fun _ e => e.readGate_flowsTo p (e.serveHistory_flowsTo _ _ _)
  case release p tag b => exact d.arrive_flowsTo _ _ _ _ fun _ => Dev.serveRelease_flowsTo p b
  case hold p tag b => exact d.arrive_flowsTo _ _ _ _ fun _ => Dev.serveHold_flowsTo true p b
  case unhold p tag b => exact d.arrive_flowsTo _ _ _ _ fun _ => Dev.serveHold_flowsTo false p b
  case locate p tag b => exact d.arrive_flowsTo _ _ _ _ fun _ => Dev.serveLocate_flowsTo p b
  case setWalltime p tag b => exact d.arrive_flowsTo _ _ _ _ fun _ => Dev.serveSetWalltime_flowsTo p b
  case getSettings p tag b => exact d.arrive_flowsTo _ _ _ _ fun _ e => e.reply_flowsTo _ _ _ _
  case putSettings p tag b =>
    exact d.arrive_flowsTo _ _ _ _ fun _ e => (e.setSst_flowsTo _).trans (Dev.reply_flowsTo _ _ _ _ _)
  case saveSettings p tag b => exact d.arrive_flowsTo _ _ _ _ fun _ => Dev.serveSaveSettings_flowsTo p
  case unknownRequest p code tag b => exact d.unknown_flowsTo p code tag b
  case frameError p f => exact d.badFrame_flowsTo p f
  case overlapFrame p f => exact d.overlapAt_flowsTo p f
  case fetch p n => exact d.fetch_flowsTo p n
  case linkReset p => exact d.linkReset_flowsTo p
  case svcFrameGap => exact (d.setPort_flowsTo _ _).trans (Dev.pif_flowsTo _ _)
  case filterExpiry l => exact d.atExpiry_flowsTo _ fun e => (e.qualify_flowsTo l).trans (Dev.settle_flowsTo _)
  case captureWindowExpiry => exact d.atExpiry_flowsTo _ Dev.windowExpires_flowsTo
  case captureLimitExpiry => exact d.atExpiry_flowsTo _ fun e => e.limitExpires_flowsTo.trans (Dev.settle_flowsTo _)
  case holdupDeadlineExpiry => exact d.atExpiry_flowsTo _ Dev.holdupExpires_flowsTo
  case rechargeExpiry => exact d.atExpiry_flowsTo _ Dev.rechargeNow_flowsTo
  case flushIntervalExpiry => exact d.atExpiry_flowsTo _ fun e => e.flushExpires_flowsTo.trans (Dev.settle_flowsTo _)
  case locateExpiry => exact d.atExpiry_flowsTo _ fun e => (e.deadlines_flowsTo _).trans (Dev.showInd_flowsTo _)
  case eraseRunTimer => exact d.flowsTo_onlyIf _ (d.erasePhase_flowsTo _)
  case eraseSuspended =>
    exact d.flowsTo_onlyIf _ ((d.erasePhase_flowsTo _).trans ((Dev.grantNext_flowsTo _).trans (Dev.settle_flowsTo _)))
  case arbiterGrant => exact d.flowsTo_onlyIf _ (d.grantNext_flowsTo.trans (Dev.settle_flowsTo _))
  case streamReadDone => exact d.streamReadEnds_flowsTo m
  case historyReadDone => exact d.historyReadEnds_flowsTo m
  case recoveryReadDone =>
    exact d.flowsTo_onlyIf _ (d.opEnds_flowsTo.trans ((Dev.scanNext_flowsTo _ _).trans (Dev.settle_flowsTo _)))
  case captureWaiterServed => exact d.serveFront_flowsTo
  case maintenanceWaiterAccepted => exact d.acceptFront_flowsTo
  case streamRelease i => exact d.flowsTo_onlyIf _ ((d.tryRelease_flowsTo i).trans (Dev.settle_flowsTo _))
  case incidentKept =>
    exact d.flowsTo_onlyIf _ (d.tryKeep_flowsTo.trans ((Dev.closeRun_flowsTo _).trans (Dev.settle_flowsTo _)))
  case passToClosing => exact d.flowsTo_onlyIf _ (d.closeRun_flowsTo.trans (Dev.settle_flowsTo _))
  case loadPoint => exact d.flowsTo_onlyIf _ (d.load_flowsTo.trans (Dev.settle_flowsTo _))
  case compactionStart => exact d.flowsTo_onlyIf _ (d.startCompaction_flowsTo.trans (Dev.settle_flowsTo _))
  case reclaimStart => exact d.flowsTo_onlyIf _ (d.startReclaim_flowsTo.trans (Dev.settle_flowsTo _))

/-- The end of a PROGRAM, but of a flush. -/
theorem Meaning.programEnds_flowsTo {c : Instr} {m : Memory} {who : Requester} {o : ProgramOutcome}
    {f : Bool → Dev → Dev} (h : Meaning.of m c = .programEnds who o f) (hw : who ≠ .flush) (ok : Bool) (d : Dev) :
    d.flowsTo (f ok d) := by
  cases c <;> cases h
  case commitProgramDone =>
    cases ok
    · exact d.commitFail_flowsTo
    · exact d.commitOk_flowsTo
  case voidMarkDone => exact d.voidDone_flowsTo ok
  case journalProgramDone => exact d.journalWritten_flowsTo ok
  case imageProgramDone => exact d.imageWritten_flowsTo ok
  case historyFlushDone => exact absurd rfl hw
  case settingsProgramDone => exact d.saveDone_flowsTo ok

/-- The end of an ERASE. -/
theorem Meaning.eraseEnds_flowsTo {c : Instr} {m : Memory} {who : Requester} {o : EraseOutcome}
    {f : Bool → Memory → Zone → Dev → Dev} (h : Meaning.of m c = .eraseEnds who o f) (ok : Bool) (n : Memory) (z : Zone)
    (d : Dev) : d.flowsTo (f ok n z d) := by
  cases c <;> cases h
  case reclaimEraseDone => exact d.reclaimErased_flowsTo ok n z
  case ringEraseDone => exact d.ringErased_flowsTo ok n z
  case spareZoneEraseDone => exact d.spareErased_flowsTo ok n z
  case settingsZoneEraseDone => exact d.settingsErased_flowsTo ok n z

theorem State.act_keeps {s t : State} {f : Dev → Dev} (h : s.act f = .next t) (hf : ∀ d : Dev, d.keepsTo (f d)) :
    s.dev.keepsTo t.dev := by
  unfold State.act at h
  split at h <;> cases h
  · exact hf _
  · exact s.dev.flowsTo_rfl.keeps

theorem State.programDone_keeps {s t : State} {who : Requester} {o : ProgramOutcome} {f : Bool → Dev → Dev}
    (h : s.programDone who o f = .next t) (hf : ∀ ok (d : Dev), d.keepsTo (f ok d)) : s.dev.keepsTo t.dev := by
  unfold State.programDone at h
  split at h
  · dsimp only at h
    split at h <;> cases h
    · exact (s.dev.arc_flowsTo _).keeps.trans ((hf _ _).trans (Dev.settle_flowsTo _).keeps)
    · exact s.dev.flowsTo_rfl.keeps
  · cases h
    exact s.dev.flowsTo_rfl.keeps

theorem State.eraseDone_keeps {s t : State} {who : Requester} {o : EraseOutcome} {f : Bool → Memory → Zone → Dev → Dev}
    (h : s.eraseDone who o f = .next t) (hf : ∀ ok m z (d : Dev), d.keepsTo (f ok m z d)) : s.dev.keepsTo t.dev := by
  unfold State.eraseDone at h
  split at h
  · dsimp only at h
    split at h <;> cases h
    · exact (s.dev.arc_flowsTo _).keeps.trans ((hf _ _ _ _).trans (Dev.settle_flowsTo _).keeps)
    · exact s.dev.flowsTo_rfl.keeps
  · cases h
    exact s.dev.flowsTo_rfl.keeps

theorem Meaning.acts_keeps {c : Instr} {m : Memory} {f : Dev → Dev} (h : Meaning.of m c = .acts f) (d : Dev) :
    d.keepsTo (f d) := by
  by_cases hc : ∃ p tag b, c = .nextNotice p tag b
  · obtain ⟨p, tag, b, rfl⟩ := hc
    cases h
    exact d.arrive_keeps _ _ _ _ (Dev.serveNextNotice_keeps p)
  · exact (Meaning.acts_flowsTo h (fun p tag b e => hc ⟨p, tag, b, e⟩) d).keeps

theorem Meaning.programEnds_keeps {c : Instr} {m : Memory} {who : Requester} {o : ProgramOutcome} {f : Bool → Dev → Dev}
    (h : Meaning.of m c = .programEnds who o f) (ok : Bool) (d : Dev) : d.keepsTo (f ok d) := by
  by_cases hw : who = .flush
  · subst hw
    cases c <;> cases h
    exact d.flushDone_keeps ok
  · exact (Meaning.programEnds_flowsTo h hw ok d).keeps

theorem State.restart_keeps (s : State) (ma0 ma1 : Bool) : s.dev.keepsTo (s.restart ma0 ma1).dev := by
  unfold State.restart
  dsimp only
  exact s.dev.startDev_keeps _ _

/-- Every command keeps what `Dev.keepsTo` says. -/
theorem exec_keeps {c : Instr} {s t : State} (h : exec c s = .next t) : s.dev.keepsTo t.dev := by
  rw [exec_eq_run] at h
  cases hm : Meaning.of s.flash c with
  | acts f => rw [hm] at h; exact State.act_keeps h (Meaning.acts_keeps hm)
  | programEnds who o f => rw [hm] at h; exact State.programDone_keeps h (Meaning.programEnds_keeps hm)
  | eraseEnds who o f =>
    rw [hm] at h
    exact State.eraseDone_keeps h fun ok m z d => (Meaning.eraseEnds_flowsTo hm ok m z d).keeps
  | lineMoves l x =>
    rw [hm] at h
    cases h
    show s.dev.keepsTo (if s.powered then ((s.dev.setLevel l x).filterLine l).settle else s.dev.setLevel l x)
    split
    · exact ((s.dev.setLevel_flowsTo l x).trans ((Dev.filterLine_flowsTo _ l).trans (Dev.settle_flowsTo _))).keeps
    · exact (s.dev.setLevel_flowsTo l x).keeps
  | powersUp ma0 ma1 =>
    rw [hm] at h
    cases h
    exact s.restart_keeps ma0 ma1
  | resets ma0 ma1 =>
    rw [hm, Meaning.run, execDeviceReset] at h
    split at h <;> cases h
    · exact s.restart_keeps ma0 ma1
    · exact s.dev.flowsTo_rfl.keeps
  | losesPower =>
    rw [hm, Meaning.run, execPowerLoss] at h
    split at h <;> cases h
    · exact s.dev.keepsTo_reset _ _
    · exact s.dev.flowsTo_rfl.keeps

theorem Dev.beginSending_flowsTo (d : Dev) (r : Reply) : d.flowsTo (d.beginSending r) :=
  (d.setPort_flowsTo _ _).trans (Dev.pif_flowsTo _ _)

theorem Dev.sendTick_flowsTo (d : Dev) : d.flowsTo d.sendTick := by
  unfold Dev.sendTick
  split
  · exact d.flowsTo_rfl
  · dsimp only
    split
    · exact d.pif_flowsTo _
    · split
      · exact (d.setPort_flowsTo _ _).trans (Dev.pif_flowsTo _ _)
      · split
        · exact (d.pif_flowsTo _).trans (Dev.beginSending_flowsTo _ _)
        · exact d.pif_flowsTo _

theorem Dev.tickOnce_flowsTo (d : Dev) : d.flowsTo d.tickOnce :=
  Dev.flowsTo_of_same rfl rfl rfl rfl rfl rfl rfl rfl rfl

theorem State.idle_keeps (s : State) : s.dev.keepsTo s.idle.dev := by
  unfold State.idle
  split
  · exact (s.dev.tickOnce_flowsTo.trans (Dev.sendTick_flowsTo _)).keeps
  · exact s.dev.flowsTo_rfl.keeps

/-- Every step keeps what `Dev.keepsTo` says: a command, or the tick of an empty queue. -/
theorem step_keeps {s t : State} (h : step s = .next t) : s.dev.keepsTo t.dev := by
  unfold step at h
  split at h
  · next c rest _ => exact exec_keeps (s := { s with pending := rest }) h
  · cases h
    exact s.idle_keeps

/-- Settles O37: `step_keeps`, each block followed through its four places. -/
theorem everyStepKeepsBlocksInSize : Obligations.EveryStepKeepsBlocksInSize :=
  ⟨fun _ _ fit h => ((step_keeps h).blocks False ⟨fit, False.elim⟩).1,
    fun _ _ fit placed h => ((step_keeps h).blocks True ⟨fit, fun _ => placed⟩).2 trivial,
    fun _ _ flagged h => (step_keeps h).halt flagged⟩

end Sys2Proof.Machine
end

section
/-! PROOFS. The tick of an empty queue and what follows every change the part takes (R96, R117, R60, R61, R157, R165,
R176). -/

namespace Sys2Proof.Machine

/-! ### The tick -/

theorem step_of_empty {s : State} (h : s.pending = []) : step s = .next s.idle := by
  unfold step
  rw [h]

theorem State.idle_of_due {s : State} (h : s.powered = false ∨ s.dev.expiryDue = true ∨ s.dev.momentDue = true) :
    s.idle = s := by
  unfold State.idle
  rcases h with h | h | h <;> simp [h]

theorem State.idle_of_rest {s : State} (hp : s.powered = true) (he : s.dev.expiryDue = false)
    (hm : s.dev.momentDue = false) : s.idle = { s with dev := s.dev.tickOnce.sendTick } := by
  unfold State.idle
  simp [hp, he, hm]

section
variable {d : Dev} {rest : List Byte} {phase : Nat} {kept : Bool}

theorem Dev.sendTick_quiet (h : d.pif.svcOut = none) : d.sendTick = d := by
  unfold Dev.sendTick
  rw [h]

theorem Dev.sendTick_within (h : d.pif.svcOut = some ⟨rest, phase, kept⟩) (hp : phase + 36 < 3125) :
    d.sendTick = { d with pif := { d.pif with svcOut := some ⟨rest, phase + 36, kept⟩ } } := by
  unfold Dev.sendTick
  rw [h]
  exact if_pos hp

theorem Dev.sendTick_next {x : Byte} {l : List Byte} (h : d.pif.svcOut = some ⟨x :: l, phase, kept⟩)
    (hp : 3125 ≤ phase + 36) : d.sendTick = { d with pif := { (d.setPort .svc { d.port .svc with
      exchange := if kept then .empty else (d.port .svc).exchange
      sent := (d.port .svc).sent ++ [x] }).pif with svcOut := some ⟨l, phase + 36 - 3125, false⟩ } } := by
  unfold Dev.sendTick
  rw [h]
  exact if_neg (Nat.not_lt.2 hp)

theorem Dev.sendTick_waiting {code tag : Byte} {r : Reply} (h : d.pif.svcOut = some ⟨[], phase, kept⟩)
    (hp : 3125 ≤ phase + 36) (hx : (d.port .svc).exchange = .ready code tag r) :
    d.sendTick = { d with pif := { (d.setPort .svc { d.port .svc with sent := [0xA5] }).pif with
      svcOut := some ⟨r.frame, 0, true⟩ } } := by
  unfold Dev.sendTick
  rw [h]
  refine (if_neg (Nat.not_lt.2 hp)).trans ?_
  dsimp only
  rw [show (Dev.port { d with pif := { d.pif with svcOut := none } } .svc).exchange = .ready code tag r from hx]
  rfl

theorem Dev.sendTick_ends (h : d.pif.svcOut = some ⟨[], phase, kept⟩) (hp : 3125 ≤ phase + 36)
    (hx : ∀ code tag r, (d.port .svc).exchange ≠ .ready code tag r) :
    d.sendTick = { d with pif := { d.pif with svcOut := none } } := by
  unfold Dev.sendTick
  rw [h]
  refine (if_neg (Nat.not_lt.2 hp)).trans ?_
  dsimp only
  split
  · next code tag r hr => exact absurd hr (hx code tag r)
  · rfl

end

/-- Settles O3: an empty queue runs `State.idle`, and SVC's line goes on by the five cases of `Dev.sendTick`. -/
theorem timePassesOnAnEmptyQueue : Obligations.TimePassesOnAnEmptyQueue := by
  intro s hs
  rw [step_of_empty hs]
  refine ⟨fun hp he hm => ?_, fun h => by rw [State.idle_of_due h]⟩
  rw [State.idle_of_rest hp he hm]
  refine ⟨fun h => ?_, fun rest phase kept h => ⟨fun hlt => ?_, fun x l hle hrest => ?_, fun hle hrest =>
    ⟨fun code tag r hr => ?_, fun hno => ?_⟩⟩⟩
  · rw [Dev.sendTick_quiet (d := s.dev.tickOnce) h]; rfl
  · rw [Dev.sendTick_within (d := s.dev.tickOnce) h hlt]; rfl
  · subst hrest
    rw [Dev.sendTick_next (d := s.dev.tickOnce) h hle]; rfl
  · subst hrest
    rw [Dev.sendTick_waiting (d := s.dev.tickOnce) h hle hr]; rfl
  · subst hrest
    rw [Dev.sendTick_ends (d := s.dev.tickOnce) h hle hno]; rfl

/-! ### The writers -/

/-- DRM's writer is free to ask (R96, R99, R101). -/
def Dev.drmAsks (d : Dev) : Prop := d.hum.mode ≠ .start ∧ d.drm.writer = .idle ∧ d.compactionReady = false

/-- The next batch may be asked for (R96, R156). -/
def Dev.batchReady (d : Dev) : Prop :=
  d.drm.copy = none ∧ d.drm.journalOpen = true ∧ d.drm.queue ≠ [] ∧ d.drm.absorbed = [] ∧ d.drm.pos < 512
    ∧ (d.drm.recoveryHeld = false ∨ d.arc.storeFailed = true)

theorem Dev.journalHeld_iff (d : Dev) :
    d.journalHeld = false ↔ d.drm.recoveryHeld = false ∨ d.arc.storeFailed = true := by
  unfold Dev.journalHeld
  cases d.drm.recoveryHeld <;> cases d.arc.storeFailed <;> decide

theorem Dev.drmAsks.not_idle {d : Dev} (h : d.drmAsks) :
    ¬(d.hum.mode = .start ∨ d.drm.writer ≠ .idle ∨ d.compactionReady = true) := by
  obtain ⟨mode, writer, ready⟩ := h
  simp [mode, writer, ready]

theorem Dev.drmWrite_image {d : Dev} (h : d.drmAsks) {c : CompactionCopy} (hc : d.drm.copy = some c) :
    d.drmWrite = (d.setDrm fun m => { m with writer := .waitGrant }).place .image d.drm.imageJob := by
  unfold Dev.drmWrite
  rw [if_neg h.not_idle, if_pos (by rw [hc]; rfl)]

theorem Dev.drmWrite_batch {d : Dev} (h : d.drmAsks) (hb : d.batchReady) {z : Zone} (hz : d.drm.active = some z) :
    d.drmWrite = (d.setDrm fun m => { m with writer := .waitGrant }).place .journal (d.drm.batchJob z) := by
  obtain ⟨copy, isOpen, queue, absorbed, pos, held⟩ := hb
  unfold Dev.drmWrite
  rw [if_neg h.not_idle, if_neg (by simp [copy]), hz]
  exact if_pos ⟨isOpen, queue, absorbed, pos, d.journalHeld_iff.2 held⟩

theorem Dev.drmWrite_rest {d : Dev} (h : ¬d.drmAsks ∨ (d.drm.copy = none ∧ (¬d.batchReady ∨ d.drm.active = none))) :
    d.drmWrite = d := by
  by_cases asks : d.drmAsks
  · obtain ⟨copy, no⟩ := h.resolve_left (not_not_intro asks)
    unfold Dev.drmWrite
    rw [if_neg asks.not_idle, if_neg (by simp [copy])]
    split
    · next z hz =>
      refine if_neg fun hb => ?_
      have ready : d.batchReady := ⟨copy, hb.1, hb.2.1, hb.2.2.1, hb.2.2.2.1, d.journalHeld_iff.1 hb.2.2.2.2⟩
      exact no.elim (· ready) (fun hn => by rw [hn] at hz; cases hz)
    · rfl
  · unfold Dev.drmWrite
    refine if_pos ?_
    unfold Dev.drmAsks at asks
    by_cases mode : d.hum.mode = .start
    · exact .inl mode
    · by_cases writer : d.drm.writer = .idle
      · exact .inr (.inr (by simpa [mode, writer] using asks))
      · exact .inr (.inl writer)

/-- What DRM's writer can add to the waiting set. -/
theorem Dev.drmWrite_waiting (d : Dev) : ∃ l, d.drmWrite.arc.waiting = d.arc.waiting ++ l
    ∧ ∀ r ∈ l, r.who = .journal ∨ r.who = .image := by
  by_cases h : ¬d.drmAsks ∨ (d.drm.copy = none ∧ (¬d.batchReady ∨ d.drm.active = none))
  · exact ⟨[], by simp [Dev.drmWrite_rest h], nofun⟩
  · obtain ⟨asks, some⟩ := not_or.1 h
    have asks := not_not.1 asks
    cases hc : d.drm.copy with
    | some c => exact ⟨[⟨.image, d.drm.imageJob⟩], by rw [Dev.drmWrite_image asks hc]; rfl, by simp⟩
    | none =>
      obtain ⟨batch, active⟩ := not_or.1 fun hn => some ⟨hc, hn⟩
      obtain ⟨z, hz⟩ := Option.ne_none_iff_exists'.1 active
      exact ⟨[⟨.journal, d.drm.batchJob z⟩], by rw [Dev.drmWrite_batch asks (not_not.1 batch) hz]; rfl, by simp⟩

/-- HIU's writer is free to ask, and pending bytes are due (R116, R117). -/
def Dev.flushAsks (d : Dev) : Prop :=
  d.hum.mode ≠ .start ∧ d.hiu.writer = .idle ∧ d.hiu.staging ≠ []
    ∧ (512 ≤ entriesSize d.hiu.staging ∨ (∃ n, d.hiu.mark = some n ∧ ∃ x ∈ d.hiu.staging, x.seq ≤ n)
      ∨ d.hiu.closed = true)

theorem coveredBy_iff (mark : Option Nat) (l : List HEntry) :
    coveredBy mark l = true ↔ ∃ n, mark = some n ∧ ∃ x ∈ l, x.seq ≤ n := by
  cases mark <;> simp [coveredBy]

theorem Hiu.flushDue_iff {h : Hiu} {t : WritePage} (ht : h.target = some t) : h.flushDue = true ↔ h.staging ≠ []
    ∧ (512 ≤ entriesSize h.staging ∨ (∃ n, h.mark = some n ∧ ∃ x ∈ h.staging, x.seq ≤ n) ∨ h.closed = true) := by
  rw [show entriesSize h.staging = h.pendingBytes from rfl]
  simp [Hiu.flushDue, ht, coveredBy_iff, or_assoc]

theorem Dev.hiuWrite_asks {d : Dev} (h : d.flushAsks) {t : WritePage} (ht : d.hiu.target = some t) :
    d.hiuWrite = (d.setHiu fun h => { h with writer := .waitGrant }).place .flush (d.flushJob t) := by
  obtain ⟨mode, writer, due⟩ := h
  unfold Dev.hiuWrite
  rw [writer, ht]
  exact if_pos ⟨mode, (Hiu.flushDue_iff ht).2 due⟩

theorem Dev.hiuWrite_rest {d : Dev} (h : ¬d.flushAsks ∨ d.hiu.target = none) : d.hiuWrite = d := by
  unfold Dev.hiuWrite
  split
  · next t writer ht =>
    refine if_neg fun hdue => ?_
    exact h.elim (· ⟨hdue.1, writer, (Hiu.flushDue_iff ht).1 hdue.2⟩) (fun hn => by rw [hn] at ht; cases ht)
  · rfl

/-- What HIU's writer can add to the waiting set. -/
theorem Dev.hiuWrite_waiting (d : Dev) : ∃ l, d.hiuWrite.arc.waiting = d.arc.waiting ++ l ∧ ∀ r ∈ l, r.who = .flush := by
  by_cases h : ¬d.flushAsks ∨ d.hiu.target = none
  · exact ⟨[], by simp [Dev.hiuWrite_rest h], nofun⟩
  · obtain ⟨asks, target⟩ := not_or.1 h
    obtain ⟨t, ht⟩ := Option.ne_none_iff_exists'.1 target
    exact ⟨[⟨.flush, d.flushJob t⟩], by rw [Dev.hiuWrite_asks (not_not.1 asks) ht]; rfl, by simp⟩

/-! ### What each part of the settling leaves -/

theorem Dev.settle_drm (d : Dev) : d.settle.drm = d.drmWrite.drm := by simp [Dev.settle]

theorem Dev.settle_hiu (d : Dev) : d.settle.hiu = d.drmWrite.hiuWrite.hiu := by simp [Dev.settle]

theorem Dev.settle_waiting (d : Dev) : d.settle.arc.waiting = d.drmWrite.hiuWrite.arc.waiting := by simp [Dev.settle]

/-- The writers leave what the arbiter decides by, but the waiting set. -/
theorem Dev.writers_leave (d : Dev) : d.drmWrite.hiuWrite.hum = d.hum ∧ d.drmWrite.hiuWrite.arc.erase = d.arc.erase
    ∧ d.drmWrite.hiuWrite.arc.op = d.arc.op ∧ d.drmWrite.hiuWrite.arc.runTimer = d.arc.runTimer
    ∧ d.drmWrite.hiuWrite.arc.defects = d.arc.defects ∧ d.drmWrite.hiuWrite.arc.storeFailed = d.arc.storeFailed := by
  simp

theorem Dev.grantable_writers (d : Dev) (r : ArrReq) : d.drmWrite.hiuWrite.grantable r = d.grantable r := by
  simp [Dev.grantable, Dev.modeAllows, Dev.creditFor]

/-- A READ or a PROGRAM that the arbiter could grant waits once the writers have asked. -/
def Dev.readyOp (d : Dev) : Prop := ∃ r ∈ d.settle.arc.waiting, r.job.isErase = false ∧ d.grantable r = true

theorem Dev.readyOp_iff (d : Dev) : d.readyOp ↔ d.drmWrite.hiuWrite.grantableOps ≠ [] := by
  rw [Dev.readyOp, Dev.settle_waiting, Dev.grantableOps, ne_eq, List.filter_eq_nil_iff]
  simp [Dev.grantable_writers]

theorem Dev.suspendWanted_iff (d : Dev) : d.drmWrite.hiuWrite.suspendWanted = true
    ↔ d.readyOp ∨ d.hum.mode = .holdup ∨ d.hum.mode = .exhausted := by
  rw [Dev.readyOp_iff, Dev.suspendWanted]
  simp [or_assoc]

theorem Dev.settle_erase (d : Dev) : d.settle.arc.erase = d.drmWrite.hiuWrite.arcSettle.arc.erase
    ∧ d.settle.arc.runTimer = d.drmWrite.hiuWrite.arcSettle.arc.runTimer := by simp [Dev.settle]

/-- A RUNNING erase gives way (R60). -/
theorem Dev.arcSettle_running {d : Dev} {z : Zone} {who : Requester} (h : d.arc.erase = some ⟨.running, z, who⟩) :
    d.arcSettle = if 1000 ≤ d.arc.runTimer ∧ d.suspendWanted = true then d.erasePhase .suspending else d := by
  unfold Dev.arcSettle
  rw [h]
  simp [Config.eraseMinRun]

/-- A SUSPENDED erase resumes (R61). -/
theorem Dev.arcSettle_suspended {d : Dev} {z : Zone} {who : Requester} (h : d.arc.erase = some ⟨.suspended, z, who⟩) :
    d.arcSettle = if d.arc.op = none ∧ d.grantableOps = [] ∧ d.hum.mode = .normal ∧ d.arc.storeFailed = false
      then { d.erasePhase .running with arc := { (d.erasePhase .running).arc with runTimer := 0 } } else d := by
  unfold Dev.arcSettle
  rw [h]
  simp [and_assoc]

theorem Dev.erasePhase_erase {d : Dev} {x : ErasePhase} {z : Zone} {who : Requester}
    (h : d.arc.erase = some ⟨x, z, who⟩) (y : ErasePhase) : (d.erasePhase y).arc.erase = some ⟨y, z, who⟩ := by
  simp [Dev.erasePhase, h]

/-! ### The indicator -/

theorem Dev.settle_pattern (d : Dev) : d.settle.ntu.ind = d.pattern
    ∧ d.settle.ntu.indTicks = if d.ntu.ind = d.pattern then d.ntu.indTicks else 0 := by
  have pattern : d.drmWrite.hiuWrite.arcSettle.pattern = d.pattern := by simp [Dev.pattern, Drm.records]
  have ntu : d.drmWrite.hiuWrite.arcSettle.ntu = d.ntu := by simp
  rw [Dev.settle, Dev.showInd_ind, Dev.showInd_indTicks, pattern, ntu]
  exact ⟨rfl, by simp only [eq_comm]⟩

/-- The drive of Table 9.3. -/
theorem Dev.indLit_iff (d : Dev) :
    (d.ntu.ind = .locate → (d.indLit = true ↔ d.ntu.indTicks % 1000000 < 100000
      ∨ (200000 ≤ d.ntu.indTicks % 1000000 ∧ d.ntu.indTicks % 1000000 < 300000)))
    ∧ (d.ntu.ind = .steady → d.indLit = true)
    ∧ (d.ntu.ind = .fast → (d.indLit = true ↔ d.ntu.indTicks % 250000 < 125000))
    ∧ (d.ntu.ind = .slow → (d.indLit = true ↔ d.ntu.indTicks % 2000000 < 1000000))
    ∧ (d.ntu.ind = .dark → d.indLit = false) := by
  refine ⟨fun h => ?_, fun h => ?_, fun h => ?_, fun h => ?_, fun h => ?_⟩ <;> simp [Dev.indLit, IndPattern.lit, h]

/-- Settles O5: the writers, the arbiter and the indicator, each by its own cases. -/
theorem settlingMovesWritersArbiterAndIndicator : Obligations.SettlingMovesWritersArbiterAndIndicator := by
  refine ⟨fun d => ⟨d.settle_settlesTo, ?_⟩, fun d => ⟨fun c asks hc => ?_, fun z asks batch hz => ?_, fun rest => ?_⟩,
    fun d => ⟨fun t due ht => ?_, fun rest => ?_⟩, fun d z who => ⟨fun running => ⟨fun ran wanted => ?_, fun no => ?_⟩,
      fun suspended => ⟨fun resumes => ?_, fun no => ?_⟩⟩, fun d => ?_, fun d => ?_⟩
  · obtain ⟨l, hl, byDrm⟩ := d.drmWrite_waiting
    obtain ⟨k, hk, byHiu⟩ := d.drmWrite.hiuWrite_waiting
    refine ⟨l ++ k, by rw [d.settle_waiting, hk, hl, List.append_assoc], fun r hr => ?_⟩
    rcases List.mem_append.1 hr with hr | hr
    · exact (byDrm r hr).imp id .inl
    · exact .inr (.inr (byHiu r hr))
  · have asked := Dev.drmWrite_image (d := d) asks hc
    obtain ⟨k, hk, -⟩ := d.drmWrite.hiuWrite_waiting
    refine ⟨by rw [d.settle_drm, asked]; rfl, ?_⟩
    have job : d.drm.imageJob = .program (slotPage d.drm.spareZone d.drm.imagePos) 0
        (((c.image.drop d.drm.imagePos).take 16).flatMap JEntry.bytes) 0 d.drm.header := by
      rw [Drm.imageJob, Drm.imageNow, hc]
    rw [d.settle_waiting, hk, asked, job]
    exact List.mem_append_left _ (List.mem_append_right _ (List.mem_singleton_self _))
  · have asked := Dev.drmWrite_batch (d := d) asks batch hz
    obtain ⟨k, hk, -⟩ := d.drmWrite.hiuWrite_waiting
    refine ⟨by rw [d.settle_drm, asked]; rfl, ?_⟩
    rw [d.settle_waiting, hk, asked]
    exact List.mem_append_left _ (List.mem_append_right _ (List.mem_singleton_self _))
  · have idle := Dev.drmWrite_rest (d := d) rest
    obtain ⟨k, hk, byHiu⟩ := d.drmWrite.hiuWrite_waiting
    refine ⟨by rw [d.settle_drm, idle], fun r hr hw => ?_⟩
    rw [d.settle_waiting, hk, idle] at hr
    refine (List.mem_append.1 hr).resolve_right fun hk => ?_
    rcases hw with hw | hw <;> exact nomatch hw.symm.trans (byHiu r hk)
  · have asked := Dev.hiuWrite_asks (d := d.drmWrite) (t := t) (by simpa [Dev.flushAsks] using due) (by simpa using ht)
    have job : d.drmWrite.flushJob t = d.flushJob t := by simp [Dev.flushJob]
    refine ⟨by rw [d.settle_hiu, asked]; rfl, ?_, _, rfl, fun ht => ?_, fun x l ht hx => ?_⟩
    · rw [d.settle_waiting, asked, job]
      exact List.mem_append_right _ (List.mem_singleton_self _)
    · split
      · next h _ => exact absurd h ht
      · rfl
    · rw [ht, hx]
      rfl
  · have hiu : d.drmWrite.hiu = d.hiu := by simp
    have idle := Dev.hiuWrite_rest (d := d.drmWrite) (by simpa [Dev.flushAsks] using rest)
    obtain ⟨l, hl, byDrm⟩ := d.drmWrite_waiting
    refine ⟨by rw [d.settle_hiu, idle, hiu], fun r hr hw => ?_⟩
    rw [d.settle_waiting, idle, hl] at hr
    refine (List.mem_append.1 hr).resolve_right fun hk => ?_
    rcases byDrm r hk with hd | hd <;> exact nomatch hw.symm.trans hd
  · have erase : d.drmWrite.hiuWrite.arc.erase = some ⟨.running, z, who⟩ := by simpa using running
    rw [d.settle_erase.1, Dev.arcSettle_running erase, if_pos ⟨by simpa using ran, d.suspendWanted_iff.2 wanted⟩]
    exact Dev.erasePhase_erase erase _
  · have erase : d.drmWrite.hiuWrite.arc.erase = some ⟨.running, z, who⟩ := by simpa using running
    have stays : ¬(1000 ≤ d.drmWrite.hiuWrite.arc.runTimer ∧ d.drmWrite.hiuWrite.suspendWanted = true) := by
      rintro ⟨ran, wanted⟩
      exact no.elim (Nat.not_lt.2 (by simpa using ran)) (· (d.suspendWanted_iff.1 wanted))
    rw [d.settle_erase.1, d.settle_erase.2, Dev.arcSettle_running erase, if_neg stays]
    exact ⟨d.writers_leave.2.1, d.writers_leave.2.2.2.1⟩
  · have erase : d.drmWrite.hiuWrite.arc.erase = some ⟨.suspended, z, who⟩ := by simpa using suspended
    obtain ⟨op, notReady, mode, failed⟩ := resumes
    have none : d.drmWrite.hiuWrite.grantableOps = [] := not_not.1 (mt d.readyOp_iff.2 notReady)
    rw [d.settle_erase.1, d.settle_erase.2, Dev.arcSettle_suspended erase, if_pos (by simp [op, none, mode, failed])]
    exact ⟨Dev.erasePhase_erase erase _, rfl⟩
  · have erase : d.drmWrite.hiuWrite.arc.erase = some ⟨.suspended, z, who⟩ := by simpa using suspended
    obtain ⟨hum, -, op, -, -, failed⟩ := d.writers_leave
    have stays : ¬(d.drmWrite.hiuWrite.arc.op = none ∧ d.drmWrite.hiuWrite.grantableOps = []
        ∧ d.drmWrite.hiuWrite.hum.mode = .normal ∧ d.drmWrite.hiuWrite.arc.storeFailed = false) := by
      rw [hum, op, failed]
      exact fun h => no ⟨h.1, fun ready => d.readyOp_iff.1 ready h.2.1, h.2.2.1, h.2.2.2⟩
    rw [d.settle_erase.1, d.settle_erase.2, Dev.arcSettle_suspended erase, if_neg stays]
    exact ⟨d.writers_leave.2.1, d.writers_leave.2.2.2.1⟩
  · have shows : ∀ p, d.pattern = p → d.settle.ntu.ind = p
        ∧ d.settle.ntu.indTicks = if d.ntu.ind = p then d.ntu.indTicks else 0 := fun p h => h ▸ d.settle_pattern
    have quiet : ∀ {x : Option Tick}, ¬x ≠ none → x.isSome = false := fun {x} h => by rw [not_not.1 h]; rfl
    refine ⟨fun h => shows _ ?_, fun h f => shows _ ?_, fun h f k => shows _ ?_, fun h f k u => shows _ ?_,
      fun h f k u => shows _ ?_⟩
    · rw [Dev.pattern, if_pos (Option.isSome_iff_ne_none.2 h)]
    all_goals rw [Dev.pattern, quiet h, f]
    · rfl
    · simp [k]
    · simp [k, u]
    · simp [k, u]
  · exact d.indLit_iff

end Sys2Proof.Machine
end

section
/-! PROOFS. The layouts of bytes read back: fields behind fields, frames, page headers, settings records and journal
entries (R169, R170, R197, R198). -/

namespace Sys2Proof.Machine

/-! ### Fields -/

section
variable {a bs : List Byte} {k m n v : Nat}

theorem slice_behind (h : a.length ≤ k) : slice (a ++ bs) k n = slice bs (k - a.length) n := by
  simp [slice, List.drop_append, List.drop_eq_nil_of_le h]

@[simp] theorem field_behind (h : a.length ≤ k) : field (a ++ bs) k n = field bs (k - a.length) n := by
  rw [field, slice_behind h, field]

@[simp] theorem byte_behind (h : a.length ≤ k) : byte (a ++ bs) k = byte bs (k - a.length) := by
  simp [byte, List.getElem?_append_right h]

@[simp] theorem getD_behind (h : a.length ≤ k) (x : Byte) : (a ++ bs).getD k x = bs.getD (k - a.length) x := by
  simp [List.getElem?_append_right h]

@[simp] theorem field_cons (h : 1 ≤ k) (x : Byte) : field (x :: bs) k n = field bs (k - 1) n :=
  field_behind (a := [x]) h

@[simp] theorem byte_cons (h : 1 ≤ k) (x : Byte) : byte (x :: bs) k = byte bs (k - 1) := byte_behind (a := [x]) h

@[simp] theorem getD_cons_behind (h : 1 ≤ k) (x y : Byte) : (x :: bs).getD k y = bs.getD (k - 1) y :=
  getD_behind (a := [x]) h y

@[simp] theorem field_front : field (leBytes n v ++ bs) 0 n = v % 256 ^ n := by
  rw [field, slice, List.drop_zero, List.take_append_of_le_length (by simp), List.take_of_length_le (by simp),
    leNat_leBytes]

@[simp] theorem field_all : field (leBytes n v) 0 n = v % 256 ^ n := by
  simpa using field_front (bs := []) (n := n) (v := v)

@[simp] theorem byte_front : byte (leBytes 1 v ++ bs) 0 = v % 256 := by
  simp [byte, leBytes]

@[simp] theorem byte_all : byte (leBytes 1 v) 0 = v % 256 := by
  simp [byte, leBytes]

@[simp] theorem getD_front (x y : Byte) : ([x] ++ bs).getD 0 y = x := rfl

end

/-! ### CRC-16 -/

theorem crc_of_withCrc (bs : List Byte) : slice (withCrc bs) bs.length 2 = crcBytes ((withCrc bs).take bs.length) := by
  rw [withCrc, slice_append, List.take_left, List.take_of_length_le (by simp)]

theorem take_withCrc (bs : List Byte) : (withCrc bs).take bs.length = bs := List.take_left

/-! ### Frames -/

theorem frameLength_requestFrame (code tag : Byte) {payload : List Byte} (h : payload.length ≤ 520) :
    frameLength (requestFrame code tag payload) = payload.length := by
  unfold frameLength requestFrame withCrc
  rw [List.append_assoc, List.append_assoc, field_behind (by simp), List.append_assoc]
  exact field_front.trans (Nat.mod_eq_of_lt (by omega))

/-- Settles O11: the header's length gives the payload, and the CRC stands behind it. -/
theorem framesRoundTrip : Obligations.FramesRoundTrip := by
  refine ⟨by decide +kernel, fun code tag payload h => ?_⟩
  have payloadLength := frameLength_requestFrame code tag h
  have body : ([code, tag] ++ leBytes 2 payload.length ++ payload).length = 4 + payload.length := by simp; omega
  have frame : (requestFrame code tag payload).length = 6 + payload.length := by
    rw [requestFrame, length_withCrc, body]
    omega
  refine ⟨?_, ?_⟩
  · have crc := crc_of_withCrc ([code, tag] ++ leBytes 2 payload.length ++ payload)
    rw [body] at crc
    simp only [framePasses, payloadLength, frame, Bool.and_eq_true, decide_eq_true_eq, beq_iff_eq, Config.maxPayload]
    exact ⟨⟨⟨by omega, h⟩, trivial⟩, crc⟩
  · simp only [frameFields, payloadLength]
    have fields : slice (requestFrame code tag payload) 4 payload.length = payload := by
      rw [requestFrame, withCrc, List.append_assoc _ payload, slice_behind (by simp)]
      exact slice_prefix _ _
    rw [fields]
    rfl

/-! ### Page headers -/

theorem Header.length_fields (h : Header) : h.fields.length = 29 := by simp [Header.fields]

theorem Header.length_bytes (h : Header) : h.bytes.length = 32 := by simp [Header.bytes, Header.length_fields]

theorem Header.bytes_ne_erased (h : Header) (hk : h.kind < 255) (x : Byte) (l : List Byte) :
    h.fields ++ [x] ++ l ≠ List.replicate 32 0xFF := by
  intro he
  have first : BitVec.ofNat 8 h.kind = 0xFF := congrArg (List.getD · 0 0) he
  have := congrArg BitVec.toNat first
  simp at this
  omega

theorem Header.mark_at (h : Header) (x y : Byte) (l : List Byte) : (h.fields ++ [x] ++ l).getD 29 y = x := by
  rw [List.append_assoc, getD_behind (by simp [Header.length_fields]), Header.length_fields]
  rfl

theorem Header.crc_at (h : Header) (x : Byte) : slice (h.fields ++ [x] ++ crcBytes h.fields) 30 2
    = crcBytes ((h.fields ++ [x] ++ crcBytes h.fields).take 29) := by
  rw [slice_behind (by simp [Header.length_fields]), List.append_assoc, List.take_left' (by simp [Header.length_fields])]
  simp [Header.length_fields, slice, List.take_of_length_le]

theorem Header.fields_at (h : Header) (st : h.storable) (l : List Byte) :
    (⟨byte (h.fields ++ l) 0, field (h.fields ++ l) 1 4, field (h.fields ++ l) 5 4, byte (h.fields ++ l) 9,
      field (h.fields ++ l) 10 2, field (h.fields ++ l) 12 2, field (h.fields ++ l) 14 4⟩ : Header) = h := by
  obtain ⟨kind, epoch, incident, stream, seq, fill, firstSeq⟩ := h
  simp only [Header.storable, fits32] at st
  simp only [Header.fields, List.append_assoc]
  simp
  omega

theorem headerOutcome_good (h : Header) (st : h.storable) : headerOutcome h.bytes = .good h := by
  unfold headerOutcome Header.bytes
  rw [if_neg (h.bytes_ne_erased st.1 _ _), if_neg (by rw [h.mark_at]; exact fun n => n rfl), if_pos (h.crc_at _),
    List.append_assoc, h.fields_at st]

theorem headerOutcome_void (h : Header) (hk : h.kind < 255) : headerOutcome (h.bytes.set 29 0x00) = .void := by
  have marked : h.bytes.set 29 0x00 = h.fields ++ [0x00] ++ crcBytes h.fields := by
    rw [Header.bytes, List.append_assoc, List.set_append_right _ _ (by simp [Header.length_fields]), Header.length_fields,
      List.append_assoc]
    rfl
  rw [marked, headerOutcome, if_neg (h.bytes_ne_erased hk _ _), if_pos (by rw [h.mark_at]; decide)]

/-! ### Settings records -/

theorem Settings.length_bytes (x : Settings) : x.bytes.length = 39 := by
  simp [Settings.bytes, List.length_flatMap, List.map_const']

theorem vector_six {α : Type} (v : Vector α 6) : ∃ a b c d e f, v = #v[a, b, c, d, e, f] :=
  ⟨v[0], v[1], v[2], v[3], v[4], v[5], by
    ext i h
    match i, h with
    | 0, _ | 1, _ | 2, _ | 3, _ | 4, _ | 5, _ => rfl⟩

theorem ofFn_six {α : Type} (f : Fin 6 → α) : Vector.ofFn f = #v[f 0, f 1, f 2, f 3, f 4, f 5] := by
  ext i h
  match i, h with
  | 0, _ | 1, _ | 2, _ | 3, _ | 4, _ | 5, _ => rfl

theorem ofFn_five {α : Type} (f : Fin 5 → α) : Vector.ofFn f = #v[f 0, f 1, f 2, f 3, f 4] := by
  ext i h
  match i, h with
  | 0, _ | 1, _ | 2, _ | 3, _ | 4, _ => rfl

theorem vector_five {α : Type} (v : Vector α 5) : ∃ a b c d e, v = #v[a, b, c, d, e] :=
  ⟨v[0], v[1], v[2], v[3], v[4], by
    ext i h
    match i, h with
    | 0, _ | 1, _ | 2, _ | 3, _ | 4, _ => rfl⟩

theorem settingsOfBytes_bytes (x : Settings) (st : x.storable) : settingsOfBytes x.bytes = x := by
  obtain ⟨window, limit, historyWindow, flushInterval, credits, reserve, holdupDeadline, recharge, powerTrigger,
    lineEnables, filters, class0Reserve, rollOldest, poolLow, rights⟩ := x
  obtain ⟨f0, f1, f2, f3, f4, f5, rfl⟩ := vector_six filters
  obtain ⟨r0, r1, r2, r3, r4, rfl⟩ := vector_five rights
  simp only [Settings.storable, fits32] at st
  simp only [Settings.bytes, List.append_assoc]
  simp only [settingsOfBytes, ofFn_six, ofFn_five]
  simp
  obtain ⟨h1, h2, h3, h4, h5, h6, h7, h8, h9, hf, rest⟩ := st
  exact ⟨h1, h2, h3, h4, h5, h6, h7, h8, h9, ⟨hf 0, hf 1, hf 2, hf 3, hf 4, hf 5⟩, rest⟩

/-- Settles O13: each field is read where it was written. -/
theorem pageHeadersAndSettingsRoundTrip : Obligations.PageHeadersAndSettingsRoundTrip :=
  ⟨fun h st => ⟨h.length_bytes, headerOutcome_good h st, headerOutcome_void h st.1⟩,
    fun x st => ⟨x.length_bytes, settingsOfBytes_bytes x st⟩⟩

/-! ### Codes -/

@[simp] theorem causeOfCode_code (c : Cause) : causeOfCode (Cause.code c) = some c := by
  rcases c with _ | f | _ | p
  · rfl
  · cases f <;> rfl
  · rfl
  · cases p <;> rfl

theorem Cause.code_lt (c : Cause) : Cause.code c < 13 := by
  rcases c with _ | f | _ | p
  · decide
  · cases f <;> decide
  · decide
  · cases p <;> decide

@[simp] theorem sourceOfCode_code (x : Source) : sourceOfCode (Source.code x) = some x := by
  rcases x with p | _
  · cases p <;> rfl
  · rfl

theorem Source.code_lt (x : Source) : Source.code x < 7 := by
  rcases x with p | _
  · cases p <;> decide
  · decide

@[simp] theorem slotStateOfCode_code (x : SlotState) : slotStateOfCode (SlotState.code x) = some x := by cases x <;> rfl

theorem SlotState.code_lt (x : SlotState) : SlotState.code x < 4 := by cases x <;> decide

@[simp] theorem endKindOfCode_code (x : EndKind) : endKindOfCode (EndKind.code x) = some x := by cases x <;> rfl

theorem EndKind.code_lt (x : EndKind) : EndKind.code x < 5 := by cases x <;> decide

@[simp] theorem completenessOfCode_optCode (x : Option Completeness) :
    optOfCode completenessOfCode (optCode Completeness.code x) = some x := by
  rcases x with _ | x
  · rfl
  · cases x <;> rfl

theorem Completeness.optCode_lt (x : Option Completeness) : optCode Completeness.code x < 5 := by
  rcases x with _ | x
  · decide
  · cases x <;> decide

@[simp] theorem reasonOfCode_optCode (x : Option Reason) : optOfCode reasonOfCode (optCode Reason.code x) = some x := by
  rcases x with _ | x
  · rfl
  · cases x <;> rfl

theorem Reason.optCode_lt (x : Option Reason) : optCode Reason.code x < 5 := by
  rcases x with _ | x
  · decide
  · cases x <;> decide

/-! ### Journal entries -/

@[simp] theorem TriggerRecord.length_bytes (t : TriggerRecord) : (TriggerRecord.bytes t).length = 15 := by
  simp [TriggerRecord.bytes]

theorem length_padTo {n : Nat} {bs : List Byte} (h : bs.length ≤ n) : (padTo n bs).length = n := by
  simp [padTo]
  omega

theorem length_summaryBody (slot : Nat) (r : Incident) (n : Nat) : (summaryBody slot r n).length = 61 := by
  have ticks : ((r.secondary.take 4).flatMap fun e => leBytes 6 e.2.toNat).length ≤ 24 := by
    simp [List.length_flatMap, List.map_const']
    omega
  simp [summaryBody, TriggerRecord.length_bytes, length_padTo ticks]

theorem JEntry.length_head (e : JEntry) : e.head.length ≤ 62 := by
  cases e <;> simp [JEntry.head, TriggerRecord.length_bytes, length_summaryBody, streamBody]

theorem JEntry.length_padded (e : JEntry) : (padTo 62 e.head).length = 62 := length_padTo e.length_head

theorem JEntry.length_bytes (e : JEntry) : e.bytes.length = 64 := by
  rw [JEntry.bytes, length_withCrc, e.length_padded]

theorem JEntry.bytes_good (e : JEntry) : jGood e.bytes = true := by
  have crc := crc_of_withCrc (padTo 62 e.head)
  rw [e.length_padded] at crc
  exact beq_iff_eq.2 crc

theorem tick_mod (t : Tick) : t.toNat % 281474976710656 = t.toNat := Nat.mod_eq_of_lt t.isLt

theorem word_mod (x : BitVec 64) : x.toNat % 18446744073709551616 = x.toNat := Nat.mod_eq_of_lt x.isLt

/-- A trigger record reads back behind what stands before it. -/
@[simp] theorem triggerAt_bytes (t : TriggerRecord) (bs : List Byte) :
    triggerAt (TriggerRecord.bytes t ++ bs) t.cause 0 t.wall.isSome = t := by
  obtain ⟨cause, tick, wall, snapshot⟩ := t
  have at14 (x : Nat) : (leBytes 6 tick.toNat ++ (leBytes 8 x ++ snapshot :: bs))[14]?.getD 0#8 = snapshot := by
    rw [List.getElem?_append_right (by simp), List.getElem?_append_right (by simp)]
    simp
  cases wall <;> simp [triggerAt, TriggerRecord.bytes, tick_mod, word_mod, at14]

@[simp] theorem triggerAt_behind {a bs : List Byte} {k : Nat} (h : a.length ≤ k) (c : Cause) (w : Bool) :
    triggerAt (a ++ bs) c k w = triggerAt bs c (k - a.length) w := by
  have six : k + 6 - a.length = k - a.length + 6 := by omega
  have fourteen : k + 14 - a.length = k - a.length + 14 := by omega
  simp only [triggerAt, field_behind h, field_behind (Nat.le_add_right_of_le h : a.length ≤ k + 6),
    getD_behind (Nat.le_add_right_of_le h : a.length ≤ k + 14), six, fourteen]



@[simp] theorem bit_flags {x y : Bool} : bit (flag x + 2 * flag y) 1 = y := by cases x <;> cases y <;> rfl

theorem JEntry.bytes_eq (e : JEntry) :
    e.bytes = e.head ++ (List.replicate (62 - e.head.length) 0 ++ crcBytes (padTo 62 e.head)) := by
  rw [JEntry.bytes, withCrc, padTo, List.append_assoc]

@[simp] theorem byte_first (x : Byte) (bs : List Byte) : byte (x :: bs) 0 = x.toNat := rfl

@[simp] theorem bit_flag (x : Bool) : bit (flag x) 0 = x := by cases x <;> rfl

@[simp] theorem bit_double_flag (x : Bool) : bit (2 * flag x) 1 = x := by cases x <;> rfl

@[simp] theorem bit_zero_flags (x y : Bool) : bit (flag x + 2 * flag y) 0 = x := by cases x <;> cases y <;> rfl

theorem flag_lt (x : Bool) : flag x < 2 := by cases x <;> decide

@[simp] theorem triggerAt_cons {k : Nat} (h : 1 ≤ k) (x : Byte) (bs : List Byte) (c : Cause) (w : Bool) :
    triggerAt (x :: bs) c k w = triggerAt bs c (k - 1) w := triggerAt_behind (a := [x]) h c w

/-- A declared length stands behind its flag as it is, and as 0 where there is none. -/
@[simp] theorem declaredAt_flag {n : Option Nat} {b : List Byte} {k : Nat} (h : field b k 4 = n.getD 0) :
    declaredAt b n.isSome k = n := by
  cases n <;> simp_all [declaredAt]

theorem JEntry.decode_incidentOpen {slot number ep first last : Nat} (t : TriggerRecord) (shortened : Bool)
    (h : (JEntry.incidentOpen slot number ep t first last shortened).storable) (more : List Byte) :
    JEntry.decode ((JEntry.incidentOpen slot number ep t first last shortened).head ++ more)
      = some (.incidentOpen slot number ep t first last shortened) := by
  have cause := Nat.mod_eq_of_lt (t.cause.code_lt.trans (by decide : 13 < 256))
  have flags : (flag t.wall.isSome + 2 * flag shortened) % 256 = flag t.wall.isSome + 2 * flag shortened := by
    have := flag_lt t.wall.isSome
    have := flag_lt shortened
    omega
  simp only [JEntry.storable, fits32] at h
  simp [JEntry.decode, JEntry.head, cause, flags]
  omega

theorem JEntry.decode_streamOpen {number stream cls : Nat} (source : Source) (label : BitVec 64) (declared : Option Nat)
    (h : (JEntry.streamOpen number stream source cls label declared).storable) (more : List Byte) :
    JEntry.decode ((JEntry.streamOpen number stream source cls label declared).head ++ more)
      = some (.streamOpen number stream source cls label declared) := by
  have src := Nat.mod_eq_of_lt (source.code_lt.trans (by decide : 7 < 256))
  have flags := Nat.mod_eq_of_lt ((flag_lt declared.isSome).trans (by decide : 2 < 256))
  simp only [JEntry.storable, fits32] at h
  obtain ⟨hn, hs, hc, hd⟩ := h
  have fits : declared.getD 0 % 4294967296 = declared.getD 0 := by cases declared <;> simp_all
  simp [JEntry.decode, JEntry.head, src, flags, fits, word_mod]
  omega

theorem JEntry.decode_streamSummary {number : Nat} (r : StreamRec) (h : (JEntry.streamSummary number r).storable) (more : List Byte) :
    JEntry.decode ((JEntry.streamSummary number r).head ++ more) = some (.streamSummary number r) := by
  have src := Nat.mod_eq_of_lt (r.source.code_lt.trans (by decide : 7 < 256))
  have kind := Nat.mod_eq_of_lt (r.endKind.code_lt.trans (by decide : 5 < 256))
  have reason := Nat.mod_eq_of_lt ((Reason.optCode_lt r.reason).trans (by decide : 5 < 256))
  have flags : (flag r.declared.isSome + 2 * flag r.short) % 256 = flag r.declared.isSome + 2 * flag r.short := by
    have := flag_lt r.declared.isSome
    have := flag_lt r.short
    omega
  obtain ⟨hnumber, hn, hc, hd, ha, hm, hp⟩ := h
  have fits : r.declared.getD 0 % 4294967296 = r.declared.getD 0 := by cases hr : r.declared <;> simp_all
  simp [JEntry.decode, streamAt, JEntry.head, streamBody, src, kind, reason, flags, fits, word_mod]
  refine ⟨hnumber, ?_⟩
  rw [Nat.mod_eq_of_lt hn, Nat.mod_eq_of_lt hc, Nat.mod_eq_of_lt (b := 4294967296) ha,
    Nat.mod_eq_of_lt (b := 4294967296) hm, Nat.mod_eq_of_lt hp]

/-! The secondary triggers: digit `k` of the causes and stamp `k` of the ticks are those of trigger `k`. -/

theorem digit_of_causes (l : List (Cause × Tick)) (k : Nat) :
    l.foldr (fun e n => Cause.code e.1 + 16 * n) 0 / 16 ^ k % 16 = (l[k]?.map fun e => Cause.code e.1).getD 0 := by
  induction l generalizing k with
  | nil => simp
  | cons e l ih =>
    have code := e.1.code_lt
    cases k with
    | zero => simp; omega
    | succ k =>
      have rest (n : Nat) : (Cause.code e.1 + 16 * n) / 16 = n := by omega
      rw [Nat.pow_succ', ← Nat.div_div_eq_div_mul, List.foldr_cons, rest, ih]
      simp

theorem causes_lt (l : List (Cause × Tick)) : l.foldr (fun e n => Cause.code e.1 + 16 * n) 0 < 16 ^ l.length := by
  induction l with
  | nil => simp
  | cons e l ih =>
    have code := e.1.code_lt
    rw [List.foldr_cons, List.length_cons, Nat.pow_succ']
    omega

theorem stamp_of_ticks (l : List (Cause × Tick)) (k : Nat) (hk : k < l.length) (more : List Byte) :
    field ((l.flatMap fun e => leBytes 6 e.2.toNat) ++ more) (6 * k) 6 = l[k].2.toNat := by
  induction l generalizing k with
  | nil => simp at hk
  | cons e l ih =>
    rw [List.flatMap_cons, List.append_assoc]
    cases k with
    | zero => simp [tick_mod]
    | succ k =>
      rw [field_behind (by simp)]
      simpa [Nat.mul_add] using ih k (by simpa using hk)

theorem JEntry.decode_streamEnd {number stream accepted committed pages : Nat} (k : EndKind) (r : Option Reason)
    (short : Bool) (h : (JEntry.streamEnd number stream k r short accepted committed pages).storable)
    (more : List Byte) : JEntry.decode ((JEntry.streamEnd number stream k r short accepted committed pages).head ++ more)
      = some (.streamEnd number stream k r short accepted committed pages) := by
  have kind := Nat.mod_eq_of_lt (k.code_lt.trans (by decide : 5 < 256))
  have reason := Nat.mod_eq_of_lt ((Reason.optCode_lt r).trans (by decide : 5 < 256))
  have flags : 2 * flag short % 256 = 2 * flag short := by
    have := flag_lt short
    omega
  simp only [JEntry.storable, fits32] at h
  simp [JEntry.decode, JEntry.head, kind, reason, flags]
  omega

/-- What one record of Table 13.9 adds to the triggers behind it: a step of `secondaryAt`. -/
def secondaryStep (b : List Byte) (k : Nat) (acc : Option (List (Cause × Tick))) : Option (List (Cause × Tick)) :=
  let c := field b 36 2 / 16 ^ k % 16
  if c = 0 then acc
  else match causeOfCode c, acc with
    | some cause, some l => some ((cause, BitVec.ofNat 48 (field b (38 + 6 * k) 6)) :: l)
    | _, _ => none

theorem secondaryAt_eq_foldr (b : List Byte) : secondaryAt b = (List.range' 0 4).foldr (secondaryStep b) (some []) := rfl

theorem field_drop (b : List Byte) (i k n : Nat) : field (b.drop i) k n = field b (i + k) n := by
  simp [field, slice]

/-- The secondary triggers of Table 13.9 read back, whatever stands before and behind them. -/
theorem secondaryAt_eq (l : List (Cause × Tick)) (hl : l.length ≤ 4) (causes : ∀ e ∈ l, e.1 ≠ .none) (b : List Byte)
    (hc : field b 36 2 = secondaryCauses l) (ht : ∀ k (h : k < l.length), field b (38 + 6 * k) 6 = l[k].2.toNat) :
    secondaryAt b = some l := by
  have digit (k : Nat) : field b 36 2 / 16 ^ k % 16 = (l[k]?.map fun e => Cause.code e.1).getD 0 := by
    rw [hc, secondaryCauses, List.take_of_length_le hl, digit_of_causes]
  have used (k : Nat) (h : k < l.length) : Cause.code l[k].1 ≠ 0 := by
    intro zero
    have := causeOfCode_code l[k].1
    rw [zero] at this
    exact causes _ (List.getElem_mem h) (Option.some.inj this).symm
  have behind (n k : Nat) (h : k + n = 4) :
      (List.range' k n).foldr (secondaryStep b) (some []) = some (l.drop k) := by
    induction n generalizing k with
    | zero => simp; omega
    | succ n ih =>
      rw [List.range'_succ, List.foldr_cons, ih (k + 1) (by omega)]
      by_cases hk : k < l.length
      · rw [List.drop_eq_getElem_cons hk]
        simp [secondaryStep, digit, hk, used k hk, ht k hk]
      · simp [secondaryStep, digit, hk]
        omega
  exact behind 4 0 rfl

/-- The flags of an INCIDENT_SUMMARY and the completeness above them read back from their byte. -/
theorem summaryFlags_read (a b c d : Bool) {n : Nat} (h : n < 8) :
    (flag a + 2 * flag b + 4 * flag c + 8 * flag d + 16 * n) % 256 = flag a + 2 * flag b + 4 * flag c + 8 * flag d + 16 * n
    ∧ bit (flag a + 2 * flag b + 4 * flag c + 8 * flag d + 16 * n) 0 = a
    ∧ bit (flag a + 2 * flag b + 4 * flag c + 8 * flag d + 16 * n) 1 = b
    ∧ bit (flag a + 2 * flag b + 4 * flag c + 8 * flag d + 16 * n) 2 = c
    ∧ bit (flag a + 2 * flag b + 4 * flag c + 8 * flag d + 16 * n) 3 = d
    ∧ (flag a + 2 * flag b + 4 * flag c + 8 * flag d + 16 * n) / 16 % 8 = n := by
  have flagTest (x : Bool) : x = decide (flag x = 1) := by cases x <;> rfl
  have la := flag_lt a
  have lb := flag_lt b
  have lc := flag_lt c
  have ld := flag_lt d
  refine ⟨by omega, ?_, ?_, ?_, ?_, by omega⟩
  · rw [bit, Nat.testBit_eq_decide_div_mod_eq]
    exact (decide_eq_decide.2 (by omega)).trans (flagTest a).symm
  · rw [bit, Nat.testBit_eq_decide_div_mod_eq]
    exact (decide_eq_decide.2 (by omega)).trans (flagTest b).symm
  · rw [bit, Nat.testBit_eq_decide_div_mod_eq]
    exact (decide_eq_decide.2 (by omega)).trans (flagTest c).symm
  · rw [bit, Nat.testBit_eq_decide_div_mod_eq]
    exact (decide_eq_decide.2 (by omega)).trans (flagTest d).symm

theorem JEntry.decode_incidentSummary {slot streams : Nat} (r : Incident)
    (h : (JEntry.incidentSummary slot r streams).storable) (more : List Byte) :
    JEntry.decode ((JEntry.incidentSummary slot r streams).head ++ more) = some (.incidentSummary slot r streams) := by
  obtain ⟨hslot, ⟨hnumber, hepoch, hsecondary, hoverflow, hstreams, hfirst, hlast, hcauses⟩, hn⟩ := h
  have causes : secondaryCauses r.secondary < 65536 := by
    rw [secondaryCauses, List.take_of_length_le hsecondary]
    exact (causes_lt _).trans_le (Nat.pow_le_pow_right (by decide : 16 > 0) hsecondary)
  have cause := r.primary.cause.code_lt
  have stateCode := r.state.code_lt
  have secondary : secondaryAt ((JEntry.incidentSummary slot r streams).head ++ more) = some r.secondary := by
    refine secondaryAt_eq _ hsecondary hcauses _ ?_ fun k hk => ?_
    · simp [JEntry.head, summaryBody]
      omega
    · have ticks : ((JEntry.incidentSummary slot r streams).head ++ more).drop 38
          = (r.secondary.flatMap fun e => leBytes 6 e.2.toNat) ++ (List.replicate
            (24 - (r.secondary.flatMap fun e => leBytes 6 e.2.toNat).length) 0 ++ more) := by
        simp [JEntry.head, summaryBody, padTo, List.drop_append, List.take_of_length_le hsecondary, List.drop_of_length_le]
      rw [← field_drop, ticks, stamp_of_ticks _ k hk]
  have byte1 : (slot + 32 * SlotState.code r.state) % 256 = slot + 32 * SlotState.code r.state := by omega
  have state : (slot + 32 * SlotState.code r.state) / 32 % 4 = SlotState.code r.state := by omega
  have slotBits : (slot + 32 * SlotState.code r.state) % 32 = slot := by omega
  have byte10 : (Cause.code r.primary.cause + 16 * streams) % 256 = Cause.code r.primary.cause + 16 * streams := by omega
  have primary : Cause.code r.primary.cause % 16 = Cause.code r.primary.cause := by omega
  have count : (Cause.code r.primary.cause + 16 * streams) / 16 = streams := by omega
  obtain ⟨small, wall, shortened, held, retrieved, completeness⟩ := summaryFlags_read r.primary.wall.isSome r.shortened
    r.held r.retrieved ((Completeness.optCode_lt r.completeness).trans (by decide : 5 < 8))
  simp [JEntry.decode, summaryAt, secondary]
  simp [JEntry.head, summaryBody, byte1, state, slotBits, byte10, primary, count, small, wall, shortened, held,
    retrieved, completeness, Nat.mod_eq_of_lt hoverflow]
  rw [Nat.mod_eq_of_lt (b := 4294967296) hnumber, Nat.mod_eq_of_lt (b := 4294967296) hepoch,
    Nat.mod_eq_of_lt (b := 4294967296) hfirst, Nat.mod_eq_of_lt (b := 4294967296) hlast, ← hstreams]

theorem JEntry.decode_head (e : JEntry) (h : e.storable) (more : List Byte) :
    JEntry.decode (e.head ++ more) = some e := by
  cases e
  case incidentOpen slot number ep t first last shortened => exact JEntry.decode_incidentOpen t shortened h more
  case streamOpen number stream source cls label declared => exact JEntry.decode_streamOpen source label declared h more
  case streamEnd number stream k r short a c pages => exact JEntry.decode_streamEnd k r short h more
  case triggerAdd number cause tick =>
    have c := Nat.mod_eq_of_lt (cause.code_lt.trans (by decide : 13 < 256))
    simp only [JEntry.storable, fits32] at h
    simp [JEntry.decode, JEntry.head, c, tick_mod]
    omega
  case incidentClose number completeness overflow =>
    have c := Nat.mod_eq_of_lt ((Completeness.optCode_lt completeness).trans (by decide : 5 < 256))
    simp only [JEntry.storable, fits32] at h
    simp [JEntry.decode, JEntry.head, c]
    omega
  case incidentSummary slot r streams => exact JEntry.decode_incidentSummary r h more
  case streamSummary number r => exact JEntry.decode_streamSummary r h more
  case reclaimStart zone => simp [JEntry.decode, JEntry.head, Fin.ofNat, Nat.mod_eq_of_lt zone.isLt]
  case reclaimDone zone => simp [JEntry.decode, JEntry.head, Fin.ofNat, Nat.mod_eq_of_lt zone.isLt]
  case zoneDefect zone => simp [JEntry.decode, JEntry.head, Fin.ofNat, Nat.mod_eq_of_lt zone.isLt]
  all_goals
    simp only [JEntry.storable, fits32] at h
    simp [JEntry.decode, JEntry.head]
    omega

/-- Settles O12: each kind's named bytes read back field by field, whatever fills the entry behind them. -/
theorem journalEntriesRoundTrip : Obligations.JournalEntriesRoundTrip := fun e h =>
  ⟨e.length_bytes, e.bytes_good, by rw [e.bytes_eq, e.decode_head h]⟩

end Sys2Proof.Machine
end


section
/-! PROOFS. Requests: each is served by one function, the order of the tests of Table 10.3, the ranges of the fields,
and the rights. -/

namespace Sys2Proof.Machine

/-- What serves a request that passes the tests of Table 10.3 (R171). -/
def Request.serve : Request → Memory → Port → List Byte → Dev → Dev
  | .openStream, _, p, b => Dev.serveOpenStream p b
  | .append, _, p, b => Dev.serveAppend p b
  | .withdraw, _, p, b => Dev.serveWithdraw p b
  | .logEvent, _, p, b => Dev.serveLogEvent p b
  | .declare, _, p, _ => Dev.serveDeclare p
  | .getStatus, _, p, _ => Dev.serveGetStatus p
  | .nextNotice, _, p, _ => Dev.serveNextNotice p
  | .readParams, _, p, _ => Dev.serveReadParams p
  | .listIncidents, _, p, _ => Dev.serveListIncidents p
  | .readIncident, _, p, b => Dev.serveReadIncident p b
  | .readStream, _, p, b => Dev.serveReadStream p b
  | .readMore, flash, p, _ => Dev.serveReadMore flash p
  | .readHistory, flash, p, b => Dev.serveReadHistory flash p b
  | .release, _, p, b => Dev.serveRelease p b
  | .hold, _, p, b => Dev.serveHold true p b
  | .unhold, _, p, b => Dev.serveHold false p b
  | .locate, _, p, b => Dev.serveLocate p b
  | .setWalltime, _, p, b => Dev.serveSetWalltime p b
  | .getSettings, _, p, b => Dev.serveGetSettings p b
  | .putSettings, _, p, b => Dev.servePutSettings p b
  | .saveSettings, _, p, _ => Dev.serveSaveSettings p

theorem exec_instr (r : Request) (p : Port) (tag : Byte) (b : List Byte) (s : State) :
    exec (r.instr p tag b) s = s.act (·.arrive p r tag b (r.serve s.flash p b)) := by
  cases r <;> rfl

theorem need_eq_some {ok : Bool} {s : Status} {x : Status × ReplyBody} (h : need ok s = some x) : x.1 = s := by
  cases ok <;> simp_all [need]
  rw [← h]

theorem modeTest_ne_unknown {d : Dev} {r : Request} {x : Status × ReplyBody} (h : modeTest d r = some x) :
    x.1 ≠ .unknownRequest := by
  unfold modeTest at h
  split at h
  · cases h
  · split at h
    · cases h; decide
    · split at h
      · cases h; decide
      · rw [need_eq_some h]; decide

theorem valueTest_badValue {r : Request} {b : List Byte} {x : Status × ReplyBody} (h : valueTest r b = some x) :
    x.1 = .badValue := by
  cases r
  case putSettings =>
    obtain ⟨i, -, rfl⟩ := Option.map_eq_some_iff.1 h
    rfl
  case openStream | append | logEvent | readIncident | release | hold | unhold | readStream | locate | getSettings =>
    exact need_eq_some h
  all_goals cases h

theorem judge_ne_unknown {d : Dev} {p : Port} {r : Request} {b : List Byte} {x : Status × ReplyBody}
    (h : judge d p r b = some x) : x.1 ≠ .unknownRequest := by
  unfold judge Refused.orElse' at h
  split at h
  next y hy => cases h; rw [need_eq_some hy]; decide
  next =>
    split at h
    next y hy => cases h; rw [valueTest_badValue hy]; decide
    next =>
      split at h
      next y hy => cases h; rw [need_eq_some hy]; decide
      next => exact modeTest_ne_unknown h

section
variable {r : Request} {p : Port} {tag : Byte} {b : List Byte} {s : State}

theorem exec_refused (h : s.hears p b) {status : Status} {body : ReplyBody} (hj : judge s.dev p r b = some (status, body)) :
    exec (r.instr p tag b) s = .next (s.onlyAnswers p b (r.says tag status 0 body)) := by
  rw [exec_instr, State.act_refused h hj (judge_ne_unknown hj)]

theorem exec_served (h : s.reaches p r b) : exec (r.instr p tag b) s
    = .next { s with dev := r.serve s.flash p b (s.dev.takeFrame p r.code tag b) } := by
  rw [exec_instr, State.act_reaches h]

/-- A request that is served by its reply alone changes nothing else. -/
theorem exec_onlyAnswers (h : s.reaches p r b) {status : Status} {flags : Byte} {body : ReplyBody}
    (hs : status ≠ .unknownRequest)
    (hserve : r.serve s.flash p b (s.dev.takeFrame p r.code tag b)
      = (s.dev.takeFrame p r.code tag b).reply p status flags body) :
    exec (r.instr p tag b) s = .next (s.onlyAnswers p b (r.says tag status flags body)) := by
  rw [exec_served h, hserve, Dev.takeFrame_reply _ _ _ _ _ hs]
  rfl

end

/-! ### The tests of Table 10.3 -/

theorem rightTest_noRight {d : Dev} {p : Port} {r : Request} {b : List Byte}
    (h : (∃ x, r.right = some x ∧ d.holds p x = false) ∨ r.allowsPort p = false) :
    rightTest d p r b = some (.noRight, .empty) := by
  unfold rightTest
  obtain ⟨x, hx, hh⟩ | hp := h
  · simp [need, hx, hh]
  · simp [need, hp]

/-- A PUT_SETTINGS that changes the rights fields is refused at every port but SVC, with its right or without (R179). -/
theorem rightTest_putSettings {d : Dev} {p : Port} {b : List Byte} (hp : p ≠ .svc)
    (h : (settingsOfBytes b).rights ≠ d.sst.pending.rights) :
    rightTest d p .putSettings b = some (.noRight, .empty) := by
  simp [rightTest, need, hp, h]

theorem Request.refusedByStoreFailed_iff (r : Request) : r.refusedByStoreFailed = true
    ↔ r = .openStream ∨ r = .append ∨ r = .withdraw ∨ r = .declare ∨ r = .saveSettings := by
  cases r <;> simp [Request.refusedByStoreFailed]

section
variable {d : Dev} {r : Request}

theorem modeTest_start (h : d.hum.mode = .start) (hr : r ≠ .getStatus) (hq : r ≠ .readParams) :
    modeTest d r = some (.starting, .empty) := by
  simp [modeTest, h, hr, hq]

theorem modeTest_exhausted (h : d.hum.mode = .exhausted) (hr : r ≠ .getStatus) (hq : r ≠ .readParams) :
    modeTest d r = some (.exhausted, .empty) := by
  simp [modeTest, h, hr, hq]

theorem modeTest_running (h : d.hum.mode = .normal ∨ d.hum.mode = .holdup) (hr : r ≠ .getStatus)
    (hq : r ≠ .readParams) : modeTest d r = need (!(d.arc.storeFailed && r.refusedByStoreFailed)) .storeFailed := by
  rcases h with h | h <;> simp [modeTest, h, hr, hq]

end

/-! ### The ranges of the fields -/

theorem need_iff {ok : Bool} {P : Prop} (h : ok = true ↔ ¬P) (s : Status) :
    (P → need ok s = some (s, .empty)) ∧ (¬P → need ok s = none) := by
  cases ok <;> simp_all [need]

theorem field_one (b : List Byte) (k : Nat) : field b k 1 = byte b k := by
  by_cases h : k < b.length
  · rw [field, slice, byte, List.drop_eq_getElem_cons h, List.take_succ_cons]
    simp [leNat, h]
  · simp [field, slice, byte, List.drop_of_length_le (not_lt.1 h), List.getElem?_eq_none (not_lt.1 h)]
    rfl

/-- The range of one field of a settings record, as Table 12.1 gives its place in the payload. -/
def FieldOutside (b : List Byte) (i offset size least most : Nat) (index : Nat) : Prop :=
  index = i ∧ ¬(least ≤ field b offset size ∧ field b offset size ≤ most)

/-- The fields of a settings record that Table 12.1 refuses. -/
def SettingsOutside (b : List Byte) (i : Nat) : Prop :=
  FieldOutside b 1 0 2 100 60000 i ∨ FieldOutside b 2 2 4 1000 600000 i ∨ FieldOutside b 3 6 2 0 4096 i
    ∨ FieldOutside b 4 8 2 10 10000 i ∨ FieldOutside b 5 10 2 8 1000 i ∨ FieldOutside b 6 12 1 2 32 i
    ∨ (i = 6 ∧ field b 10 2 ≤ field b 12 1) ∨ FieldOutside b 7 13 2 1 1000 i ∨ FieldOutside b 8 15 2 0 60000 i
    ∨ FieldOutside b 9 17 1 0 1 i ∨ FieldOutside b 10 18 1 0 31 i ∨ FieldOutside b 17 31 1 0 16 i
    ∨ FieldOutside b 18 32 1 0 1 i ∨ FieldOutside b 19 33 1 0 64 i
    ∨ (20 ≤ i ∧ i ≤ 24 ∧ (b.getD (i + 14) 0).getLsbD 5 = true)

theorem fieldOk_iff (b : List Byte) (i : Nat) : (settingsOfBytes b).fieldOk i = false ↔ SettingsOutside b i := by
  match i with
  | 0 | 1 | 2 | 3 | 4 | 5 | 7 | 8 | 9 | 11 | 12 | 13 | 14 | 15 | 16 | 17 | 18 | 19 =>
    simp [SettingsOutside, FieldOutside, Settings.fieldOk, settingsOfBytes, field_one]
  | 6 | 10 =>
    simp [SettingsOutside, FieldOutside, Settings.fieldOk, settingsOfBytes, field_one, byte]
    omega
  | 20 | 21 | 22 | 23 | 24 =>
    simp [SettingsOutside, FieldOutside, Settings.fieldOk, settingsOfBytes]
    rfl
  | n + 25 => simp [SettingsOutside, FieldOutside, Settings.fieldOk]

theorem SettingsOutside.index_mem {b : List Byte} {i : Nat} (h : SettingsOutside b i) : i ∈ List.range' 1 24 := by
  simp only [SettingsOutside, FieldOutside] at h
  simp
  omega

theorem firstBad_none_iff (b : List Byte) : (settingsOfBytes b).firstBad = none ↔ ∀ i, ¬SettingsOutside b i := by
  rw [Settings.firstBad, List.find?_eq_none]
  refine ⟨fun h i hi => h i hi.index_mem ?_, fun h i _ => ?_⟩
  · simp [(fieldOk_iff b i).2 hi]
  · simpa [← fieldOk_iff] using h i

theorem firstBad_some {b : List Byte} {i : Nat} (h : SettingsOutside b i) (first : ∀ j, j < i → ¬SettingsOutside b j) :
    (settingsOfBytes b).firstBad = some i := by
  rw [Settings.firstBad, List.find?_range'_eq_some]
  refine ⟨by simp [(fieldOk_iff b i).2 h], h.index_mem, fun j _ hj => ?_⟩
  simpa [← fieldOk_iff] using first j hj

/-! ### The parts of the statement -/

/-- The tests of Table 10.3 in their order. -/
theorem judge_in_order (d : Dev) (p : Port) (r : Request) (b : List Byte) :
    (lengthOk r b.length = false → judge d p r b = some (.badLength, .empty))
    ∧ (lengthOk r b.length = true → (∀ x, valueTest r b = some x → judge d p r b = some x))
    ∧ (lengthOk r b.length = true → valueTest r b = none → r ≠ .getStatus → r ≠ .readParams →
        (((∃ x, r.right = some x ∧ d.holds p x = false) ∨ r.allowsPort p = false) →
            judge d p r b = some (.noRight, .empty))
        ∧ (rightTest d p r b = none →
            (d.hum.mode = .start → judge d p r b = some (.starting, .empty))
            ∧ (d.hum.mode = .exhausted → judge d p r b = some (.exhausted, .empty))
            ∧ (d.hum.mode = .normal ∨ d.hum.mode = .holdup →
                (d.arc.storeFailed = true →
                  r = .openStream ∨ r = .append ∨ r = .withdraw ∨ r = .declare ∨ r = .saveSettings →
                  judge d p r b = some (.storeFailed, .empty))
                ∧ ((d.arc.storeFailed = false ∨ ¬(r = .openStream ∨ r = .append ∨ r = .withdraw ∨ r = .declare
                    ∨ r = .saveSettings)) → judge d p r b = none)))) := by
  refine ⟨judge_of_lengthOk_false, fun hl x => judge_of_valueTest hl, fun hl hv hr hq =>
    ⟨fun h => judge_of_rightTest hl hv (rightTest_noRight h), fun h => ?_⟩⟩
  rw [judge_eq_modeTest hl hv h]
  refine ⟨fun hm => modeTest_start hm hr hq, fun hm => modeTest_exhausted hm hr hq, fun hm => ?_⟩
  rw [modeTest_running hm hr hq, ← Request.refusedByStoreFailed_iff]
  refine ⟨fun hs hf => by simp [need, hs, hf], fun h => ?_⟩
  rcases h with hs | hf
  · simp [need, hs]
  · simp [need, hf]

theorem reset_holds_socket (p : Port) (hp : p = .s0 ∨ p = .s1 ∨ p = .s2 ∨ p = .s3) (x : Right) :
    State.reset.dev.holds p x = (x == .capture || x == .event || x == .declare) := by
  rcases hp with rfl | rfl | rfl | rfl <;> cases x <;> decide

theorem reset_holds_mgt (x : Right) : State.reset.dev.holds .mgt x
    = (x == .event || x == .declare || x == .read || x == .release || x == .config || x == .locate) := by
  cases x <;> decide

theorem lengthOk_table (n : Nat) :
    (lengthOk .openStream n = true ↔ n = 9 ∨ n = 13) ∧ (lengthOk .append n = true ↔ 4 ≤ n ∧ n ≤ 515)
    ∧ (lengthOk .withdraw n = true ↔ n = 2) ∧ (lengthOk .logEvent n = true ↔ n = 3 ∨ n = 11 ∨ n = 27)
    ∧ (lengthOk .readStream n = true ↔ n = 9) ∧ (lengthOk .setWalltime n = true ↔ n = 8)
    ∧ (lengthOk .putSettings n = true ↔ n = 39)
    ∧ (∀ r ∈ [Request.locate, .getSettings], lengthOk r n = true ↔ n = 1)
    ∧ (∀ r ∈ [Request.readIncident, .readHistory, .release, .hold, .unhold], lengthOk r n = true ↔ n = 4)
    ∧ (∀ r ∈ [Request.declare, .getStatus, .nextNotice, .readParams, .listIncidents, .readMore, .saveSettings],
        lengthOk r n = true ↔ n = 0) := by
  simp [lengthOk, Config.maxData, or_assoc]

theorem right_table :
    (∀ r ∈ [Request.openStream, .append, .withdraw], r.right = some .capture)
    ∧ Request.logEvent.right = some .event ∧ Request.declare.right = some .declare
    ∧ (∀ r ∈ [Request.listIncidents, .readIncident, .readStream, .readMore, .readHistory], r.right = some .read)
    ∧ Request.release.right = some .release ∧ Request.locate.right = some .locate
    ∧ (∀ r ∈ [Request.hold, .unhold], r.right = some .hold)
    ∧ (∀ r ∈ [Request.setWalltime, .getSettings, .putSettings, .saveSettings], r.right = some .config)
    ∧ (∀ r ∈ [Request.nextNotice, .getStatus, .readParams], r.right = none)
    ∧ (∀ (r : Request) (p : Port), r.allowsPort p = true ↔
        (r ≠ .hold ∧ r ≠ .unhold ∧ r ≠ .nextNotice) ∨ p = .svc ∨ (r = .nextNotice ∧ p = .mgt)) := by
  refine ⟨by decide, rfl, rfl, by decide, rfl, rfl, by decide, by decide, by decide, fun r p => ?_⟩
  cases r <;> cases p <;> decide

/-- Settles O15: the first test that fails decides, and each test is the one of the request's rule. -/
theorem requestsAreRefusedInOrder : Obligations.RequestsAreRefusedInOrder := by
  refine ⟨fun r p tag b s status body h hj => exec_refused h hj, judge_in_order,
    ⟨reset_holds_socket, reset_holds_mgt, Dev.holds_svc⟩, lengthOk_table, fun b => ?_, right_table,
    fun p tag b s h hl hv hp hq => ?_⟩
  · refine ⟨fun hb => need_iff (by simp [hb]) _, fun hb => need_iff (by simp [hb]) _,
      need_iff (by simp) _, need_iff (by simp) _, need_iff (by simp) _, need_iff (by simp) _,
      need_iff (by simp) _, ?_, ?_, fun h => ?_, fun i h first => ?_⟩
    · simp only [List.forall_mem_cons, List.not_mem_nil, false_implies, implies_true, and_true]
      exact ⟨need_iff (by simp) _, need_iff (by simp) _, need_iff (by simp) _, need_iff (by simp) _⟩
    · simp [valueTest]
    · rw [valueTest, (firstBad_none_iff b).2 h]
      rfl
    · rw [valueTest, firstBad_some h first]
      rfl
  · have rights : (settingsOfBytes b).rights ≠ s.dev.sst.pending.rights := fun same => by
      obtain ⟨q, hq⟩ := hq
      exact hq (by rw [same])
    have valued : valueTest .putSettings b = none := by rw [valueTest, hv]; rfl
    exact exec_refused h (judge_of_rightTest (by simp [lengthOk, hl]) valued (rightTest_putSettings hp rights))

end Sys2Proof.Machine
end


section
/-! PROOFS. Frames at the ports (R168 to R176): frames at a busy port, frames of no request, bad frames, gaps, fetches. -/

namespace Sys2Proof.Machine

/-! ### Frames at a busy port -/

theorem Dev.hearFrame_countOverlap (d : Dev) (p : Port) (n : Nat) :
    (d.hearFrame p n).countOverlap p = d.setPort p { d.port p with
      overlap := min 255 ((d.port p).overlap + 1)
      sent := if p = .mgt ∨ p = .svc then (d.port p).sent else List.replicate n 0xFF } := by
  simp [Dev.hearFrame_length, Dev.countOverlap, bump]

section
variable {d : Dev} {p : Port}

theorem Dev.unknown_of_wellFormed {code tag : Byte} {b : List Byte}
    (h : (Instr.unknownRequest p code tag b).wellFormed = true) :
    d.unknown p code tag b = d.arriveFrame p code tag b fun d => d.reply p .unknownRequest 0 .empty := by
  simp only [Instr.wellFormed, Bool.and_eq_true, Bool.not_eq_true'] at h
  obtain ⟨⟨-, hk⟩, hs⟩ := h
  simp only [Dev.unknown, hk, hs, Bool.or_self, Bool.false_eq_true, if_false]

theorem Dev.badFrame_of_wellFormed {f : List Byte} (h : (Instr.frameError p f).wellFormed = true) :
    d.badFrame p f = if d.isOutstanding p then (d.hearFrame p f.length).countOverlap p
      else (d.hearFrame p f.length).refuseFrame p := by
  simp only [Instr.wellFormed, Bool.and_eq_true, Bool.not_eq_true'] at h
  obtain ⟨hp, ha⟩ := h
  simp only [Dev.badFrame, hp, ha, Bool.not_true, Bool.or_self, Bool.false_eq_true, if_false]

end

/-- A frame at an OUTSTANDING port is counted, whatever it is (R172). -/
theorem frames_at_busy_port_are_counted (p : Port) (s : State) (hpower : s.powered = true)
    (hbusy : s.dev.isOutstanding p = true) :
    let counted (n : Nat) : State := { s with dev := s.dev.setPort p { s.dev.port p with
       overlap := min 255 ((s.dev.port p).overlap + 1)
       sent := if p = .mgt ∨ p = .svc then (s.dev.port p).sent else List.replicate n 0xFF } }
    (∀ (r : Request) (tag : Byte) (b : List Byte), exec (r.instr p tag b) s = .next (counted (6 + b.length)))
     ∧ (∀ (code tag : Byte) (b : List Byte), (Instr.unknownRequest p code tag b).wellFormed = true →
         exec (.unknownRequest p code tag b) s = .next (counted (6 + b.length)))
     ∧ (∀ f : List Byte, (Instr.frameError p f).wellFormed = true →
         exec (.frameError p f) s = .next (counted f.length))
     ∧ (∀ f : List Byte, (Instr.overlapFrame p f).wellFormed = true →
         exec (.overlapFrame p f) s = .next (counted f.length)) := by
  intro counted
  have counts (n : Nat) : ({ s with dev := (s.dev.hearFrame p n).countOverlap p } : State) = counted n := by
    rw [Dev.hearFrame_countOverlap]
  refine ⟨fun r tag b => ?_, fun code tag b h => ?_, fun f h => ?_, fun f h => ?_⟩
  · rw [exec_instr, State.act_of_powered hpower, Dev.arrive_overlap hbusy]
    exact congrArg _ (counts _)
  · show s.act (·.unknown p code tag b) = _
    rw [State.act_of_powered hpower, Dev.unknown_of_wellFormed h, Dev.arriveFrame, if_pos hbusy]
    exact congrArg _ (counts _)
  · show s.act (·.badFrame p f) = _
    rw [State.act_of_powered hpower, Dev.badFrame_of_wellFormed h, if_pos hbusy]
    exact congrArg _ (counts _)
  · show s.act (·.overlapAt p f) = _
    have arrives : frameArrives p f = true := h
    simp only [State.act_of_powered hpower, Dev.overlapAt, hbusy, arrives, Bool.and_self, if_true]
    exact congrArg _ (counts _)

theorem overlap_flag (n : Nat) : (if 0 < n then flagOverlap else 0) = if n = 0 then (0x00 : Byte) else 0x01 := by
  cases n <;> rfl

/-- Settles O16: the frames at a busy port, then the reply that carries OVERLAP. -/
theorem framesAtABusyPortAreCounted : Obligations.FramesAtABusyPortAreCounted := by
  refine ⟨frames_at_busy_port_are_counted, fun d p code tag status flags body free out hs => ?_,
    fun d code tag status flags body free out hs => ?_⟩
  · rw [Dev.reply_of_outstanding out hs, Dev.deliver_kept free, overlap_flag]
  · dsimp only
    rw [Dev.reply_of_outstanding out hs, Dev.deliver_idle free, overlap_flag]

/-! ### Frames that are answered at once, and gaps -/

theorem exec_unknownRequest {p : Port} {s : State} (hpower : s.powered = true) (free : s.dev.isOutstanding p = false)
    {code tag : Byte} {b : List Byte} (h : (Instr.unknownRequest p code tag b).wellFormed = true) :
    exec (.unknownRequest p code tag b) s = .next { s with dev := { s.dev with
      pif := s.dev.answersAs p b code ⟨0x00, tag, .unknownRequest, 0, .empty⟩ } } := by
  have fits : ¬Config.maxPayload < b.length := by
    simp only [Instr.wellFormed, Bool.and_eq_true, payloadFits, decide_eq_true_eq] at h
    omega
  show s.act (·.unknown p code tag b) = _
  rw [State.act_of_powered hpower, Dev.unknown_of_wellFormed h, Dev.arriveFrame, if_neg (by simp [free]), if_neg fits,
    Dev.reply_eq, Dev.reply_takeFrame, Dev.takeFrame_eq]
  rfl

section
variable {d : Dev} {p : Port}

/-- A bad frame at a port with a kept reply, or whose reply waits for SVC's line. -/
theorem Dev.refuseFrame_hearFrame (h : p ≠ .svc ∨ d.pif.svcOut ≠ none) (n : Nat) :
    (d.hearFrame p n).refuseFrame p = { d with pif := { (d.setPort p { d.port p with
        exchange := .ready 0x00 0x00 frameErrorReply
        sent := if p = .mgt ∨ p = .svc then (d.port p).sent else List.replicate n 0xFF }).pif with
      svcOut := if p = .svc then d.pif.svcOut.map fun o => { o with kept := false } else d.pif.svcOut } } := by
  have busy : p ≠ .svc ∨ ((d.hearFrame p n).letGo p).pif.svcOut ≠ none := by
    rw [Dev.hearFrame_length, Dev.letGo_setPort]
    exact h.imp_right fun h' => (Dev.lineAfter_eq_none d p).not.2 h'
  rw [Dev.refuseFrame, Dev.deliver_kept busy, Dev.hearFrame_length, Dev.letGo_setPort]
  simp only [Dev.port_setPort_same, Dev.setPort_setPort]
  rfl

/-- A bad frame at SVC with an idle line: its reply begins at once (R176). -/
theorem Dev.refuseFrame_hearFrame_idle (h : d.pif.svcOut = none) (n : Nat) :
    (d.hearFrame .svc n).refuseFrame .svc = { d with pif := { (d.setPort .svc { d.port .svc with
        exchange := .ready 0x00 0x00 frameErrorReply, sent := [0xA5] }).pif with
      svcOut := some ⟨frameErrorReply.frame, 0, true⟩ } } := by
  have heard : d.hearFrame .svc n = d := rfl
  have idle : (d.letGo .svc).pif.svcOut = none := (Dev.lineAfter_eq_none d .svc).2 h
  rw [Dev.refuseFrame, heard, Dev.deliver_idle idle]
  rfl

end

/-! ### Fetches -/

theorem length_takeIdle (n : Nat) (l : List Byte) : (takeIdle n l).length = n := by
  simp [takeIdle]
  omega

theorem getD_takeIdle {n i : Nat} (h : i < n) (l : List Byte) : (takeIdle n l).getD i 0 = l.getD i 0xFF := by
  by_cases hi : i < l.length
  · simp [takeIdle, hi, h, List.getElem?_append]
  · rw [takeIdle, List.getD_eq_getElem?_getD, List.getElem?_append_right (by simp; omega), List.getElem?_replicate,
      if_pos (by simp; omega), List.getD_eq_default _ _ (by omega)]
    rfl

theorem Dev.fetch_spec (d : Dev) {p : Port} (n : Nat) (hp : p ≠ .svc) :
    ∃ x : PortState, d.fetch p n = d.setPort p x
      ∧ x.rx = (d.port p).rx ∧ x.overlap = (d.port p).overlap ∧ x.sent.length = n
      ∧ ((d.port p).exchange = .empty → x.exchange = .empty ∧ ∀ i, i < n → x.sent.getD i 0 = 0xFF)
      ∧ (∀ code tag, (d.port p).exchange = .outstanding code tag →
          x.exchange = .outstanding code tag ∧ ∀ i, i < n → x.sent.getD i 0 = if i = 0 then 0xF0 else 0xFF)
      ∧ (∀ code tag r, (d.port p).exchange = .ready code tag r →
          (∀ i, i < n → x.sent.getD i 0 = r.frame.getD i 0xFF)
            ∧ (r.frame.length ≤ n → x.exchange = .empty)
            ∧ (n < r.frame.length → x.exchange = .ready code tag r)) := by
  unfold Dev.fetch
  rw [if_neg hp]
  dsimp only
  cases he : (d.port p).exchange with
  | empty =>
    refine ⟨_, rfl, rfl, rfl, length_takeIdle _ _, fun _ => ⟨rfl, fun i hi => getD_takeIdle hi _⟩, ?_, ?_⟩
    · rintro _ _ ⟨⟩
    · rintro _ _ _ ⟨⟩
  | outstanding code tag =>
    refine ⟨_, rfl, rfl, rfl, length_takeIdle _ _, ?_, ?_, ?_⟩
    · rintro ⟨⟩
    · rintro _ _ ⟨⟩
      refine ⟨rfl, fun i hi => (getD_takeIdle hi _).trans ?_⟩
      cases i <;> simp
    · rintro _ _ _ ⟨⟩
  | ready code tag r =>
    refine ⟨_, rfl, rfl, rfl, length_takeIdle _ _, ?_, ?_, ?_⟩
    · rintro ⟨⟩
    · rintro _ _ ⟨⟩
    · rintro _ _ _ ⟨⟩
      exact ⟨fun i hi => getD_takeIdle hi _, fun h => if_pos h, fun h => if_neg (by omega)⟩

/-- Settles O17: frames of no request and bad frames, the gap on SVC, and the fetches. -/
theorem framesAndFetchesAreAnswered : Obligations.FramesAndFetchesAreAnswered := by
  refine ⟨fun p s hpower free => ⟨fun code tag b h => exec_unknownRequest hpower free h, fun f h => ?_⟩,
    fun s hpower => ?_, fun p n s hpower hp => ?_⟩
  · have refused : exec (.frameError p f) s = .next { s with dev := (s.dev.hearFrame p f.length).refuseFrame p } := by
      show s.act (·.badFrame p f) = _
      rw [State.act_of_powered hpower, Dev.badFrame_of_wellFormed h, if_neg (by simp [free])]
    refine ⟨fun busy => ?_, ?_⟩
    · rw [refused, Dev.refuseFrame_hearFrame busy]
      rfl
    · rintro rfl idle
      rw [refused, Dev.refuseFrame_hearFrame_idle idle]
      rfl
  · show s.act (·.frameGap) = _
    rw [State.act_of_powered hpower]
    rfl
  · obtain ⟨x, fetched, spec⟩ := s.dev.fetch_spec n hp
    refine ⟨x, ?_, spec⟩
    show s.act (·.fetch p n) = _
    rw [State.act_of_powered hpower, fetched]

end Sys2Proof.Machine
end


section
/-! PROOFS. Requests that answer from the state, notices, time and settings (R158, R163, R166, R167, R182, R192, R194),
and what stands of an event that is offered to the history. -/

namespace Sys2Proof.Machine

/-! ### What passes the tests -/

theorem judge_none_iff {d : Dev} {p : Port} {r : Request} {b : List Byte} : judge d p r b = none
    ↔ lengthOk r b.length = true ∧ valueTest r b = none ∧ rightTest d p r b = none ∧ modeTest d r = none := by
  refine ⟨fun h => ?_, fun ⟨hl, hv, hr, hm⟩ => (judge_eq_modeTest hl hv hr).trans hm⟩
  cases hl : lengthOk r b.length with
  | false => exact absurd ((judge_of_lengthOk_false hl).symm.trans h) (by simp)
  | true =>
    cases hv : valueTest r b with
    | some x => exact absurd ((judge_of_valueTest hl hv).symm.trans h) (by simp)
    | none =>
      cases hr : rightTest d p r b with
      | some x => exact absurd ((judge_of_rightTest hl hv hr).symm.trans h) (by simp)
      | none => exact ⟨rfl, rfl, rfl, (judge_eq_modeTest hl hv hr).symm.trans h⟩

theorem exec_of_serve {r : Request} {p : Port} {tag : Byte} {b : List Byte} {s : State} (h : s.reaches p r b) {e : Dev}
    (he : r.serve s.flash p b (s.dev.takeFrame p r.code tag b) = e) :
    exec (r.instr p tag b) s = .next { s with dev := e } := by
  rw [exec_served h, he]

/-- The reply of a state whose ports are those of the taking of a request. -/
theorem Dev.reply_taken {d e : Dev} {p : Port} {r : Request} {tag : Byte} {b : List Byte}
    (h : e.pif = (d.takeFrame p r.code tag b).pif) {status : Status} {flags : Byte} {body : ReplyBody}
    (hs : status ≠ .unknownRequest) :
    e.reply p status flags body = { e with pif := d.answers p b (r.says tag status flags body) } :=
  Dev.reply_of_pif h status flags body hs

/-! ### An event that is offered -/

theorem Dev.offerSeq_lost {d : Dev} (h : d.hiu.canTake = false) (body : HBody) (severity : Nat) (source : Source)
    (code : Nat) : (d.offerSeq body severity source code).dev
      = (d.setHiu fun x => { x with lost := bump 65535 d.hiu.lost }).raise .historyLost (bump 65535 d.hiu.lost) := by
  simp [Dev.offerSeq, h]

theorem Dev.mem_unflushed_offerSeq {d : Dev} (h : d.hiu.canTake = true) (body : HBody) (severity : Nat) (source : Source)
    (code : Nat) : ⟨body, severity, source, code, d.hiu.nextSeq, d.tmb.tick⟩
      ∈ (d.offerSeq body severity source code).dev.hiu.unflushed := by
  obtain ⟨l, hl⟩ := d.unflushed_offerSeq body severity source code
  simp [hl, h]

theorem Dev.offerSeq_offers (d : Dev) (body : HBody) (severity : Nat) (source : Source) (code : Nat) :
    d.offers (d.offerSeq body severity source code).dev body severity source code := by
  unfold Dev.offers
  split
  next h => exact Dev.mem_unflushed_offerSeq h ..
  next h => rw [Dev.offerSeq_lost (Bool.eq_false_iff.2 h)]; rfl

theorem Dev.offers.later {d e f : Dev} {body : HBody} {severity : Nat} {source : Source} {code : Nat}
    (h : d.offers e body severity source code) (g : e.flowsTo f) (lost : f.hiu.lost = e.hiu.lost) :
    d.offers f body severity source code := by
  unfold Dev.offers at *
  split
  next hc =>
    rw [if_pos hc] at h
    exact g.entries.subset h
  next hc =>
    rw [if_neg hc] at h
    exact lost.trans h

theorem Dev.event_records (d : Dev) (code severity : Nat) (body : HBody) :
    d.records (d.event code severity body) body severity code := by
  refine ⟨fun h => Dev.mem_unflushed_offerSeq h .., fun h => ?_⟩
  rw [Dev.event, Dev.offerSeq_lost h]
  exact Dev.raise_notifies _ _ _

theorem Dev.records.later {d e f : Dev} {body : HBody} {severity code : Nat} (h : d.records e body severity code)
    (g : e.flowsTo f) : d.records f body severity code :=
  ⟨fun hc => g.entries.subset (h.1 hc), fun hc => g.notices.notifies (h.2 hc)⟩

/-- The events of a state are those of any other with its history and its tick. -/
theorem Dev.records.before {d d' e : Dev} {body : HBody} {severity code : Nat} (h : d'.records e body severity code)
    (hiu : d'.hiu = d.hiu) (tick : d'.tmb.tick = d.tmb.tick) : d.records e body severity code := by
  simpa only [Dev.records, hiu, tick] using h

theorem Dev.logsTo.withPif {d e : Dev} (h : d.logsTo e) (x : Pif) :
    ({ d with pif := x } : Dev).logsTo { e with pif := x } := by
  unfold Dev.logsTo at *
  exact congrArg (fun y : Dev => { y with pif := x }) h

theorem Dev.logsTo.pif_eq {d e : Dev} (h : d.logsTo e) : e.pif = d.pif := by
  unfold Dev.logsTo at h
  rw [h]

/-- What a request offers to the history, then its answer and what follows every change. -/
theorem Dev.logsTo.answered {d d' e : Dev} (h : d'.logsTo e) {p : Port} {r : Request} {tag : Byte} {b : List Byte}
    (taken : d'.pif = (d.takeFrame p r.code tag b).pif) {status : Status} (hs : status ≠ .unknownRequest) (flags : Byte)
    (body : ReplyBody) : ({ d' with pif := d.answers p b (r.says tag status flags body) } : Dev).logsTo
      (e.reply p status flags body).settle := by
  rw [Dev.reply_taken (h.pif_eq.trans taken) hs]
  exact Dev.logsTo_trans (h.withPif _) (Dev.settle_logsTo _)

/-- The answer and what follows every change leave an offer as it was made. -/
theorem Dev.offers.answered {d e : Dev} {body : HBody} {severity : Nat} {source : Source} {code : Nat}
    (h : d.offers e body severity source code) (p : Port) (status : Status) (flags : Byte) (x : ReplyBody) :
    d.offers (e.reply p status flags x).settle body severity source code :=
  h.later ((Dev.reply_flowsTo ..).trans (Dev.settle_flowsTo _)) (by simp)

/-! ### Status and listings -/

theorem modeTest_getStatus (d : Dev) : modeTest d .getStatus = none := if_pos (Or.inl rfl)

theorem judge_getStatus (d : Dev) (p : Port) : judge d p .getStatus [] = none :=
  judge_none_iff.2 ⟨rfl, rfl, by simp [rightTest, Request.right, Request.allowsPort, need], modeTest_getStatus d⟩

theorem descending_cons (r : Incident) (l : List Incident) : descending (r :: l)
    = (descending l).filter (r.number < ·.number) ++ [r] ++ (descending l).filter (·.number ≤ r.number) := rfl

theorem descending_perm (l : List Incident) : (descending l).Perm l := by
  induction l with
  | nil => exact .rfl
  | cons r l ih =>
    have split := List.filter_append_perm (fun x : Incident => decide (r.number < x.number)) (descending l)
    have rest : (descending l).filter (fun x => !decide (r.number < x.number))
        = (descending l).filter (·.number ≤ r.number) := by
      congr 1
      funext x
      exact (decide_not ..).symm.trans (decide_eq_decide.2 Nat.not_lt)
    rw [rest] at split
    rw [descending_cons, List.append_assoc, List.singleton_append]
    exact List.perm_middle.trans ((split.trans ih).cons r)

theorem descending_sorted (l : List Incident) : (descending l).Pairwise fun x y => y.number ≤ x.number := by
  induction l with
  | nil => exact .nil
  | cons r l ih =>
    rw [descending_cons]
    refine List.pairwise_append.2 ⟨List.pairwise_append.2 ⟨ih.filter _, List.pairwise_singleton _ _, ?_⟩, ih.filter _, ?_⟩
    · intro x hx y hy
      have above := of_decide_eq_true (List.mem_filter.1 hx).2
      rw [List.mem_singleton] at hy
      subst hy
      exact above.le
    · intro x hx y hy
      have below := of_decide_eq_true (List.mem_filter.1 hy).2
      rcases List.mem_append.1 hx with hx | hx
      · exact below.trans (of_decide_eq_true (List.mem_filter.1 hx).2).le
      · rw [List.mem_singleton] at hx
        subst hx
        exact below

theorem Dev.status_takeFrame (d : Dev) (p q : Port) (code tag : Byte) (b : List Byte) :
    (d.takeFrame q code tag b).status p = d.status p := by
  simp [Dev.status, Dev.refNumber, Drm.at?, Plm.freeZones, Plm.zone, Ntu.setOf]

theorem Dev.readGate_holdup {d : Dev} (h : d.hum.mode = .holdup) (p : Port) (serve : Dev → Dev) :
    d.readGate p serve = d.reply p .power 0 .empty := if_pos h

theorem Dev.readGate_open {d : Dev} (h : d.hum.mode ≠ .holdup) (p : Port) (serve : Dev → Dev) :
    d.readGate p serve = serve d := if_neg h

/-- Settles O19: each of the three is served by its reply alone. -/
theorem statusAndListingsChangeNothing : Obligations.StatusAndListingsChangeNothing := by
  refine ⟨fun p tag s hears => ?_, fun p tag b s => ⟨fun reaches hm => ?_, fun reaches hm => ?_, fun reaches => ?_⟩⟩
  · have served := exec_onlyAnswers (r := .getStatus) (tag := tag) (b := []) ⟨hears, judge_getStatus s.dev p⟩
      (by decide : Status.ok ≠ .unknownRequest) rfl
    rw [Dev.status_takeFrame] at served
    cases p <;> exact served
  · refine ⟨(descending s.dev.drm.records).reverse, (List.reverse_perm _).trans (descending_perm _),
      List.pairwise_reverse.2 (descending_sorted _), ?_⟩
    refine exec_onlyAnswers reaches (by decide) ?_
    show Dev.serveListIncidents p _ = _
    rw [Dev.serveListIncidents, Dev.readGate_open (by simpa using hm), Dev.takeFrame_eq]
  · refine exec_onlyAnswers reaches (by decide) ?_
    show Dev.serveListIncidents p _ = _
    rw [Dev.serveListIncidents, Dev.readGate_holdup (by simpa using hm)]
  · refine exec_onlyAnswers reaches (by decide) ?_
    show Dev.serveGetSettings p b _ = _
    simp [Dev.serveGetSettings]

/-! ### Notices -/

theorem NoticeCause.eq_of_code {c e : NoticeCause} : NoticeCause.code c = NoticeCause.code e → c = e := by
  cases c <;> cases e <;> decide

theorem raiseIn_absent {l : List Notice} {c : NoticeCause} (h : ∀ n ∈ l, n.cause ≠ c) (detail : BitVec 32) :
    raiseIn l c detail = l.filter (fun n => NoticeCause.code n.cause < NoticeCause.code c) ++ [⟨c, detail, 0⟩]
      ++ l.filter (fun n => NoticeCause.code c < NoticeCause.code n.cause) :=
  if_neg (by simpa using h)

theorem raiseIn_present {l : List Notice} {n : Notice} (hn : n ∈ l) (detail : BitVec 32) :
    raiseIn l n.cause detail
      = l.map fun x => if x.cause = n.cause then { x with detail, repeats := bump 255 x.repeats } else x :=
  if_pos (List.any_eq_true.2 ⟨n, hn, (beq_iff_eq (a := n.cause)).2 rfl⟩)

/-- The causes below one and those above it are the other causes. -/
theorem length_raiseIn_absent {l : List Notice} {c : NoticeCause} (h : ∀ n ∈ l, n.cause ≠ c) (detail : BitVec 32) :
    (raiseIn l c detail).length = l.length + 1 := by
  have above : l.filter (fun n => NoticeCause.code c < NoticeCause.code n.cause)
      = l.filter (fun n => !decide (NoticeCause.code n.cause < NoticeCause.code c)) :=
    List.filter_congr fun n hn => by
      have other : NoticeCause.code n.cause ≠ NoticeCause.code c := fun e => h n hn (NoticeCause.eq_of_code e)
      rw [← decide_not, decide_eq_decide]
      omega
  rw [raiseIn_absent h, above, List.append_assoc, List.singleton_append, List.perm_middle.length_eq, List.length_cons,
    (List.filter_append_perm _ l).length_eq]

theorem mem_raiseIn_other {l : List Notice} {c : NoticeCause} {n : Notice} (hn : n.cause ≠ c) (detail : BitVec 32) :
    n ∈ raiseIn l c detail ↔ n ∈ l := by
  unfold raiseIn
  split
  · have kept (x : Notice) : (if x.cause = c then { x with detail, repeats := bump 255 x.repeats } else x) = n ↔ x = n := by
      split
      next hx => exact ⟨fun h => absurd (h ▸ hx) hn, fun h => absurd (h ▸ hx) hn⟩
      next => rfl
    simp only [List.mem_map, kept, exists_eq_right]
  · have other : NoticeCause.code n.cause ≠ NoticeCause.code c := fun e => hn (NoticeCause.eq_of_code e)
    have notNew : n ≠ ⟨c, detail, 0⟩ := fun e => hn (congrArg Notice.cause e)
    simp only [List.mem_append, List.mem_filter, List.mem_singleton, decide_eq_true_eq, notNew, or_false,
      ← and_or_left, other.lt_or_gt, and_true]

theorem Dev.takeFrame_setOf (d : Dev) (p q : Port) (code tag : Byte) (b : List Byte) :
    (d.takeFrame q code tag b).ntu.setOf p = d.ntu.setOf p := by
  simp

/-- Settles O20. -/
theorem noticesAreRaisedAndFetched : Obligations.NoticesAreRaisedAndFetched := by
  refine ⟨fun p tag b s reaches => ?_, fun d c n => rfl, fun l c detail hl => ⟨ordered_raiseIn hl c detail, fun h =>
    ⟨by rw [raiseIn_absent h]; simp, length_raiseIn_absent h detail⟩, ?_, fun n hn => mem_raiseIn_other hn detail⟩,
    fun s t hs h => (step_keeps h).notices hs, fun n => by simp [Ntu.alert]⟩
  · have asks : p = .mgt ∨ p = .svc := by
      have right := (judge_none_iff.1 reaches.2).2.2.1
      cases p <;> simp [rightTest, Request.right, Request.allowsPort, need] at right ⊢
    refine ⟨asks, fun empty => ?_, fun n rest full => ?_⟩
    · refine exec_onlyAnswers reaches (by decide) ?_
      show Dev.serveNextNotice p _ = _
      simp [Dev.serveNextNotice, empty]
    · have shown : (s.dev.takeFrame p Request.nextNotice.code tag b).ntu.setOf p = n :: rest := by simpa using full
      refine exec_of_serve reaches ?_
      show Dev.serveNextNotice p _ = _
      rw [Dev.serveNextNotice, shown]
      dsimp only
      refine Eq.trans (Dev.reply_taken (d := s.dev) (r := .nextNotice) (tag := tag) (b := b) (status := .ok) (by rfl) (by decide)) ?_
      rw [Dev.takeFrame_eq]
      rcases asks with rfl | rfl <;> rfl
  · rintro n hn rfl
    rw [raiseIn_present hn]
    exact ⟨List.mem_map.2 ⟨n, hn, by simp [bump]⟩, List.length_map _⟩

/-! ### Wall time -/

theorem Dev.serveSetWalltime_logs (d : Dev) (p : Port) (tag : Byte) (b : List Byte) :
    ({ d with
      pif := d.answers p b (Request.setWalltime.says tag .ok 0 .empty)
      tmb := { d.tmb with wall := some ⟨BitVec.ofNat 64 (field b 0 8), d.tmb.tick, 0⟩ } } : Dev).logsTo
      ((d.takeFrame p Request.setWalltime.code tag b).serveSetWalltime p b) := by
  have served := Dev.logsTo.answered (d := d) (r := .setWalltime) (tag := tag) (b := b) (p := p) (status := .ok)
    (Dev.event_logsTo { d.takeFrame p Request.setWalltime.code tag b with
      tmb := { d.tmb with wall := some ⟨BitVec.ofNat 64 (field b 0 8), d.tmb.tick, 0⟩ } }
      evWallmark 6 (.wallmark (BitVec.ofNat 64 (field b 0 8)))) rfl (by decide) 0 .empty
  simp only [Dev.takeFrame_eq] at served ⊢
  exact served

theorem Dev.serveSetWalltime_offers (d : Dev) (p : Port) (tag : Byte) (b : List Byte) :
    d.offers ((d.takeFrame p Request.setWalltime.code tag b).serveSetWalltime p b)
      (.wallmark (BitVec.ofNat 64 (field b 0 8))) 6 .internal 0x000D := by
  have offered := (Dev.offerSeq_offers { d.takeFrame p Request.setWalltime.code tag b with
    tmb := { d.tmb with wall := some ⟨BitVec.ofNat 64 (field b 0 8), d.tmb.tick, 0⟩ } }
      (.wallmark (BitVec.ofNat 64 (field b 0 8))) 6 .internal evWallmark).answered p .ok 0 .empty
  simp only [Dev.takeFrame_eq] at offered ⊢
  exact offered

/-- Settles O21: the WALLMARK is offered in a state that has the wall time given. -/
theorem setWalltime : Obligations.SetWalltime := by
  refine ⟨fun p tag b s reaches => ⟨_, exec_served reaches, s.dev.serveSetWalltime_logs p tag b, Dev.serveSetWalltime_offers ..⟩,
    fun d w => ⟨fun h => by simp [Dev.wallNow, h], fun h => ?_⟩⟩
  simp [Dev.wallNow, h, BitVec.ofNat_add]

/-! ### Locate runs -/

theorem Dev.serveLocate_takeFrame (d : Dev) (p : Port) (tag : Byte) (b : List Byte) {left : Nat} {slot : Option Tick}
    (hs : d.locateSlot (bit (byte b 0) 0) = slot)
    (hl : ({ d with tmb := { d.tmb with deadlines := { d.tmb.deadlines with locate := slot } } } : Dev).locateLeft / 1000 = left) :
    (d.takeFrame p Request.locate.code tag b).serveLocate p b = ({ d with
        pif := d.answers p b (Request.locate.says tag .ok 0 (.locateTime left))
        tmb := { d.tmb with deadlines := { d.tmb.deadlines with locate := slot } } } : Dev).showInd := by
  subst hs hl
  unfold Dev.serveLocate
  extract_lets d1
  rw [Dev.reply_taken (d := d) (r := .locate) (tag := tag) (b := b) (e := d1) rfl (by decide)]
  simp only [d1, Dev.takeFrame_eq]
  rfl

/-- Settles O22. -/
theorem locateRuns : Obligations.LocateRuns := by
  intro p tag b s reaches after
  have serves {left : Nat} {slot : Option Tick} (hs : s.dev.locateSlot (bit (byte b 0) 0) = slot)
      (hl : ({ s.dev with tmb := { s.dev.tmb with deadlines := { s.dev.tmb.deadlines with locate := slot } } } : Dev).locateLeft
        / 1000 = left) : exec (.locate p tag b) s = after left slot :=
    (exec_served reaches).trans (congrArg (fun d => Host.Outcome.next { s with dev := d })
      (s.dev.serveLocate_takeFrame p tag b hs hl))
  refine ⟨fun stop => serves (by rw [stop]; rfl) (Nat.zero_div _), fun start none => serves (by simp [start, Dev.locateSlot, none, bit, Dev.after]) ?_,
    fun t start some => ?_⟩
  · simp [Dev.locateLeft]
  · intro left
    have bound : left < 2 ^ 48 := by omega
    refine serves (by simp [start, Dev.locateSlot, some, bit, Dev.after, Dev.locateLeft, left]) ?_
    have count : (s.dev.tmb.tick + BitVec.ofNat 48 left - s.dev.tmb.tick).toNat = left := by
      rw [add_sub_cancel_left, BitVec.toNat_ofNat, Nat.mod_eq_of_lt bound]
    exact congrArg (· / 1000) count

/-! ### Settings -/

/-- A SAVE_SETTINGS is not taken under the STORE_FAILED condition (Table 10.6). -/
theorem modeTest_none_saveSettings {d : Dev} (h : modeTest d .saveSettings = none) : d.arc.storeFailed = false := by
  cases hs : d.arc.storeFailed
  · rfl
  · cases hm : d.hum.mode <;> simp [modeTest, need, Request.refusedByStoreFailed, hs, hm] at h

section
variable {d : Dev} {x : Save} {rest : List Save}

theorem Dev.sstServe_of_busy (h : d.sst.busy = true) : d.sstServe = d := by
  simp [Dev.sstServe, h]

theorem Dev.sstServe_program (free : d.sst.busy = false) (full : d.sst.saves = x :: rest) (page : d.sst.savePos < 32) :
    d.sstServe = (d.setSst fun y => { y with busy := true }).place .save (saveJob d.drm.epoch d.sst.savePos x.record) := by
  simp [Dev.sstServe, free, full, page, Config.pagesPerZone]

theorem Dev.sstServe_erase (free : d.sst.busy = false) (full : d.sst.saves = x :: rest) (page : ¬d.sst.savePos < 32)
    (stored : d.arc.storeFailed = false) :
    d.sstServe = (d.setSst fun y => { y with busy := true }).place .settingsErase (.erase 0) := by
  simp [Dev.sstServe, free, full, page, stored, Config.pagesPerZone]

end

/-- Settles O23. -/
theorem settingsArePutAndSaved : Obligations.SettingsArePutAndSaved := by
  refine ⟨fun p tag b s reaches => ?_, fun p tag b s reaches => ?_⟩
  · refine exec_of_serve reaches ?_
    show Dev.servePutSettings p b _ = _
    unfold Dev.servePutSettings
    refine Eq.trans (Dev.reply_taken (d := s.dev) (r := .putSettings) (tag := tag) (b := b) (status := .ok) (by rfl)
      (by decide)) ?_
    rw [Dev.takeFrame_eq]
    rfl
  · intro saves d
    have served {e : Dev} (h : ({ d with sst := { d.sst with saves := saves } } : Dev).sstServe = e) :
        exec (.saveSettings p tag b) s = .next { s with dev := e.arcSettle } := by
      subst h
      refine exec_of_serve reaches ?_
      show Dev.serveSaveSettings p _ = _
      rw [Dev.serveSaveSettings, Dev.takeFrame_eq]
      rfl
    refine ⟨fun busy => served (Dev.sstServe_of_busy busy), fun x rest free full => served ?_⟩
    by_cases page : s.dev.sst.savePos < 32
    · rw [if_pos page]
      exact Dev.sstServe_program (d := { d with sst := { d.sst with saves := saves } }) free full page
    · have stored := modeTest_none_saveSettings (judge_none_iff.1 reaches.2).2.2.2
      rw [if_neg page]
      exact Dev.sstServe_erase (d := { d with sst := { d.sst with saves := saves } }) free full page stored

end Sys2Proof.Machine
end


section
/-! PROOFS. Reading incidents, streams and the history (R181 to R187). -/

namespace Sys2Proof.Machine

/-! ### READ_INCIDENT -/

theorem Dev.settlesTo.withPif {d e : Dev} (h : d.settlesTo e) (x : Pif) :
    ({ d with pif := x } : Dev).settlesTo { e with pif := x } := by
  unfold Dev.settlesTo at *
  exact congrArg (fun y : Dev => { y with pif := x }) h

theorem Dev.markRetrieved_same {d : Dev} {p : Port} {x : Incident}
    (h : p ≠ .svc ∨ x.state ≠ .kept ∨ x.retrieved = true ∨ 16 ≤ d.drm.queue.length) : d.markRetrieved p x = d := by
  refine if_neg fun ⟨hp, hk, hr, hq⟩ => ?_
  have := (Drm.hasRoom_iff _).1 hq
  rcases h with h | h | h | h
  · exact h hp
  · exact h hk
  · simp [hr] at h
  · omega

/-- The directory with the retrieved flag of the record of slot `i` set and RETRIEVED queued (R106). -/
def Drm.retrievedAt (m : Drm) (number : Nat) (i : DirSlot) (x : Incident) : Drm :=
  { m with queue := m.queue ++ [.retrieved number], dir := put m.dir i (some { x with retrieved := true }) }

theorem Dev.markRetrieved_other {d : Dev} {i : DirSlot} {x : Incident} {n : Nat} (hi : d.drm.slotOf n = some i)
    (hx : d.drm.dir[i] = some x) (hk : x.state = .kept) (hr : x.retrieved = false) (hq : d.drm.queue.length < 16) :
    d.markRetrieved .svc x = (d.setDrm (·.retrievedAt n i x)).settle := by
  have number : x.number = n := Drm.number_of_slotOf hi hx
  subst number
  have flag := Dev.modIncident_of_slotOf (d := d.queueEntry (.retrieved x.number)) hi hx fun y => { y with retrieved := true }
  exact (if_pos ⟨rfl, hk, hr, (Drm.hasRoom_iff _).2 hq⟩).trans (congrArg Dev.settle flag)

/-- A record that keeps its number is found in its slot as before. -/
theorem Drm.slotOf_put {m : Drm} {i : DirSlot} {x y : Incident} (hx : m.dir[i] = some x) (hy : y.number = x.number)
    (n : Nat) : ({ m with dir := put m.dir i (some y) } : Drm).slotOf n = m.slotOf n := by
  unfold Drm.slotOf
  congr 1
  funext j
  by_cases h : i = j
  · subst h
    simp only [Fin.getElem_fin, get_put_same]
    simp only [← Fin.getElem_fin, hx, Option.any_some, hy]
  · rw [get_put_ne _ h]

theorem Drm.find_put {m : Drm} {n : Nat} {i : DirSlot} {x y : Incident} (hi : m.slotOf n = some i)
    (hx : m.dir[i] = some x) (hy : y.number = x.number) :
    ({ m with dir := put m.dir i (some y) } : Drm).find n = some y := by
  rw [Drm.find_of_slotOf ((Drm.slotOf_put hx hy n).trans hi)]
  exact get_put_same ..

theorem Dev.settle_find (d : Dev) (n : Nat) : d.settle.drm.find n = d.drm.find n := by
  simp [Drm.find, Drm.slotOf]

section
variable {d : Dev} {p : Port} {b : List Byte}

theorem Dev.serveReadIncident_holdup (h : d.hum.mode = .holdup) :
    d.serveReadIncident p b = d.reply p .power 0 .empty := Dev.readGate_holdup h p _

theorem Dev.serveReadIncident_absent (h : d.hum.mode ≠ .holdup) (absent : ∀ x ∈ d.drm.records, x.number ≠ field b 0 4) :
    d.serveReadIncident p b = d.reply p .notFound 0 .empty := by
  rw [Dev.serveReadIncident, Dev.readGate_open h, Drm.find_none absent]

theorem Dev.serveReadIncident_found (h : d.hum.mode ≠ .holdup) {x : Incident} (hf : d.drm.find (field b 0 4) = some x) :
    d.serveReadIncident p b = (d.markRetrieved p x).reply p .ok 0
      (.incident (((d.markRetrieved p x).drm.find x.number).getD x)) := by
  rw [Dev.serveReadIncident, Dev.readGate_open h, hf]

end

/-- SVC's first read of a KEPT incident (R106). -/
theorem Dev.serveReadIncident_retrieves {d : Dev} {tag : Byte} {b : List Byte} (h : d.hum.mode ≠ .holdup) {i : DirSlot} {x : Incident}
    (hi : d.drm.slotOf (field b 0 4) = some i) (hx : d.drm.dir[i] = some x) (hk : x.state = .kept)
    (hr : x.retrieved = false) (hq : d.drm.queue.length < 16) :
    ({ d with
      pif := d.answers .svc b (Request.readIncident.says tag .ok 0 (.incident { x with retrieved := true }))
      drm := d.drm.retrievedAt (field b 0 4) i x } : Dev).settlesTo
      ((d.takeFrame .svc Request.readIncident.code tag b).serveReadIncident .svc b) := by
  have number : x.number = field b 0 4 := Drm.number_of_slotOf hi hx
  rw [Dev.serveReadIncident_found (x := x) (by simpa using h) (by simpa using (Drm.find_of_slotOf hi).trans hx),
    Dev.markRetrieved_other (i := i) (n := field b 0 4) (by simpa using hi) (by simpa using hx) hk hr (by simpa using hq),
    Dev.settle_find]
  have read : ((d.takeFrame .svc Request.readIncident.code tag b).setDrm (·.retrievedAt (field b 0 4) i x)).drm.find
      x.number = some { x with retrieved := true } := by
    have hi' : d.drm.slotOf x.number = some i := by rw [number, hi]
    rw [Dev.takeFrame_eq]
    exact Drm.find_put (m := { d.drm with queue := d.drm.queue ++ [.retrieved (field b 0 4)] })
      (y := { x with retrieved := true }) hi' hx rfl
  rw [read]
  have settled := Dev.settle_settlesTo
    ((d.takeFrame .svc Request.readIncident.code tag b).setDrm (·.retrievedAt (field b 0 4) i x))
  rw [Dev.reply_taken (d := d) (r := .readIncident) (tag := tag) (b := b) (by simp) (by decide), Dev.takeFrame_eq]
  rw [Dev.takeFrame_eq] at settled
  exact settled.withPif _

/-- Settles O26: the refusals, the read that answers alone, and SVC's first read of a KEPT incident. -/
theorem readIncident : Obligations.ReadIncident := by
  intro p tag b s reaches answered
  refine ⟨fun hm => exec_onlyAnswers reaches (by decide) (Dev.serveReadIncident_holdup (by simpa using hm)), fun hm =>
    ⟨fun absent => exec_onlyAnswers reaches (by decide)
      (Dev.serveReadIncident_absent (by simpa using hm) (by simpa using absent)), fun i x hi hx => ⟨fun same => ?_, ?_⟩⟩⟩
  · refine exec_onlyAnswers reaches (by decide) ?_
    have found : (s.dev.takeFrame p Request.readIncident.code tag b).drm.find (field b 0 4) = some x := by
      simpa using (Drm.find_of_slotOf hi).trans hx
    rw [show Request.readIncident.serve s.flash p b = Dev.serveReadIncident p b from rfl,
      Dev.serveReadIncident_found (by simpa using hm) found, Dev.markRetrieved_same (by simpa using same),
      Drm.number_of_slotOf hi hx, found]
    rfl
  · rintro rfl hk hr hq
    exact ⟨_, exec_served reaches, Dev.serveReadIncident_retrieves hm hi hx hk hr hq⟩

/-! ### Reads of streams -/

@[simp] theorem Dev.cursor_takeFrame (d : Dev) (p q : Port) (code tag : Byte) (b : List Byte) :
    (d.takeFrame q code tag b).cursor p = d.cursor p := by
  simp [Dev.cursor]

theorem Dev.serveReadStream_holdup {d : Dev} {p : Port} {b : List Byte} (h : d.hum.mode = .holdup) :
    d.serveReadStream p b = d.reply p .power 0 .empty := Dev.readGate_holdup h p _

theorem Dev.serveReadMore_holdup {d : Dev} {flash : Memory} {p : Port} (h : d.hum.mode = .holdup) :
    d.serveReadMore flash p = d.reply p .power 0 .empty := Dev.readGate_holdup h p _

section
variable {d : Dev} {p : Port} {incident stream offset : Nat}

theorem Dev.readStreamAt_absent (h : (d.drm.find incident).bind (·.streams.find? (·.number == stream)) = none) :
    d.readStreamAt p incident stream offset = d.reply p .notFound 0 .empty := by
  rw [Dev.readStreamAt, h]

theorem Dev.readStreamAt_found {x : StreamRec}
    (h : (d.drm.find incident).bind (·.streams.find? (·.number == stream)) = some x) :
    d.readStreamAt p incident stream offset = d.serveStream p incident x offset := by
  rw [Dev.readStreamAt, h]

theorem StreamRec.number_of_find {d : Dev} {x : StreamRec}
    (h : (d.drm.find incident).bind (·.streams.find? (·.number == stream)) = some x) : x.number = stream := by
  obtain ⟨r, -, found⟩ := Option.bind_eq_some_iff.1 h
  exact beq_iff_eq.1 (List.find?_some (p := fun y : StreamRec => y.number == stream) found)

/-- The range that a stream read fixes (R184). -/
theorem streamRange_eq (x : StreamRec) (offset : Nat) :
    let stop := if x.committed ≤ offset then offset else min (offset + 512) (min ((offset / 1024 + 1) * 1024) x.committed)
    streamRange x offset = (stop, decide (stop < x.committed) || x.endKind == .open) := rfl

theorem streamRange_start (x : StreamRec) (offset : Nat) : offset ≤ (streamRange x offset).1 := by
  have pageEnd : offset < (offset / 1024 + 1) * 1024 := by omega
  simp only [streamRange, Config.pageData, Config.maxData]
  split <;> omega

theorem Dev.serveStream_empty {x : StreamRec} (h : offset = (streamRange x offset).1
      ∨ d.plm.livePage incident x.number (offset / 1024) = none) : d.serveStream p incident x offset
    = (d.setCursor p (.stream incident x.number offset false)).reply p .ok (streamFlag (streamRange x offset).2)
      (.stream offset [] 0 0) := by
  have page : (if offset < (streamRange x offset).1
      then (d.setCursor p (.stream incident x.number offset false)).plm.livePage incident x.number (offset / 1024) else none)
      = none := by
    rcases h with h | h
    · exact if_neg (by omega)
    · rw [show (d.setCursor p (.stream incident x.number offset false)).plm = d.plm from rfl, h, ite_self]
  simp only [Dev.serveStream, Config.pageData, page]

theorem Dev.serveStream_page {x : StreamRec} {page : PageAddr} {fill : Nat} (h : offset < (streamRange x offset).1)
    (hp : d.plm.livePage incident x.number (offset / 1024) = some (page, fill)) : d.serveStream p incident x offset
    = (((d.setCursor p (.stream incident x.number offset false)).setJob p
        (some ⟨.stream incident x.number offset ((streamRange x offset).1 - offset) (streamRange x offset).2 page,
          d.cursor p, false⟩)).place (.rtu p)
      (.read page (offset % 1024) ((streamRange x offset).1 - offset) 0 0)).arcSettle := by
  have page : (if offset < (streamRange x offset).1
      then (d.setCursor p (.stream incident x.number offset false)).plm.livePage incident x.number (offset / 1024) else none)
      = some (page, fill) := (if_pos h).trans hp
  simp only [Dev.serveStream, Config.pageData, page]

/-- A read of a stream outside HOLDUP is one by its incident, stream and offset, whichever request asks it. -/
theorem Request.serve_asksStream {s : State} {r : Request} {b : List Byte} (h : s.asksStream p r b incident stream offset)
    {tag : Byte} {flash : Memory} (hm : s.dev.hum.mode ≠ .holdup) :
    r.serve flash p b (s.dev.takeFrame p r.code tag b)
      = (s.dev.takeFrame p r.code tag b).readStreamAt p incident stream offset := by
  rcases h with ⟨rfl, rfl, rfl, rfl⟩ | ⟨rfl, hc⟩
  · show Dev.serveReadStream p b _ = _
    rw [Dev.serveReadStream, Dev.readGate_open (by simpa using hm)]
  · show Dev.serveReadMore flash p _ = _
    rw [Dev.serveReadMore, Dev.readGate_open (by simpa using hm), Dev.readOn, Dev.cursor_takeFrame, hc]

theorem Request.serve_asksStream_holdup {s : State} {r : Request} {b : List Byte}
    (h : s.asksStream p r b incident stream offset) {tag : Byte} {flash : Memory} (hm : s.dev.hum.mode = .holdup) :
    r.serve flash p b (s.dev.takeFrame p r.code tag b) = (s.dev.takeFrame p r.code tag b).reply p .power 0 .empty := by
  rcases h with ⟨rfl, -⟩ | ⟨rfl, -⟩
  · exact Dev.serveReadStream_holdup (by simpa using hm)
  · exact Dev.serveReadMore_holdup (by simpa using hm)

end

/-- Settles O27: the refusals, the reads answered at once, and those that wait for a page. -/
theorem streamReadsAreTaken : Obligations.StreamReadsAreTaken := by
  refine ⟨fun p r tag b s incident stream offset reaches asks => ⟨fun hm => exec_onlyAnswers reaches (by decide)
      (Request.serve_asksStream_holdup asks hm), fun hm => ⟨fun absent => exec_onlyAnswers reaches (by decide) ?_,
      fun x found => ?_⟩⟩,
    fun p tag b s reaches hm => exec_onlyAnswers reaches (by decide) (Dev.serveReadMore_holdup (by simpa using hm)),
    fun p tag b s reaches hm => ⟨fun empty => exec_onlyAnswers reaches (by decide) ?_,
      fun incident stream offset gone => exec_onlyAnswers reaches (by decide) ?_⟩⟩
  · rw [Request.serve_asksStream asks hm, Dev.readStreamAt_absent (by simpa using absent)]
  · have number := StreamRec.number_of_find found
    subst number
    have served : r.serve s.flash p b (s.dev.takeFrame p r.code tag b)
        = (s.dev.takeFrame p r.code tag b).serveStream p incident x offset := by
      rw [Request.serve_asksStream asks hm, Dev.readStreamAt_found (by simpa using found)]
    intro stop more cursors
    refine ⟨fun empty => exec_of_serve reaches ?_, fun page fill h hp => exec_of_serve reaches ?_⟩
    · have nothing : offset = (streamRange x offset).1 ∨ s.dev.plm.livePage incident x.number (offset / 1024) = none := empty
      rw [served, Dev.serveStream_empty (by simpa using nothing)]
      refine Eq.trans (Dev.reply_taken (d := s.dev) (r := r) (tag := tag) (b := b) (by rfl) (by decide)) ?_
      rw [Dev.takeFrame_eq]
      rfl
    · rw [served, Dev.serveStream_page h (by simpa using hp), Dev.takeFrame_eq]
      rfl
  · show Dev.serveReadMore _ p _ = _
    rw [Dev.serveReadMore, Dev.readGate_open (by simpa using hm), Dev.readOn, Dev.cursor_takeFrame, empty]
  · show Dev.serveReadMore _ p _ = _
    rw [Dev.serveReadMore, Dev.readGate_open (by simpa using hm), Dev.readOn, Dev.cursor_takeFrame, gone]

end Sys2Proof.Machine
end


section
/-! PROOFS. Reading the history (R186): the request, the end of a page's read, and the zones and pages it goes by. -/

namespace Sys2Proof.Machine

/-! ### Which zones and pages -/

theorem lt_listMax_foldl (n : Nat) (l : List Nat) (a : Option Nat) :
    n < (l.foldl (fun a n => some (max n (a.getD 0))) a).getD 0 ↔ n < a.getD 0 ∨ ∃ x ∈ l, n < x := by
  induction l generalizing a with
  | nil => simp
  | cons x l ih =>
    rw [List.foldl_cons, ih]
    simp only [Option.getD_some, lt_max_iff, List.mem_cons, exists_eq_or_imp]
    tauto

theorem lt_listMax (n : Nat) (l : List Nat) : n < (listMax l).getD 0 ↔ ∃ x ∈ l, n < x := by
  simp [listMax, lt_listMax_foldl]

theorem Hiu.lt_newestStored (h : Hiu) (n : Nat) :
    n < h.newestStored ↔ ∃ (k : RingIdx) (x : Nat × Nat), (h.ring[k]).range = some x ∧ n < x.2 := by
  rw [Hiu.newestStored, lt_listMax]
  constructor
  · rintro ⟨m, hm, hn⟩
    obtain ⟨z, hz, hr⟩ := List.mem_filterMap.1 hm
    obtain ⟨x, hx, rfl⟩ := Option.map_eq_some_iff.1 hr
    obtain ⟨i, hi, rfl⟩ := Vector.mem_iff_getElem.1 (Vector.mem_toList_iff.1 hz)
    exact ⟨⟨i, hi⟩, x, hx, hn⟩
  · rintro ⟨k, x, hx, hn⟩
    exact ⟨x.2, List.mem_filterMap.2 ⟨h.ring[k], Vector.mem_toList_iff.2 (Vector.getElem_mem k.isLt), by rw [hx]; rfl⟩, hn⟩

/-- A step of `Hiu.zoneFor`: the zone `k` is looked at after others gave `a`. -/
def Hiu.zoneStep (h : Hiu) (n : Nat) (a : Option RingIdx) (k : RingIdx) : Option RingIdx :=
  match (h.ring[k]).range, a with
  | some r, some j => if n ≤ r.2 ∧ r.1 < (((h.ring[j]).range.map (·.1)).getD 0) then some k else some j
  | some r, none => if n ≤ r.2 then some k else none
  | none, a => a

theorem Hiu.zoneFor_eq (h : Hiu) (n : Nat) : h.zoneFor n = (List.finRange 16).foldl (h.zoneStep n) none := rfl

/-- What a look at some zones has found: none of them reaches the number, or the one with the lowest range that does. -/
def Hiu.zoneFound (h : Hiu) (n : Nat) (l : List RingIdx) (a : Option RingIdx) : Prop :=
  (a = none ∧ ∀ k ∈ l, ∀ x, (h.ring[k]).range = some x → x.2 < n)
    ∨ ∃ k x, a = some k ∧ (h.ring[k]).range = some x ∧ n ≤ x.2
        ∧ ∀ j ∈ l, ∀ y, (h.ring[j]).range = some y → n ≤ y.2 → x.1 ≤ y.1

theorem Hiu.zoneFound_step {h : Hiu} {n : Nat} {l : List RingIdx} {a : Option RingIdx} (ha : h.zoneFound n l a)
    (k : RingIdx) : h.zoneFound n (l ++ [k]) (h.zoneStep n a k) := by
  -- what is known of the zones of `l` reaches `k` once it is known there
  have all {P : RingIdx → Prop} (old : ∀ j ∈ l, P j) (new : P k) : ∀ j ∈ l ++ [k], P j := fun j hj => by
    rcases List.mem_append.1 hj with hj | hj
    · exact old j hj
    · exact List.mem_singleton.1 hj ▸ new
  unfold Hiu.zoneStep
  rcases ha with ⟨rfl, none⟩ | ⟨i, x, rfl, range, reaches, least⟩
  · cases hk : (h.ring[k]).range with
    | none => exact .inl ⟨rfl, all none fun x hx => nomatch hk.symm.trans hx⟩
    | some r =>
      by_cases far : n ≤ r.2
      · refine .inr ⟨k, r, if_pos far, hk, far, all (fun j hj y hy hn => ?_) fun y hy _ => ?_⟩
        · exact absurd (none j hj y hy) (by omega)
        · rw [Option.some.inj (hk.symm.trans hy)]
      · refine .inl ⟨if_neg far, all none fun x hx => ?_⟩
        rw [← Option.some.inj (hk.symm.trans hx)]
        omega
  · cases hk : (h.ring[k]).range with
    | none => exact .inr ⟨i, x, rfl, range, reaches, all least fun y hy => nomatch hk.symm.trans hy⟩
    | some r =>
      have start : ((h.ring[i]).range.map (·.1)).getD 0 = x.1 := by rw [range]; rfl
      by_cases better : n ≤ r.2 ∧ r.1 < x.1
      · refine .inr ⟨k, r, if_pos (start ▸ better), hk, better.1, all (fun j hj y hy hn => ?_) fun y hy _ => ?_⟩
        · exact better.2.le.trans (least j hj y hy hn)
        · rw [Option.some.inj (hk.symm.trans hy)]
      · refine .inr ⟨i, x, if_neg (start ▸ better), range, reaches, all least fun y hy hn => ?_⟩
        rw [← Option.some.inj (hk.symm.trans hy)] at hn ⊢
        omega

theorem Hiu.zoneFor_found (h : Hiu) (n : Nat) (l : List RingIdx) : h.zoneFound n l (l.foldl (h.zoneStep n) none) := by
  induction l using List.reverseRecOn with
  | nil => exact .inl ⟨rfl, by simp⟩
  | append_singleton l k ih =>
    rw [List.foldl_append]
    exact Hiu.zoneFound_step ih k

theorem Hiu.zoneFor_none_iff (h : Hiu) (n : Nat) :
    h.zoneFor n = none ↔ ∀ (k : RingIdx) (x : Nat × Nat), (h.ring[k]).range = some x → x.2 < n := by
  rw [Hiu.zoneFor_eq]
  rcases h.zoneFor_found n (List.finRange 16) with ⟨none, all⟩ | ⟨k, x, some, range, reaches, -⟩
  · exact ⟨fun _ k => all k (List.mem_finRange k), fun _ => none⟩
  · refine ⟨fun none => by simp [some] at none, fun all => ?_⟩
    have := all k x range
    omega

theorem Hiu.zoneFor_some {h : Hiu} {n : Nat} {k : RingIdx} (hk : h.zoneFor n = some k) :
    ∃ x, (h.ring[k]).range = some x ∧ n ≤ x.2 ∧ h.firstOf k = x.1
      ∧ ∀ (j : RingIdx) (y : Nat × Nat), (h.ring[j]).range = some y → n ≤ y.2 → x.1 ≤ y.1 := by
  rw [Hiu.zoneFor_eq] at hk
  rcases h.zoneFor_found n (List.finRange 16) with ⟨none, -⟩ | ⟨j, x, found, range, reaches, least⟩
  · simp [none] at hk
  · obtain rfl : j = k := Option.some.inj (found.symm.trans hk)
    exact ⟨x, range, reaches, by rw [Hiu.firstOf, range]; rfl, fun i y => least i (List.mem_finRange i) y⟩

theorem le_of_getLast?_filter {m : Nat} {q : Fin m → Bool} {x : Fin m} (h : ((List.finRange m).filter q).getLast? = some x) :
    q x = true ∧ ∀ y, q y = true → y ≤ x := by
  obtain ⟨l, hl⟩ := List.getLast?_eq_some_iff.1 h
  have sorted : ((List.finRange m).filter q).Pairwise (· < ·) := (List.pairwise_lt_finRange m).filter _
  rw [hl, List.pairwise_append] at sorted
  refine ⟨(List.mem_filter.1 (hl ▸ List.mem_append_right l (List.mem_singleton_self x))).2, fun y hy => ?_⟩
  have mem : y ∈ l ++ [x] := hl ▸ List.mem_filter.2 ⟨List.mem_finRange y, hy⟩
  rcases List.mem_append.1 mem with hy | hy
  · exact (sorted.2.2 y hy x (List.mem_singleton_self x)).le
  · exact (List.mem_singleton.1 hy).le

/-- Whether a page's header says that it holds history from a number at or below `n`. -/
def holdsFrom (m : Memory) (k : RingIdx) (n : Nat) (p : PageNo) : Bool :=
  match headerOutcome (m.header ⟨ringZone k, p⟩) with
  | .good h => h.kind == kindHistory && h.firstSeq ≤ n
  | _ => false

theorem holdingPage_eq (m : Memory) (k : RingIdx) (n : Nat) :
    holdingPage m k n = ((List.finRange 32).filter (holdsFrom m k n)).getLast?.getD 0 := rfl

theorem holdsFrom_iff (m : Memory) (k : RingIdx) (n : Nat) (p : PageNo) : holdsFrom m k n p = true
    ↔ ∃ x, headerOutcome (m.header ⟨ringZone k, p⟩) = .good x ∧ x.kind = kindHistory ∧ x.firstSeq ≤ n := by
  unfold holdsFrom
  cases headerOutcome (m.header ⟨ringZone k, p⟩) <;> simp

theorem holdingPage_spec (m : Memory) (k : RingIdx) (n : Nat) :
    (holdsFrom m k n (holdingPage m k n) = true ∧ ∀ p, holdsFrom m k n p = true → p ≤ holdingPage m k n)
      ∨ (holdingPage m k n = 0 ∧ ∀ p, ¬holdsFrom m k n p = true) := by
  rw [holdingPage_eq]
  cases h : ((List.finRange 32).filter (holdsFrom m k n)).getLast? with
  | none =>
    rw [List.getLast?_eq_none_iff, List.filter_eq_nil_iff] at h
    exact .inr ⟨rfl, fun p => h p (List.mem_finRange p)⟩
  | some x => exact .inl (le_of_getLast?_filter h)

/-! ### The request -/

theorem Dev.historyReply_eq (d : Dev) (p : Port) (h : HistoryRead) (full : Bool) :
    d.historyReply p h full = { d with
      pif := (d.reply p .ok ((if full && h.lastSeq.any (· < d.hiu.newestStored) then 0x02 else 0)
        ||| (if h.skipped || h.firstSeq.any (h.start < ·) then 0x08 else 0)) (.history h.entries h.omitted)).pif
      rtu := { d.rtu with
        cursors := put d.rtu.cursors (Port.idx p) (.history h.wanted)
        jobs := put d.rtu.jobs (Port.idx p) none } } := by
  unfold Dev.historyReply
  extract_lets more skipped d1
  have pif : d1.pif = d.pif := rfl
  rw [Dev.reply_eq, Dev.reply_congr pif]
  rfl

/-- A reply that is not full carries no MORE (R186). -/
theorem Dev.historyReply_rest (d : Dev) (p : Port) (h : HistoryRead) :
    d.historyReply p h false = { d with
      pif := (d.reply p .ok (if h.skipped || h.firstSeq.any (h.start < ·) then 0x08 else 0)
        (.history h.entries h.omitted)).pif
      rtu := { d.rtu with
        cursors := put d.rtu.cursors (Port.idx p) (.history h.wanted)
        jobs := put d.rtu.jobs (Port.idx p) none } } := by
  have zero (x : Byte) : 0 ||| x = x := BitVec.zero_or
  rw [Dev.historyReply_eq, Bool.false_and, if_neg Bool.false_ne_true, zero]

section
variable {d : Dev} {m : Memory} {p : Port} {start : Nat}

/-- No zone stores an entry at or above the number: the reply is empty (R186). -/
theorem Dev.serveHistory_none (h : d.hiu.zoneFor start = none) : d.serveHistory m p start = { d with
    pif := (d.reply p .ok 0 (.history [] 0)).pif
    rtu := { d.rtu with
      cursors := put d.rtu.cursors (Port.idx p) (.history start)
      jobs := put d.rtu.jobs (Port.idx p) none } } := by
  have zone : (d.setCursor p (.history start)).hiu.zoneFor start = none := h
  have replied : d.serveHistory m p start
      = (d.setCursor p (.history start)).historyReply p ⟨start, [], 0, 0, 0, false⟩ false := by
    rw [Dev.serveHistory]
    simp only [zone]
  have pif := Dev.reply_congr (d := d) (e := d.setCursor p (.history start)) rfl p .ok 0 (.history [] 0)
  have cursor : put (d.setCursor p (.history start)).rtu.cursors (Port.idx p) (.history start)
      = put d.rtu.cursors (Port.idx p) (.history start) := put_put ..
  rw [replied, Dev.historyReply_rest, ← pif, ← cursor]
  rfl

theorem Dev.serveHistory_some {k : RingIdx} (h : d.hiu.zoneFor start = some k) : d.serveHistory m p start = ({ d with
    rtu := { d.rtu with
      cursors := put d.rtu.cursors (Port.idx p) (.history start)
      jobs := put d.rtu.jobs (Port.idx p) (some ⟨.history ⟨start, [], k, holdingPage m k start, d.hiu.firstOf k, false⟩,
        d.cursor p, false⟩) }
    arc := { d.arc with waiting := d.arc.waiting ++
      [ArrReq.mk (.rtu p) (.read ⟨ringZone k, holdingPage m k start⟩ 0 1024 0 0)] } } : Dev).arcSettle := by
  have zone : (d.setCursor p (.history start)).hiu.zoneFor start = some k := h
  rw [Dev.serveHistory]
  simp only [zone]
  rfl

end

/-! ### The end of a page's read -/

section
variable {d : Dev} {m : Memory} {p : Port}

theorem Dev.historyReadEnds_eq {h : HistoryRead} {at_ : PageAddr} {prior : Cursor} {a l b k : Nat}
    (hop : d.arc.op = some ⟨.rtu p, .read at_ a l b k⟩) (ring : at_.zone.val < 19)
    (hjob : d.job p = some ⟨.history h, prior, true⟩) :
    d.historyReadEnds m = (d.opEnds.historyDone m p prior h).settle := by
  have read : d.arc.rtuRead = some (p, at_) := by rw [Arc.rtuRead, hop]
  simp only [Dev.historyReadEnds, read, ring, hjob, Config.firstPoolZone, if_true]

/-- What a walk keeps when zones have lost their entries, by any test that says so of what it has met. -/
theorem Hiu.leaves_eq {h : Hiu} {r : HistoryRead} {keep : Found → Bool} (hk : ∀ x ∈ r.found, (keep x = true
    ↔ ∃ last, (h.ring[x.zone]).range = some (x.zoneFirst, last))) : h.leaves r
      = { r with found := r.found.filter keep, skipped := r.skipped || r.found.any (!keep ·) } := by
  have same : ∀ x ∈ r.found, h.keeps x = keep x := fun x hx => by
    rw [Bool.eq_iff_iff, h.keeps_iff, hk x hx]
  have filters : r.found.filter h.keeps = r.found.filter keep := List.filter_congr same
  have any : r.found.any (!h.keeps ·) = r.found.any (!keep ·) := by
    rw [Bool.eq_iff_iff, List.any_eq_true, List.any_eq_true]
    exact exists_congr fun x => and_congr_right fun hx => by rw [same x hx]
  rw [Hiu.leaves, filters, any]

/-- The walk goes on at the lowest range that reaches a number (R186). -/
theorem Dev.historyZone_some {prior : Cursor} {x : HistoryRead} {n : Nat} {k : RingIdx} (hz : d.hiu.zoneFor n = some k) :
    d.historyZone m p prior x n = d.placeHistory p prior { x with zone := k, page := holdingPage m k x.wanted } := by
  rw [Dev.historyZone, hz]

theorem Dev.historyZone_none {prior : Cursor} {x : HistoryRead} {n : Nat} (hz : d.hiu.zoneFor n = none) :
    d.historyZone m p prior x n = d.historyReply p x false := by
  rw [Dev.historyZone, hz]

theorem Memory.pageData_front (m : Memory) (p : PageAddr) (n : Nat) : m.pageData p 0 n = m.readRange p.base n := by
  rw [Memory.pageData, Nat.add_zero]

theorem Dev.historyDone_stored {prior : Cursor} {x y : HistoryRead} {last : Nat}
    (hr : (d.hiu.ring[x.zone]).range = some (x.zoneFirst, last)) (left : d.hiu.leaves x = y) :
    d.historyDone m p prior x
      = if (walkPage last 64 y (m.readRange (PageAddr.base ⟨ringZone x.zone, x.page⟩) 1024)).full then
          d.historyReply p (walkPage last 64 y (m.readRange (PageAddr.base ⟨ringZone x.zone, x.page⟩) 1024)).read true
        else
          d.historyNext m p prior (walkPage last 64 y (m.readRange (PageAddr.base ⟨ringZone x.zone, x.page⟩) 1024)).read last := by
  subst left
  rw [Dev.historyDone, (d.hiu.stillStored_iff ..).2 ⟨hr, rfl⟩]
  simp only [Memory.pageData_front]

theorem Dev.historyDone_lost {prior : Cursor} {x : HistoryRead}
    (hr : ∀ last, (d.hiu.ring[x.zone]).range ≠ some (x.zoneFirst, last)) :
    d.historyDone m p prior x = d.historyZone m p prior { d.hiu.leaves x with skipped := true }
      (max (d.hiu.leaves x).wanted x.zoneFirst) := by
  have stored : d.hiu.stillStored x.zone x.zoneFirst = none := by
    rw [Hiu.stillStored, Option.filter_eq_none_iff]
    rintro ⟨first, last⟩ hx hf
    exact hr last (by rw [hx, ← beq_iff_eq.1 hf])
  rw [Dev.historyDone, stored]
  rfl

end

theorem Dev.serveReadHistory_holdup {d : Dev} {flash : Memory} {p : Port} {b : List Byte} (h : d.hum.mode = .holdup) :
    d.serveReadHistory flash p b = d.reply p .power 0 .empty := Dev.readGate_holdup h p _

/-- A read of the history as it reaches RTU, whichever request asks it. -/
theorem Request.serve_asksHistory {s : State} {c : Instr} {p : Port} {r : Request} {tag : Byte} {b : List Byte}
    {start : Nat} (asks : (c = .readHistory p tag b ∧ r = .readHistory ∧ start = field b 0 4)
      ∨ (c = .readMore p tag b ∧ r = .readMore ∧ s.dev.cursor p = .history start)) :
    c = r.instr p tag b
    ∧ (s.dev.hum.mode = .holdup → r.serve s.flash p b (s.dev.takeFrame p r.code tag b)
        = (s.dev.takeFrame p r.code tag b).reply p .power 0 .empty)
    ∧ (s.dev.hum.mode ≠ .holdup → r.serve s.flash p b (s.dev.takeFrame p r.code tag b)
        = (s.dev.takeFrame p r.code tag b).serveHistory s.flash p start) := by
  rcases asks with ⟨rfl, rfl, rfl⟩ | ⟨rfl, rfl, hc⟩
  · refine ⟨rfl, fun hm => Dev.serveReadHistory_holdup (by simpa using hm), fun hm => ?_⟩
    show Dev.serveReadHistory _ p b _ = _
    rw [Dev.serveReadHistory, Dev.readGate_open (by simpa using hm)]
  · refine ⟨rfl, fun hm => Dev.serveReadMore_holdup (by simpa using hm), fun hm => ?_⟩
    show Dev.serveReadMore _ p _ = _
    rw [Dev.serveReadMore, Dev.readGate_open (by simpa using hm), Dev.readOn, Dev.cursor_takeFrame, hc]

theorem HistoryRead.omitted_eq (h : HistoryRead) : h.omitted = (h.found.filter (·.seq == none)).length := by
  rw [HistoryRead.omitted]
  congr 2
  funext x
  cases x.seq <;> rfl

/-- Settles O28: the request, the end of each page's read, and the zones and pages the walk goes by. -/
theorem historyReads : Obligations.HistoryReads := by
  refine ⟨fun c p r tag b s start reaches asks => ?_, fun p s h at_ prior a l b m hpower hop ring hjob => ?_,
    fun h => ⟨rfl, h.omitted_eq, rfl, rfl, fun n hn => by rw [HistoryRead.wanted, hn], fun hn => by rw [HistoryRead.wanted, hn]⟩,
    fun h n => ⟨h.zoneFor_none_iff n, fun k hk => Hiu.zoneFor_some hk, h.lt_newestStored n, fun k => rfl⟩, fun m k n => ?_⟩
  · obtain ⟨rfl, holdup, running⟩ := Request.serve_asksHistory asks
    intro cursors
    refine ⟨fun hm => exec_onlyAnswers reaches (by decide) (holdup hm), fun hm => ⟨fun none => exec_of_serve reaches ?_,
      fun k some => exec_of_serve reaches ?_⟩⟩
    · rw [running hm, Dev.serveHistory_none (by simpa using none),
        Dev.reply_taken (d := s.dev) (r := r) (tag := tag) (b := b) rfl (by decide), Dev.takeFrame_eq]
    · rw [running hm, Dev.serveHistory_some (by simpa using some), Dev.takeFrame_eq]
      rfl
  · intro idle becomes skips more replied reads goesOn kept keep hkeep left
    have done {d : Dev} (hd : idle.historyDone s.flash p prior h = d) : becomes d := by
      subst hd
      show s.act (·.historyReadEnds s.flash) = _
      rw [State.act_of_powered hpower, Dev.historyReadEnds_eq hop ring hjob]
      rfl
    have leaves : idle.hiu.leaves h = left := Hiu.leaves_eq hkeep
    have notFull (x : HistoryRead) : idle.historyReply p x false = replied x (skips x) := by
      rw [Dev.historyReply_rest, Dev.reply_congr (d := s.dev) (e := idle) rfl]
    have full (x : HistoryRead) : idle.historyReply p x true = replied x (more x ||| skips x) := by
      rw [Dev.historyReply_eq, Dev.reply_congr (d := s.dev) (e := idle) rfl]
      rfl
    have zone {x : HistoryRead} {least : Nat} (hz : idle.historyDone s.flash p prior h = idle.historyZone s.flash p prior x least) :
        goesOn x least := by
      refine ⟨fun k hk => done ?_, fun hk => done ?_⟩
      · rw [hz, Dev.historyZone_some (d := idle) hk]
        rfl
      · rw [hz, Dev.historyZone_none (d := idle) hk, notFull]
    refine ⟨fun last hr => ?_, fun hr => zone ?_⟩
    · intro w
      have stored := Dev.historyDone_stored (d := idle) (m := s.flash) (p := p) (prior := prior) (x := h) hr leaves
      have place : w.read.zone = h.zone ∧ w.read.page = h.page := walkPage_place ..
      refine ⟨fun hw => done ?_, fun hw page wanted => done ?_, fun hw stop => zone ?_⟩
      · rw [stored, if_pos hw, full]
      · rw [stored, if_neg (Bool.eq_false_iff.1 hw), Dev.historyNext, place.1, place.2, if_pos ⟨page, wanted⟩]
        rfl
      · rw [stored, if_neg (Bool.eq_false_iff.1 hw), Dev.historyNext, place.1, place.2]
        exact if_neg fun ⟨page, wanted⟩ => stop.elim (not_le.2 page) (not_lt.2 wanted)
    · rw [Dev.historyDone_lost (d := idle) hr, leaves]
  · simpa only [holdsFrom_iff] using holdingPage_spec m k n

end Sys2Proof.Machine
end


section
/-! PROOFS. The integrity code of a chunk (R54, R55): its columns, the sum that is a check word, and the decode. -/

namespace Sys2Proof.Machine

/-! ### The columns of the code -/

/-- The sum of the bits of a word. -/
def oddParity (w : BitVec 16) : Bool := (List.range 16).foldl (fun a i => a ^^ w.getLsbD i) false

theorem oddParity_xor (v w : BitVec 16) : oddParity (v ^^^ w) = (oddParity v ^^ oddParity w) := by
  have folds (l : List Nat) (a b : Bool) : l.foldl (fun a i => a ^^ (v ^^^ w).getLsbD i) (a ^^ b)
      = (l.foldl (fun a i => a ^^ v.getLsbD i) a ^^ l.foldl (fun a i => a ^^ w.getLsbD i) b) := by
    induction l generalizing a b with
    | nil => rfl
    | cons i l ih =>
      have shuffle : ((a ^^ b) ^^ (v ^^^ w).getLsbD i) = ((a ^^ v.getLsbD i) ^^ (b ^^ w.getLsbD i)) := by
        rw [BitVec.getLsbD_xor]
        cases a <;> cases b <;> simp
      simp only [List.foldl_cons, shuffle, ih]
  exact folds _ false false

theorem oddParity_oddColumn : ∀ i < 512, oddParity (oddColumn i) = true := by decide +kernel

theorem toNat_oddColumn : ∀ i < 512, (oddColumn i).toNat % 512 = i := by decide +kernel

theorem oddColumn_bits : ∀ i < 512, ((oddColumn i).getLsbD 13 && (oddColumn i).getLsbD 14) = true := by decide +kernel

theorem check_bits : ∀ k < 16, ((1#16 <<< k).getLsbD 13 && (1#16 <<< k).getLsbD 14) = false := by decide +kernel

theorem oddColumn_ne_check {i k : Nat} (hi : i < 512) (hk : k < 16) : oddColumn i ≠ 1#16 <<< k := fun h => by
  have bits := oddColumn_bits i hi
  rw [h, check_bits k hk] at bits
  exact Bool.false_ne_true bits

theorem check_ne_check : ∀ k < 16, ∀ l < k, 1#16 <<< k ≠ 1#16 <<< l := by decide +kernel

theorem oddParity_check : ∀ k < 16, oddParity (1#16 <<< k) = true := by decide +kernel

theorem codeColumn_data {col : Nat → BitVec 16} {i : Nat} (h : i < 512) : codeColumn col i = col i := if_pos h

theorem codeColumn_check (col : Nat → BitVec 16) (k : Nat) : codeColumn col (512 + k) = 1#16 <<< k := by
  rw [codeColumn, if_neg (by simp [chunkBits]), Nat.add_sub_cancel_left]

/-- Every column of the model's own code has an odd number of ones. -/
theorem oddParity_codeColumn {i : Nat} (h : i < 528) : oddParity (codeColumn oddColumn i) = true := by
  by_cases hi : i < 512
  · rw [codeColumn_data hi, oddParity_oddColumn i hi]
  · obtain ⟨k, rfl⟩ := Nat.exists_eq_add_of_le (not_lt.1 hi)
    rw [codeColumn_check, oddParity_check k (by omega)]

theorem codeColumn_oddColumn_ne {i j : Nat} (hi : i < 528) (hj : j < i) :
    codeColumn oddColumn i ≠ codeColumn oddColumn j := by
  by_cases hd : i < 512
  · rw [codeColumn_data hd, codeColumn_data (hj.trans hd)]
    intro h
    have low := toNat_oddColumn i hd
    rw [h, toNat_oddColumn j (hj.trans hd)] at low
    omega
  · obtain ⟨k, rfl⟩ := Nat.exists_eq_add_of_le (not_lt.1 hd)
    rw [codeColumn_check]
    by_cases hc : j < 512
    · rw [codeColumn_data hc]
      exact (oddColumn_ne_check hc (by omega)).symm
    · obtain ⟨l, rfl⟩ := Nat.exists_eq_add_of_le (not_lt.1 hc)
      rw [codeColumn_check]
      exact check_ne_check k (by omega) l (by omega)

/-- Odd columns: none is zero, and the sum of two is even. -/
theorem secDed_oddColumn : SecDed oddColumn := by
  refine ⟨fun i hi zero => ?_, fun i hi j hj => codeColumn_oddColumn_ne hi hj, fun i hi j hj k hk sum => ?_⟩
  · have odd := oddParity_codeColumn hi
    rw [zero] at odd
    exact absurd odd (by decide)
  · have odd := oddParity_codeColumn (hk.trans (hj.trans hi))
    rw [← sum, oddParity_xor, oddParity_codeColumn hi, oddParity_codeColumn (hj.trans hi)] at odd
    exact absurd odd (by decide)

theorem secDed_eccColumn : SecDed eccColumn := by
  by_cases h : SecDed Config.eccColumn
  · have same : eccColumn = Config.eccColumn := funext fun i => if_pos h
    rwa [same]
  · have same : eccColumn = oddColumn := funext fun i => if_neg h
    rw [same]
    exact secDed_oddColumn

theorem xor_swap {n : Nat} {a b c : BitVec n} (h : a ^^^ b = c) : a ^^^ c = b := by
  rw [← h, ← BitVec.xor_assoc, BitVec.xor_self, BitVec.zero_xor]

section
variable {col : Nat → BitVec 16} (sec : SecDed col)
include sec

theorem SecDed.column_ne {i j : Nat} (hi : i < 528) (hj : j < 528) (h : i ≠ j) : codeColumn col i ≠ codeColumn col j := by
  rcases lt_or_gt_of_ne h with h | h
  · exact (sec.2.1 j hj i h).symm
  · exact sec.2.1 i hi j h

/-- The sum of two columns is no column. -/
theorem SecDed.sum_ne {i j k : Nat} (hi : i < 528) (hj : j < 528) (hk : k < 528) (h : i ≠ j) :
    codeColumn col i ^^^ codeColumn col j ≠ codeColumn col k := by
  -- the sum can be written with any two of the three on the left
  intro ij_k
  have ji_k : codeColumn col j ^^^ codeColumn col i = codeColumn col k := by rw [BitVec.xor_comm, ij_k]
  have ik_j := xor_swap ij_k
  have jk_i := xor_swap ji_k
  have ki_j : codeColumn col k ^^^ codeColumn col i = codeColumn col j := by rw [BitVec.xor_comm, ik_j]
  have kj_i : codeColumn col k ^^^ codeColumn col j = codeColumn col i := by rw [BitVec.xor_comm, jk_i]
  obtain ⟨nonzero, -, third⟩ := sec
  rcases lt_trichotomy k i with ki | rfl | ik
  · rcases lt_trichotomy k j with kj | rfl | jk
    · rcases lt_or_gt_of_ne h with ij | ji
      · exact third j hj i ij k ki ji_k
      · exact third i hi j ji k kj ij_k
    · exact nonzero i hi (kj_i.symm.trans BitVec.xor_self)
    · exact third i hi k ki j jk ik_j
  · exact nonzero j hj (ik_j.symm.trans BitVec.xor_self)
  · rcases lt_trichotomy k j with kj | rfl | jk
    · exact third j hj k kj i ik jk_i
    · exact nonzero i hi (kj_i.symm.trans BitVec.xor_self)
    · rcases lt_or_gt_of_ne h with ij | ji
      · exact third k hk j jk i ij kj_i
      · exact third k hk i ik j ji ki_j

end

/-! ### Chunks and their check words -/

theorem length_flipBit (bs : List Byte) (i : Nat) : (flipBit bs i).length = bs.length := by
  simp [flipBit]

theorem getLsbD_unit : ∀ m < 8, ∀ n < 8, (1#8 <<< m).getLsbD n = decide (n = m) := by decide

theorem chunkBit_flipBit {bs : List Byte} {i : Nat} (hi : i < 8 * bs.length) (j : Nat) :
    chunkBit (flipBit bs i) j = if j = i then !chunkBit bs i else chunkBit bs j := by
  have unit := getLsbD_unit (i % 8) (Nat.mod_lt i (by decide)) (j % 8) (Nat.mod_lt j (by decide))
  unfold chunkBit flipBit
  by_cases byte : j / 8 = i / 8
  · have bit : j % 8 = i % 8 ↔ j = i := by omega
    have inside : i / 8 < bs.length := by omega
    rw [byte, List.getD_eq_getElem _ _ (by simpa using inside), List.getElem_set_self, BitVec.getLsbD_xor, unit]
    by_cases same : j = i
    · simp [same]
    · simp [same, bit]
  · have other : j ≠ i := fun h => byte (by rw [h])
    rw [if_neg other, List.getD_eq_getElem?_getD, List.getElem?_set_ne (Ne.symm byte), ← List.getD_eq_getElem?_getD]

theorem flipBit_flipBit {bs : List Byte} {i : Nat} (hi : i < 8 * bs.length) : flipBit (flipBit bs i) i = bs := by
  have inside : i / 8 < bs.length := by omega
  simp [flipBit, inside, BitVec.xor_assoc]

/-- The sum of the columns of a set of bits among `l`, from `w` on. -/
def sumColumns (col : Nat → BitVec 16) (f : Nat → Bool) (l : List Nat) (w : BitVec 16) : BitVec 16 :=
  l.foldl (fun w j => if f j then w ^^^ col j else w) w

theorem sumColumns_xor (col : Nat → BitVec 16) (f : Nat → Bool) (l : List Nat) (v w : BitVec 16) :
    sumColumns col f l (v ^^^ w) = sumColumns col f l v ^^^ w := by
  induction l generalizing v with
  | nil => rfl
  | cons j l ih =>
    show sumColumns col f l (if f j then v ^^^ w ^^^ col j else v ^^^ w)
      = sumColumns col f l (if f j then v ^^^ col j else v) ^^^ w
    split
    · rw [BitVec.xor_assoc, BitVec.xor_comm w, ← BitVec.xor_assoc, ih]
    · exact ih v

/-- One bit inverted adds its column. -/
theorem sumColumns_flip {col : Nat → BitVec 16} {f g : Nat → Bool} {i : Nat}
    (h : ∀ j, g j = if j = i then !f i else f j) (l : List Nat) (nodup : l.Nodup) (w : BitVec 16) :
    sumColumns col g l w = sumColumns col f l w ^^^ (if i ∈ l then col i else 0) := by
  induction l generalizing w with
  | nil => exact BitVec.xor_zero.symm
  | cons j l ih =>
    obtain ⟨notin, rest⟩ := List.nodup_cons.1 nodup
    show sumColumns col g l (if g j then w ^^^ col j else w)
      = sumColumns col f l (if f j then w ^^^ col j else w) ^^^ (if i ∈ j :: l then col i else 0)
    rw [ih rest]
    by_cases same : j = i
    · subst same
      rw [if_neg notin, if_pos List.mem_cons_self, h, if_pos rfl, ← sumColumns_xor]
      cases f j
      · simp [sumColumns_xor]
      · simp [sumColumns_xor, BitVec.xor_assoc]
    · have mem : i ∈ j :: l ↔ i ∈ l := by simp [Ne.symm same]
      simp only [h, same, if_false, mem]

theorem checkWord_flipBit {bs : List Byte} (hb : bs.length = 64) {i : Nat} (hi : i < 512) :
    checkWord (flipBit bs i) = checkWord bs ^^^ eccColumn i := by
  have flipped := sumColumns_flip (col := eccColumn) (chunkBit_flipBit (bs := bs) (i := i) (by omega))
    (List.range 512) List.nodup_range 0
  rw [if_pos (List.mem_range.2 hi)] at flipped
  exact flipped

/-! ### The decode -/

theorem find_column {i : Nat} (hi : i < 512) :
    (List.range 512).find? (fun j => eccColumn j = eccColumn i) = some i := by
  rw [List.find?_range_eq_some]
  refine ⟨by simp, List.mem_range.2 hi, fun j hj => ?_⟩
  have ne := secDed_eccColumn.column_ne (by omega : i < 528) (by omega : j < 528) (by omega)
  rw [codeColumn_data hi, codeColumn_data (hj.trans hi)] at ne
  simpa using ne.symm

theorem find_no_column {w : BitVec 16} (h : ∀ i < 512, eccColumn i ≠ w) :
    (List.range 512).find? (fun j => eccColumn j = w) = none := by
  simpa using h

section
variable {bs : List Byte} {word : BitVec 16}

theorem decodeChunk_clean (h : checkWord bs = word) : decodeChunk bs word = (.clean, bs) := by
  simp only [decodeChunk, h, BitVec.xor_self]
  exact if_pos rfl

theorem decodeChunk_data {i : Nat} (hi : i < 512) (h : checkWord bs ^^^ word = eccColumn i) :
    decodeChunk bs word = (.corrected, flipBit bs i) := by
  have nonzero : eccColumn i ≠ 0 := by
    rw [← codeColumn_data (col := eccColumn) hi]
    exact secDed_eccColumn.1 i (hi.trans (by decide))
  unfold decodeChunk
  rw [h, if_neg nonzero, find_column hi]

theorem decodeChunk_check {k : Nat} (hk : k < 16) (h : checkWord bs ^^^ word = 1#16 <<< k) :
    decodeChunk bs word = (.corrected, bs) := by
  have nonzero : 1#16 <<< k ≠ 0 := by
    rw [← codeColumn_check eccColumn]
    exact secDed_eccColumn.1 _ (Nat.add_lt_add_left hk 512)
  have noData : ∀ i < 512, eccColumn i ≠ 1#16 <<< k := fun i hi => by
    rw [← codeColumn_check eccColumn, ← codeColumn_data (col := eccColumn) hi]
    exact secDed_eccColumn.column_ne (by omega) (by omega) (by omega)
  have any : (List.range 16).any (fun l => 1#16 <<< l == 1#16 <<< k) = true :=
    List.any_eq_true.2 ⟨k, List.mem_range.2 hk, beq_iff_eq.2 rfl⟩
  unfold decodeChunk
  rw [h, if_neg nonzero, find_no_column noData]
  exact if_pos any

theorem decodeChunk_uncorrectable (h : ∀ i < 528, codeColumn eccColumn i ≠ checkWord bs ^^^ word)
    (nonzero : checkWord bs ^^^ word ≠ 0) : (decodeChunk bs word).1 = .uncorrectable := by
  have noData : ∀ i < 512, eccColumn i ≠ checkWord bs ^^^ word := fun i hi => by
    rw [← codeColumn_data (col := eccColumn) hi]
    exact h i (by omega)
  have noCheck : ¬(List.range 16).any (fun k => 1#16 <<< k == checkWord bs ^^^ word) = true := fun any => by
    obtain ⟨k, hk, same⟩ := List.any_eq_true.1 any
    have := List.mem_range.1 hk
    refine h (512 + k) (by omega) ?_
    rw [codeColumn_check]
    exact beq_iff_eq.1 same
  unfold decodeChunk
  rw [if_neg nonzero, find_no_column noData]
  exact congrArg Prod.fst (if_neg noCheck)

end

theorem decodeChunk_spec (bs : List Byte) (hb : bs.length = 64) :
    decodeChunk bs (checkWord bs) = (.clean, bs)
    ∧ (∀ i, i < 512 → decodeChunk (flipBit bs i) (checkWord bs) = (.corrected, bs))
    ∧ (∀ k, k < 16 → decodeChunk bs (checkWord bs ^^^ (1#16 <<< k)) = (.corrected, bs))
    ∧ (∀ i j, i < 512 → j < 512 → i ≠ j →
        (decodeChunk (flipBit (flipBit bs i) j) (checkWord bs)).1 = .uncorrectable) := by
  refine ⟨decodeChunk_clean rfl, fun i hi => ?_, fun k hk => decodeChunk_check hk (xor_swap rfl), fun i j hi hj hij => ?_⟩
  · have sum : checkWord (flipBit bs i) ^^^ checkWord bs = eccColumn i := by
      rw [checkWord_flipBit hb hi, BitVec.xor_comm, ← BitVec.xor_assoc, BitVec.xor_self, BitVec.zero_xor]
    rw [decodeChunk_data hi sum, flipBit_flipBit (by omega)]
  · have sum : checkWord (flipBit (flipBit bs i) j) ^^^ checkWord bs = codeColumn eccColumn i ^^^ codeColumn eccColumn j := by
      rw [checkWord_flipBit (by rw [length_flipBit, hb]) hj, checkWord_flipBit hb hi, codeColumn_data hi, codeColumn_data hj,
        BitVec.xor_comm, BitVec.xor_assoc, ← BitVec.xor_assoc, BitVec.xor_self, BitVec.zero_xor]
    refine decodeChunk_uncorrectable (fun k hk => ?_) ?_
    · rw [sum]
      exact (secDed_eccColumn.sum_ne (by omega) (by omega) hk hij).symm
    · rw [sum]
      intro zero
      exact secDed_eccColumn.column_ne (by omega : i < 528) (by omega : j < 528) hij (BitVec.xor_eq_zero_iff.1 zero)

end Sys2Proof.Machine
end


section
/-! PROOFS. The end of a stream's page read (R184, R185). -/

namespace Sys2Proof.Machine

theorem mem_raiseIn_detail (l : List Notice) (c : NoticeCause) (detail : BitVec 32) :
    ∃ n ∈ raiseIn l c detail, n.cause = c ∧ n.detail = detail := by
  unfold raiseIn
  split
  next h =>
    obtain ⟨n, hn, hc⟩ := List.any_eq_true.1 h
    exact ⟨_, List.mem_map_of_mem hn, by simp [beq_iff_eq.1 hc]⟩
  next => exact ⟨⟨c, detail, 0⟩, by simp, rfl, rfl⟩

/-- The event of an UNCORRECTABLE count (R185). -/
def integrityBody (incident stream bad : Nat) : HBody := f1 (leBytes 4 incident ++ leBytes 1 stream ++ leBytes 2 bad)

section
variable {d : Dev} {incident stream bad : Nat}

theorem Dev.integrity_zero : d.integrity incident stream 0 = d := rfl

theorem Dev.integrity_pos (h : 0 < bad) : d.integrity incident stream bad
    = (d.event evIntegrity 2 (integrityBody incident stream bad)).raise .integrity incident := if_neg (by omega)

theorem Dev.integrity_logsTo (d : Dev) (incident stream bad : Nat) : d.logsTo (d.integrity incident stream bad) := by
  rcases Nat.eq_zero_or_pos bad with rfl | h
  · exact Dev.logsTo_rfl d
  · rw [Dev.integrity_pos h]
    exact Dev.logsTo_trans (Dev.event_logsTo ..) (Dev.raise_logsTo ..)

end

/-- A stream read in hand whose page has been read. -/
theorem Dev.streamReadEnds_eq {d : Dev} {m : Memory} {p : Port} {incident stream offset len : Nat} {more : Bool}
    {page at_ : PageAddr} {prior : Cursor} {a l b k : Nat} (hop : d.arc.op = some ⟨.rtu p, .read at_ a l b k⟩)
    (pool : 19 ≤ at_.zone.val) (hjob : d.job p = some ⟨.stream incident stream offset len more page, prior, true⟩) :
    d.streamReadEnds m = (d.opEnds.streamDone m p incident stream offset len more page).settle := by
  have read : d.arc.rtuRead = some (p, at_) := by rw [Arc.rtuRead, hop]
  simp only [Dev.streamReadEnds, read, pool, hjob, Config.firstPoolZone, if_true]

/-- The state in which the reply to a stream read is built: no operation, no read in hand, and the cursor behind the
range. -/
def Dev.streamRead (d : Dev) (p : Port) (c : Cursor) : Dev := (d.opEnds.setJob p none).setCursor p c

theorem Dev.streamDone_eq (d : Dev) (m : Memory) (p : Port) (incident stream offset len : Nat) (more : Bool)
    (page : PageAddr) : ∃ gone, let x := decodeRead m page (dumpFill m page) (offset % 1024) len
      d.opEnds.streamDone m p incident stream offset len more page
        = ((d.streamRead p (.stream incident stream (offset + len) gone)).integrity incident stream x.uncorrectable).reply p .ok
            (streamFlag more) (.stream offset x.data x.corrected x.uncorrectable) := ⟨_, rfl⟩

section
variable (d : Dev) (p : Port) (c : Cursor) (incident stream bad : Nat) (flags : Byte) (body : ReplyBody)

/-- The end of a stream read, after its page's bytes have been decoded. -/
def Dev.streamEnds : Dev := (((d.streamRead p c).integrity incident stream bad).reply p .ok flags body).settle

theorem Dev.streamEnds_flowsTo : ((d.streamRead p c).integrity incident stream bad).flowsTo
    (d.streamEnds p c incident stream bad flags body) :=
  (Dev.reply_flowsTo ..).trans (Dev.settle_flowsTo _)

theorem Dev.streamEnds_rtu : (d.streamEnds p c incident stream bad flags body).rtu = (d.streamRead p c).rtu := by
  have h := (d.streamRead p c).integrity_logsTo incident stream bad
  unfold Dev.logsTo at h
  simp only [Dev.streamEnds, Dev.settle_frame, Dev.reply_fields]
  rw [h]

end

theorem Dev.logsTo.arc_op {d e : Dev} (h : d.logsTo e) : e.arc.op = d.arc.op := by
  unfold Dev.logsTo at h
  rw [h]

/-- What an operation logs, then a reply and what follows every change. -/
theorem Dev.logsTo.replied {d e : Dev} (h : d.logsTo e) (p : Port) (status : Status) (flags : Byte) (body : ReplyBody) :
    ({ d with pif := (e.reply p status flags body).pif } : Dev).logsTo (e.reply p status flags body).settle := by
  have logged := h.withPif (e.reply p status flags body).pif
  rw [← Dev.reply_eq] at logged
  exact Dev.logsTo_trans logged (Dev.settle_logsTo _)

section
variable (d : Dev) (p : Port) (c : Cursor) (incident stream bad : Nat) (flags : Byte) (body : ReplyBody)

theorem Dev.streamEnds_pif :
    (d.streamEnds p c incident stream bad flags body).pif = (d.reply p .ok flags body).pif := by
  have same : ((d.streamRead p c).integrity incident stream bad).pif = d.pif :=
    ((d.streamRead p c).integrity_logsTo incident stream bad).pif_eq
  rw [Dev.streamEnds, (Dev.settle_frame _).1, Dev.reply_congr same]

theorem Dev.streamEnds_op : (d.streamEnds p c incident stream bad flags body).arc.op = none := by
  have h := ((d.streamRead p c).integrity_logsTo incident stream bad).arc_op
  simp only [Dev.streamEnds, Dev.settle_inner, Dev.reply_fields]
  exact h

theorem Dev.streamEnds_notice (h : 0 < bad) :
    ∀ l ∈ [(d.streamEnds p c incident stream bad flags body).ntu.management,
      (d.streamEnds p c incident stream bad flags body).ntu.service],
      ∃ n ∈ l, n.cause = .integrity ∧ n.detail = BitVec.ofNat 32 incident := by
  simp only [Dev.streamEnds, Dev.settle_inner, Dev.reply_fields, Dev.integrity_pos h]
  simp only [List.forall_mem_cons, List.not_mem_nil, false_implies, implies_true, and_true]
  exact ⟨mem_raiseIn_detail _ _ _, mem_raiseIn_detail _ _ _⟩

theorem Dev.streamEnds_event (h : 0 < bad) :
    d.records (d.streamEnds p c incident stream bad flags body) (integrityBody incident stream bad) 2 0x0006
    ∧ d.offers (d.streamEnds p c incident stream bad flags body) (integrityBody incident stream bad) 2 .internal 0x0006 := by
  have ends := d.streamEnds_flowsTo p c incident stream bad flags body
  have raised : ((d.streamRead p c).event evIntegrity 2 (integrityBody incident stream bad)).flowsTo
      ((d.streamRead p c).integrity incident stream bad) := by
    rw [Dev.integrity_pos h]
    exact Dev.raise_flowsTo ..
  have lost : (d.streamEnds p c incident stream bad flags body).hiu.lost
      = ((d.streamRead p c).event evIntegrity 2 (integrityBody incident stream bad)).hiu.lost := by
    simp only [Dev.streamEnds, Dev.settle_inner, Dev.reply_fields, Dev.integrity_pos h]
    rfl
  exact ⟨((Dev.event_records ..).later (raised.trans ends)).before rfl rfl,
    (Dev.offerSeq_offers (d.streamRead p c) ..).later (raised.trans ends) lost⟩

theorem Dev.streamEnds_logsTo :
    ({ d with
      pif := (d.streamEnds p c incident stream bad flags body).pif
      rtu := (d.streamEnds p c incident stream bad flags body).rtu
      arc := { d.arc with op := none } } : Dev).logsTo (d.streamEnds p c incident stream bad flags body) := by
  have logged := ((d.streamRead p c).integrity_logsTo incident stream bad).replied p .ok flags body
  rw [Dev.streamEnds_rtu]
  simp only [Dev.streamEnds, Dev.settle_frame]
  exact logged

theorem Dev.streamEnds_settlesTo :
    ({ d with
      pif := (d.streamEnds p c incident stream 0 flags body).pif
      rtu := (d.streamEnds p c incident stream 0 flags body).rtu
      arc := { d.arc with op := none } } : Dev).settlesTo (d.streamEnds p c incident stream 0 flags body) := by
  have settled := Dev.settle_settlesTo ((d.streamRead p c).reply p .ok flags body)
  rw [Dev.streamEnds_rtu]
  simp only [Dev.streamEnds, Dev.settle_frame, Dev.integrity_zero]
  rw [Dev.reply_eq] at settled ⊢
  exact settled

end

/-- Settles O29: the part of RTU, then the code. -/
theorem streamReadDone : Obligations.StreamReadDone := by
  refine ⟨fun p s incident stream offset len more page at_ prior a l b m hpower hop pool hjob => ?_, decodeChunk_spec⟩
  intro x
  obtain ⟨gone, done⟩ := s.dev.streamDone_eq s.flash p incident stream offset len more page
  have ends : exec .streamReadDone s = .next { s with dev := (s.dev.streamEnds p (.stream incident stream (offset + len) gone)
      incident stream x.uncorrectable (streamFlag more) (.stream offset x.data x.corrected x.uncorrectable)) } := by
    show s.act (·.streamReadEnds s.flash) = _
    rw [State.act_of_powered hpower, Dev.streamReadEnds_eq hop pool hjob, done]
    rfl
  refine ⟨_, ends, Dev.streamEnds_pif .., ⟨gone, ?_⟩, ?_, Dev.streamEnds_op .., fun h =>
    Dev.streamEnds_notice _ _ _ _ _ _ _ _ h, fun h => Dev.streamEnds_event _ _ _ _ _ _ _ _ h, ?_, Dev.streamEnds_logsTo .., fun q hq => ?_⟩
  · rw [Dev.cursor, Dev.streamEnds_rtu]
    exact get_put_same ..
  · rw [Dev.job, Dev.streamEnds_rtu]
    exact get_put_same ..
  · intro zero
    rw [zero]
    exact Dev.streamEnds_settlesTo ..
  · have other : Port.idx p ≠ Port.idx q := fun h => hq (Port.idx_inj h).symm
    rw [Dev.cursor, Dev.job, Dev.streamEnds_rtu]
    exact ⟨get_put_ne _ other _, get_put_ne _ other _⟩

end Sys2Proof.Machine
end


section
/-! PROOFS. LOG_EVENT, and the tests that halt the history and let it go on (R109, R110, R112, R122, R125). -/

namespace Sys2Proof.Machine

section
variable {d : Dev} {p : Port} {b : List Byte}

theorem Dev.serveLogEvent_takes (h : d.hiu.canTake = true) : d.serveLogEvent p b
    = ((d.offerSeq (logBody b) (byte b 0) (.port p) (field b 1 2)).dev.reply p .ok 0 (.logged d.hiu.nextSeq)).settle := by
  have seq : (d.offerSeq (logBody b) (byte b 0) (.port p) (field b 1 2)).seq = some d.hiu.nextSeq := by
    rw [Dev.offerSeq, if_pos h]
  simp only [Dev.serveLogEvent, seq]

theorem Dev.serveLogEvent_loses (h : d.hiu.canTake = false) : d.serveLogEvent p b
    = (((d.setHiu fun x => { x with lost := bump 65535 d.hiu.lost }).raise .historyLost (bump 65535 d.hiu.lost)).reply p
        .dropped 0 (.dropped (bump 65535 d.hiu.lost))).settle := by
  have seq : (d.offerSeq (logBody b) (byte b 0) (.port p) (field b 1 2)).seq = none := by
    rw [Dev.offerSeq, if_neg (Bool.eq_false_iff.1 h)]
  simp only [Dev.serveLogEvent, seq, Dev.offerSeq_lost h]
  rfl

end

theorem Hiu.canTake_iff (h : Hiu) :
    h.canTake = true ↔ h.intake.length < 32 ∧ h.halted = false ∧ h.nextSeq ≤ 4294967295 := by
  simp [Hiu.canTake, Config.intakeDepth, Config.max32, and_assoc]

theorem Dev.haltTest_halts {d : Dev} (h : d.hiu.unpinnedZones < 2) (hh : d.hiu.halted = false) :
    d.haltTest = ({ d with hiu := { d.hiu with halted := true } } : Dev).raise .historyHalted d.hiu.unpinnedZones :=
  if_pos ⟨h, hh⟩

theorem Dev.haltTest_stays {d : Dev} (h : 2 ≤ d.hiu.unpinnedZones ∨ d.hiu.halted = true) : d.haltTest = d :=
  if_neg fun ⟨few, open_⟩ => h.elim (not_le.2 few) (Bool.eq_false_iff.1 open_)

theorem Dev.resumeTest_goes {d : Dev} (h : 2 ≤ d.hiu.unpinnedZones) (hh : d.hiu.halted = true)
    (hn : d.hiu.nextSeq ≤ 4294967295) :
    d.resumeTest = ({ d with hiu := { d.hiu with halted := false } } : Dev).gapTest.hiuMove.awaitTest :=
  if_pos ⟨h, hh, hn⟩

theorem Dev.resumeTest_stays {d : Dev}
    (h : d.hiu.unpinnedZones < 2 ∨ d.hiu.halted = false ∨ 4294967295 < d.hiu.nextSeq) : d.resumeTest = d := by
  refine if_neg fun ⟨enough, halted, left⟩ => ?_
  rcases h with h | h | h
  · omega
  · exact Bool.eq_false_iff.1 h halted
  · exact not_lt.2 left h

/-- Settles O30: the entry that is taken, the one that is lost, and the tests of R122 and R125. -/
theorem logEvent : Obligations.LogEvent := by
  refine ⟨fun p tag b s reaches => ?_, Hiu.canTake_iff, fun d => ?_⟩
  · intro body
    refine ⟨fun takes => ⟨_, exec_served reaches, ?_, ?_⟩, fun loses => exec_of_serve reaches ?_⟩
    · show Dev.logsTo _ (Dev.serveLogEvent p b _)
      rw [Dev.serveLogEvent_takes (by simpa using takes)]
      have logged := (Dev.offerSeq_logsTo (s.dev.takeFrame p Request.logEvent.code tag b) (logBody b) (byte b 0) (.port p)
        (field b 1 2)).answered rfl (by decide : Status.ok ≠ .unknownRequest) 0 (.logged s.dev.hiu.nextSeq)
      rw [Dev.takeFrame_eq] at logged ⊢
      exact logged
    · show _ ∈ (Dev.serveLogEvent p b _).hiu.unflushed
      rw [Dev.serveLogEvent_takes (by simpa using takes)]
      have taken := Dev.mem_unflushed_offerSeq (d := s.dev.takeFrame p Request.logEvent.code tag b) (by simpa using takes)
        (logBody b) (byte b 0) (.port p) (field b 1 2)
      have kept := ((Dev.reply_flowsTo _ p .ok 0 (.logged s.dev.hiu.nextSeq)).trans (Dev.settle_flowsTo _)).entries.subset taken
      rw [Dev.takeFrame_eq] at kept ⊢
      exact kept
    · show Dev.serveLogEvent p b _ = _
      rw [Dev.serveLogEvent_loses (by simpa using loses)]
      refine congrArg Dev.settle (Eq.trans (Dev.reply_taken (d := s.dev) (r := .logEvent) (tag := tag) (b := b)
        (status := .dropped) (by rfl) (by decide)) ?_)
      rw [Dev.takeFrame_eq]
      rfl
  · intro free
    have count : d.hiu.unpinnedZones = free := d.hiu.unpinnedZones_eq
    rw [← count]
    exact ⟨Dev.haltTest_halts, Dev.haltTest_stays, Dev.resumeTest_goes, Dev.resumeTest_stays⟩

end Sys2Proof.Machine
end


section
/-! PROOFS. The checks of Table 2.4 for APPEND and WITHDRAW (R31, R35, R36, R39). -/

namespace Sys2Proof.Machine

section
variable {d : Dev} {p : Port} {b : List Byte} {i : StreamIdx} {x : StreamBody}

theorem Dev.handle_of (h : byte b 0 = i.val) (hg : b.getD 1 0 = (d.cpm.slots[i]).gen) (hx : d.body i = some x) :
    d.handle b = some (i, x) := by
  have hi : byte b 0 < 16 := by omega
  have same : (⟨byte b 0, hi⟩ : StreamIdx) = i := Fin.ext h
  unfold Dev.handle
  rw [dif_pos hi]
  simp only [same, hg, hx, if_true, Option.map_some]

theorem Dev.handle_none (h : ∀ (i : StreamIdx) (x : StreamBody), d.body i = some x →
    ¬(byte b 0 = i.val ∧ b.getD 1 0 = (d.cpm.slots[i]).gen)) : d.handle b = none := by
  unfold Dev.handle
  split
  next hi =>
    dsimp only
    split
    next hg =>
      cases hx : d.body ⟨byte b 0, hi⟩ with
      | none => rfl
      | some x => exact absurd ⟨rfl, hg.symm⟩ (h _ x hx)
    next => rfl
  next => rfl

theorem Dev.handleTest_badHandle (h : d.handle b = none) : d.handleTest p b = .error (.badHandle, .empty) := by
  rw [Dev.handleTest, h]

theorem Dev.handleTest_notOwner (h : d.handle b = some (i, x)) (ho : x.owner ≠ p) :
    d.handleTest p b = .error (.notOwner, .empty) := by
  simp only [Dev.handleTest, h]
  exact if_pos ho

theorem Dev.handleTest_ended {e : PendingEnd} (h : d.handle b = some (i, x)) (ho : x.owner = p) (he : x.ending = some e) :
    d.handleTest p b = .error (.endedAlready, .endedAlready e x.accepted) := by
  simp [Dev.handleTest, h, ho, he]

theorem Dev.handleTest_ok (h : d.handle b = some (i, x)) (ho : x.owner = p) (he : x.ending = none) :
    d.handleTest p b = .ok (i, x) := by
  simp [Dev.handleTest, h, ho, he]

@[simp] theorem Dev.handleTest_takeFrame (q : Port) (code tag : Byte) (c : List Byte) :
    (d.takeFrame q code tag c).handleTest p b = d.handleTest p b := by
  simp [Dev.handleTest, Dev.handle, Dev.body]

@[simp] theorem Dev.appendTest_takeFrame (q : Port) (code tag : Byte) (c : List Byte) (final : Bool) (n : Nat) :
    (d.takeFrame q code tag c).appendTest x final n = d.appendTest x final n := by
  simp [Dev.appendTest, Dev.mayTake]

end

/-- A request on a stream that one of the first three checks refuses. -/
theorem exec_handleTest_refused {r : Request} {p : Port} {tag : Byte} {b : List Byte} {s : State}
    (hr : r = .append ∨ r = .withdraw) (reaches : s.reaches p r b) {status : Status} {body : ReplyBody}
    (h : s.dev.handleTest p b = .error (status, body)) (hs : status ≠ .unknownRequest) :
    exec (r.instr p tag b) s = .next (s.onlyAnswers p b (r.says tag status 0 body)) := by
  refine exec_onlyAnswers reaches hs ?_
  rcases hr with rfl | rfl
  · show Dev.serveAppend p b _ = _
    simp only [Dev.serveAppend, Dev.handleTest_takeFrame, h]
  · show Dev.serveWithdraw p b _ = _
    simp only [Dev.serveWithdraw, Dev.handleTest_takeFrame, h]

/-! ### The checks of APPEND alone -/

/-- The FINAL flag of an APPEND is 0 or 1 (R35). -/
theorem final_of_judge {d : Dev} {p : Port} {b : List Byte} (h : judge d p .append b = none) :
    byte b 2 ≤ 1 ∧ bit (byte b 2) 0 = (byte b 2 == 1) := by
  have value := (judge_none_iff.1 h).2.1
  have le : byte b 2 ≤ 1 := by
    by_contra big
    simp [valueTest, need, big] at value
  refine ⟨le, ?_⟩
  rcases Nat.le_one_iff_eq_zero_or_eq_one.1 le with h | h <;> rw [h] <;> rfl

theorem exec_appendTest_refused {p : Port} {tag : Byte} {b : List Byte} {s : State} (reaches : s.reaches p .append b)
    {i : StreamIdx} {x : StreamBody} (h : s.dev.handleTest p b = .ok (i, x)) {status : Status} {body : ReplyBody}
    (ht : s.dev.appendTest x (byte b 2 == 1) (b.length - 3) = some (status, body)) (hs : status ≠ .unknownRequest) :
    exec (.append p tag b) s = .next (s.onlyAnswers p b (Request.append.says tag status 0 body)) := by
  refine exec_onlyAnswers reaches hs ?_
  show Dev.serveAppend p b _ = _
  simp only [Dev.serveAppend, Dev.handleTest_takeFrame, h, (final_of_judge reaches.2).2, Dev.appendTest_takeFrame, ht]

section
variable {d : Dev} {x : StreamBody} {final : Bool} {n : Nat}

theorem Dev.appendTest_misaligned (hf : final = false) (hn : n % 8 ≠ 0) :
    d.appendTest x final n = some (.misaligned, .empty) := by
  simp [Dev.appendTest, hf, hn]

theorem Dev.appendTest_overrun (aligned : final = true ∨ n % 8 = 0)
    (h : (∃ l, x.declared = some l ∧ l < x.accepted + n) ∨ 4294967295 < x.accepted + n) :
    d.appendTest x final n = some (.overrun, .empty) := by
  have even : ¬(!final && n % 8 != 0) = true := by simpa [or_iff_not_imp_left] using aligned
  have long : (x.declared.any (· < x.accepted + n) || Config.max32 < x.accepted + n) = true := by
    rw [Bool.or_eq_true, Option.any_eq_true]
    simpa [Config.max32] using h
  rw [Dev.appendTest, if_neg even, if_pos long]

theorem Dev.appendTest_full (aligned : final = true ∨ n % 8 = 0) (hd : ∀ l, x.declared = some l → x.accepted + n ≤ l)
    (hm : x.accepted + n ≤ 4294967295) (hf : ∀ f, x.fill = some f → 1024 - f.data.length < n)
    (ht : d.stb.free.length ≤ (if x.cls = 0 then 0 else d.sst.working.class0Reserve)) :
    d.appendTest x final n = some (.stagingFull, .accepted x.accepted) := by
  have even : ¬(!final && n % 8 != 0) = true := by simpa [or_iff_not_imp_left] using aligned
  have short : ¬(x.declared.any (· < x.accepted + n) || Config.max32 < x.accepted + n) = true := by
    rw [Bool.or_eq_true, Option.any_eq_true]
    rintro (⟨l, hl, above⟩ | above)
    · exact absurd (of_decide_eq_true above) (not_lt.2 (hd l hl))
    · exact absurd (of_decide_eq_true above) (not_lt.2 hm)
  have needs : x.needsBlock n = true := by
    unfold StreamBody.needsBlock
    split
    next => rfl
    next f hx => exact decide_eq_true (hf f hx)
  have none : d.mayTake x.cls = false := by
    unfold Dev.mayTake
    split at ht
    next hc => rw [if_pos hc, decide_eq_false_iff_not]; omega
    next hc => rw [if_neg hc, decide_eq_false_iff_not]; omega
  rw [Dev.appendTest, if_neg even, if_neg short, if_pos (by rw [needs, none]; rfl)]

end

/-- Settles O35: the checks in the order of Table 2.4. -/
theorem streamRequestsAreRefusedInOrder : Obligations.StreamRequestsAreRefusedInOrder := by
  intro r p tag b s hr reaches answered
  refine ⟨fun h => exec_handleTest_refused hr reaches (Dev.handleTest_badHandle (Dev.handle_none h)) (by decide),
    fun i x hi hg hx => ?_⟩
  have handle := Dev.handle_of hi hg hx
  refine ⟨fun ho => exec_handleTest_refused hr reaches (Dev.handleTest_notOwner handle ho) (by decide),
    fun e ho he => exec_handleTest_refused hr reaches (Dev.handleTest_ended handle ho he) (by decide), ?_⟩
  rintro rfl ho he
  intro n
  have passes := Dev.handleTest_ok handle ho he
  have le := (final_of_judge reaches.2).1
  refine ⟨fun zero odd => exec_appendTest_refused reaches passes (Dev.appendTest_misaligned (by simp [zero]) odd) (by decide),
    fun aligned => ⟨fun long => exec_appendTest_refused reaches passes
      (Dev.appendTest_overrun (by simpa using aligned) long) (by decide), fun hd hm hf ht =>
      exec_appendTest_refused reaches passes (Dev.appendTest_full (by simpa using aligned) hd hm hf ht) (by decide)⟩⟩

end Sys2Proof.Machine
end


section
/-! PROOFS. The entry to START, the inputs and their filters (R1 to R3, R20, R128, R142). -/

namespace Sys2Proof.Machine

/-! ### The filter of one line -/

section
variable {d : Dev} {l : Line}

theorem Dev.filterLine_starts (differs : d.tru.levels[Line.idx l] ≠ d.tru.qualified[Line.idx l])
    (idle : d.tru.timing[Line.idx l] = false) (time : d.sst.working.filters[Line.idx l] ≠ 0) :
    d.filterLine l = d.setFilter l (some (d.after d.sst.working.filters[Line.idx l])) := by
  simp only [Dev.filterLine, bne_iff_ne.2 differs, idle, time, and_self, if_true, if_false]

theorem Dev.filterLine_qualifies (differs : d.tru.levels[Line.idx l] ≠ d.tru.qualified[Line.idx l])
    (idle : d.tru.timing[Line.idx l] = false) (time : d.sst.working.filters[Line.idx l] = 0) :
    d.filterLine l = d.qualify l := by
  simp only [Dev.filterLine, bne_iff_ne.2 differs, idle, time, and_self, if_true]

theorem Dev.filterLine_cancels (same : d.tru.levels[Line.idx l] = d.tru.qualified[Line.idx l])
    (runs : d.tru.timing[Line.idx l] = true) : d.filterLine l = d.setFilter l none := by
  simp [Dev.filterLine, same, runs]

theorem Dev.filterLine_stays
    (h : d.tru.levels[Line.idx l] = d.tru.qualified[Line.idx l] ↔ d.tru.timing[Line.idx l] = false) :
    d.filterLine l = d := by
  by_cases same : d.tru.levels[Line.idx l] = d.tru.qualified[Line.idx l]
  · simp [Dev.filterLine, same, h.1 same]
  · have runs : d.tru.timing[Line.idx l] = true := by simpa using same ∘ h.2
    simp only [Dev.filterLine, bne_iff_ne.2 same, runs, Bool.true_eq_false, and_false, false_and, if_false]

end

theorem exec_lineChange {s : State} (hpower : s.powered = true) (l : Line) (x : Bool) :
    exec (.lineChange l x) s = .next { s with dev := ((s.dev.setLevel l x).filterLine l).settle } := by
  show Host.Outcome.next { s with dev := if s.powered then _ else _ } = _
  rw [if_pos hpower]

/-- Settles O42: the four cases of `Dev.filterLine`. -/
theorem lineChangeFilters : Obligations.LineChangeFilters := by
  intro l x s hpower i d
  have changed : exec (.lineChange l x) s = .next { s with dev := (d.filterLine l).settle } := exec_lineChange hpower l x
  have level : d.tru.levels[Line.idx l] = x := get_put_same ..
  refine ⟨fun differs idle time => ?_, fun differs idle time => ?_, fun same runs => ?_, fun h => ?_⟩
  · rw [changed, Dev.filterLine_starts (d := d) (by rw [level]; exact differs) idle time]
    rfl
  · rw [changed, Dev.filterLine_qualifies (d := d) (by rw [level]; exact differs) idle time]
  · rw [changed, Dev.filterLine_cancels (d := d) (by rw [level]; exact same) runs]
    rfl
  · rw [changed, Dev.filterLine_stays (d := d) (by rw [level]; exact h)]

/-! ### The expiry of a filter -/

theorem exec_filterExpiry {s : State} (hpower : s.powered = true) {l : Line}
    (due : s.dev.tmb.deadlines.filters[Line.idx l] = some s.dev.tmb.tick) :
    exec (.filterExpiry l) s = .next { s with dev := (s.dev.qualify l).settle } := by
  have expired : s.dev.due s.dev.tmb.deadlines.filters[Line.idx l] = true := by
    rw [due]
    exact beq_self_eq_true _
  show s.act _ = _
  rw [State.act_of_powered hpower, if_pos expired]

section
variable {d : Dev}

theorem Dev.faultEdge_off {f : FaultLine} {level : Bool}
    (h : level = false ∨ d.sst.working.lineEnables.getLsbD (FaultLine.idx f).val = false) : d.faultEdge f level = d := by
  refine if_neg fun ⟨up, on⟩ => ?_
  rcases h with h | h
  · simp [h] at up
  · simp [h] at on

theorem Dev.faultEdge_trigger {f : FaultLine} (on : d.sst.working.lineEnables.getLsbD (FaultLine.idx f).val = true)
    (h : d.hum.mode = .normal ∨ d.hum.mode = .holdup) :
    d.faultEdge f true = d.takeTrigger (d.triggerNow (.fault f)) none := by
  simp [Dev.faultEdge, on, h]

theorem Dev.faultEdge_latch {f : FaultLine} (on : d.sst.working.lineEnables.getLsbD (FaultLine.idx f).val = true)
    (h : d.hum.mode = .start ∨ d.hum.mode = .exhausted) :
    d.faultEdge f true = d.latch f (d.triggerNow (.fault f)) := by
  rcases h with h | h <;> simp [Dev.faultEdge, on, h]

theorem Dev.powerEdge_warning (h : d.hum.mode = .normal) : d.powerEdge true = d.enterHoldup := by
  unfold Dev.powerEdge
  rw [h]

theorem Dev.powerEdge_return (h : d.hum.mode = .holdup ∨ d.hum.mode = .exhausted) : d.powerEdge false = d.powerReturn := by
  unfold Dev.powerEdge
  rcases h with h | h <;> rw [h]

theorem Dev.powerEdge_nothing {level : Bool} (h : d.hum.mode = .start ∨ (level = true ∧ d.hum.mode ≠ .normal)
    ∨ (level = false ∧ d.hum.mode = .normal)) : d.powerEdge level = d := by
  unfold Dev.powerEdge
  rcases h with start | ⟨rfl, other⟩ | ⟨rfl, normal⟩
  · rw [start]
  · cases hm : d.hum.mode with
    | normal => exact absurd hm other
    | _ => rfl
  · rw [normal]

end

/-- Settles O43: the line is qualified, and the edge goes to its owner. -/
theorem filterExpiryQualifies : Obligations.FilterExpiryQualifies := by
  intro l s hpower i due level d becomes
  have qualified {e : Dev} (h : s.dev.qualify l = e) : becomes e := by
    subst h
    exact exec_filterExpiry hpower due
  refine ⟨?_, ?_⟩
  · rintro f rfl on t
    have edge : s.dev.qualify (.fault f) = d.faultEdge f level := rfl
    refine ⟨fun off => qualified (edge.trans (Dev.faultEdge_off (d := d) off)), fun up hon hm => qualified ?_, fun up hon hm => ?_⟩
    · rw [edge, up, Dev.faultEdge_trigger (d := d) hon hm]
      rfl
    · have latched : s.dev.qualify (.fault f) = d.latch f t := by
        rw [edge, up, Dev.faultEdge_latch (d := d) hon hm]
        rfl
      refine ⟨fun empty => qualified (latched.trans ?_), fun full => qualified (latched.trans ?_)⟩
      · rw [Dev.latch, empty]
        rfl
      · exact if_pos (Option.isSome_iff_ne_none.2 full)
  · rintro rfl
    have edge : s.dev.qualify .pwrwarn = d.powerEdge level := rfl
    refine ⟨fun up hm => qualified ?_, fun down hm => qualified ?_, fun h => qualified ?_⟩
    · rw [edge, up, Dev.powerEdge_warning (d := d) hm]
    · rw [edge, down, Dev.powerEdge_return (d := d) hm]
    · rw [edge, Dev.powerEdge_nothing (d := d) h]

/-! ### The entry to START -/

section
variable (d : Dev) (t : Vector Bool 6) (f : Vector (Option Tick) 6)

/-- A part with given filters running and given expiry ticks of them. -/
def Dev.armed : Dev :=
  { d with
    tru := { d.tru with timing := t }
    tmb := { d.tmb with deadlines := { d.tmb.deadlines with filters := f } } }

/-- The expiry tick of a filter that the entry to START arms for a level. -/
def startTimer (level : Bool) : Option Tick := if level then some 50#48 else none

variable {d t f}

theorem put_get_eq {α : Type} {n : Nat} {v : Vector α n} {i : Fin n} {x : α} (h : v[i] = x) : put v i x = v := by
  subst h
  exact Vector.set_getElem_self ..

/-- What `Dev.filterLine` reads of a part that enters START. -/
structure Dev.enters (d : Dev) : Prop where
  qualified : ∀ i : Fin 6, d.tru.qualified[i] = false
  filters : ∀ i : Fin 6, d.sst.working.filters[i] = 50
  tick : d.tmb.tick = 0

theorem Dev.filterLine_armed (start : d.enters) {l : Line} (ht : t[Line.idx l] = false) (hf : f[Line.idx l] = none) :
    (d.armed t f).filterLine l = d.armed (put t (Line.idx l) d.tru.levels[Line.idx l])
      (put f (Line.idx l) (startTimer d.tru.levels[Line.idx l])) := by
  cases level : d.tru.levels[Line.idx l] with
  | false =>
    rw [put_get_eq ht, put_get_eq (x := startTimer false) hf]
    exact Dev.filterLine_stays (iff_of_true (level.trans (start.qualified _).symm) ht)
  | true =>
    have time : (d.armed t f).sst.working.filters[Line.idx l] ≠ 0 := fun h => by
      have fifty := (start.filters (Line.idx l)).symm.trans h
      exact absurd fifty (by decide)
    have differs : (d.armed t f).tru.levels[Line.idx l] ≠ (d.armed t f).tru.qualified[Line.idx l] := fun h =>
      Bool.noConfusion (level.symm.trans (h.trans (start.qualified _)))
    have expiry : (d.armed t f).after (d.armed t f).sst.working.filters[Line.idx l] = 50#48 := by
      show d.tmb.tick + BitVec.ofNat 48 d.sst.working.filters[Line.idx l] = _
      rw [start.filters, start.tick]
      rfl
    rw [Dev.filterLine_starts differs ht time, expiry]
    rfl

/-- Filtering some lines arms the filter of each that is asserted. -/
theorem Dev.foldl_filterLine_armed (start : d.enters) :
    ∀ (lines : List Line) (t : Vector Bool 6) (f : Vector (Option Tick) 6), (lines.map Line.idx).Nodup →
      (∀ l ∈ lines, t[Line.idx l] = false ∧ f[Line.idx l] = none) →
      lines.foldl Dev.filterLine (d.armed t f) =
        d.armed (lines.foldl (fun v l => put v (Line.idx l) d.tru.levels[Line.idx l]) t)
          (lines.foldl (fun v l => put v (Line.idx l) (startTimer d.tru.levels[Line.idx l])) f)
  | [], _, _, _, _ => rfl
  | l :: lines, t, f, distinct, idle => by
    obtain ⟨ht, hf⟩ := idle l List.mem_cons_self
    obtain ⟨fresh, distinct⟩ := List.nodup_cons.1 distinct
    rw [List.foldl_cons, Dev.filterLine_armed start ht hf]
    refine Dev.foldl_filterLine_armed start lines _ _ distinct fun k mem => ?_
    have other : Line.idx l ≠ Line.idx k := fun h => fresh (h ▸ List.mem_map_of_mem mem)
    rw [get_put_ne _ other, get_put_ne _ other]
    exact idle k (List.mem_cons_of_mem _ mem)

end

theorem foldl_put_allLines {α : Type} (v : Vector α 6) (g : Fin 6 → α) :
    allLines.foldl (fun v l => put v (Line.idx l) (g (Line.idx l))) v = Vector.ofFn g := by
  apply Vector.ext
  intro i hi
  have six : i = 0 ∨ i = 1 ∨ i = 2 ∨ i = 3 ∨ i = 4 ∨ i = 5 := by omega
  rcases six with rfl | rfl | rfl | rfl | rfl | rfl <;> simp [allLines, put, Line.idx]

theorem strapAddress_eq (ma0 ma1 : Bool) :
    strapAddress ma0 ma1 = 0x34 + (if ma1 then 2 else 0) + (if ma0 then 1 else 0) := by
  cases ma0 <;> cases ma1 <;> rfl

/-- The part that enters START, every input filtered. -/
theorem startDev_eq (levels : Vector Bool 6) (a : BitVec 7) :
    startDev levels a = ((Dev.reset levels a).scanAt (.settings 0)).armed levels (levels.map startTimer) := by
  have start : ((Dev.reset levels a).scanAt (.settings 0)).enters := by
    refine ⟨fun i => ?_, fun i => ?_, rfl⟩
    · exact Vector.getElem_replicate ..
    · exact Vector.getElem_replicate ..
  have armed := Dev.foldl_filterLine_armed start allLines (Vector.replicate 6 false) (Vector.replicate 6 none)
    (by decide) fun l _ => ⟨Vector.getElem_replicate .., Vector.getElem_replicate ..⟩
  refine armed.trans (congrArg₂ _ ?_ ?_)
  · refine (foldl_put_allLines _ fun i => levels[i]).trans (Vector.ext fun i hi => ?_)
    simp
  · refine (foldl_put_allLines _ fun i => startTimer levels[i]).trans (Vector.ext fun i hi => ?_)
    simp

/-- Settles O41: a restart, with each line filtered. -/
theorem startIsEntered : Obligations.StartIsEntered := by
  intro ma0 ma1 s c h d
  have restarts : exec c s = .next (s.restart ma0 ma1) := by
    rcases h with rfl | ⟨rfl, hpower⟩
    · rfl
    · exact if_pos hpower
  rw [restarts, State.restart, startDev_eq, strapAddress_eq]
  simp only [State.cutShort_dev, State.cutShort_pending]
  rfl

end Sys2Proof.Machine
end


section
/-! PROOFS. The expiry of deadlines (R116, R139, R160, R165, R166). -/

namespace Sys2Proof.Machine

/-! ### The expiry of a deadline -/

theorem State.act_atExpiry_early {s : State} {slot : Deadlines → Option Tick} {f : Dev → Dev}
    (early : slot s.dev.tmb.deadlines ≠ some s.dev.tmb.tick) : s.act (Dev.atExpiry slot f) = .next s := by
  have idle : Dev.atExpiry slot f s.dev = s.dev := if_neg fun due => early (eq_of_beq due)
  rw [State.act_spec, idle, ite_self]

theorem State.act_atExpiry_due {s : State} (hpower : s.powered = true) {slot : Deadlines → Option Tick} {f : Dev → Dev}
    (due : slot s.dev.tmb.deadlines = some s.dev.tmb.tick) :
    s.act (Dev.atExpiry slot f) = .next { s with dev := f s.dev } := by
  have expires : Dev.atExpiry slot f s.dev = f s.dev := if_pos (beq_iff_eq.2 due)
  rw [State.act_of_powered hpower, expires]

section
variable {d : Dev}

theorem Dev.flushExpires_empty (h : d.hiu.staging = []) : d.flushExpires = d.deadlines fun t => { t with flush := none } := by
  simp only [Dev.flushExpires]
  rw [show (d.deadlines fun t => { t with flush := none }).hiu.staging = [] from h]
  rfl

theorem Dev.flushExpires_last {x : HEntry} (h : d.hiu.staging.getLast? = some x) (hseq : x.seq ≠ 0) :
    d.flushExpires = (d.deadlines fun t => { t with flush := none }).setHiu fun u =>
      { u with mark := some (max x.seq (u.mark.getD 0)) } := by
  have marked (u : Hiu) : u.markTo x.seq = { u with mark := some (max x.seq (u.mark.getD 0)) } := if_neg hseq
  simp only [Dev.flushExpires]
  rw [show (d.deadlines fun t => { t with flush := none }).hiu.staging.getLast? = some x from h]
  simp only [marked]

end

/-- Settles O45: each expiry command is `Dev.atExpiry` of its slot. -/
theorem deadlinesExpire : Obligations.DeadlinesExpire := by
  refine ⟨fun s => ?_, fun s hpower => ⟨fun due => ?_, ?_, fun due => ?_⟩⟩
  · refine ⟨fun early => ?_, fun early => ?_, fun early => ?_, fun early => ?_, fun early => ?_, fun early => ?_,
      fun l early => ?_⟩ <;> rw [exec_eq_run]
    · exact State.act_atExpiry_early (slot := (·.window)) early
    · exact State.act_atExpiry_early (slot := (·.limit)) early
    · exact State.act_atExpiry_early (slot := (·.holdup)) early
    · exact State.act_atExpiry_early (slot := (·.recharge)) early
    · exact State.act_atExpiry_early (slot := (·.flush)) early
    · exact State.act_atExpiry_early (slot := (·.locate)) early
    · exact State.act_atExpiry_early (slot := fun t => t.filters[Line.idx l]) early
  · rw [exec_eq_run]
    exact State.act_atExpiry_due hpower (slot := (·.recharge)) due
  · intro due d
    have expires : exec .flushIntervalExpiry s = .next { s with dev := s.dev.flushExpires.settle } :=
      (exec_eq_run ..).trans (State.act_atExpiry_due hpower (slot := (·.flush)) due)
    refine ⟨fun none => ?_, fun x last seq => ?_⟩
    · rw [expires, Dev.flushExpires_empty none]
      rfl
    · rw [expires, Dev.flushExpires_last last seq]
      rfl
  · rw [exec_eq_run]
    exact State.act_atExpiry_due hpower (slot := (·.locate)) due

end Sys2Proof.Machine
end


section
/-! PROOFS. The load point (R139, R178, R193) and the commands that a condition of the part makes due. -/

namespace Sys2Proof.Machine

/-! ### Commands with a condition -/

section
variable {s : State} {due : Dev → Bool} {f : Dev → Dev}

theorem State.act_onlyIf_idle (h : due s.dev = false) : s.act (fun d => d.onlyIf (due d) f) = .next s := by
  have idle : s.dev.onlyIf (due s.dev) f = s.dev := if_neg (Bool.eq_false_iff.1 h)
  rw [State.act_spec, idle, ite_self]

theorem State.act_onlyIf_due (hpower : s.powered = true) (h : due s.dev = true) :
    s.act (fun d => d.onlyIf (due d) f) = .next { s with dev := f s.dev } := by
  have acts : s.dev.onlyIf (due s.dev) f = f s.dev := if_pos h
  rw [State.act_of_powered hpower, acts]

end

/-! ### The load point -/

section
variable {d : Dev}

theorem Dev.loadReady_iff : d.loadReady = true ↔
    d.sst.loadDue = true ∧ d.hum.mode = .normal ∧ d.ict.recording = none ∧ d.ict.closing = none := by
  simp [Dev.loadReady, and_assoc]

/-- The part with the pending settings in force. -/
def Dev.loaded (d : Dev) : Dev :=
  { d with
    sst := { d.sst with working := d.sst.pending, loadDue := false }
    rqd := ⟨d.sst.pending.rights⟩
    hum := { d.hum with
      credits := if d.tmb.deadlines.recharge = none then d.sst.pending.credits
        else min d.hum.credits d.sst.pending.credits } }

theorem Dev.load_eq (d : Dev) : d.load = d.loaded.poolLowTest.event evSettingsLoaded 6 .plain := by
  have credits : (if d.tmb.deadlines.recharge.isSome then min d.hum.credits d.sst.pending.credits else d.sst.pending.credits)
      = (if d.tmb.deadlines.recharge = none then d.sst.pending.credits else min d.hum.credits d.sst.pending.credits) := by
    cases d.tmb.deadlines.recharge <;> rfl
  unfold Dev.loaded
  rw [← credits]
  rfl

theorem Dev.poolLowTest_logsTo (d : Dev) : d.logsTo d.poolLowTest := by
  unfold Dev.poolLowTest
  split
  · exact Dev.raise_logsTo ..
  · exact Dev.logsTo_rfl d

theorem Dev.load_logsTo (d : Dev) : d.loaded.logsTo d.load := by
  rw [Dev.load_eq]
  exact Dev.logsTo_trans (Dev.poolLowTest_logsTo _) (Dev.offerSeq_logsTo ..)

theorem Dev.load_offers (d : Dev) : d.offers d.load .plain 6 .internal evSettingsLoaded := by
  have offered : d.loaded.offers (d.loaded.poolLowTest.offerSeq .plain 6 .internal evSettingsLoaded).dev .plain 6
      .internal evSettingsLoaded := by
    simpa only [Dev.offers, Dev.poolLowTest_frame] using
      d.loaded.poolLowTest.offerSeq_offers .plain 6 .internal evSettingsLoaded
  rw [Dev.load_eq]
  exact offered

end

/-- Settles O60: `Dev.load` and what follows every change. -/
theorem settingsLoadAtTheLoadPoint : Obligations.SettingsLoadAtTheLoadPoint := by
  intro s hpower due
  refine ⟨fun idle => ?_, fun h => ⟨s.dev.load.settle, ?_, ?_, ?_⟩⟩
  · rw [exec_eq_run]
    exact State.act_onlyIf_idle (due := Dev.loadReady) (Bool.eq_false_iff.2 fun ready => idle (Dev.loadReady_iff.1 ready))
  · rw [exec_eq_run]
    exact State.act_onlyIf_due (due := Dev.loadReady) hpower (Dev.loadReady_iff.2 h)
  · exact s.dev.load_offers.later (Dev.settle_flowsTo _) (by simp)
  · exact Dev.logsTo_trans s.dev.load_logsTo (Dev.settle_logsTo _)

end Sys2Proof.Machine
end


section
/-! PROOFS. The release of streams, and an incident's way to KEPT (R15, R16, R25, R47, R95). -/

namespace Sys2Proof.Machine

/-! ### The blocks an operation keeps -/

theorem Dev.keepsAllBut.trans {bs : List Part} {d e f : Dev} (h : d.keepsAllBut bs e) (g : e.keepsAllBut bs f) :
    d.keepsAllBut bs f := fun b hb => by
  have kept := h b hb
  have still := g b hb
  cases b <;> exact Eq.trans still kept

theorem Dev.keepsAllBut.mono {bs cs : List Part} {d e : Dev} (h : d.keepsAllBut bs e) (sub : bs ⊆ cs) :
    d.keepsAllBut cs e := fun b hb => h b fun mem => hb (sub mem)

theorem Dev.keepsAllBut_rfl (bs : List Part) (d : Dev) : d.keepsAllBut bs d := fun b _ => by
  cases b <;> rfl

theorem Dev.settle_keepsAllBut (d : Dev) : d.keepsAllBut [.arc, .drm, .hiu, .ntu] d.settle := fun b hb => by
  cases b <;> simp [Part.agrees] at hb ⊢

theorem Dev.tryKeep_keepsAllBut (d : Dev) : d.keepsAllBut [.ict, .arc, .drm, .hiu, .tmb, .ntu] d.tryKeep :=
  fun b hb => by cases b <;> simp [Part.agrees] at hb ⊢

theorem Dev.closeRun_keepsAllBut (d : Dev) : d.keepsAllBut [.ict, .arc, .drm, .hiu, .tmb, .ntu] d.closeRun :=
  fun b hb => by cases b <;> simp [Part.agrees] at hb ⊢

theorem Dev.tryRelease_keepsAllBut (d : Dev) (i : StreamIdx) :
    d.keepsAllBut [.ict, .cpm, .arc, .drm, .hiu, .tmb, .ntu] (d.tryRelease i) :=
  fun b hb => by cases b <;> simp [Part.agrees] at hb ⊢

/-! ### The directory's queue and its waiters grow -/

/-- Entries and capture waiters are added behind those that stand; no OPEN_STREAM comes to wait. -/
structure Drm.growsTo (m n : Drm) : Prop where
  queue : m.queue <+: n.queue
  waiters : ∃ l, n.captureWaiters = m.captureWaiters ++ l ∧ ∀ w ∈ l, ∀ p, CapWaiter.opensFor p w = false

theorem Drm.growsTo_of_queue {m n : Drm} (queue : m.queue <+: n.queue)
    (waiters : n.captureWaiters = m.captureWaiters) : m.growsTo n :=
  ⟨queue, [], by rw [waiters, List.append_nil], nofun⟩

theorem Drm.growsTo_of_eq {m n : Drm} (queue : n.queue = m.queue) (waiters : n.captureWaiters = m.captureWaiters) :
    m.growsTo n := Drm.growsTo_of_queue (queue ▸ List.prefix_rfl) waiters

theorem Drm.growsTo_rfl (m : Drm) : m.growsTo m := Drm.growsTo_of_eq rfl rfl

theorem Drm.growsTo.trans {a b c : Drm} (h : a.growsTo b) (g : b.growsTo c) : a.growsTo c := by
  obtain ⟨l, hl, own⟩ := h.waiters
  obtain ⟨m, hm, own'⟩ := g.waiters
  refine ⟨h.queue.trans g.queue, l ++ m, by rw [hm, hl, List.append_assoc], fun w mem => ?_⟩
  rcases List.mem_append.1 mem with mem | mem
  · exact own w mem
  · exact own' w mem

theorem Drm.growsTo.mem_waiters {m n : Drm} (h : m.growsTo n) {w : CapWaiter} (mem : w ∈ m.captureWaiters) :
    w ∈ n.captureWaiters := by
  obtain ⟨l, hl, -⟩ := h.waiters
  exact hl ▸ List.mem_append_left _ mem

/-- An entry at the end of the queue keeps its place. -/
theorem Drm.growsTo.behind {m n : Drm} (h : m.growsTo n) {q : List JEntry} {e : JEntry} (last : m.queue = q ++ [e]) :
    ∃ l, n.queue = q ++ e :: l := by
  obtain ⟨l, rest⟩ := h.queue
  exact ⟨l, by rw [← rest, last, List.append_assoc]; rfl⟩

section
variable (d : Dev)

theorem Dev.settle_grows : d.drm.growsTo d.settle.drm := Drm.growsTo_of_eq (by simp) (by simp)

theorem Dev.queueEntry_grows (e : JEntry) : d.drm.growsTo (d.queueEntry e).drm :=
  Drm.growsTo_of_queue (List.prefix_append ..) rfl

theorem Dev.addWaiter_grows {w : CapWaiter} (own : ∀ p, w.opensFor p = false) : d.drm.growsTo (d.addWaiter w).drm :=
  ⟨List.prefix_rfl, [w], rfl, fun w' mem => by rw [List.mem_singleton.1 mem]; exact own⟩

theorem Dev.waitCapture_grows {w : CapWaiter} (own : ∀ p, w.opensFor p = false) :
    d.drm.growsTo (d.waitCapture w).drm := by
  unfold Dev.waitCapture
  split
  · exact Drm.growsTo_rfl _
  · exact d.addWaiter_grows own

theorem Dev.mem_waitCapture (w : CapWaiter) : w ∈ (d.waitCapture w).drm.captureWaiters := by
  unfold Dev.waitCapture
  split
  next h => simpa using h
  · exact List.mem_append_right _ List.mem_cons_self

theorem Dev.event_drm (code severity : Nat) (body : HBody) : (d.event code severity body).drm = d.drm := by
  simp [Dev.event]

theorem Drm.capRoom_iff {m : Drm} : m.capRoom 1 = true ↔ m.captureWaiters = [] ∧ m.queue.length < 80 := by
  simp [Drm.capRoom, Config.queueDepth, Nat.succ_le_iff]

/-! ### The passage of R15 and the close of R16 -/

/-- What the passage to CLOSING does (R15). -/
def Dev.passed (k : DirSlot) : Dev :=
  ((d.modSlot k fun r => { r with state := .closing }).showInd.setIct fun c =>
    { c with recording := none, closing := some k, windowExpired := false }).attnOff.cancelCapture

theorem Dev.passed_drm (k : DirSlot) :
    (d.passed k).drm = { d.drm with dir := modify d.drm.dir k (Option.map fun r => { r with state := .closing }) } := by
  simp only [Dev.passed, Dev.attnOff, Dev.cancelCapture, Dev.deadlines, Dev.setIct, Dev.showInd_fields]
  rfl

theorem Dev.passed_ict (k : DirSlot) : (d.passed k).ict = { d.ict with
    recording := none, closing := some k, windowExpired := false, attn := Vector.replicate 4 false } := by
  simp only [Dev.passed, Dev.attnOff, Dev.cancelCapture, Dev.deadlines, Dev.setIct, Dev.showInd_fields,
    Dev.modSlot_fields]

theorem Dev.passed_tmb (k : DirSlot) : (d.passed k).tmb = { d.tmb with
    deadlines := { d.tmb.deadlines with window := none, limit := none } } := by
  simp only [Dev.passed, Dev.attnOff, Dev.cancelCapture, Dev.deadlines, Dev.setIct, Dev.showInd_fields,
    Dev.modSlot_fields]

theorem Dev.keep_drm (k : DirSlot) (r : Incident) : (d.keep k r).drm = { d.drm with
    queue := d.drm.queue ++ [.incidentClose r.number (some r.closeCompleteness) r.overflow]
    dir := modify d.drm.dir k (Option.map fun r' =>
      { r' with state := .kept, completeness := some r.closeCompleteness }) } := by
  simp only [Dev.keep, Dev.raise_fields, Dev.event_drm, Dev.setIct, Dev.showInd_fields]
  rfl

theorem Dev.keep_ict (k : DirSlot) (r : Incident) : (d.keep k r).ict = { d.ict with closing := none } := by
  simp only [Dev.keep, Dev.raise_fields, Dev.event, Dev.offerSeq_frame, Dev.setIct, Dev.showInd_fields,
    Dev.modSlot_fields]
  rfl

theorem Dev.logsTo.tmb_eq {d e : Dev} (h : d.logsTo e) :
    e.tmb = { d.tmb with deadlines := { d.tmb.deadlines with flush := e.tmb.deadlines.flush } } := congrArg Dev.tmb h

theorem Dev.keep_deadlines (k : DirSlot) (r : Incident) :
    (d.keep k r).tmb.deadlines.window = d.tmb.deadlines.window
      ∧ (d.keep k r).tmb.deadlines.limit = d.tmb.deadlines.limit := by
  have moved : (((d.queueEntry (.incidentClose r.number (some r.closeCompleteness) r.overflow)).modSlot k fun r' =>
      { r' with state := .kept, completeness := some r.closeCompleteness }).showInd.setIct fun x =>
      { x with closing := none }).logsTo (d.keep k r) :=
    Dev.logsTo_trans (Dev.event_logsTo ..) (Dev.raise_logsTo ..)
  rw [moved.tmb_eq]
  simp only [Dev.setIct, Dev.showInd_fields, Dev.modSlot_fields, Dev.queueEntry_fields, and_self]

theorem Dev.keep_notifies (k : DirSlot) (r : Incident) : (d.keep k r).notifies .incidentKept :=
  Dev.raise_notifies _ _ _

variable {d}

theorem Dev.passes_iff {k : DirSlot} {r : Incident} : d.passes = some (k, r) ↔
    d.ict.windowExpired = true ∧ d.ict.closing = none ∧ d.ict.recording = some k ∧ d.drm.dir[k] = some r
      ∧ ∀ j y, d.body j = some y → y.incident = r.number → y.ending ≠ none := by
  have noneOpen (n : Nat) : d.openSlots (·.incident == n) = []
      ↔ ∀ j y, d.body j = some y → y.incident = n → y.ending ≠ none := by
    simp only [Dev.openSlots, List.filter_eq_nil_iff, List.mem_finRange, true_imp_iff, Option.any_eq_true,
      Bool.and_eq_true, beq_iff_eq, StreamBody.isOpen, Option.isNone_iff_eq_none, not_exists, not_and]
    exact ⟨fun h j y hy same leaves => h j y hy leaves same, fun h j y hy leaves same => h j y hy same leaves⟩
  unfold Dev.passes
  by_cases expired : d.ict.windowExpired = true ∧ d.ict.closing = none
  · rw [if_pos expired]
    cases recording : d.ict.recording with
    | none => simp
    | some j =>
      have at_ : d.drm.at? (some j) = d.drm.dir[j] := rfl
      rw [at_]
      cases stands : d.drm.dir[j] with
      | none => 
        simp only [reduceCtorEq, false_iff]
        rintro ⟨-, -, ⟨⟩, dir, -⟩
        exact absurd (stands.symm.trans dir) (by simp)
      | some x =>
        dsimp only
        split
        next noOpen =>
          refine ⟨?_, ?_⟩
          · rintro ⟨⟩
            exact ⟨expired.1, expired.2, rfl, stands, (noneOpen _).1 noOpen⟩
          · rintro ⟨-, -, ⟨⟩, dir, -⟩
            rw [Option.some.inj (stands.symm.trans dir)]
        next isOpen =>
          simp only [reduceCtorEq, false_iff]
          rintro ⟨-, -, ⟨⟩, dir, ended⟩
          rw [Option.some.inj (stands.symm.trans dir)] at isOpen
          exact isOpen ((noneOpen _).2 ended)
  · rw [if_neg expired]
    simp only [reduceCtorEq, false_iff]
    exact fun h => expired ⟨h.1, h.2.1⟩

theorem Dev.keepable_iff {k : DirSlot} {r : Incident} : d.keepable = some (k, r) ↔
    d.ict.closing = some k ∧ d.drm.dir[k] = some r ∧ ∀ j y, d.body j = some y → y.incident ≠ r.number := by
  have holdsNone (n : Nat) : (d.takenSlots.any fun i => (d.body i).any (·.incident == n)) = false
      ↔ ∀ j y, d.body j = some y → y.incident ≠ n := by
    simp only [Dev.takenSlots, List.any_eq_false, List.mem_filter, List.mem_finRange, true_and, Option.any_eq_true,
      beq_iff_eq, not_exists, not_and]
    exact ⟨fun h j y hy => h j (hy ▸ rfl) y hy, fun h j _ y hy => h j y hy⟩
  unfold Dev.keepable
  cases closing : d.ict.closing with
  | none => simp
  | some j =>
    have at_ : d.drm.at? (some j) = d.drm.dir[j] := rfl
    rw [at_]
    cases stands : d.drm.dir[j] with
    | none =>
      simp only [reduceCtorEq, false_iff]
      rintro ⟨⟨⟩, dir, -⟩
      exact absurd (stands.symm.trans dir) (by simp)
    | some x =>
      dsimp only
      split
      next holds =>
        simp only [reduceCtorEq, false_iff]
        rintro ⟨⟨⟩, dir, free⟩
        rw [Option.some.inj (stands.symm.trans dir), (holdsNone _).2 free] at holds
        exact Bool.noConfusion holds
      next free =>
        refine ⟨?_, ?_⟩
        · rintro ⟨⟩
          exact ⟨rfl, stands, (holdsNone _).1 (Bool.eq_false_iff.2 free)⟩
        · rintro ⟨⟨⟩, dir, -⟩
          rw [Option.some.inj (stands.symm.trans dir)]

theorem Dev.tryPass_passes {k : DirSlot} {r : Incident} (h : d.passes = some (k, r)) : d.tryPass = d.passed k := by
  simp only [Dev.tryPass, h]
  rfl

theorem Dev.tryPass_stays (h : d.passes = none) : d.tryPass = d := by
  simp only [Dev.tryPass, h]

theorem Dev.tryKeep_keeps {k : DirSlot} {r : Incident} (h : d.keepable = some (k, r)) (room : d.drm.capRoom 1 = true) :
    d.tryKeep = d.keep k r := by
  simp only [Dev.tryKeep, h, room, if_true]

theorem Dev.tryKeep_waits {k : DirSlot} {r : Incident} (h : d.keepable = some (k, r)) (full : d.drm.capRoom 1 = false) :
    d.tryKeep = d.waitCapture .incidentClose := by
  simp only [Dev.tryKeep, h, full, Bool.false_eq_true, if_false]

theorem Dev.tryKeep_stays (h : d.keepable = none) : d.tryKeep = d := by
  simp only [Dev.tryKeep, h]

variable (d)

/-- The three ways of the passage and the close: a property of what each does is one of the tests. -/
theorem Dev.tryPass_cases : d.tryPass = d ∨ ∃ k r, d.passes = some (k, r) ∧ d.tryPass = d.passed k := by
  cases h : d.passes with
  | none => exact .inl (Dev.tryPass_stays h)
  | some kr => exact .inr ⟨kr.1, kr.2, rfl, Dev.tryPass_passes h⟩

theorem Dev.tryKeep_cases : d.tryKeep = d ∨ d.tryKeep = d.waitCapture .incidentClose
    ∨ ∃ k r, d.keepable = some (k, r) ∧ d.tryKeep = d.keep k r := by
  cases h : d.keepable with
  | none => exact .inl (Dev.tryKeep_stays h)
  | some kr =>
    cases room : d.drm.capRoom 1 with
    | false => exact .inr (.inl (Dev.tryKeep_waits h room))
    | true => exact .inr (.inr ⟨kr.1, kr.2, rfl, Dev.tryKeep_keeps h room⟩)

theorem Dev.tryPass_grows : d.drm.growsTo d.tryPass.drm := by
  rcases d.tryPass_cases with stays | ⟨k, r, -, passes⟩
  · rw [stays]
    exact Drm.growsTo_rfl _
  · rw [passes, Dev.passed_drm]
    exact Drm.growsTo_of_eq rfl rfl

theorem Dev.keep_grows (k : DirSlot) (r : Incident) : d.drm.growsTo (d.keep k r).drm := by
  rw [Dev.keep_drm]
  exact Drm.growsTo_of_queue (List.prefix_append ..) rfl

theorem Dev.tryKeep_grows : d.drm.growsTo d.tryKeep.drm := by
  rcases d.tryKeep_cases with stays | waits | ⟨k, r, -, keeps⟩
  · rw [stays]
    exact Drm.growsTo_rfl _
  · rw [waits]
    exact d.waitCapture_grows fun _ => rfl
  · rw [keeps]
    exact d.keep_grows ..

theorem Dev.closeRun_grows : d.drm.growsTo d.closeRun.drm :=
  d.tryPass_grows.trans ((Dev.tryKeep_grows _).trans ((Dev.tryPass_grows _).trans (Dev.tryKeep_grows _)))

theorem Dev.releaseSlot_queue (i : StreamIdx) (x : StreamBody) (e : PendingEnd) : (d.releaseSlot i x e).drm.queue
    = d.drm.queue ++ [.streamEnd x.incident x.stream e.kind e.reason x.short x.accepted x.committed x.pages] := by
  simp [Dev.releaseSlot]

theorem Dev.releaseSlot_gen (i j : StreamIdx) (x : StreamBody) (e : PendingEnd) :
    ((d.releaseSlot i x e).cpm.slots[j]).gen = (d.cpm.slots[j]).gen := by
  simp only [Dev.releaseSlot, Dev.modIncident_fields, Dev.queueEntry_fields, get_modify]
  split <;> rfl

/-! ### The release of a stream (R47) -/

theorem Dev.tryRelease_drained {d : Dev} {i : StreamIdx} {x : StreamBody} {e : PendingEnd} (taken : d.body i = some x)
    (drained : x.drained = some e) (room : d.drm.capRoom 1 = true) :
    d.tryRelease i = ((d.releaseSlot i x e).tryKeep).closeRun := by
  simp only [Dev.tryRelease, Dev.releaseKeeping, taken, drained, room, if_true]

theorem Dev.tryRelease_full {d : Dev} {i : StreamIdx} {x : StreamBody} {e : PendingEnd} (taken : d.body i = some x)
    (drained : x.drained = some e) (full : d.drm.capRoom 1 = false) :
    d.tryRelease i = (d.waitCapture (.streamEnd i)).closeRun := by
  simp only [Dev.tryRelease, Dev.releaseKeeping, taken, drained, full, Bool.false_eq_true, if_false]

/-! ### An incident that is neither RECORDING nor CLOSING -/

/-- The incident of a slot is neither RECORDING nor CLOSING. -/
def Dev.closed (i : DirSlot) : Prop := d.ict.recording ≠ some i ∧ d.ict.closing ≠ some i

variable {d} {i : DirSlot}

theorem Dev.closed.tryPass (h : d.closed i) : d.tryPass.closed i ∧ d.tryPass.drm.dir[i] = d.drm.dir[i] := by
  rcases d.tryPass_cases with stays | ⟨k, r, hk, passes⟩
  · rw [stays]
    exact ⟨h, rfl⟩
  · have recording := (Dev.passes_iff.1 hk).2.2.1
    have other : k ≠ i := fun same => h.1 (same ▸ recording)
    rw [passes, Dev.closed, Dev.passed_ict, Dev.passed_drm, get_modify_ne _ other]
    exact ⟨⟨nofun, fun same => other (Option.some.inj same)⟩, rfl⟩

theorem Dev.closed.tryKeep (h : d.closed i) : d.tryKeep.closed i ∧ d.tryKeep.drm.dir[i] = d.drm.dir[i] := by
  rcases d.tryKeep_cases with stays | waits | ⟨k, r, hk, keeps⟩
  · rw [stays]
    exact ⟨h, rfl⟩
  · rw [waits]
    unfold Dev.waitCapture
    split <;> exact ⟨h, rfl⟩
  · have closing := (Dev.keepable_iff.1 hk).1
    have other : k ≠ i := fun same => h.2 (same ▸ closing)
    rw [keeps, Dev.closed, Dev.keep_ict, Dev.keep_drm, get_modify_ne _ other]
    exact ⟨⟨h.1, nofun⟩, rfl⟩

theorem Dev.closed.closeRun (h : d.closed i) : d.closeRun.closed i ∧ d.closeRun.drm.dir[i] = d.drm.dir[i] := by
  obtain ⟨h₁, e₁⟩ := h.tryPass
  obtain ⟨h₂, e₂⟩ := h₁.tryKeep
  obtain ⟨h₃, e₃⟩ := h₂.tryPass
  obtain ⟨h₄, e₄⟩ := h₃.tryKeep
  exact ⟨h₄, e₄.trans (e₃.trans (e₂.trans e₁))⟩

/-! ### The passage and what follows it -/

/-- The close of R16 leaves the RECORDING incident, the lines and the capture deadlines. -/
theorem Dev.tryKeep_recording (d : Dev) : d.tryKeep.ict.recording = d.ict.recording
    ∧ d.tryKeep.ict.windowExpired = d.ict.windowExpired ∧ d.tryKeep.ict.attn = d.ict.attn
    ∧ d.tryKeep.tmb.deadlines.window = d.tmb.deadlines.window
    ∧ d.tryKeep.tmb.deadlines.limit = d.tmb.deadlines.limit := by
  rcases d.tryKeep_cases with stays | waits | ⟨k, r, -, keeps⟩
  · rw [stays]
    exact ⟨rfl, rfl, rfl, rfl, rfl⟩
  · rw [waits]
    unfold Dev.waitCapture
    split <;> exact ⟨rfl, rfl, rfl, rfl, rfl⟩
  · rw [keeps, Dev.keep_ict]
    exact ⟨rfl, rfl, rfl, (d.keep_deadlines k r).1, (d.keep_deadlines k r).2⟩

theorem Dev.passes_of_open (h : d.ict.recording = none) : d.passes = none := by
  cases hp : d.passes with
  | none => rfl
  | some kr => exact absurd (h.symm.trans (Dev.passes_iff.1 hp).2.2.1) nofun

theorem Dev.tryKeep_twice (d : Dev) : d.tryKeep.tryKeep = d.tryKeep := by
  rcases d.tryKeep_cases with stays | waits | ⟨k, r, -, keeps⟩
  · rw [stays, stays]
  · have noRoom : (d.waitCapture .incidentClose).drm.capRoom 1 = false := by
      refine Bool.eq_false_iff.2 fun room => ?_
      have mem := d.mem_waitCapture .incidentClose
      rw [(Drm.capRoom_iff.1 room).1] at mem
      exact absurd mem List.not_mem_nil
    have again : (d.waitCapture .incidentClose).waitCapture .incidentClose = d.waitCapture .incidentClose :=
      if_pos (by simpa using d.mem_waitCapture .incidentClose)
    rw [waits]
    cases hk : (d.waitCapture .incidentClose).keepable with
    | none => exact Dev.tryKeep_stays hk
    | some kr => exact (Dev.tryKeep_waits (r := kr.2) (k := kr.1) hk noRoom).trans again
  · have closedNow : (d.keep k r).keepable = none := by
      cases hk : (d.keep k r).keepable with
      | none => rfl
      | some kr =>
        have closing := (Dev.keepable_iff.1 hk).1
        rw [Dev.keep_ict] at closing
        exact absurd closing nofun
    rw [keeps, Dev.tryKeep_stays closedNow]

/-- After a passage the CLOSING incident may become KEPT, and nothing else moves. -/
theorem Dev.closeRun_passes {k : DirSlot} {r : Incident} (h : d.passes = some (k, r)) :
    d.closeRun = (d.passed k).tryKeep := by
  have gone : (d.passed k).tryKeep.ict.recording = none := by
    rw [(Dev.tryKeep_recording _).1, Dev.passed_ict]
  rw [Dev.closeRun, Dev.tryPass_passes h, Dev.tryPass_stays (Dev.passes_of_open gone), Dev.tryKeep_twice]

end

/-- Settles O58: `Dev.tryRelease`, with a place in the queue and without. -/
theorem streamsAreReleased : Obligations.StreamsAreReleased := by
  intro s i x e hpower taken ending noFill noQueued notWaiting
  have drained : x.drained = some e := by simp [StreamBody.drained, noFill, noQueued, ending]
  have due : s.dev.releasable i = true := by
    simp [Dev.releasable, taken, drained, notWaiting]
  refine ⟨(s.dev.tryRelease i).settle, ?_, fun idle short => ?_, fun full => ?_, ?_⟩
  · rw [exec_eq_run]
    exact State.act_onlyIf_due (due := (·.releasable i)) hpower due
  · have room : s.dev.drm.capRoom 1 = true := Drm.capRoom_iff.2 ⟨idle, short⟩
    obtain ⟨gone, records⟩ := Dev.tryRelease_releases taken drained room
    have grows : (s.dev.releaseSlot i x e).drm.growsTo (s.dev.tryRelease i).settle.drm := by
      rw [Dev.tryRelease_drained taken drained room]
      exact (Dev.tryKeep_grows _).trans ((Dev.closeRun_grows _).trans (Dev.settle_grows _))
    refine ⟨?_, ?_, grows.behind (s.dev.releaseSlot_queue i x e),
      Dev.recordTakes_then records (Dev.settle_keepsStreams _)⟩
    · simpa [Dev.body] using gone
    · rw [Dev.tryRelease_drained taken drained room]
      simpa using s.dev.releaseSlot_gen i i x e
  · have noRoom : s.dev.drm.capRoom 1 = false := by
      refine Bool.eq_false_iff.2 fun room => ?_
      obtain ⟨idle, short⟩ := Drm.capRoom_iff.1 room
      rcases full with busy | full
      · exact busy idle
      · omega
    obtain ⟨kept, records⟩ := Dev.tryRelease_waits taken (.inr noRoom)
    refine ⟨?_, ?_, Dev.recordTakes_then records (Dev.settle_keepsStreams _)⟩
    · simpa [Dev.body] using kept
    · rw [Dev.tryRelease_full taken drained noRoom]
      exact ((Dev.closeRun_grows _).trans (Dev.settle_grows _)).mem_waiters (Dev.mem_waitCapture _ _)
  · exact (s.dev.tryRelease_keepsAllBut i).trans ((Dev.settle_keepsAllBut _).mono (by decide))

theorem Incident.closeCompleteness_eq (x : Incident) : x.closeCompleteness =
    if x.streams = [] then .noData else if ∀ y ∈ x.streams, y.endKind = .ended then .full else .partly := by
  simp [Incident.closeCompleteness, List.all_eq_true]

theorem Dev.modify_dir {d : Dev} {i : DirSlot} {x : Incident} (stands : d.drm.dir[i] = some x)
    (f : Incident → Incident) : modify d.drm.dir i (Option.map f) = put d.drm.dir i (some (f x)) := by
  unfold modify
  rw [stands]
  rfl

theorem Dev.passed_cpm (d : Dev) (k : DirSlot) : (d.passed k).cpm = d.cpm := by
  simp only [Dev.passed, Dev.attnOff, Dev.cancelCapture, Dev.deadlines, Dev.setIct, Dev.showInd_fields,
    Dev.modSlot_fields]

theorem Dev.passed_dir_self {d : Dev} {i : DirSlot} {x : Incident} (stands : d.drm.dir[i] = some x) :
    (d.passed i).drm.dir[i] = some { x with state := .closing } := by
  rw [Dev.passed_drm, Dev.modify_dir stands]
  exact get_put_same ..

theorem Dev.keep_dir_self {d : Dev} {i : DirSlot} {x : Incident} (stands : d.drm.dir[i] = some x) (r : Incident) :
    (d.keep i r).drm.dir[i] = some { x with state := .kept, completeness := some r.closeCompleteness } := by
  rw [Dev.keep_drm, Dev.modify_dir stands]
  exact get_put_same ..

/-- An incident that passes while it holds a stream slot is not kept. -/
theorem Dev.keepable_passed {d : Dev} {i : DirSlot} {x : Incident} (stands : d.drm.dir[i] = some x) {j : StreamIdx}
    {y : StreamBody} (taken : d.body j = some y) (same : y.incident = x.number) : (d.passed i).keepable = none := by
  cases hk : (d.passed i).keepable with
  | none => rfl
  | some kr =>
    obtain ⟨k, r⟩ := kr
    obtain ⟨closing, dir, free⟩ := Dev.keepable_iff.1 hk
    rw [Dev.passed_ict] at closing
    obtain rfl : i = k := Option.some.inj closing
    rw [Dev.passed_dir_self stands] at dir
    have number : r.number = x.number := by rw [← Option.some.inj dir]
    have still : (d.passed i).body j = some y := by rwa [Dev.body, Dev.passed_cpm]
    exact absurd (same.trans number.symm) (free j y still)

/-- Settles O59: the passage, and the close with what follows it. -/
theorem incidentsPassAndClose : Obligations.IncidentsPassAndClose := by
  intro s i x hpower stands
  refine ⟨fun recording expired noneClosing ended => ?_, fun closing notRecording free notWaiting idle short => ?_⟩
  · have passes : s.dev.passes = some (i, x) := Dev.passes_iff.2 ⟨expired, noneClosing, recording, stands, ended⟩
    have run := Dev.closeRun_passes passes
    obtain ⟨hrec, hexp, hattn, hwindow, hlimit⟩ := (s.dev.passed i).tryKeep_recording
    rw [← run, Dev.passed_ict] at hrec hexp hattn
    rw [← run, Dev.passed_tmb] at hwindow hlimit
    refine ⟨s.dev.closeRun.settle, ?_, ?_, fun k => ?_, ?_, ?_, ?_, ?_⟩
    · rw [exec_eq_run]
      exact State.act_onlyIf_due (due := (·.passes.isSome)) hpower (by simp [passes])
    · simpa using hrec
    · rw [Dev.settle_frame _ |>.2.2.2.1, hattn]
      exact Vector.getElem_replicate ..
    · simpa using hwindow
    · simpa using hlimit
    · rintro ⟨j, y, taken, same⟩
      have noKeep := Dev.keepable_passed stands taken same
      rw [Dev.tryKeep_stays noKeep] at run
      rw [Dev.settle_frame _ |>.2.2.2.1, Dev.settle_inner _ |>.1, run, Dev.passed_ict, Dev.passed_drm,
        Dev.modify_dir stands]
      exact ⟨rfl, rfl⟩
    · exact s.dev.closeRun_keepsAllBut.trans ((Dev.settle_keepsAllBut _).mono (by decide))
  · intro c
    have keepable : s.dev.keepable = some (i, x) := Dev.keepable_iff.2 ⟨closing, stands, free⟩
    have keeps := Dev.tryKeep_keeps keepable (Drm.capRoom_iff.2 ⟨idle, short⟩)
    have done : (s.dev.keep i x).closed i := by
      rw [Dev.closed, Dev.keep_ict]
      exact ⟨notRecording, nofun⟩
    obtain ⟨closed, dir⟩ := done.closeRun
    have hc : x.closeCompleteness = c := x.closeCompleteness_eq
    refine ⟨s.dev.tryKeep.closeRun.settle, ?_, ?_, ?_, ?_, ?_, ?_⟩
    · rw [exec_eq_run]
      exact State.act_onlyIf_due (due := Dev.closable) hpower (by simp [Dev.closable, keepable, notWaiting])
    · rw [keeps, Dev.settle_frame _ |>.2.2.2.1]
      exact closed.2
    · rw [keeps, Dev.settle_inner _ |>.1, dir, Dev.keep_dir_self stands, hc]
    · rw [keeps]
      refine ((Dev.closeRun_grows _).trans (Dev.settle_grows _)).behind ?_
      rw [Dev.keep_drm, hc]
    · rw [keeps]
      exact ((Dev.closeRun_flowsTo _).trans (Dev.settle_flowsTo _)).notices.notifies (s.dev.keep_notifies i x)
    · exact s.dev.tryKeep_keepsAllBut.trans
        ((Dev.closeRun_keepsAllBut _).trans ((Dev.settle_keepsAllBut _).mono (by decide)))

end Sys2Proof.Machine
end


section
/-! PROOFS. What the endings of streams leave of them: each stream keeps its slot, or is gone with its STREAM_END
(R32, R38 to R47). -/

namespace Sys2Proof.Machine

/-! ### Streams pass on -/

/-- A stream goes on in its slot: only its end kind, its fill block and its count of queued blocks move, an end kind
other than ENDED stands, and a fill block once taken does not come back. -/
structure StreamBody.passesTo (x y : StreamBody) : Prop where
  same : y = { x with ending := y.ending, fill := y.fill, queued := y.queued }
  ending : ∀ k, x.ending = some k → y.ending = some k ∨ (k = .ended ∧ y.ending ≠ none)
  fill : x.fill = none → y.fill = none

theorem StreamBody.passesTo_rfl (x : StreamBody) : x.passesTo x := ⟨rfl, fun _ => .inl, id⟩

theorem StreamBody.passesTo.trans {x y z : StreamBody} (h : x.passesTo y) (g : y.passesTo z) : x.passesTo z := by
  refine ⟨?_, fun k hk => ?_, g.fill ∘ h.fill⟩
  · rw [g.same, h.same]
  · rcases h.ending k hk with still | ⟨ended, left⟩
    · exact g.ending k still
    · obtain ⟨k', hk'⟩ := Option.ne_none_iff_exists'.1 left
      refine .inr ⟨ended, ?_⟩
      rcases g.ending k' hk' with still | ⟨-, left'⟩
      · exact still ▸ nofun
      · exact left'

/-- The STREAM_END of a stream that ends with a kind. -/
def StreamBody.endEntry (x : StreamBody) (k : PendingEnd) : JEntry :=
  .streamEnd x.incident x.stream k.kind k.reason x.short x.accepted x.committed x.pages

theorem StreamBody.passesTo.endEntry {x y : StreamBody} (h : x.passesTo y) (k : PendingEnd) :
    y.endEntry k = x.endEntry k := by rw [h.same]; rfl

/-- From `d` to `e` every stream goes on in its slot, or is gone with its STREAM_END queued. -/
structure Dev.streamsTo (d e : Dev) : Prop where
  grows : d.drm.growsTo e.drm
  stays : ∀ i y, e.body i = some y → ∃ x, d.body i = some x ∧ x.passesTo y
  gone : ∀ i x, d.body i = some x → e.body i = none →
    ∃ y k, x.passesTo y ∧ y.ending = some k ∧ x.endEntry k ∈ e.drm.queue

theorem Dev.body_of_cpm {d e : Dev} (h : e.cpm = d.cpm) (i : StreamIdx) : e.body i = d.body i := by
  rw [Dev.body, h, Dev.body]

theorem Dev.streamsTo_of_cpm {d e : Dev} (grows : d.drm.growsTo e.drm) (cpm : e.cpm = d.cpm) : d.streamsTo e where
  grows := grows
  stays i y h := ⟨y, Dev.body_of_cpm cpm i ▸ h, y.passesTo_rfl⟩
  gone i x h g := by
    rw [Dev.body_of_cpm cpm, h] at g
    exact absurd g nofun

theorem Dev.streamsTo_rfl (d : Dev) : d.streamsTo d := Dev.streamsTo_of_cpm (Drm.growsTo_rfl _) rfl

theorem Dev.streamsTo.trans {d e f : Dev} (h : d.streamsTo e) (g : e.streamsTo f) : d.streamsTo f where
  grows := h.grows.trans g.grows
  stays i z hz := by
    obtain ⟨y, hy, yz⟩ := g.stays i z hz
    obtain ⟨x, hx, xy⟩ := h.stays i y hy
    exact ⟨x, hx, xy.trans yz⟩
  gone i x hx hf := by
    cases he : e.body i with
    | none =>
      obtain ⟨y, k, xy, hk, mem⟩ := h.gone i x hx he
      exact ⟨y, k, xy, hk, g.grows.queue.subset mem⟩
    | some y =>
      obtain ⟨x', hx', xy⟩ := h.stays i y he
      obtain rfl : x = x' := Option.some.inj (hx.symm.trans hx')
      obtain ⟨z, k, yz, hk, mem⟩ := g.gone i y he hf
      exact ⟨z, k, xy.trans yz, hk, xy.endEntry k ▸ mem⟩

/-- The fields of one slot are rewritten. -/
theorem Dev.streamsTo_of_body {d e : Dev} (i : StreamIdx) (f : StreamBody → StreamBody) (grows : d.drm.growsTo e.drm)
    (slot : e.body i = (d.body i).map f) (others : ∀ j, j ≠ i → e.body j = d.body j)
    (passes : ∀ x, d.body i = some x → x.passesTo (f x)) : d.streamsTo e where
  grows := grows
  stays j y h := by
    by_cases same : j = i
    · subst same
      rw [slot] at h
      obtain ⟨x, hx, rfl⟩ := Option.map_eq_some_iff.1 h
      exact ⟨x, hx, passes x hx⟩
    · exact ⟨y, others j same ▸ h, y.passesTo_rfl⟩
  gone j x h g := by
    by_cases same : j = i
    · subst same
      rw [slot, h] at g
      exact absurd g nofun
    · rw [others j same, h] at g
      exact absurd g nofun

/-! ### What a state keeps of an ending -/

section
variable {d e : Dev} {i : StreamIdx} {x : StreamBody} {k : PendingEnd}

/-- An end kind other than ENDED stands until the stream is released with it. -/
theorem Dev.takesEnd.later (h : d.takesEnd i x k) (g : d.streamsTo e) (hk : k ≠ .ended) : e.takesEnd i x k := by
  have kind {y : StreamBody} {n : Nat} (hy : StreamBody.passesTo { x with ending := some k, fill := none, queued := n } y) :
      y.ending = some k := (hy.ending k rfl).resolve_right fun h => hk h.1
  rcases h with ⟨n, stands⟩ | ⟨gone, queued⟩
  · cases he : e.body i with
    | none =>
      obtain ⟨y, k', hy, hk', mem⟩ := g.gone i _ stands he
      obtain rfl : k = k' := Option.some.inj ((kind hy).symm.trans hk')
      exact .inr ⟨he, mem⟩
    | some y =>
      obtain ⟨x', hx', hy⟩ := g.stays i y he
      obtain rfl := Option.some.inj (stands.symm.trans hx')
      refine .inl ⟨y.queued, he.trans (congrArg some ?_)⟩
      rw [hy.same, hy.fill rfl, kind hy]
  · refine .inr ⟨?_, g.grows.queue.subset queued⟩
    cases he : e.body i with
    | none => rfl
    | some y =>
      obtain ⟨x', hx', -⟩ := g.stays i y he
      exact absurd (gone.symm.trans hx') nofun

theorem Dev.reportsCut.later {r : Reason} (h : d.reportsCut x r) (g : d.flowsTo e) : e.reportsCut x r := by
  obtain ⟨event, notice⟩ := h
  refine ⟨?_, g.notices.notifies notice⟩
  rcases event with ⟨y, mem, hy⟩ | lost
  · exact .inl ⟨y, g.entries.subset mem, hy⟩
  · exact .inr (g.notices.notifies lost)

end

/-! ### Each operation on streams lets them pass on -/

section
variable (d : Dev)

theorem Dev.settle_streamsTo : d.streamsTo d.settle := Dev.streamsTo_of_cpm d.settle_grows (by simp)

theorem Dev.tryPass_streamsTo : d.streamsTo d.tryPass := Dev.streamsTo_of_cpm d.tryPass_grows (by simp)

theorem Dev.tryKeep_streamsTo : d.streamsTo d.tryKeep := Dev.streamsTo_of_cpm d.tryKeep_grows (by simp)

theorem Dev.closeRun_streamsTo : d.streamsTo d.closeRun := Dev.streamsTo_of_cpm d.closeRun_grows (by simp)

theorem Dev.waitCapture_cpm (w : CapWaiter) : (d.waitCapture w).cpm = d.cpm := by
  unfold Dev.waitCapture
  split <;> rfl

theorem Dev.reportCut_streamsTo (x : StreamBody) (r : Reason) : d.streamsTo (d.reportCut x r) :=
  Dev.streamsTo_of_cpm (Drm.growsTo_of_eq (by simp) (by simp)) (by simp)

theorem Dev.modBody_streamsTo (i : StreamIdx) (f : StreamBody → StreamBody)
    (passes : ∀ x, d.body i = some x → x.passesTo (f x)) : d.streamsTo (d.modBody i f) :=
  Dev.streamsTo_of_body i f (Drm.growsTo_rfl _) ((d.body_modBody i i f).trans (if_pos rfl))
    (fun j other => (d.body_modBody i j f).trans (if_neg other.symm)) passes

theorem Dev.body_discardBlocks (i j : StreamIdx) : (d.discardBlocks i).body j = if i = j then (d.body j).map fun b =>
    { b with fill := none, queued := b.queued - (d.stb.queue.filter (·.slot == i)).length } else d.body j := by
  unfold Dev.discardBlocks
  exact Dev.body_modBody ..

theorem Dev.discardBlocks_streamsTo (i : StreamIdx) : d.streamsTo (d.discardBlocks i) :=
  Dev.streamsTo_of_body i _ (Drm.growsTo_of_eq (by simp) (by simp)) ((d.body_discardBlocks i i).trans (if_pos rfl))
    (fun j other => (d.body_discardBlocks i j).trans (if_neg other.symm)) fun _ _ => ⟨rfl, fun _ => .inl, fun _ => rfl⟩

/-- A stream out of OPEN: its fill block, if any, is queued. -/
def StreamBody.left (x : StreamBody) (k : PendingEnd) : StreamBody :=
  { x with ending := some k, fill := none, queued := if x.fill = none then x.queued else x.queued + 1 }

theorem Dev.body_leaveOpen {d : Dev} {i : StreamIdx} {x : StreamBody} (taken : d.body i = some x) (k : PendingEnd)
    (j : StreamIdx) : (d.leaveOpen i k).body j = if i = j then some (x.left k) else d.body j := by
  have ends : (d.modBody i fun b => { b with ending := some k }).body i = some { x with ending := some k } := by
    rw [Dev.body_modBody, if_pos rfl, taken]
    rfl
  have filling : (d.modBody i fun b => { b with ending := some k }).fillOf i = x.fill := by
    rw [Dev.fillOf, ends]
    rfl
  have others (other : i ≠ j) : (d.modBody i fun b => { b with ending := some k }).body j = d.body j :=
    (Dev.body_modBody ..).trans (if_neg other)
  unfold Dev.leaveOpen
  cases hf : x.fill with
  | none =>
    rw [Dev.queueFill_of_no_fill (filling.trans hf)]
    by_cases same : i = j
    · subst same
      rw [if_pos rfl, ends, StreamBody.left, if_pos hf, ← hf]
    · rw [if_neg same, others same]
  | some f =>
    have queues : ((d.modBody i fun b => { b with ending := some k }).body i).bind (·.fill) = some f :=
      filling.trans hf
    unfold Dev.queueFill
    rw [queues]
    refine (Dev.body_modBody ..).trans ?_
    by_cases same : i = j
    · subst same
      rw [if_pos rfl, if_pos rfl, StreamBody.left, hf, if_neg nofun]
      exact congrArg (Option.map _) ends
    · rw [if_neg same, if_neg same]
      exact others same

theorem Dev.leaveOpen_streamsTo {d : Dev} {i : StreamIdx} {x : StreamBody} (taken : d.body i = some x)
    (isOpen : x.ending = none) (k : PendingEnd) : d.streamsTo (d.leaveOpen i k) :=
  Dev.streamsTo_of_body i (·.left k) (Drm.growsTo_of_eq (by simp) (by simp))
    (by rw [Dev.body_leaveOpen taken, if_pos rfl, taken]; rfl)
    (fun j other => by rw [Dev.body_leaveOpen taken, if_neg other.symm]) fun y hy => by
      obtain rfl := Option.some.inj (taken.symm.trans hy)
      exact ⟨rfl, fun k' hk' => absurd (isOpen.symm.trans hk') nofun, fun _ => rfl⟩

theorem Dev.body_releaseSlot (i j : StreamIdx) (x : StreamBody) (e : PendingEnd) :
    (d.releaseSlot i x e).body j = if i = j then none else d.body j := by
  simp only [Dev.body, Dev.releaseSlot, Dev.modIncident_fields, Dev.queueEntry_fields, get_modify]
  split <;> rfl

theorem Dev.releaseSlot_grows (i : StreamIdx) (x : StreamBody) (e : PendingEnd) :
    d.drm.growsTo (d.releaseSlot i x e).drm :=
  Drm.growsTo_of_queue (d.releaseSlot_queue i x e ▸ List.prefix_append ..) (by simp [Dev.releaseSlot])

theorem Dev.releaseSlot_streamsTo {d : Dev} {i : StreamIdx} {x : StreamBody} {k : PendingEnd}
    (taken : d.body i = some x) (ends : x.ending = some k) : d.streamsTo (d.releaseSlot i x k) where
  grows := d.releaseSlot_grows i x k
  stays j y h := by
    rw [Dev.body_releaseSlot] at h
    split at h
    · exact absurd h nofun
    · exact ⟨y, h, y.passesTo_rfl⟩
  gone j y hy h := by
    rw [Dev.body_releaseSlot] at h
    split at h
    next same =>
      subst same
      obtain rfl := Option.some.inj (taken.symm.trans hy)
      exact ⟨x, k, x.passesTo_rfl, ends, by simp [Dev.releaseSlot_queue, StreamBody.endEntry]⟩
    · exact absurd (hy.symm.trans h) nofun

theorem StreamBody.drained_iff {x : StreamBody} {k : PendingEnd} :
    x.drained = some k ↔ x.ending = some k ∧ x.fill = none ∧ x.queued = 0 := by
  unfold StreamBody.drained
  split
  next h => simpa [h] using fun _ => (by simpa using h)
  next h =>
    refine ⟨nofun, fun ⟨_, fill, queued⟩ => absurd ?_ h⟩
    simp [fill, queued]

/-- The release of a slot goes one of three ways. -/
theorem Dev.releaseKeeping_cases (i : StreamIdx) : d.releaseKeeping i = d
    ∨ d.releaseKeeping i = d.waitCapture (.streamEnd i)
    ∨ ∃ x k, d.body i = some x ∧ x.drained = some k ∧ d.releaseKeeping i = (d.releaseSlot i x k).tryKeep := by
  unfold Dev.releaseKeeping
  cases d.body i with
  | none => exact .inl rfl
  | some x =>
    cases drained : x.drained with
    | none =>
      exact .inl (by simp only [drained])
    | some k =>
      simp only [drained]
      split
      · exact .inr (.inr ⟨x, k, rfl, drained, rfl⟩)
      · exact .inr (.inl rfl)

theorem Dev.releaseKeeping_streamsTo (i : StreamIdx) : d.streamsTo (d.releaseKeeping i) := by
  rcases d.releaseKeeping_cases i with stays | waits | ⟨x, k, taken, drained, releases⟩
  · rw [stays]
    exact d.streamsTo_rfl
  · rw [waits]
    exact Dev.streamsTo_of_cpm (d.waitCapture_grows fun _ => rfl) (d.waitCapture_cpm _)
  · rw [releases]
    exact (Dev.releaseSlot_streamsTo taken (StreamBody.drained_iff.1 drained).1).trans (Dev.tryKeep_streamsTo _)

theorem Dev.tryRelease_streamsTo (i : StreamIdx) : d.streamsTo (d.tryRelease i) :=
  (d.releaseKeeping_streamsTo i).trans (Dev.closeRun_streamsTo _)

theorem cutEnding_passes (r : Reason) (x : StreamBody) :
    x.passesTo { x with ending := some (cutEnding r x.ending) } := by
  refine ⟨rfl, fun k hk => ?_, id⟩
  rw [hk]
  cases k with
  | ended => exact .inr ⟨rfl, nofun⟩
  | _ => exact .inl rfl

theorem Dev.cutDiscard_streamsTo (i : StreamIdx) (r : Reason) : d.streamsTo (d.cutDiscard i r) := by
  unfold Dev.cutDiscard
  split
  next b taken =>
    refine (d.modBody_streamsTo i _ fun x _ => cutEnding_passes r x).trans ((Dev.discardBlocks_streamsTo _ i).trans
      ((Dev.reportCut_streamsTo _ b r).trans ((Dev.closeRun_streamsTo _).trans (Dev.tryRelease_streamsTo _ i))))
  · exact d.streamsTo_rfl

theorem Dev.cmeOnce_streamsTo : d.streamsTo d.cmeOnce := by
  unfold Dev.cmeOnce
  split
  · exact d.streamsTo_rfl
  next b rest _ =>
    split
    next p d' given =>
      obtain ⟨-, -, -, -, cpm, -, -, -, drm, -⟩ := Dev.givePage_frame given
      refine Dev.streamsTo_of_cpm ?_ (by simpa [Dev.setStb] using cpm)
      simpa [Dev.setStb, drm] using Drm.growsTo_rfl _
    · exact d.cutDiscard_streamsTo ..

theorem Dev.cmeLoop_streamsTo : ∀ (n : Nat) (d : Dev), d.streamsTo (Dev.cmeLoop n d)
  | 0, d => d.streamsTo_rfl
  | n + 1, d => by
    unfold Dev.cmeLoop
    split
    · exact d.cmeOnce_streamsTo.trans (Dev.cmeLoop_streamsTo n _)
    · exact d.streamsTo_rfl

theorem Dev.cmeTest_streamsTo : d.streamsTo d.cmeTest := Dev.cmeLoop_streamsTo ..

/-- A cut by its reason is reported; another ending is not. -/
def Dev.reportEnd (x : StreamBody) (k : PendingEnd) : Dev :=
  match k.reason with
  | some r => d.reportCut x r
  | none => d

theorem Dev.endStream_open {d : Dev} {i : StreamIdx} {x : StreamBody} (taken : d.body i = some x)
    (isOpen : x.ending = none) (k : PendingEnd) :
    d.endStream i k = ((d.leaveOpen i k).reportEnd x k).closeRun.cmeTest.tryRelease i := by
  have isOpen' : x.isOpen = true := by simp [StreamBody.isOpen, isOpen]
  simp only [Dev.endStream, taken, isOpen', if_true]
  rfl

theorem Dev.endStream_not_open {d : Dev} {i : StreamIdx} (h : ∀ x, d.body i = some x → x.ending ≠ none)
    (k : PendingEnd) : d.endStream i k = d := by
  unfold Dev.endStream
  split
  next x taken =>
    exact if_neg fun isOpen => h x taken (by simpa [StreamBody.isOpen] using isOpen)
  · rfl

theorem Dev.reportEnd_streamsTo (x : StreamBody) (k : PendingEnd) : d.streamsTo (d.reportEnd x k) := by
  unfold Dev.reportEnd
  split
  · exact d.reportCut_streamsTo ..
  · exact d.streamsTo_rfl

theorem Dev.endStream_streamsTo (i : StreamIdx) (k : PendingEnd) : d.streamsTo (d.endStream i k) := by
  by_cases isOpen : ∃ x, d.body i = some x ∧ x.ending = none
  · obtain ⟨x, taken, isOpen⟩ := isOpen
    rw [Dev.endStream_open taken isOpen]
    exact (Dev.leaveOpen_streamsTo taken isOpen k).trans ((Dev.reportEnd_streamsTo _ x k).trans
      ((Dev.closeRun_streamsTo _).trans ((Dev.cmeTest_streamsTo _).trans (Dev.tryRelease_streamsTo _ i))))
  · rw [Dev.endStream_not_open fun x taken ends => isOpen ⟨x, taken, ends⟩]
    exact d.streamsTo_rfl

end

end Sys2Proof.Machine
end


section
/-! PROOFS. The end of one stream and of several (R32, R38 to R47). -/

namespace Sys2Proof.Machine

/-! ### What the end of a stream gives -/

section
variable {d : Dev} {i : StreamIdx} {x : StreamBody} {k : PendingEnd}

theorem Dev.leaveOpen_takes (taken : d.body i = some x) : (d.leaveOpen i k).takesEnd i x k :=
  .inl ⟨_, (Dev.body_leaveOpen taken k i).trans (if_pos rfl)⟩

theorem Dev.endStream_takes (taken : d.body i = some x) (isOpen : x.ending = none) (hk : k ≠ .ended) :
    (d.endStream i k).takesEnd i x k := by
  rw [Dev.endStream_open taken isOpen]
  exact (Dev.leaveOpen_takes taken).later ((Dev.reportEnd_streamsTo _ x k).trans ((Dev.closeRun_streamsTo _).trans
    ((Dev.cmeTest_streamsTo _).trans (Dev.tryRelease_streamsTo _ i)))) hk

/-- The end of a stream leaves it not OPEN. -/
theorem Dev.endStream_ended {y : StreamBody} (h : (d.endStream i k).body i = some y) : y.ending ≠ none := by
  by_cases isOpen : ∃ x, d.body i = some x ∧ x.ending = none
  · obtain ⟨x, taken, isOpen⟩ := isOpen
    rw [Dev.endStream_open taken isOpen] at h
    obtain ⟨z, hz, passes⟩ := ((Dev.reportEnd_streamsTo _ x k).trans ((Dev.closeRun_streamsTo _).trans
      ((Dev.cmeTest_streamsTo _).trans (Dev.tryRelease_streamsTo _ i)))).stays i y h
    rw [Dev.body_leaveOpen taken, if_pos rfl] at hz
    obtain rfl := Option.some.inj hz
    rcases passes.ending k rfl with stands | ⟨-, left⟩
    · exact stands ▸ nofun
    · exact left
  · have ended : ∀ x, d.body i = some x → x.ending ≠ none := fun x taken ends => isOpen ⟨x, taken, ends⟩
    rw [Dev.endStream_not_open ended] at h
    exact ended y h

theorem Dev.reportCut_reports (d : Dev) (x : StreamBody) (r : Reason) : (d.reportCut x r).reportsCut x r := by
  refine ⟨?_, Dev.raise_notifies _ _ _⟩
  have recorded : d.records (d.reportCut x r) (cutBody x r) 2 evStreamCut :=
    (Dev.event_records ..).later (Dev.raise_flowsTo ..)
  cases takes : d.hiu.canTake with
  | true => exact .inl ⟨_, recorded.1 takes, rfl, rfl, rfl, rfl⟩
  | false => exact .inr (recorded.2 takes)

theorem Dev.reportCut_records (d : Dev) (x : StreamBody) (r : Reason) :
    d.records (d.reportCut x r) (cutBody x r) 2 evStreamCut :=
  (Dev.event_records ..).later (Dev.raise_flowsTo ..)

theorem Dev.endStream_flows (taken : d.body i = some x) (isOpen : x.ending = none) {r : Reason} :
    ((d.leaveOpen i (.truncated r)).reportCut x r).flowsTo (d.endStream i (.truncated r)) := by
  rw [Dev.endStream_open taken isOpen]
  exact (Dev.closeRun_flowsTo _).trans ((Dev.cmeTest_flowsTo _).trans (Dev.tryRelease_flowsTo _ i))

theorem Dev.endStream_reports (taken : d.body i = some x) (isOpen : x.ending = none) (r : Reason) :
    (d.endStream i (.truncated r)).reportsCut x r :=
  (Dev.reportCut_reports _ x r).later (Dev.endStream_flows taken isOpen)

theorem Dev.endStream_records (taken : d.body i = some x) (isOpen : x.ending = none) (r : Reason) :
    d.records (d.endStream i (.truncated r)) (cutBody x r) 2 evStreamCut :=
  ((Dev.reportCut_records _ x r).later (Dev.endStream_flows taken isOpen)).before (by simp) (by simp)

end

/-! ### The other slots -/

section
variable (d : Dev)

theorem Dev.body_closeRun (j : StreamIdx) : d.closeRun.body j = d.body j := Dev.body_of_cpm (by simp) j

theorem Dev.body_settle (j : StreamIdx) : d.settle.body j = d.body j := Dev.body_of_cpm (by simp) j

theorem Dev.body_reportCut (x : StreamBody) (r : Reason) (j : StreamIdx) : (d.reportCut x r).body j = d.body j :=
  Dev.body_of_cpm (by simp) j

theorem Dev.reportEnd_frame (x : StreamBody) (k : PendingEnd) : (d.reportEnd x k).cpm = d.cpm
    ∧ (d.reportEnd x k).stb = d.stb ∧ (d.reportEnd x k).cme = d.cme ∧ (d.reportEnd x k).drm = d.drm
    ∧ (d.reportEnd x k).hum = d.hum := by
  unfold Dev.reportEnd
  split
  · simp
  · exact ⟨rfl, rfl, rfl, rfl, rfl⟩

variable {d} {i j : StreamIdx}

theorem Dev.body_tryRelease_ne (other : j ≠ i) : (d.tryRelease i).body j = d.body j := by
  rw [Dev.tryRelease, Dev.body_closeRun]
  rcases d.releaseKeeping_cases i with stays | waits | ⟨x, k, -, -, releases⟩
  · rw [stays]
  · rw [waits]
    exact Dev.body_of_cpm (d.waitCapture_cpm _) j
  · rw [releases, Dev.body_of_cpm (Dev.tryKeep_frame _).2.2.2.1, Dev.body_releaseSlot, if_neg other.symm]

theorem Dev.cutDiscard_taken {x : StreamBody} (taken : d.body i = some x) (r : Reason) :
    d.cutDiscard i r = ((((d.modBody i fun b => { b with ending := some (cutEnding r b.ending) }).discardBlocks
      i).reportCut x r).closeRun).tryRelease i := by
  simp only [Dev.cutDiscard, taken]

theorem Dev.body_cutDiscard_ne (other : j ≠ i) (r : Reason) : (d.cutDiscard i r).body j = d.body j := by
  cases taken : d.body i with
  | none => simp only [Dev.cutDiscard, taken]
  | some x =>
    rw [Dev.cutDiscard_taken taken, Dev.body_tryRelease_ne other, Dev.body_closeRun, Dev.body_reportCut,
      Dev.body_discardBlocks, if_neg other.symm, Dev.body_modBody, if_neg other.symm]

theorem Dev.cutDiscard_queue {x : StreamBody} (taken : d.body i = some x) (r : Reason) :
    (d.cutDiscard i r).stb.queue = d.stb.queue.filter (·.slot != i) := by
  rw [Dev.cutDiscard_taken taken]
  simp [Dev.discardBlocks, Dev.freeBlocks, Dev.setStb]

end

/-! ### CME at rest and at work -/

section
variable {d : Dev}

theorem Dev.cmeTest_busy (h : d.cme.state ≠ .idle) : d.cmeTest = d := if_neg fun t => h t.1

theorem Dev.cmeTest_shut (h : d.commits = false) : d.cmeTest = d := if_neg fun t => Bool.eq_false_iff.1 h t.2.1

theorem Dev.cmeTest_empty (h : d.stb.queue = []) : d.cmeTest = d := if_neg fun t => t.2.2 h

/-- The end of a stream takes no block of another: CME is at work, takes none, or finds none. -/
def Dev.calm (d : Dev) : Prop :=
  d.cme.state ≠ .idle ∨ d.commits = false
    ∨ (d.stb.queue = [] ∧ ∀ (i : StreamIdx) (x : StreamBody) (f : Block), d.body i = some x → x.fill = some f → f.slot = i)

theorem Dev.calm_of_quiet (h : d.commitQuiet) : d.calm := h.imp_right .inr

theorem Dev.calm_of_busy (h : d.cme.state ≠ .idle) : d.calm := .inl h

/-- The commit queue holds one block at most, of a slot whose own it is. -/
theorem Dev.cmeTest_own {i : StreamIdx} {x : StreamBody} (taken : d.body i = some x)
    (own : ∀ f ∈ d.stb.queue, f.slot = i) (one : d.stb.queue.length ≤ 1) :
    (∀ j, j ≠ i → d.cmeTest.body j = d.body j)
      ∧ (d.cmeTest.cme.state ≠ .idle ∨ d.cmeTest.commits = false ∨ d.cmeTest.stb.queue = []) := by
  by_cases runs : d.cme.state = .idle ∧ d.commits ∧ d.stb.queue ≠ []
  · obtain ⟨idle, commits, nonempty⟩ := runs
    obtain ⟨f, queue⟩ : ∃ f, d.stb.queue = [f] := by
      cases hq : d.stb.queue with
      | nil => exact absurd hq nonempty
      | cons f rest =>
        rw [hq] at one
        exact ⟨f, by rw [List.length_eq_zero_iff.1 (Nat.le_zero.1 (Nat.le_of_succ_le_succ one))]⟩
    have slot : f.slot = i := own f (queue ▸ List.mem_cons_self)
    have once : d.cmeTest = Dev.cmeLoop 1 d.cmeOnce := by
      rw [Dev.cmeTest, queue]
      exact if_pos ⟨idle, commits, nonempty⟩
    have ends (e : Dev) (he : d.cmeOnce = e) (done : e.cme.state ≠ .idle ∨ e.stb.queue = []) : d.cmeTest = e := by
      rw [once, he]
      refine if_neg fun ⟨idle, _, more⟩ => ?_
      rcases done with busy | empty
      · exact busy idle
      · exact more empty
    cases given : d.givePage with
    | some pd =>
      obtain ⟨p, d'⟩ := pd
      have takes : d.cmeOnce = (d'.setStb fun s => { s with queue := [] }).commitOn f p 0 := by
        simp only [Dev.cmeOnce, queue, given]
      rw [ends _ takes (.inl nofun)]
      obtain ⟨-, -, -, -, cpm, -⟩ := Dev.givePage_frame given
      exact ⟨fun j _ => Dev.body_of_cpm (by simpa [Dev.setStb] using cpm) j, .inl nofun⟩
    | none =>
      have cuts : d.cmeOnce = d.cutDiscard i .storeFull := by
        simp only [Dev.cmeOnce, queue, given, slot]
      have empty : (d.cutDiscard i .storeFull).stb.queue = [] := by
        rw [Dev.cutDiscard_queue taken, queue]
        simp [slot]
      rw [ends _ cuts (.inr empty)]
      exact ⟨fun j other => Dev.body_cutDiscard_ne other _, .inr (.inr empty)⟩
  · have stays : d.cmeTest = d := if_neg runs
    rw [stays]
    refine ⟨fun _ _ => rfl, ?_⟩
    by_cases idle : d.cme.state = .idle
    · cases commits : d.commits with
      | false => exact .inr (.inl rfl)
      | true => exact .inr (.inr (by_contra fun more => runs ⟨idle, commits, more⟩))
    · exact .inl idle

end

end Sys2Proof.Machine
end


section
/-! PROOFS. Streams that end while CME is at work, and several that end in slot order (R32, R38 to R42). -/

namespace Sys2Proof.Machine

/-! ### The end of one stream among the others -/

section
variable {d : Dev} {i : StreamIdx} {x : StreamBody} {k : PendingEnd}

/-- The state after a stream has left OPEN and is reported. -/
theorem Dev.body_reported (taken : d.body i = some x) (j : StreamIdx) :
    (((d.leaveOpen i k).reportEnd x k).closeRun).body j = if i = j then some (x.left k) else d.body j := by
  rw [Dev.body_closeRun, Dev.body_of_cpm (Dev.reportEnd_frame _ x k).1, Dev.body_leaveOpen taken]

theorem Dev.leaveOpen_queue_of_fill (taken : d.body i = some x) {f : Block} (fill : x.fill = some f) :
    (d.leaveOpen i k).stb = { d.stb with queue := joinQueue d.stb.queue f } := by
  refine (Dev.queueFill_of_fillOf (f := f) ?_).trans rfl
  rw [Dev.fillOf_modBody, if_pos rfl, taken]
  exact fill

theorem Dev.leaveOpen_queue_of_none (taken : d.body i = some x) (noFill : x.fill = none) :
    (d.leaveOpen i k).stb = d.stb := by
  refine (congrArg Dev.stb (Dev.queueFill_of_no_fill ?_)).trans rfl
  rw [Dev.fillOf_modBody, if_pos rfl, taken]
  exact noFill

theorem Dev.reported_stb (d : Dev) (x : StreamBody) (k : PendingEnd) : (d.reportEnd x k).closeRun.stb = d.stb := by
  simp [Dev.reportEnd_frame]

/-- While no block of another is taken, the other streams stay as they are, and it stays so. -/
theorem Dev.endStream_calm (h : d.calm) (i : StreamIdx) (k : PendingEnd) :
    (∀ j, j ≠ i → (d.endStream i k).body j = d.body j) ∧ (d.endStream i k).calm := by
  by_cases isOpen : ∃ x, d.body i = some x ∧ x.ending = none
  · obtain ⟨x, taken, isOpen⟩ := isOpen
    let e := ((d.leaveOpen i k).reportEnd x k).closeRun
    have ends : d.endStream i k = e.cmeTest.tryRelease i := Dev.endStream_open taken isOpen k
    have others (j : StreamIdx) (other : j ≠ i) : e.body j = d.body j :=
      (Dev.body_reported taken j).trans (if_neg other.symm)
    have slot : e.body i = some (x.left k) := (Dev.body_reported taken i).trans (if_pos rfl)
    have stb : e.stb = (d.leaveOpen i k).stb := Dev.reported_stb ..
    have cme : e.cme = d.cme := by simp [e, Dev.reportEnd_frame]
    have commits : e.commits = d.commits := by simp [e, Dev.commits, Dev.reportEnd_frame]
    have commits' : (e.cmeTest.tryRelease i).commits = e.cmeTest.commits := by simp [Dev.commits]
    have unmoved (stays : e.cmeTest = e) :
        ∀ j, j ≠ i → (e.cmeTest.tryRelease i).body j = d.body j := fun j other => by
      rw [Dev.body_tryRelease_ne other, stays, others j other]
    rw [ends]
    rcases h with busy | shut | ⟨empty, own⟩
    · have stays := Dev.cmeTest_busy (d := e) (by rwa [cme])
      exact ⟨unmoved stays, .inl (by rw [stays]; simpa [cme] using busy)⟩
    · have stays := Dev.cmeTest_shut (d := e) (commits.trans shut)
      exact ⟨unmoved stays, .inr (.inl (by rw [commits', stays, commits, shut]))⟩
    · have queue : (∀ f ∈ e.stb.queue, f.slot = i) ∧ e.stb.queue.length ≤ 1 := by
        cases fill : x.fill with
        | none =>
          rw [stb, Dev.leaveOpen_queue_of_none taken fill, empty]
          exact ⟨fun f mem => absurd mem List.not_mem_nil, Nat.zero_le _⟩
        | some f =>
          rw [stb, Dev.leaveOpen_queue_of_fill taken fill, empty]
          exact ⟨fun g mem => List.mem_singleton.1 mem ▸ own i x f taken fill, Nat.le_refl _⟩
      obtain ⟨still, rest⟩ := Dev.cmeTest_own slot queue.1 queue.2
      have others' (j : StreamIdx) (other : j ≠ i) : (e.cmeTest.tryRelease i).body j = d.body j := by
        rw [Dev.body_tryRelease_ne other, still j other, others j other]
      refine ⟨others', ?_⟩
      rcases rest with busy | shut | empty
      · exact .inl (by simpa using busy)
      · exact .inr (.inl (commits'.trans shut))
      · refine .inr (.inr ⟨by simpa using empty, fun j y f hy fill => ?_⟩)
        by_cases same : j = i
        · subst same
          obtain ⟨z, hz, passes⟩ := ((Dev.cmeTest_streamsTo e).trans (Dev.tryRelease_streamsTo _ j)).stays j y hy
          rw [slot] at hz
          obtain rfl := Option.some.inj hz
          exact absurd (fill.symm.trans (passes.fill rfl)) nofun
        · exact own j y f (others' j same ▸ hy) fill
  · rw [Dev.endStream_not_open fun x taken ends => isOpen ⟨x, taken, ends⟩]
    exact ⟨fun _ _ => rfl, h⟩

/-- While CME is at work a stream ends with its blocks kept. -/
theorem Dev.endStream_busy (busy : d.cme.state ≠ .idle) (taken : d.body i = some x) (isOpen : x.ending = none) :
    d.endStream i k = (((d.leaveOpen i k).reportEnd x k).closeRun).tryRelease i := by
  rw [Dev.endStream_open taken isOpen, Dev.cmeTest_busy]
  simpa [Dev.reportEnd_frame] using busy

theorem Dev.endStream_busy_frame (busy : d.cme.state ≠ .idle) (taken : d.body i = some x) (isOpen : x.ending = none) :
    (d.endStream i k).cme = d.cme ∧ (d.endStream i k).stb = (d.leaveOpen i k).stb := by
  rw [Dev.endStream_busy busy taken isOpen]
  simp [Dev.reportEnd_frame]

theorem Dev.tryRelease_holds (taken : d.body i = some x) (holds : x.queued ≠ 0) : (d.tryRelease i).body i = some x := by
  refine (Dev.tryRelease_waits taken (.inl ?_)).1
  cases h : x.drained with
  | none => rfl
  | some k => exact absurd (StreamBody.drained_iff.1 h).2.2 holds

theorem mem_joinQueue {q : List Block} {b f : Block} : f ∈ joinQueue q b ↔ f = b ∨ f ∈ q :=
  (joinQueue_perm q b).mem_iff.trans List.mem_cons

theorem Dev.endStream_endsBy (busy : d.cme.state ≠ .idle) (taken : d.body i = some x) (isOpen : x.ending = none) :
    (d.endStream i k).endsBy i x k := by
  have slot : (((d.leaveOpen i k).reportEnd x k).closeRun).body i = some (x.left k) :=
    (Dev.body_reported taken i).trans (if_pos rfl)
  refine ⟨fun f fill => ⟨?_, ?_⟩, fun noFill queued => ?_, fun noFill noQueued => ?_⟩
  · rw [(Dev.endStream_busy_frame busy taken isOpen).2, Dev.leaveOpen_queue_of_fill taken fill]
    exact mem_joinQueue.2 (.inl rfl)
  · have left : x.left k = { x with ending := some k, fill := none, queued := x.queued + 1 } := by
      rw [StreamBody.left, if_neg (fill ▸ nofun)]
    rw [Dev.endStream_busy busy taken isOpen, ← left]
    exact Dev.tryRelease_holds slot (by rw [left]; exact Nat.succ_ne_zero _)
  · have left : x.left k = { x with ending := some k } := by
      rw [StreamBody.left, if_pos noFill, ← noFill]
    rw [Dev.endStream_busy busy taken isOpen, ← left]
    exact Dev.tryRelease_holds slot (by rw [left]; exact queued)
  · have left : x.left k = { x with ending := some k } := by
      rw [StreamBody.left, if_pos noFill, ← noFill]
    have drained : (x.left k).drained = some k := StreamBody.drained_iff.2 (by rw [left]; exact ⟨rfl, noFill, noQueued⟩)
    rw [Dev.endStream_busy busy taken isOpen]
    cases room : (((d.leaveOpen i k).reportEnd x k).closeRun).drm.capRoom 1 with
    | true =>
      refine .inr ⟨(Dev.tryRelease_releases slot drained room).1, ?_⟩
      rw [Dev.tryRelease_drained slot drained room]
      refine ((Dev.tryKeep_grows _).trans (Dev.closeRun_grows _)).queue.subset ?_
      rw [Dev.releaseSlot_queue, left]
      exact List.mem_append_right _ List.mem_cons_self
    | false =>
      refine .inl ⟨left ▸ (Dev.tryRelease_waits slot (.inr room)).1, ?_⟩
      rw [Dev.tryRelease_full slot drained room]
      exact (Dev.closeRun_grows _).mem_waiters (Dev.mem_waitCapture ..)

theorem Dev.endsBy.later {e : Dev} (h : d.endsBy i x k) (body : e.body i = d.body i) (queue : d.stb.queue ⊆ e.stb.queue)
    (grows : d.drm.growsTo e.drm) : e.endsBy i x k := by
  obtain ⟨filling, queued, neither⟩ := h
  refine ⟨fun f fill => ?_, fun noFill some => ?_, fun noFill none => ?_⟩
  · obtain ⟨mem, stands⟩ := filling f fill
    exact ⟨queue mem, body.trans stands⟩
  · exact body.trans (queued noFill some)
  · rcases neither noFill none with ⟨stands, waits⟩ | ⟨gone, mem⟩
    · exact .inl ⟨body.trans stands, grows.mem_waiters waits⟩
    · exact .inr ⟨body.trans gone, grows.queue.subset mem⟩

end

end Sys2Proof.Machine
end


section
/-! PROOFS. What the endings of streams leave of the capture, and the streams that end in slot order (R14, R15). -/

namespace Sys2Proof.Machine

/-! ### The capture while streams end -/

/-- The RECORDING incident, its window, its lines and its deadlines stand, or it has passed on with its window
expired (R15); the pending opening and the other deadlines but the flush interval stand. -/
structure Dev.capturesTo (d e : Dev) : Prop where
  tmb : e.tmb = { d.tmb with deadlines := { d.tmb.deadlines with
    window := e.tmb.deadlines.window, limit := e.tmb.deadlines.limit, flush := e.tmb.deadlines.flush } }
  opening : e.ict.opening = d.ict.opening
  record : (e.ict.recording = d.ict.recording ∧ e.ict.windowExpired = d.ict.windowExpired ∧ e.ict.attn = d.ict.attn
      ∧ e.tmb.deadlines.window = d.tmb.deadlines.window ∧ e.tmb.deadlines.limit = d.tmb.deadlines.limit)
    ∨ (d.ict.windowExpired = true ∧ e.ict.recording = none ∧ e.ict.attn = Vector.replicate 4 false
      ∧ e.tmb.deadlines.window = none ∧ e.tmb.deadlines.limit = none)

theorem Dev.capturesTo_of_eq {d e : Dev} (ict : e.ict = d.ict) (tmb : e.tmb = d.tmb) : d.capturesTo e :=
  ⟨by rw [tmb], by rw [ict], .inl (by rw [ict, tmb]; exact ⟨rfl, rfl, rfl, rfl, rfl⟩)⟩

theorem Dev.capturesTo_rfl (d : Dev) : d.capturesTo d := Dev.capturesTo_of_eq rfl rfl

theorem Dev.capturesTo.trans {d e f : Dev} (h : d.capturesTo e) (g : e.capturesTo f) : d.capturesTo f := by
  refine ⟨by rw [g.tmb, h.tmb], g.opening.trans h.opening, ?_⟩
  rcases g.record with ⟨rec, exp, attn, window, limit⟩ | ⟨exp, rec, attn, window, limit⟩
  · rcases h.record with ⟨rec', exp', attn', window', limit'⟩ | ⟨exp', rec', attn', window', limit'⟩
    · exact .inl ⟨rec.trans rec', exp.trans exp', attn.trans attn', window.trans window', limit.trans limit'⟩
    · exact .inr ⟨exp', rec.trans rec', attn.trans attn', window.trans window', limit.trans limit'⟩
  · rcases h.record with ⟨-, exp', -⟩ | ⟨exp', -⟩
    · exact .inr ⟨exp'.symm.trans exp, rec, attn, window, limit⟩
    · exact .inr ⟨exp', rec, attn, window, limit⟩

theorem Dev.capturesTo_of_logsTo {d e : Dev} (h : d.logsTo e) : d.capturesTo e := by
  have ict : e.ict = d.ict := by
    unfold Dev.logsTo at h
    rw [h]
  have tmb := h.tmb_eq
  refine ⟨?_, by rw [ict], .inl ?_⟩
  · rw [tmb]
  · rw [ict, tmb]
    exact ⟨rfl, rfl, rfl, rfl, rfl⟩

section
variable (d : Dev)

theorem Dev.tryPass_capturesTo : d.capturesTo d.tryPass := by
  rcases d.tryPass_cases with stays | ⟨k, r, hk, passes⟩
  · rw [stays]
    exact d.capturesTo_rfl
  · rw [passes]
    refine ⟨?_, ?_, .inr ?_⟩
    · rw [Dev.passed_tmb]
    · rw [Dev.passed_ict]
    · rw [Dev.passed_tmb, Dev.passed_ict]
      exact ⟨(Dev.passes_iff.1 hk).1, rfl, rfl, rfl, rfl⟩

theorem Dev.waitCapture_capturesTo (w : CapWaiter) : d.capturesTo (d.waitCapture w) := by
  unfold Dev.waitCapture
  split <;> exact Dev.capturesTo_of_eq rfl rfl

theorem Dev.keep_logs (k : DirSlot) (r : Incident) : (((d.queueEntry
    (.incidentClose r.number (some r.closeCompleteness) r.overflow)).modSlot k fun r' =>
      { r' with state := .kept, completeness := some r.closeCompleteness }).showInd.setIct fun x =>
      { x with closing := none }).logsTo (d.keep k r) :=
  Dev.logsTo_trans (Dev.event_logsTo ..) (Dev.raise_logsTo ..)

theorem Dev.keep_capturesTo (k : DirSlot) (r : Incident) : d.capturesTo (d.keep k r) := by
  refine Dev.capturesTo.trans ?_ (Dev.capturesTo_of_logsTo (d.keep_logs k r))
  refine ⟨?_, ?_, .inl ?_⟩ <;> simp [Dev.setIct]

theorem Dev.tryKeep_capturesTo : d.capturesTo d.tryKeep := by
  rcases d.tryKeep_cases with stays | waits | ⟨k, r, -, keeps⟩
  · rw [stays]
    exact d.capturesTo_rfl
  · rw [waits]
    exact d.waitCapture_capturesTo _
  · rw [keeps]
    exact d.keep_capturesTo k r

theorem Dev.closeRun_capturesTo : d.capturesTo d.closeRun :=
  d.tryPass_capturesTo.trans
    ((Dev.tryKeep_capturesTo _).trans ((Dev.tryPass_capturesTo _).trans (Dev.tryKeep_capturesTo _)))

theorem Dev.reportCut_capturesTo (x : StreamBody) (r : Reason) : d.capturesTo (d.reportCut x r) :=
  Dev.capturesTo_of_logsTo (Dev.logsTo_trans (Dev.event_logsTo ..) (Dev.raise_logsTo ..))

theorem Dev.reportEnd_capturesTo (x : StreamBody) (k : PendingEnd) : d.capturesTo (d.reportEnd x k) := by
  unfold Dev.reportEnd
  split
  · exact d.reportCut_capturesTo ..
  · exact d.capturesTo_rfl

theorem Dev.releaseKeeping_capturesTo (i : StreamIdx) : d.capturesTo (d.releaseKeeping i) := by
  rcases d.releaseKeeping_cases i with stays | waits | ⟨x, k, -, -, releases⟩
  · rw [stays]
    exact d.capturesTo_rfl
  · rw [waits]
    exact d.waitCapture_capturesTo _
  · rw [releases]
    exact (Dev.capturesTo_of_eq (by simp) (by simp)).trans (Dev.tryKeep_capturesTo _)

theorem Dev.tryRelease_capturesTo (i : StreamIdx) : d.capturesTo (d.tryRelease i) :=
  (d.releaseKeeping_capturesTo i).trans (Dev.closeRun_capturesTo _)

theorem Dev.cutDiscard_capturesTo (i : StreamIdx) (r : Reason) : d.capturesTo (d.cutDiscard i r) := by
  unfold Dev.cutDiscard
  split
  next b _ =>
    exact (Dev.capturesTo_of_eq (by simp) (by simp)).trans ((Dev.reportCut_capturesTo _ b r).trans
      ((Dev.closeRun_capturesTo _).trans (Dev.tryRelease_capturesTo _ i)))
  · exact d.capturesTo_rfl

theorem Dev.cmeOnce_capturesTo : d.capturesTo d.cmeOnce := by
  unfold Dev.cmeOnce
  split
  · exact d.capturesTo_rfl
  next b rest _ =>
    split
    next p d' given =>
      obtain ⟨-, -, -, ict, -, -, -, -, -, -, -, tmb, -⟩ := Dev.givePage_frame given
      exact Dev.capturesTo_of_eq (by simpa [Dev.setStb] using ict) (by simpa [Dev.setStb] using tmb)
    · exact d.cutDiscard_capturesTo ..

theorem Dev.cmeLoop_capturesTo : ∀ (n : Nat) (d : Dev), d.capturesTo (Dev.cmeLoop n d)
  | 0, d => d.capturesTo_rfl
  | n + 1, d => by
    unfold Dev.cmeLoop
    split
    · exact d.cmeOnce_capturesTo.trans (Dev.cmeLoop_capturesTo n _)
    · exact d.capturesTo_rfl

theorem Dev.cmeTest_capturesTo : d.capturesTo d.cmeTest := Dev.cmeLoop_capturesTo ..

theorem Dev.endStream_capturesTo (i : StreamIdx) (k : PendingEnd) : d.capturesTo (d.endStream i k) := by
  by_cases isOpen : ∃ x, d.body i = some x ∧ x.ending = none
  · obtain ⟨x, taken, isOpen⟩ := isOpen
    rw [Dev.endStream_open taken isOpen]
    exact (Dev.capturesTo_of_eq (by simp) (by simp)).trans ((Dev.reportEnd_capturesTo _ x k).trans
      ((Dev.closeRun_capturesTo _).trans ((Dev.cmeTest_capturesTo _).trans (Dev.tryRelease_capturesTo _ i))))
  · rw [Dev.endStream_not_open fun x taken ends => isOpen ⟨x, taken, ends⟩]
    exact d.capturesTo_rfl

end

/-! ### Several streams, one after the other -/

/-- Streams end one after the other. -/
def Dev.endAll (d : Dev) (slots : List StreamIdx) (k : PendingEnd) : Dev :=
  slots.foldl (fun d i => d.endStream i k) d

section
variable {k : PendingEnd}

theorem Dev.endAll_streamsTo : ∀ (slots : List StreamIdx) (d : Dev), d.streamsTo (d.endAll slots k)
  | [], d => d.streamsTo_rfl
  | i :: slots, d => (d.endStream_streamsTo i k).trans (Dev.endAll_streamsTo slots _)

theorem Dev.endAll_flowsTo : ∀ (slots : List StreamIdx) (d : Dev), d.flowsTo (d.endAll slots k)
  | [], d => d.flowsTo_rfl
  | i :: slots, d => (d.endStream_flowsTo i k).trans (Dev.endAll_flowsTo slots _)

theorem Dev.endAll_capturesTo : ∀ (slots : List StreamIdx) (d : Dev), d.capturesTo (d.endAll slots k)
  | [], d => d.capturesTo_rfl
  | i :: slots, d => (d.endStream_capturesTo i k).trans (Dev.endAll_capturesTo slots _)

theorem Dev.endStream_keepsAllBut (d : Dev) (i : StreamIdx) (k : PendingEnd) :
    d.keepsAllBut [.ict, .cpm, .stb, .cme, .plm, .arc, .drm, .hiu, .tmb, .ntu] (d.endStream i k) :=
  fun b hb => by cases b <;> simp [Part.agrees] at hb ⊢

theorem Dev.endAll_keepsAllBut : ∀ (slots : List StreamIdx) (d : Dev),
    d.keepsAllBut [.ict, .cpm, .stb, .cme, .plm, .arc, .drm, .hiu, .tmb, .ntu] (d.endAll slots k)
  | [], d => d.keepsAllBut_rfl _
  | i :: slots, d => (d.endStream_keepsAllBut i k).trans (Dev.endAll_keepsAllBut slots _)

/-- Each stream ended is not OPEN then. -/
theorem Dev.endAll_ended {i : StreamIdx} {y : StreamBody} {slots : List StreamIdx} {d : Dev} (mem : i ∈ slots)
    (taken : (d.endAll slots k).body i = some y) : y.ending ≠ none := by
  induction slots generalizing d with
  | nil => exact absurd mem List.not_mem_nil
  | cons j slots ih =>
    by_cases later : i ∈ slots
    · exact ih (d := d.endStream j k) later taken
    · obtain rfl : i = j := (List.mem_cons.1 mem).resolve_right later
      obtain ⟨x, hx, passes⟩ := (Dev.endAll_streamsTo slots (d.endStream i k)).stays i y taken
      obtain ⟨k', hk'⟩ := Option.ne_none_iff_exists'.1 (Dev.endStream_ended hx)
      rcases passes.ending k' hk' with stands | ⟨-, left⟩
      · exact stands ▸ nofun
      · exact left

theorem Dev.endAll_calm : ∀ (slots : List StreamIdx) {d : Dev}, d.calm →
    (∀ j, j ∉ slots → (d.endAll slots k).body j = d.body j) ∧ (d.endAll slots k).calm
  | [], _, h => ⟨fun _ _ => rfl, h⟩
  | i :: slots, d, h => by
    obtain ⟨others, calm⟩ := Dev.endStream_calm h i k
    obtain ⟨rest, calm'⟩ := Dev.endAll_calm slots calm
    refine ⟨fun j out => ?_, calm'⟩
    obtain ⟨other, out⟩ := not_or.1 (List.mem_cons.not.1 out)
    exact (rest j out).trans (others j other)

/-- What the end of each stream gives stands after all have ended, when those ended before leave the stream. -/
theorem Dev.endAll_each {i : StreamIdx} {x : StreamBody} (P Q : Dev → Prop)
    (calm : ∀ (d : Dev) (j : StreamIdx), Q d → d.calm ∧ Q (d.endStream j k))
    (gives : ∀ d : Dev, Q d → d.body i = some x → P (d.endStream i k))
    (later : ∀ (d : Dev) (slots : List StreamIdx), Q d → i ∉ slots → P d → P (d.endAll slots k))
    {slots : List StreamIdx} {d : Dev} (start : Q d) (distinct : slots.Nodup) (mem : i ∈ slots)
    (taken : d.body i = some x) : P (d.endAll slots k) := by
  induction slots generalizing d with
  | nil => exact absurd mem List.not_mem_nil
  | cons j slots ih =>
    obtain ⟨fresh, distinct⟩ := List.nodup_cons.1 distinct
    obtain ⟨calmNow, next⟩ := calm d j start
    by_cases same : i = j
    · subst same
      exact later _ slots next fresh (gives d start taken)
    · have still := (Dev.endStream_calm calmNow j k).1 i same
      exact ih (d := d.endStream j k) next distinct ((List.mem_cons.1 mem).resolve_left same) (still.trans taken)

theorem Dev.endAll_takes {i : StreamIdx} {x : StreamBody} {slots : List StreamIdx} {d : Dev} (hk : k ≠ .ended)
    (calm : d.calm) (distinct : slots.Nodup) (mem : i ∈ slots) (taken : d.body i = some x) (isOpen : x.ending = none) :
    (d.endAll slots k).takesEnd i x k :=
  Dev.endAll_each (·.takesEnd i x k) Dev.calm (fun _ j h => ⟨h, (Dev.endStream_calm h j k).2⟩)
    (fun _ _ taken => Dev.endStream_takes taken isOpen hk)
    (fun _ slots _ _ h => h.later (Dev.endAll_streamsTo slots _) hk) calm distinct mem taken

theorem Dev.endAll_reports {i : StreamIdx} {x : StreamBody} {slots : List StreamIdx} {d : Dev} {r : Reason}
    (calm : d.calm) (distinct : slots.Nodup) (mem : i ∈ slots) (taken : d.body i = some x) (isOpen : x.ending = none) :
    (d.endAll slots (.truncated r)).reportsCut x r :=
  Dev.endAll_each (·.reportsCut x r) Dev.calm (fun _ j h => ⟨h, (Dev.endStream_calm h j _).2⟩)
    (fun _ _ taken => Dev.endStream_reports taken isOpen r)
    (fun _ slots _ _ h => h.later (Dev.endAll_flowsTo slots _)) calm distinct mem taken

theorem Dev.endStream_busy_stays {d : Dev} (busy : d.cme.state ≠ .idle) (i : StreamIdx) (k : PendingEnd) :
    (d.endStream i k).cme = d.cme ∧ d.stb.queue ⊆ (d.endStream i k).stb.queue := by
  by_cases isOpen : ∃ x, d.body i = some x ∧ x.ending = none
  · obtain ⟨x, taken, isOpen⟩ := isOpen
    obtain ⟨cme, stb⟩ := Dev.endStream_busy_frame (k := k) busy taken isOpen
    refine ⟨cme, ?_⟩
    rw [stb]
    cases fill : x.fill with
    | none => rw [Dev.leaveOpen_queue_of_none taken fill]; exact List.Subset.refl _
    | some f =>
      rw [Dev.leaveOpen_queue_of_fill taken fill]
      exact fun g mem => mem_joinQueue.2 (.inr mem)
  · rw [Dev.endStream_not_open fun x taken ends => isOpen ⟨x, taken, ends⟩]
    exact ⟨rfl, List.Subset.refl _⟩

theorem Dev.endAll_busy : ∀ (slots : List StreamIdx) {d : Dev}, d.cme.state ≠ .idle →
    (d.endAll slots k).cme = d.cme ∧ d.stb.queue ⊆ (d.endAll slots k).stb.queue
  | [], _, _ => ⟨rfl, List.Subset.refl _⟩
  | i :: slots, d, busy => by
    obtain ⟨cme, queue⟩ := Dev.endStream_busy_stays busy i k
    obtain ⟨cme', queue'⟩ := Dev.endAll_busy slots (d := d.endStream i k) (by rwa [cme])
    exact ⟨cme'.trans cme, fun f mem => queue' (queue mem)⟩

theorem Dev.endAll_endsBy {i : StreamIdx} {x : StreamBody} {slots : List StreamIdx} {d : Dev}
    (busy : d.cme.state ≠ .idle) (distinct : slots.Nodup) (mem : i ∈ slots) (taken : d.body i = some x)
    (isOpen : x.ending = none) : (d.endAll slots k).endsBy i x k :=
  Dev.endAll_each (·.endsBy i x k) (·.cme.state ≠ .idle)
    (fun _ j h => ⟨.inl h, by rwa [(Dev.endStream_busy_stays h j k).1]⟩)
    (fun _ h taken => Dev.endStream_endsBy h taken isOpen)
    (fun _ slots busy out h => h.later ((Dev.endAll_calm slots (.inl busy)).1 i out) (Dev.endAll_busy slots busy).2
      (Dev.endAll_streamsTo slots _).grows) busy distinct mem taken

/-- The first stream to end is reported by the first event. -/
theorem Dev.endAll_records {i : StreamIdx} {x : StreamBody} {d : Dev} {r : Reason} (slots : List StreamIdx)
    (taken : d.body i = some x) (isOpen : x.ending = none) :
    d.records (d.endAll (i :: slots) (.truncated r)) (cutBody x r) 2 evStreamCut :=
  (Dev.endStream_records taken isOpen r).later (Dev.endAll_flowsTo slots _)

/-! ### The OPEN slots that satisfy a test -/

theorem Dev.mem_openSlots {d : Dev} {p : StreamBody → Bool} {i : StreamIdx} :
    i ∈ d.openSlots p ↔ ∃ x, d.body i = some x ∧ x.ending = none ∧ p x = true := by
  simp [Dev.openSlots, Option.any_eq_true, StreamBody.isOpen]

theorem Dev.openSlots_sorted (d : Dev) (p : StreamBody → Bool) : (d.openSlots p).Pairwise (· < ·) :=
  (List.pairwise_lt_finRange 16).filter _

theorem Dev.openSlots_nodup (d : Dev) (p : StreamBody → Bool) : (d.openSlots p).Nodup :=
  (List.nodup_finRange 16).filter _

/-- The first of them is ended first. -/
theorem Dev.openSlots_first {d : Dev} {p : StreamBody → Bool} {i : StreamIdx} {x : StreamBody}
    (taken : d.body i = some x) (isOpen : x.ending = none) (passes : p x = true)
    (first : ∀ j y, j < i → d.body j = some y → y.ending = none → p y = false) :
    ∃ rest, d.openSlots p = i :: rest := by
  have mem : i ∈ d.openSlots p := Dev.mem_openSlots.2 ⟨x, taken, isOpen, passes⟩
  cases slots : d.openSlots p with
  | nil => rw [slots] at mem; exact absurd mem List.not_mem_nil
  | cons j rest =>
    obtain ⟨y, hy, ending, py⟩ := Dev.mem_openSlots.1 (slots ▸ List.mem_cons_self : j ∈ d.openSlots p)
    have sorted := d.openSlots_sorted p
    rw [slots] at mem sorted
    rcases List.mem_cons.1 mem with rfl | later
    · exact ⟨rest, rfl⟩
    · have before : j < i := (List.pairwise_cons.1 sorted).1 i later
      exact absurd py (Bool.eq_false_iff.1 (first j y before hy ending))

/-- After the OPEN streams that satisfy a test have ended, none of them is OPEN. -/
theorem Dev.endStreams_ended {d e : Dev} {p : StreamBody → Bool} (stable : ∀ x y : StreamBody, x.passesTo y → p x = p y)
    (later : (d.endAll (d.openSlots p) k).streamsTo e) {j : StreamIdx} {y : StreamBody} (taken : e.body j = some y)
    (hp : p y = true) : y.ending ≠ none := by
  obtain ⟨z, hz, zy⟩ := later.stays j y taken
  obtain ⟨x, hx, xz⟩ := (Dev.endAll_streamsTo _ d).stays j z hz
  have ended : z.ending ≠ none := by
    by_cases isOpen : x.ending = none
    · have mem : j ∈ d.openSlots p :=
        Dev.mem_openSlots.2 ⟨x, hx, isOpen, ((stable x z xz).trans (stable z y zy)).trans hp⟩
      exact Dev.endAll_ended mem hz
    · obtain ⟨k', hk'⟩ := Option.ne_none_iff_exists'.1 isOpen
      rcases xz.ending k' hk' with stands | ⟨-, left⟩
      · exact stands ▸ nofun
      · exact left
  obtain ⟨k', hk'⟩ := Option.ne_none_iff_exists'.1 ended
  rcases zy.ending k' hk' with stands | ⟨-, left⟩
  · exact stands ▸ nofun
  · exact left

end

end Sys2Proof.Machine
end


section
/-! PROOFS. WITHDRAW (R39), and the expiry of the capture window and limit (R13 to R15). -/

namespace Sys2Proof.Machine

/-! ### WITHDRAW -/

theorem Dev.handleTest_ok_iff {d : Dev} {p : Port} {b : List Byte} {i : StreamIdx} {x : StreamBody}
    (h : d.handleTest p b = .ok (i, x)) : d.body i = some x ∧ x.ending = none := by
  unfold Dev.handleTest at h
  split at h
  · cases h
  next j y handle =>
    split at h
    · cases h
    · split at h
      · cases h
      next ending =>
        cases h
        refine ⟨?_, ending⟩
        unfold Dev.handle at handle
        split at handle
        next hi =>
          dsimp only at handle
          split at handle
          · obtain ⟨z, hz, same⟩ := Option.map_eq_some_iff.1 handle
            cases same
            exact hz
          · cases handle
        · cases handle

/-- The directory's queue has `n` places for capture entries, and no requester waits ahead. -/
def Drm.spare? (m : Drm) (n : Nat) : Prop := m.captureWaiters = [] ∧ m.queue.length + n ≤ 80

section
variable {d : Dev} {n : Nat}

theorem Dev.tryPass_room (h : d.drm.spare? n) : d.tryPass.drm.spare? n := by
  rcases d.tryPass_cases with stays | ⟨k, r, -, passes⟩
  · rwa [stays]
  · rw [passes, Dev.passed_drm]
    exact h

theorem Dev.tryKeep_room (h : d.drm.spare? (n + 1)) : d.tryKeep.drm.spare? n := by
  obtain ⟨idle, short⟩ := h
  have room : d.drm.capRoom 1 = true := Drm.capRoom_iff.2 ⟨idle, by omega⟩
  cases keepable : d.keepable with
  | none =>
    rw [Dev.tryKeep_stays keepable]
    exact ⟨idle, by omega⟩
  | some kr =>
    rw [Dev.tryKeep_keeps (k := kr.1) (r := kr.2) keepable room, Dev.keep_drm]
    refine ⟨idle, ?_⟩
    simp only [List.length_append, List.length_singleton]
    omega

theorem Dev.closeRun_room (h : d.drm.spare? (n + 2)) : d.closeRun.drm.spare? n :=
  Dev.tryKeep_room (Dev.tryPass_room (Dev.tryKeep_room (Dev.tryPass_room h)))

end

section
variable {d : Dev} {i : StreamIdx} {x : StreamBody}

/-- A stream without blocks is released at once while the directory's queue has room. -/
theorem Dev.endStream_abandons (busy : d.cme.state ≠ .idle) (taken : d.body i = some x) (isOpen : x.ending = none)
    (noFill : x.fill = none) (noQueued : x.queued = 0) (idle : d.drm.captureWaiters = [])
    (short : d.drm.queue.length + 3 ≤ 80) :
    (d.endStream i .abandoned).body i = none ∧ x.endEntry .abandoned ∈ (d.endStream i .abandoned).drm.queue
      ∧ d.recordTakes (d.endStream i .abandoned) x (x.closed .abandoned) := by
  have slot : (((d.leaveOpen i .abandoned).reportEnd x .abandoned).closeRun).body i = some (x.left .abandoned) :=
    (Dev.body_reported taken i).trans (if_pos rfl)
  have left : x.left .abandoned = { x with ending := some .abandoned } := by
    rw [StreamBody.left, if_pos noFill, ← noFill]
  have drained : (x.left .abandoned).drained = some .abandoned :=
    StreamBody.drained_iff.2 (by rw [left]; exact ⟨rfl, noFill, noQueued⟩)
  have room : (((d.leaveOpen i .abandoned).reportEnd x .abandoned).closeRun).drm.capRoom 1 = true := by
    have start : ((d.leaveOpen i .abandoned).reportEnd x .abandoned).drm.spare? 3 := by
      rw [(Dev.reportEnd_frame ..).2.2.2.1, (Dev.leaveOpen_frame ..).2.2.2.2.2.2.2.1]
      exact ⟨idle, short⟩
    obtain ⟨idle', short'⟩ := Dev.closeRun_room (n := 1) start
    exact Drm.capRoom_iff.2 ⟨idle', by omega⟩
  have kept : d.keepsStreams (((d.leaveOpen i .abandoned).reportEnd x .abandoned).closeRun) :=
    Dev.keepsStreams_trans (Dev.keepsStreams_of_dir (by simp [Dev.reportEnd_frame])) (Dev.closeRun_keepsStreams _)
  obtain ⟨gone, records⟩ := Dev.tryRelease_releases slot drained room
  rw [Dev.endStream_busy busy taken isOpen]
  refine ⟨gone, ?_, Dev.recordTakes_after kept records⟩
  rw [Dev.tryRelease_drained slot drained room]
  refine ((Dev.tryKeep_grows _).trans (Dev.closeRun_grows _)).queue.subset ?_
  rw [Dev.releaseSlot_queue]
  exact List.mem_append_right _ List.mem_cons_self

end

/-- Settles O39: `Dev.endStream` with the kind ABANDONED. -/
theorem withdrawAbandonsTheStream : Obligations.WithdrawAbandonsTheStream := by
  intro p tag b s i x reaches ok
  obtain ⟨taken, isOpen⟩ := Dev.handleTest_ok_iff ok
  let t := s.dev.takeFrame p Request.withdraw.code tag b
  let e := t.endStream i .abandoned
  have same : t = { s.dev with pif := s.dev.waitsFor p b Request.withdraw.code tag } := Dev.takeFrame_eq ..
  have takenT : t.body i = some x := by rw [same]; exact taken
  have answered : e.reply p .ok 0 (.accepted x.accepted)
      = { e with pif := s.dev.answers p b (Request.withdraw.says tag .ok 0 (.accepted x.accepted)) } :=
    Dev.reply_taken (by simp [e, t]) (by decide)
  have runs : exec (.withdraw p tag b) s
      = .next { s with dev := (e.reply p .ok 0 (.accepted x.accepted)).settle } := by
    refine exec_of_serve reaches ?_
    show Dev.serveWithdraw p b t = _
    have okT : t.handleTest p b = .ok (i, x) := (Dev.handleTest_takeFrame ..).trans ok
    rw [Dev.serveWithdraw, okT]
  rw [answered] at runs
  have body (j : StreamIdx) : (({ e with
      pif := (s.dev.answers p b (Request.withdraw.says tag .ok 0 (.accepted x.accepted))) } : Dev).settle).body j
      = e.body j := Dev.body_settle _ j
  have cmeT (busy : s.dev.cme.state ≠ .idle) : t.cme.state ≠ .idle := by simpa [t] using busy
  have stb (busy : s.dev.cme.state ≠ .idle) : e.stb = (t.leaveOpen i .abandoned).stb :=
    (Dev.endStream_busy_frame (cmeT busy) takenT isOpen).2
  have endsBy (busy : s.dev.cme.state ≠ .idle) : e.endsBy i x .abandoned :=
    Dev.endStream_endsBy (cmeT busy) takenT isOpen
  refine ⟨_, runs, ?_, ?_, fun busy j other => ?_, fun f busy fill => ⟨?_, ?_⟩, fun busy noFill queued => ⟨?_, ?_⟩,
    fun busy noFill noQueued idle short => ?_⟩
  · simp
  · intro c hc
    cases c <;> simp [Part.agrees, e, t] at hc ⊢
  · rw [body, (Dev.endStream_calm (.inl (cmeT busy)) i _).1 j other, same]
    rfl
  · exact (body i).trans ((endsBy busy).1 f fill).2
  · rw [(Dev.settle_frame _).2.2.2.2.2.1]
    exact (stb busy).trans ((Dev.leaveOpen_queue_of_fill takenT fill).trans (by rw [same]))
  · exact (body i).trans ((endsBy busy).2.1 noFill queued)
  · rw [(Dev.settle_frame _).2.2.2.2.2.1]
    exact (stb busy).trans ((Dev.leaveOpen_queue_of_none takenT noFill).trans (by rw [same]))
  · obtain ⟨gone, mem, records⟩ := Dev.endStream_abandons (cmeT busy) takenT isOpen noFill noQueued
      (by simpa [t] using idle) (by simpa [t] using short)
    have sameDir : s.dev.keepsStreams t := Dev.keepsStreams_of_dir (by simp [t])
    refine ⟨(body i).trans gone, ?_, ?_⟩
    · rw [(Dev.settle_inner _).2.1]
      exact mem
    · exact Dev.recordTakes_then (Dev.recordTakes_after sameDir records)
        (Dev.keepsStreams_trans (Dev.keepsStreams_of_dir rfl) (Dev.settle_keepsStreams _))

end Sys2Proof.Machine
end


section
/-! PROOFS. A notice stands with its detail until the same cause is raised again (R162), and what the endings of streams
raise (R46). -/

namespace Sys2Proof.Machine

/-! ### Notices that stand -/

/-- Both notice sets hold a notice of the cause with the detail. -/
def Dev.noticed (d : Dev) (c : NoticeCause) (n : Nat) : Prop :=
  ∀ l ∈ [d.ntu.management, d.ntu.service], ∃ x ∈ l, x.cause = c ∧ x.detail = BitVec.ofNat 32 n

/-- From `d` to `e` the notices of a cause stand. -/
structure Dev.noticeStays (c : NoticeCause) (d e : Dev) : Prop where
  told : ∀ n, d.noticed c n → e.noticed c n

theorem Dev.noticed_iff {d : Dev} {c : NoticeCause} {n : Nat} : d.noticed c n ↔
    (∃ x ∈ d.ntu.management, x.cause = c ∧ x.detail = BitVec.ofNat 32 n)
      ∧ ∃ x ∈ d.ntu.service, x.cause = c ∧ x.detail = BitVec.ofNat 32 n := by
  simp [Dev.noticed]

theorem Dev.raise_noticed (d : Dev) (c : NoticeCause) (n : Nat) : (d.raise c n).noticed c n :=
  Dev.noticed_iff.2 ⟨mem_raiseIn_detail _ _ _, mem_raiseIn_detail _ _ _⟩

section
variable {c : NoticeCause}

theorem Dev.noticeStays_of_same {d e : Dev} (management : e.ntu.management = d.ntu.management)
    (service : e.ntu.service = d.ntu.service) : Dev.noticeStays c d e := ⟨fun n h => by
  unfold Dev.noticed at h ⊢
  rwa [management, service]⟩

theorem Dev.noticeStays_rfl (d : Dev) : Dev.noticeStays c d d := ⟨fun _ => id⟩

theorem Dev.noticeStays.trans {d e f : Dev} (h : Dev.noticeStays c d e) (g : Dev.noticeStays c e f) :
    Dev.noticeStays c d f := ⟨fun n => g.told n ∘ h.told n⟩

/-- What moves no notice may stand before. -/
theorem Dev.noticeStays.after {d e f : Dev} (g : Dev.noticeStays c e f)
    (management : e.ntu.management = d.ntu.management) (service : e.ntu.service = d.ntu.service) :
    Dev.noticeStays c d f := (Dev.noticeStays_of_same management service).trans g

theorem Dev.raise_stays {c' : NoticeCause} (other : c ≠ c') (d : Dev) (k : Nat) : Dev.noticeStays c d (d.raise c' k) := by
  have stands {l : List Notice} {n : Nat} : (∃ x ∈ l, x.cause = c ∧ x.detail = BitVec.ofNat 32 n) →
      ∃ x ∈ raiseIn l c' (BitVec.ofNat 32 k), x.cause = c ∧ x.detail = BitVec.ofNat 32 n := by
    rintro ⟨x, mem, cause, detail⟩
    exact ⟨x, (mem_raiseIn_other (cause ▸ other) _).2 mem, cause, detail⟩
  refine ⟨fun n h => ?_⟩
  obtain ⟨management, service⟩ := Dev.noticed_iff.1 h
  exact Dev.noticed_iff.2 ⟨stands management, stands service⟩

/-! ### The history raises its own notices -/

section
variable (halted : c ≠ .historyHalted)
include halted

theorem Dev.haltTest_noticeStays (d : Dev) : Dev.noticeStays c d d.haltTest := by
  unfold Dev.haltTest
  dsimp only
  split
  · exact (Dev.raise_stays halted _ _).after rfl rfl
  · exact Dev.noticeStays_rfl d

omit halted in
theorem Dev.prepTest_noticeStays (d : Dev) : Dev.noticeStays c d d.prepTest :=
  Dev.noticeStays_of_same (by simp) (by simp)

theorem Dev.ringAdvance_stays (d : Dev) (k : RingIdx) : Dev.noticeStays c d (d.ringAdvance k) := by
  unfold Dev.ringAdvance
  refine Dev.noticeStays.trans ?_ (Dev.prepTest_noticeStays _)
  split
  · split
    · exact (Dev.haltTest_noticeStays halted _).after rfl rfl
    · exact Dev.noticeStays_of_same rfl rfl
  · exact Dev.noticeStays_of_same rfl rfl

theorem Dev.pageAdvance_stays (d : Dev) : Dev.noticeStays c d d.pageAdvance := by
  unfold Dev.pageAdvance
  split
  · exact Dev.noticeStays_rfl d
  · split
    · exact Dev.ringAdvance_stays halted d _
    · exact Dev.noticeStays_of_same rfl rfl

theorem Dev.moveOnce_stays {d e : Dev} (h : d.moveOnce = some e) : Dev.noticeStays c d e := by
  unfold Dev.moveOnce at h
  split at h
  · cases h
  next x rest _ =>
    have stage : Dev.noticeStays c d (d.stageHead x rest) := Dev.noticeStays_of_same (by simp) (by simp)
    split at h
    · split at h <;> cases h
      exact stage
    · split at h
      · cases h
      · split at h
        · cases h
          exact stage
        · cases h
          split
          · exact (Dev.pageAdvance_stays halted _).after rfl rfl
          · exact Dev.noticeStays_of_same rfl rfl

theorem Dev.moveLoop_stays : ∀ (n : Nat) (d : Dev), Dev.noticeStays c d (d.moveLoop n)
  | 0, d => Dev.noticeStays_rfl d
  | n + 1, d => by
    unfold Dev.moveLoop
    split
    next e moved => exact (Dev.moveOnce_stays halted moved).trans (Dev.moveLoop_stays n e)
    · exact Dev.noticeStays_rfl d

theorem Dev.offerSeq_stays (lost : c ≠ .historyLost) (d : Dev) (body : HBody) (severity : Nat) (source : Source)
    (code : Nat) : Dev.noticeStays c d (d.offerSeq body severity source code).dev := by
  unfold Dev.offerSeq
  split
  · exact (Dev.moveLoop_stays halted _ _).after rfl rfl
  · exact (Dev.raise_stays lost _ _).after rfl rfl

end

end

/-! ### STREAM_CUT -/

section
variable (d : Dev)

theorem Dev.event_cutStays (code severity : Nat) (body : HBody) :
    Dev.noticeStays .streamCut d (d.event code severity body) := Dev.offerSeq_stays (by decide) (by decide) ..

theorem Dev.settle_stays {c : NoticeCause} : Dev.noticeStays c d d.settle :=
  Dev.noticeStays_of_same (by simp) (by simp)

theorem Dev.showInd_sets :
    d.showInd.ntu.management = d.ntu.management ∧ d.showInd.ntu.service = d.ntu.service := by simp

theorem Dev.passed_stays {c : NoticeCause} (k : DirSlot) : Dev.noticeStays c d (d.passed k) :=
  Dev.noticeStays_of_same (Dev.showInd_sets _).1 (Dev.showInd_sets _).2

theorem Dev.tryPass_stays' {c : NoticeCause} : Dev.noticeStays c d d.tryPass := by
  rcases d.tryPass_cases with stays | ⟨k, r, -, passes⟩
  · rw [stays]
    exact Dev.noticeStays_rfl d
  · rw [passes]
    exact d.passed_stays k

theorem Dev.tryKeep_cutStays : Dev.noticeStays .streamCut d d.tryKeep := by
  rcases d.tryKeep_cases with stays | waits | ⟨k, r, -, keeps⟩
  · rw [stays]
    exact Dev.noticeStays_rfl d
  · rw [waits]
    unfold Dev.waitCapture
    split <;> exact Dev.noticeStays_of_same rfl rfl
  · rw [keeps]
    exact ((Dev.event_cutStays _ _ _ _).trans (Dev.raise_stays (by decide) _ _)).after (Dev.showInd_sets _).1
      (Dev.showInd_sets _).2

theorem Dev.closeRun_cutStays : Dev.noticeStays .streamCut d d.closeRun :=
  d.tryPass_stays'.trans ((Dev.tryKeep_cutStays _).trans ((Dev.tryPass_stays' _).trans (Dev.tryKeep_cutStays _)))

theorem Dev.tryRelease_cutStays (i : StreamIdx) : Dev.noticeStays .streamCut d (d.tryRelease i) := by
  refine Dev.noticeStays.trans (e := d.releaseKeeping i) ?_ (Dev.closeRun_cutStays _)
  rcases d.releaseKeeping_cases i with stays | waits | ⟨x, k, -, -, releases⟩
  · rw [stays]
    exact Dev.noticeStays_rfl d
  · rw [waits]
    unfold Dev.waitCapture
    split <;> exact Dev.noticeStays_of_same rfl rfl
  · rw [releases]
    exact (Dev.tryKeep_cutStays _).after (by simp) (by simp)

theorem Dev.reportCut_noticed (x : StreamBody) (r : Reason) : (d.reportCut x r).noticed .streamCut x.incident :=
  Dev.raise_noticed _ _ _

theorem Dev.cutDiscard_noticed {d : Dev} {i : StreamIdx} {x : StreamBody} (taken : d.body i = some x) (r : Reason) :
    (d.cutDiscard i r).noticed .streamCut x.incident := by
  rw [Dev.cutDiscard_taken taken]
  exact (Dev.tryRelease_cutStays _ i).told _ ((Dev.closeRun_cutStays _).told _ (Dev.reportCut_noticed _ x r))

theorem Dev.poolLowTest_cutStays : Dev.noticeStays .streamCut d d.poolLowTest := by
  unfold Dev.poolLowTest
  split
  · exact Dev.raise_stays (by decide) _ _
  · exact Dev.noticeStays_rfl _

theorem Dev.givePage_cutStays {d e : Dev} {p : PageAddr} (h : d.givePage = some (p, e)) :
    Dev.noticeStays .streamCut d e := by
  unfold Dev.givePage at h
  split at h
  · cases h
    exact Dev.noticeStays_of_same rfl rfl
  · split at h
    next d' given =>
      obtain ⟨z, -, hz⟩ := Option.map_eq_some_iff.1 h
      cases hz
      refine Dev.noticeStays.trans ?_ (Dev.noticeStays_of_same (d := d') rfl rfl)
      obtain ⟨z', -, rfl⟩ := Option.map_eq_some_iff.1 given
      refine (Dev.poolLowTest_cutStays _).after rfl rfl
    · cases h

/-- The blocks on the commit queue are of streams of one incident. -/
def Dev.queueOf (n : Nat) : Prop := ∀ f ∈ d.stb.queue, ∀ y, d.body f.slot = some y → y.incident = n

variable {d} {n : Nat}

theorem Dev.cmeOnce_queueOf (h : d.queueOf n) (told : d.noticed .streamCut n) :
    d.cmeOnce.queueOf n ∧ d.cmeOnce.noticed .streamCut n := by
  unfold Dev.cmeOnce
  split
  · exact ⟨h, told⟩
  next b rest queue =>
    split
    next p e given =>
      obtain ⟨-, -, -, -, cpm, -⟩ := Dev.givePage_frame given
      refine ⟨fun f mem y hy => ?_, ?_⟩
      · have mem' : f ∈ rest := by simpa [Dev.setStb] using mem
        refine h f (queue ▸ List.mem_cons_of_mem _ mem') y ?_
        rwa [Dev.body_of_cpm (d := d) (by simpa [Dev.setStb] using cpm)] at hy
      · exact (Dev.noticeStays_of_same (by simp [Dev.setStb]) (by simp [Dev.setStb])).told n
          ((Dev.givePage_cutStays given).told n told)
    · cases taken : d.body b.slot with
      | none =>
        have stays : d.cutDiscard b.slot .storeFull = d := by simp only [Dev.cutDiscard, taken]
        rw [stays]
        exact ⟨h, told⟩
      | some x =>
        have own : x.incident = n := h b (queue ▸ List.mem_cons_self) x taken
        refine ⟨fun f mem y hy => ?_, own ▸ Dev.cutDiscard_noticed taken _⟩
        rw [Dev.cutDiscard_queue taken] at mem
        obtain ⟨z, hz, passes⟩ := (d.cutDiscard_streamsTo b.slot .storeFull).stays _ y hy
        rw [passes.same]
        exact h f (List.mem_of_mem_filter mem) z hz

theorem Dev.cmeLoop_noticed (m : Nat) (h : d.queueOf n) (told : d.noticed .streamCut n) :
    (Dev.cmeLoop m d).noticed .streamCut n := by
  induction m generalizing d with
  | zero => exact told
  | succ m ih =>
    unfold Dev.cmeLoop
    split
    · obtain ⟨h', told'⟩ := Dev.cmeOnce_queueOf h told
      exact ih h' told'
    · exact told

/-- The cut of a stream stands in the notices with its incident, and a further cut of the same incident leaves it. -/
theorem Dev.endStream_noticed {i : StreamIdx} {x : StreamBody} {r : Reason} (calm : d.calm) (taken : d.body i = some x)
    (isOpen : x.ending = none) : (d.endStream i (.truncated r)).noticed .streamCut x.incident := by
  have told : (((d.leaveOpen i (.truncated r)).reportEnd x (.truncated r)).closeRun).noticed .streamCut x.incident :=
    (Dev.closeRun_cutStays _).told _ (Dev.reportCut_noticed _ x r)
  rw [Dev.endStream_open taken isOpen]
  refine (Dev.tryRelease_cutStays _ i).told _ ?_
  rcases calm with busy | shut | ⟨empty, own⟩
  · rw [Dev.cmeTest_busy (by simpa [Dev.reportEnd_frame] using busy)]
    exact told
  · rw [Dev.cmeTest_shut (by simpa [Dev.commits, Dev.reportEnd_frame] using shut)]
    exact told
  · refine Dev.cmeLoop_noticed _ (fun f mem y hy => ?_) told
    rw [Dev.reported_stb] at mem
    have slot : f.slot = i := by
      cases fill : x.fill with
      | none =>
        rw [Dev.leaveOpen_queue_of_none taken fill, empty] at mem
        exact absurd mem List.not_mem_nil
      | some g =>
        rw [Dev.leaveOpen_queue_of_fill taken fill, empty] at mem
        exact List.mem_singleton.1 mem ▸ own i x g taken fill
    rw [slot, Dev.body_reported taken, if_pos rfl] at hy
    rw [← Option.some.inj hy]
    rfl

theorem Dev.endAll_noticed {n : Nat} {r : Reason} (slots : List StreamIdx) (calm : d.calm) (distinct : slots.Nodup)
    (own : ∀ j ∈ slots, ∀ y, d.body j = some y → y.incident = n) (told : d.noticed .streamCut n) :
    (d.endAll slots (.truncated r)).noticed .streamCut n := by
  induction slots generalizing d with
  | nil => exact told
  | cons i slots ih =>
    obtain ⟨fresh, distinct⟩ := List.nodup_cons.1 distinct
    obtain ⟨others, calm'⟩ := Dev.endStream_calm calm i (.truncated r)
    refine ih (d := d.endStream i (.truncated r)) calm' distinct (fun j mem y hy => ?_) ?_
    · rw [others j fun same => fresh (same ▸ mem)] at hy
      exact own j (List.mem_cons_of_mem _ mem) y hy
    · by_cases isOpen : ∃ x, d.body i = some x ∧ x.ending = none
      · obtain ⟨x, taken, isOpen⟩ := isOpen
        exact own i List.mem_cons_self x taken ▸ Dev.endStream_noticed calm taken isOpen
      · rwa [Dev.endStream_not_open fun x taken ends => isOpen ⟨x, taken, ends⟩]

end

end Sys2Proof.Machine
end


section
/-! PROOFS. The expiry of the capture window and of the capture limit (R13 to R15, R41). -/

namespace Sys2Proof.Machine

/-- The state with the RECORDING incident's window expired. -/
abbrev Dev.windowOut (d : Dev) : Dev := (d.deadlines fun t => { t with window := none }).expireWindow

theorem Dev.windowExpires_eq {d : Dev} {i : DirSlot} (recording : d.ict.recording = some i) :
    d.windowExpires = d.windowOut.closeRun.settle := by
  unfold Dev.windowExpires Dev.onlyIf
  rw [recording]
  rfl

/-- An incident does not pass on while a stream of it is OPEN. -/
theorem Dev.passes_none_of_open {d : Dev} {i : DirSlot} {x : Incident} (recording : d.ict.recording = some i)
    (stands : d.drm.dir[i] = some x) {j : StreamIdx} {y : StreamBody} (taken : d.body j = some y)
    (isOpen : y.ending = none) (own : y.incident = x.number) : d.passes = none := by
  cases passes : d.passes with
  | none => rfl
  | some kr =>
    obtain ⟨k, r⟩ := kr
    obtain ⟨-, -, rec, dir, ended⟩ := Dev.passes_iff.1 passes
    obtain rfl := Option.some.inj (recording.symm.trans rec)
    obtain rfl := Option.some.inj (stands.symm.trans dir)
    exact absurd isOpen (ended j y taken own)

/-- An incident keeps its number. -/
theorem Dev.keepsStreams_record {d e : Dev} (h : d.keepsStreams e) {i : DirSlot} {x : Incident}
    (stands : d.drm.dir[i] = some x) : ∃ x', e.drm.dir[i] = some x' ∧ x'.number = x.number := by
  have same := h i
  rw [stands] at same
  obtain ⟨x', dir, pair⟩ := Option.map_eq_some_iff.1 same
  exact ⟨x', dir, congrArg Prod.fst pair⟩

theorem Dev.closeRun_holds {d : Dev} {i : DirSlot} {x : Incident} (recording : d.ict.recording = some i)
    (stands : d.drm.dir[i] = some x) {j : StreamIdx} {y : StreamBody} (taken : d.body j = some y)
    (isOpen : y.ending = none) (own : y.incident = x.number) : d.closeRun = d.tryKeep := by
  have first := Dev.passes_none_of_open recording stands taken isOpen own
  obtain ⟨x', dir, number⟩ := Dev.keepsStreams_record d.tryKeep_keepsStreams stands
  have still : d.tryKeep.body j = some y := (Dev.body_of_cpm (by simp) j).trans taken
  have second : d.tryKeep.passes = none :=
    Dev.passes_none_of_open ((Dev.tryKeep_recording d).1.trans recording) dir still isOpen (own.trans number.symm)
  rw [Dev.closeRun, Dev.tryPass_stays first, Dev.tryPass_stays second, Dev.tryKeep_twice]

theorem Dev.keepable_none_of_taken {d : Dev} {k : DirSlot} {y : Incident} (closing : d.ict.closing = some k)
    (stands : d.drm.dir[k] = some y) {j : StreamIdx} {z : StreamBody} (taken : d.body j = some z)
    (own : z.incident = y.number) : d.keepable = none := by
  cases keepable : d.keepable with
  | none => rfl
  | some kr =>
    obtain ⟨k', r⟩ := kr
    obtain ⟨closing', dir, free⟩ := Dev.keepable_iff.1 keepable
    obtain rfl := Option.some.inj (closing.symm.trans closing')
    obtain rfl := Option.some.inj (stands.symm.trans dir)
    exact absurd own (free j z taken)

theorem Dev.passes_none_of_closing {d : Dev} {k : DirSlot} (closing : d.ict.closing = some k) : d.passes = none := by
  cases passes : d.passes with
  | none => rfl
  | some kr => exact absurd (closing.symm.trans (Dev.passes_iff.1 passes).2.1) nofun

theorem Dev.closeRun_stays {d : Dev} (passes : d.passes = none) (keepable : d.keepable = none) : d.closeRun = d := by
  rw [Dev.closeRun, Dev.tryPass_stays passes, Dev.tryKeep_stays keepable, Dev.tryPass_stays passes,
    Dev.tryKeep_stays keepable]

/-- The state with the capture limit expired, before the streams end. -/
abbrev Dev.limitOut (d : Dev) : Dev := d.cancelCapture.expireWindow

theorem Dev.limitExpires_eq {d : Dev} {i : DirSlot} {x : Incident} (recording : d.ict.recording = some i)
    (stands : d.drm.dir[i] = some x) : d.limitExpires =
      (d.limitOut.endAll (d.openSlots (·.incident == x.number)) (.truncated .limit)).closeRun := by
  have at_ : d.drm.at? d.ict.recording = some x := by
    rw [recording]
    exact stands
  unfold Dev.limitExpires
  rw [at_]
  rfl

/-- What an expired capture is after its streams have ended: cancelled, or passed on. -/
theorem Dev.capturesTo.expired {d e : Dev} (h : d.limitOut.capturesTo e) : e.tmb.deadlines.window = none
    ∧ e.tmb.deadlines.limit = none ∧ (∀ k : Fin 4, e.ict.attn[k] = false)
    ∧ (∀ i, e.ict.recording = some i → e.ict.windowExpired = true) := by
  have off (attn : e.ict.attn = Vector.replicate 4 false) (k : Fin 4) : e.ict.attn[k] = false := by
    rw [attn]
    exact Vector.getElem_replicate ..
  rcases h.record with ⟨-, exp, attn, window, limit⟩ | ⟨-, rec, attn, window, limit⟩
  · exact ⟨window, limit, off attn, fun _ _ => exp⟩
  · exact ⟨window, limit, off attn, fun _ h => absurd (rec.symm.trans h) nofun⟩

theorem Dev.settle_capturesTo (d : Dev) : d.capturesTo d.settle := Dev.capturesTo_of_eq (by simp) (by simp)

/-- Cuts of the streams of one incident leave its notice. -/
theorem Dev.endAll_tells {d : Dev} {slots : List StreamIdx} {n : Nat} {r : Reason} (calm : d.calm)
    (distinct : slots.Nodup) (some : slots ≠ [])
    (mem : ∀ j, j ∈ slots ↔ ∃ y, d.body j = .some y ∧ y.ending = none ∧ y.incident = n) :
    (d.endAll slots (.truncated r)).noticed .streamCut n := by
  cases slots with
  | nil => exact absurd rfl some
  | cons i slots =>
    obtain ⟨y, taken, isOpen, own⟩ := (mem i).1 List.mem_cons_self
    obtain ⟨fresh, distinct⟩ := List.nodup_cons.1 distinct
    obtain ⟨others, calm'⟩ := Dev.endStream_calm calm i (.truncated r)
    refine Dev.endAll_noticed (d := d.endStream i (.truncated r)) slots calm' distinct (fun j later z hz => ?_)
      (own ▸ Dev.endStream_noticed calm taken isOpen)
    rw [others j fun same => fresh (same ▸ later)] at hz
    obtain ⟨z', hz', -, own'⟩ := (mem j).1 (List.mem_cons_of_mem _ later)
    rwa [Option.some.inj (hz.symm.trans hz')]

/-- Settles O46: the close of R15 at the window, and the streams that end in slot order at the limit. -/
theorem captureDeadlinesExpire : Obligations.CaptureDeadlinesExpire := by
  refine ⟨fun s i x hpower due recording stands => ?_, fun s i x hpower due recording stands => ?_⟩
  · have captures : s.dev.windowOut.capturesTo s.dev.windowOut.closeRun.settle :=
      (Dev.closeRun_capturesTo _).trans (Dev.settle_capturesTo _)
    have attnOff (attn : s.dev.windowOut.closeRun.settle.ict.attn = Vector.replicate 4 false) (k : Fin 4) :
        s.dev.windowOut.closeRun.settle.ict.attn[k] = false := by
      rw [attn]
      exact Vector.getElem_replicate ..
    refine ⟨s.dev.windowOut.closeRun.settle, ?_, ?_, ?_, ?_, ?_, ?_, ?_⟩
    · rw [exec_eq_run, ← Dev.windowExpires_eq recording]
      exact State.act_atExpiry_due hpower (slot := (·.window)) due
    · rcases captures.record with ⟨-, -, -, window, -⟩ | ⟨-, -, -, window, -⟩
      · exact window
      · exact window
    · rcases captures.record with ⟨-, -, attn, -⟩ | ⟨-, -, attn, -⟩
      · exact attnOff attn
      · exact attnOff attn
    · rintro ⟨j, y, taken, isOpen, own⟩
      have holds : s.dev.windowOut.closeRun = s.dev.windowOut.tryKeep :=
        Dev.closeRun_holds recording stands (j := j) taken isOpen own
      obtain ⟨hrec, hexp, -, -, hlimit⟩ := s.dev.windowOut.tryKeep_recording
      rw [(Dev.settle_frame _).2.2.2.1, holds]
      refine ⟨hrec.trans recording, hexp.trans rfl, ?_⟩
      simpa using hlimit
    · intro ended noneClosing
      have passes : s.dev.windowOut.passes = some (i, x) := Dev.passes_iff.2 ⟨rfl, noneClosing, recording, stands, ended⟩
      obtain ⟨hrec, -, -, -, hlimit⟩ := (s.dev.windowOut.passed i).tryKeep_recording
      rw [(Dev.settle_frame _).2.2.2.1, Dev.closeRun_passes passes, hrec, Dev.passed_ict]
      refine ⟨rfl, ?_⟩
      rw [Dev.passed_tmb] at hlimit
      simpa using hlimit
    · rintro k y closing dir ⟨j, z, taken, own⟩
      have stays : s.dev.windowOut.closeRun = s.dev.windowOut :=
        Dev.closeRun_stays (Dev.passes_none_of_closing closing)
          (Dev.keepable_none_of_taken (d := s.dev.windowOut) closing dir (j := j) taken own)
      rw [stays, (Dev.settle_frame _).2.2.2.1, (Dev.settle_inner _).1]
      exact ⟨recording, closing, rfl, by simp [Dev.windowOut, Dev.expireWindow, Dev.attnOff, Dev.setIct, Dev.deadlines], rfl⟩
    · have expired : s.dev.keepsAllBut [.ict, .arc, .drm, .hiu, .tmb, .ntu] s.dev.windowOut := by
        intro b hb
        cases b <;> simp [Part.agrees, Dev.expireWindow, Dev.attnOff, Dev.setIct, Dev.deadlines] at hb ⊢
      exact expired.trans ((Dev.closeRun_keepsAllBut _).trans ((Dev.settle_keepsAllBut _).mono (by decide)))
  · let slots := s.dev.openSlots (·.incident == x.number)
    let f := s.dev.limitOut.endAll slots (.truncated .limit)
    have memSlots (j : StreamIdx) : j ∈ slots ↔ ∃ y, s.dev.body j = some y ∧ y.ending = none ∧ y.incident = x.number := by
      simp [slots, Dev.mem_openSlots]
    have rest : f.streamsTo f.closeRun.settle := (Dev.closeRun_streamsTo _).trans (Dev.settle_streamsTo _)
    have flows : f.flowsTo f.closeRun.settle := (Dev.closeRun_flowsTo _).trans (Dev.settle_flowsTo _)
    have bodies (j : StreamIdx) : f.closeRun.settle.body j = f.body j :=
      (Dev.body_settle _ j).trans (Dev.body_closeRun _ j)
    have captures : s.dev.limitOut.capturesTo f.closeRun.settle :=
      (Dev.endAll_capturesTo slots _).trans ((Dev.closeRun_capturesTo _).trans (Dev.settle_capturesTo _))
    obtain ⟨window, limit, attn, expired⟩ := captures.expired
    refine ⟨f.closeRun.settle, ?_, window, limit, attn, expired i, fun j y taken own => ?_, ?_, fun quiet j y taken => ?_,
      fun busy j y taken isOpen own => ?_, fun j y taken isOpen own first => ?_, ?_⟩
    · rw [exec_eq_run]
      refine (State.act_atExpiry_due hpower (slot := (·.limit)) due).trans ?_
      rw [Dev.limitExpires_eq recording stands]
    · refine Dev.endStreams_ended (d := s.dev.limitOut) (p := (·.incident == x.number)) (fun y z passes => ?_) rest taken
        (beq_iff_eq.2 own)
      rw [passes.same]
    · exact ⟨slots, Dev.openSlots_sorted .., memSlots, rfl⟩
    · have calm : s.dev.limitOut.calm := Dev.calm_of_quiet (d := s.dev.limitOut) quiet
      refine ⟨fun isOpen own => ?_, fun other => ?_⟩
      · have mem := (memSlots j).2 ⟨y, taken, isOpen, own⟩
        have distinct : slots.Nodup := Dev.openSlots_nodup ..
        refine ⟨(Dev.endAll_takes (by decide) calm distinct mem taken isOpen).later rest (by decide),
          (Dev.endAll_reports calm distinct mem taken isOpen).later flows, ?_⟩
        have told : f.noticed .streamCut x.number := Dev.endAll_tells calm distinct (List.ne_nil_of_mem mem) memSlots
        exact (Dev.settle_stays _).told _ ((Dev.closeRun_cutStays _).told _ told)
      · have out : j ∉ slots := fun mem => by
          obtain ⟨z, hz, isOpen, own⟩ := (memSlots j).1 mem
          obtain rfl := Option.some.inj (taken.symm.trans hz)
          exact other.elim (fun h => h isOpen) fun h => h own
        exact (bodies j).trans (((Dev.endAll_calm slots calm).1 j out).trans taken)
    · refine (Dev.endAll_endsBy (d := s.dev.limitOut) busy (Dev.openSlots_nodup ..) ((memSlots j).2 ⟨y, taken, isOpen, own⟩)
        taken isOpen).later (bodies j) ?_ rest.grows
      rw [show f.closeRun.settle.stb = f.stb by simp]
      exact List.Subset.refl _
    · obtain ⟨later, hslots⟩ := Dev.openSlots_first (p := (·.incident == x.number)) taken isOpen (beq_iff_eq.2 own)
        fun k z before hz zOpen => beq_eq_false_iff_ne.2 (first k z before hz zOpen)
      have recorded : s.dev.limitOut.records f (cutBody y .limit) 2 evStreamCut := by
        simp only [f, slots, hslots]
        exact Dev.endAll_records later taken isOpen
      exact (recorded.later flows).before rfl rfl
    · have expired : s.dev.keepsAllBut [.ict, .cpm, .stb, .cme, .plm, .arc, .drm, .hiu, .tmb, .ntu] s.dev.limitOut := by
        intro b hb
        cases b <;> simp [Part.agrees, Dev.cancelCapture, Dev.expireWindow, Dev.attnOff, Dev.setIct, Dev.deadlines] at hb ⊢
      exact expired.trans ((Dev.endAll_keepsAllBut slots _).trans (((Dev.closeRun_keepsAllBut _).mono (by decide)).trans
        ((Dev.settle_keepsAllBut _).mono (by decide))))

end Sys2Proof.Machine
end


section
/-! PROOFS. What the endings of streams ask of the array: no read (R62, R177); and the link reset (R40, R177). -/

namespace Sys2Proof.Machine

/-! ### Requests that are no reads -/

/-- The requests that come to wait are of the array's own clients, not reads of the ports. -/
structure Dev.asksTo (d e : Dev) : Prop where
  waiting : ∃ l, e.arc.waiting = d.arc.waiting ++ l ∧ ∀ r ∈ l, ∀ q, r.who ≠ .rtu q

theorem Dev.asksTo_of_same {d e : Dev} (h : e.arc.waiting = d.arc.waiting) : d.asksTo e :=
  ⟨[], by rw [h, List.append_nil], nofun⟩

theorem Dev.asksTo_rfl (d : Dev) : d.asksTo d := Dev.asksTo_of_same rfl

theorem Dev.asksTo.trans {d e f : Dev} (h : d.asksTo e) (g : e.asksTo f) : d.asksTo f := by
  obtain ⟨l, hl, own⟩ := h.waiting
  obtain ⟨m, hm, own'⟩ := g.waiting
  refine ⟨l ++ m, by rw [hm, hl, List.append_assoc], fun r mem => ?_⟩
  rcases List.mem_append.1 mem with mem | mem
  · exact own r mem
  · exact own' r mem

theorem Dev.asksTo.after {d e f : Dev} (g : e.asksTo f) (h : e.arc.waiting = d.arc.waiting) : d.asksTo f :=
  (Dev.asksTo_of_same h).trans g

theorem Dev.place_asksTo (d : Dev) {who : Requester} (own : ∀ q, who ≠ .rtu q) (job : Job) : d.asksTo (d.place who job) :=
  ⟨[⟨who, job⟩], rfl, fun r mem q => by rw [List.mem_singleton.1 mem]; exact own q⟩

/-- A port's read that does not wait does not come to wait. -/
theorem Dev.asksTo.noReads {d e : Dev} (h : d.asksTo e) {q : Port} (none : ∀ r ∈ d.arc.waiting, r.who ≠ .rtu q) :
    ∀ r ∈ e.arc.waiting, r.who ≠ .rtu q := fun r mem => by
  obtain ⟨l, hl, own⟩ := h.waiting
  rw [hl] at mem
  rcases List.mem_append.1 mem with mem | mem
  · exact none r mem
  · exact own r mem q

section
variable (d : Dev)

theorem Dev.prepare_asksTo (k : RingIdx) : d.asksTo (d.prepare k) :=
  (Dev.place_asksTo _ (by simp) _).after rfl

theorem Dev.prepTest_asksTo : d.asksTo d.prepTest := by
  unfold Dev.prepTest
  split
  · exact d.asksTo_rfl
  · split
    · exact d.prepare_asksTo _
    · split
      · split
        · exact d.prepare_asksTo _
        · exact d.asksTo_rfl
      · exact d.asksTo_rfl

theorem Dev.haltTest_asksTo : d.asksTo d.haltTest := by
  unfold Dev.haltTest
  dsimp only
  split <;> exact Dev.asksTo_of_same rfl

theorem Dev.ringAdvance_asksTo (k : RingIdx) : d.asksTo (d.ringAdvance k) := by
  unfold Dev.ringAdvance
  refine Dev.asksTo.trans ?_ (Dev.prepTest_asksTo _)
  split
  · split
    · exact (Dev.haltTest_asksTo _).after rfl
    · exact Dev.asksTo_of_same rfl
  · exact Dev.asksTo_of_same rfl

theorem Dev.pageAdvance_asksTo : d.asksTo d.pageAdvance := by
  unfold Dev.pageAdvance
  split
  · exact d.asksTo_rfl
  · split
    · exact d.ringAdvance_asksTo _
    · exact Dev.asksTo_of_same rfl

theorem Dev.moveOnce_asksTo {d e : Dev} (h : d.moveOnce = some e) : d.asksTo e := by
  unfold Dev.moveOnce at h
  split at h
  · cases h
  next x rest _ =>
    have stage : d.asksTo (d.stageHead x rest) := Dev.asksTo_of_same (by simp)
    split at h
    · split at h <;> cases h
      exact stage
    · split at h
      · cases h
      · split at h
        · cases h
          exact stage
        · cases h
          split
          · exact (Dev.pageAdvance_asksTo _).after rfl
          · exact Dev.asksTo_of_same rfl

theorem Dev.moveLoop_asksTo : ∀ (n : Nat) (d : Dev), d.asksTo (d.moveLoop n)
  | 0, d => d.asksTo_rfl
  | n + 1, d => by
    unfold Dev.moveLoop
    split
    next e moved => exact (Dev.moveOnce_asksTo moved).trans (Dev.moveLoop_asksTo n e)
    · exact d.asksTo_rfl

theorem Dev.offerSeq_asksTo (body : HBody) (severity : Nat) (source : Source) (code : Nat) :
    d.asksTo (d.offerSeq body severity source code).dev := by
  unfold Dev.offerSeq
  split
  · exact (Dev.moveLoop_asksTo _ _).after rfl
  · exact Dev.asksTo_of_same rfl

theorem Dev.event_asksTo (code severity : Nat) (body : HBody) : d.asksTo (d.event code severity body) :=
  d.offerSeq_asksTo ..

theorem Dev.settle_asksTo : d.asksTo d.settle := by
  obtain ⟨l, hl, own⟩ := d.drmWrite_waiting
  obtain ⟨m, hm, own'⟩ := d.drmWrite.hiuWrite_waiting
  refine ⟨l ++ m, by rw [Dev.settle_waiting, hm, hl, List.append_assoc], fun r mem q => ?_⟩
  rcases List.mem_append.1 mem with mem | mem
  · rcases own r mem with who | who <;> simp [who]
  · simp [own' r mem]

theorem Dev.tryPass_asksTo : d.asksTo d.tryPass := Dev.asksTo_of_same (by simp)

theorem Dev.waitCapture_asksTo (w : CapWaiter) : d.asksTo (d.waitCapture w) := by
  unfold Dev.waitCapture
  split <;> exact Dev.asksTo_of_same rfl

theorem Dev.keep_asksTo (k : DirSlot) (r : Incident) : d.asksTo (d.keep k r) := by
  have shown (e : Dev) : e.showInd.arc.waiting = e.arc.waiting := by simp
  exact Dev.asksTo.after (Dev.asksTo.trans (Dev.event_asksTo (Dev.setIct (Dev.showInd (Dev.modSlot (Dev.queueEntry d
    (.incidentClose r.number (some r.closeCompleteness) r.overflow)) k fun r' =>
      { r' with state := .kept, completeness := some r.closeCompleteness })) fun x => { x with closing := none }) _ _ _)
    (Dev.asksTo_of_same rfl)) (shown _)

theorem Dev.tryKeep_asksTo : d.asksTo d.tryKeep := by
  rcases d.tryKeep_cases with stays | waits | ⟨k, r, -, keeps⟩
  · rw [stays]
    exact d.asksTo_rfl
  · rw [waits]
    exact d.waitCapture_asksTo _
  · rw [keeps]
    exact d.keep_asksTo k r

theorem Dev.closeRun_asksTo : d.asksTo d.closeRun :=
  d.tryPass_asksTo.trans ((Dev.tryKeep_asksTo _).trans ((Dev.tryPass_asksTo _).trans (Dev.tryKeep_asksTo _)))

theorem Dev.reportCut_asksTo (x : StreamBody) (r : Reason) : d.asksTo (d.reportCut x r) :=
  (d.event_asksTo ..).trans (Dev.asksTo_of_same rfl)

theorem Dev.reportEnd_asksTo (x : StreamBody) (k : PendingEnd) : d.asksTo (d.reportEnd x k) := by
  unfold Dev.reportEnd
  split
  · exact d.reportCut_asksTo ..
  · exact d.asksTo_rfl

theorem Dev.tryRelease_asksTo (i : StreamIdx) : d.asksTo (d.tryRelease i) := by
  refine Dev.asksTo.trans (e := d.releaseKeeping i) ?_ (Dev.closeRun_asksTo _)
  rcases d.releaseKeeping_cases i with stays | waits | ⟨x, k, -, -, releases⟩
  · rw [stays]
    exact d.asksTo_rfl
  · rw [waits]
    exact d.waitCapture_asksTo _
  · rw [releases]
    exact (Dev.tryKeep_asksTo _).after (by simp)

theorem Dev.cutDiscard_asksTo (i : StreamIdx) (r : Reason) : d.asksTo (d.cutDiscard i r) := by
  unfold Dev.cutDiscard
  split
  next b _ =>
    exact ((Dev.reportCut_asksTo _ b r).trans ((Dev.closeRun_asksTo _).trans (Dev.tryRelease_asksTo _ i))).after (by simp)
  · exact d.asksTo_rfl

theorem Dev.commitOn_asksTo (b : Block) (p : PageAddr) (retry : Nat) : d.asksTo (d.commitOn b p retry) :=
  (Dev.place_asksTo _ (by simp) _).after rfl

theorem Dev.cmeOnce_asksTo : d.asksTo d.cmeOnce := by
  unfold Dev.cmeOnce
  split
  · exact d.asksTo_rfl
  · split
    next p e given =>
      obtain ⟨-, -, -, -, -, -, -, arc, -⟩ := Dev.givePage_frame given
      exact (Dev.commitOn_asksTo _ _ _ _).after (congrArg Arc.waiting arc)
    · exact d.cutDiscard_asksTo ..

theorem Dev.cmeLoop_asksTo : ∀ (n : Nat) (d : Dev), d.asksTo (Dev.cmeLoop n d)
  | 0, d => d.asksTo_rfl
  | n + 1, d => by
    unfold Dev.cmeLoop
    split
    · exact d.cmeOnce_asksTo.trans (Dev.cmeLoop_asksTo n _)
    · exact d.asksTo_rfl

theorem Dev.endStream_asksTo (i : StreamIdx) (k : PendingEnd) : d.asksTo (d.endStream i k) := by
  by_cases isOpen : ∃ x, d.body i = some x ∧ x.ending = none
  · obtain ⟨x, taken, isOpen⟩ := isOpen
    rw [Dev.endStream_open taken isOpen]
    exact ((Dev.reportEnd_asksTo _ x k).trans ((Dev.closeRun_asksTo _).trans
      ((Dev.cmeLoop_asksTo _ _).trans (Dev.tryRelease_asksTo _ i)))).after (by simp)
  · rw [Dev.endStream_not_open fun x taken ends => isOpen ⟨x, taken, ends⟩]
    exact d.asksTo_rfl

theorem Dev.endAll_asksTo {k : PendingEnd} : ∀ (slots : List StreamIdx) (d : Dev), d.asksTo (d.endAll slots k)
  | [], d => d.asksTo_rfl
  | i :: slots, d => (d.endStream_asksTo i k).trans (Dev.endAll_asksTo slots _)

end

/-! ### The link reset -/

theorem exec_linkReset {s : State} (hpower : s.powered = true) (p : Port) :
    exec (.linkReset p) s = .next { s with dev := s.dev.linkReset p } := State.act_of_powered hpower (·.linkReset p)

/-- The port at its reset values, its line let go. -/
def Dev.portReset (d : Dev) (p : Port) : Dev :=
  { d with pif := { (d.setPort p ⟨.empty, [], 0, (d.port p).sent⟩).pif with
      svcHunting := d.pif.svcHunting || p == .svc
      svcOut := if p = .svc then none else d.pif.svcOut } }

theorem Dev.linkReset_eq (d : Dev) (p : Port) : d.linkReset p =
    (((d.portReset p).forgetPort p).endAll (d.openSlots (·.owner == p)) .abandoned).settle := by
  have port : (if p = .svc then ({ d.setPort p { PortState.reset with sent := (d.port p).sent } with
      pif := { (d.setPort p { PortState.reset with sent := (d.port p).sent }).pif with
        svcHunting := true, svcOut := none } } : Dev)
      else d.setPort p { PortState.reset with sent := (d.port p).sent }) = d.portReset p := by
    by_cases svc : p = .svc
    · subst svc
      simp [Dev.portReset, PortState.reset, Dev.setPort]
    · rw [if_neg svc]
      simp [Dev.portReset, PortState.reset, svc, Dev.setPort]
  unfold Dev.linkReset
  dsimp only
  rw [port]
  rfl

section
variable (d : Dev) (p : Port)

theorem Dev.forgetPort_cursor (q : Port) :
    (d.forgetPort p).cursor q = if Port.idx p = Port.idx q then .empty else d.cursor q :=
  get_put ..

theorem Dev.forgetPort_job (q : Port) :
    (d.forgetPort p).job q = if Port.idx p = Port.idx q then none else d.job q :=
  get_put ..

theorem Dev.forgetPort_noReads : ∀ r ∈ (d.forgetPort p).arc.waiting, r.who ≠ .rtu p := fun r mem => by
  have mem' : r ∈ d.arc.waiting.filter (·.who != .rtu p) := mem
  exact bne_iff_ne.1 (List.mem_filter.1 mem').2

theorem Dev.forgetPort_waiters : ∀ w ∈ (d.forgetPort p).drm.captureWaiters, w.opensFor p = false := fun w mem => by
  have mem' : w ∈ d.drm.captureWaiters.filter (!·.opensFor p) := mem
  simpa using (List.mem_filter.1 mem').2

theorem unmark_ne (x : Option Port) : unmark p x ≠ some p := by
  simp [unmark]

theorem Dev.forgetPort_opening {o : Opening} (h : (d.forgetPort p).ict.opening = some o) :
    o.port ≠ some p ∧ ∀ j ∈ o.joined, j.port ≠ some p := by
  obtain ⟨o', -, rfl⟩ := Option.map_eq_some_iff.1 (show d.ict.opening.map _ = some o from h)
  refine ⟨unmark_ne p _, fun j mem => ?_⟩
  obtain ⟨j', -, rfl⟩ := List.mem_map.1 mem
  exact unmark_ne p _

theorem Dev.forgetPort_saves : ∀ x ∈ (d.forgetPort p).sst.saves, x.port ≠ some p := fun x mem => by
  obtain ⟨x', -, rfl⟩ := List.mem_map.1 (show x ∈ d.sst.saves.map _ from mem)
  exact unmark_ne p _

end

/-- Settles O40: the port is forgotten, and its OPEN streams end ABANDONED in slot order. -/
theorem linkReset : Obligations.LinkReset := by
  intro p s hpower
  let f := (s.dev.portReset p).forgetPort p
  let slots := s.dev.openSlots (·.owner == p)
  let g := f.endAll slots .abandoned
  have memSlots (i : StreamIdx) : i ∈ slots ↔ ∃ x, s.dev.body i = some x ∧ x.ending = none ∧ x.owner = p := by
    simp [slots, Dev.mem_openSlots]
  have kept : f.keepsAllBut [.ict, .cpm, .stb, .cme, .plm, .arc, .drm, .hiu, .tmb, .ntu] g.settle :=
    (Dev.endAll_keepsAllBut slots f).trans ((Dev.settle_keepsAllBut _).mono (by decide))
  have pif : g.settle.pif = f.pif := kept .pif (by decide)
  have rtu : g.settle.rtu = f.rtu := kept .rtu (by decide)
  have sst : g.settle.sst = f.sst := kept .sst (by decide)
  have streams : f.streamsTo g.settle := (Dev.endAll_streamsTo slots f).trans (Dev.settle_streamsTo _)
  have captures : f.capturesTo g.settle := (Dev.endAll_capturesTo slots f).trans (Dev.settle_capturesTo _)
  have asks : f.asksTo g.settle := (Dev.endAll_asksTo slots f).trans (Dev.settle_asksTo _)
  have bodies (i : StreamIdx) : g.settle.body i = g.body i := Dev.body_settle g i
  have cursors (q : Port) : g.settle.cursor q = f.cursor q := by rw [Dev.cursor, rtu]; rfl
  have jobs (q : Port) : g.settle.job q = f.job q := by rw [Dev.job, rtu]; rfl
  have out {i : StreamIdx} {x : StreamBody} (taken : s.dev.body i = some x) (h : x.owner ≠ p ∨ x.ending ≠ none) :
      i ∉ slots := fun mem => by
    obtain ⟨y, hy, isOpen, own⟩ := (memSlots i).1 mem
    obtain rfl := Option.some.inj (taken.symm.trans hy)
    exact h.elim (fun h => h own) fun h => h isOpen
  refine ⟨g.settle, ?_, pif, ?_, ?_, asks.noReads (Dev.forgetPort_noReads _ p), fun q other => ⟨?_, ?_⟩,
    fun cls label declared mem => ?_, fun o ho => ?_, ?_, fun busy i x taken other => ?_, fun i x taken own => ?_,
    fun quiet i x taken => ⟨fun own isOpen => ?_, fun other => ?_⟩, fun busy i x taken own isOpen => ?_, ?_⟩
  · rw [exec_linkReset hpower, Dev.linkReset_eq]
  · rw [cursors]
    exact (Dev.forgetPort_cursor _ p p).trans (if_pos rfl)
  · rw [jobs]
    exact (Dev.forgetPort_job _ p p).trans (if_pos rfl)
  · rw [cursors]
    exact (Dev.forgetPort_cursor _ p q).trans (if_neg fun same => other (Port.idx_inj same).symm)
  · rw [jobs]
    exact (Dev.forgetPort_job _ p q).trans (if_neg fun same => other (Port.idx_inj same).symm)
  · obtain ⟨l, hl, own⟩ := streams.grows.waiters
    rw [hl] at mem
    have opens : CapWaiter.opensFor p (.openStream p cls label declared) = false := by
      rcases List.mem_append.1 mem with mem | mem
      · exact Dev.forgetPort_waiters _ p _ mem
      · exact own _ mem p
    simp [CapWaiter.opensFor] at opens
  · exact Dev.forgetPort_opening _ p (captures.opening.symm.trans ho)
  · rw [sst]
    exact Dev.forgetPort_saves _ p
  · exact (bodies i).trans (((Dev.endAll_calm (d := f) slots (.inl busy)).1 i (out taken (.inl other))).trans taken)
  · refine Dev.endStreams_ended (d := f) (p := (·.owner == p)) (fun y z passes => ?_) (Dev.settle_streamsTo _) taken
      (beq_iff_eq.2 own)
    rw [passes.same]
  · have mem := (memSlots i).2 ⟨x, taken, isOpen, own⟩
    exact (Dev.endAll_takes (d := f) (by decide) (Dev.calm_of_quiet (d := f) quiet) (Dev.openSlots_nodup ..) mem taken
      isOpen).later (Dev.settle_streamsTo _) (by decide)
  · exact (bodies i).trans (((Dev.endAll_calm slots (Dev.calm_of_quiet (d := f) quiet)).1 i (out taken other)).trans taken)
  · refine (Dev.endAll_endsBy (d := f) busy (Dev.openSlots_nodup ..) ((memSlots i).2 ⟨x, taken, isOpen, own⟩) taken
      isOpen).later (bodies i) ?_ (Dev.settle_grows _)
    rw [(Dev.settle_frame _).2.2.2.2.2.1]
    exact List.Subset.refl _
  · have forgot : s.dev.keepsAllBut [.pif, .ict, .arc, .drm, .rtu, .sst] f := by
      intro b hb
      cases b <;> simp at hb <;> rfl
    exact (forgot.mono (by decide)).trans (kept.mono (by decide))

end Sys2Proof.Machine
end


section
/-! PROOFS. The beginning of the closing phase (R17, R43, R80, R133, R134). -/

namespace Sys2Proof.Machine

/-! ### The slots that are taken -/

theorem Dev.mem_takenSlots {d : Dev} {i : StreamIdx} : i ∈ d.takenSlots ↔ ∃ x, d.body i = some x := by
  simp [Dev.takenSlots, Option.isSome_iff_exists]

theorem Dev.takenSlots_nodup (d : Dev) : d.takenSlots.Nodup := (List.nodup_finRange 16).filter _

/-! ### The three passes of CPM -/

/-- A stream as the closing phase cuts it: an OPEN one is TRUNCATED with reason POWER, another keeps its kind. -/
def StreamBody.powerKind (x : StreamBody) : PendingEnd := x.ending.getD (.truncated .power)

/-- Every OPEN stream is cut. -/
def Dev.cutAll (d : Dev) : Dev := (d.openSlots fun _ => true).foldl Dev.cutClosing d

/-- Every queued and every fill block is discarded. -/
def Dev.discardAll (d : Dev) : Dev := d.takenSlots.foldl Dev.discardBlocks d

/-- Each slot then empty is released. -/
def Dev.releaseAll (d : Dev) : Dev := d.takenSlots.foldl Dev.releaseKeeping d

theorem Dev.cpmClosing_eq (d : Dev) : d.cpmClosing = d.cutAll.discardAll.releaseAll := rfl

section
variable (d : Dev)

theorem Dev.cutClosing_taken {d : Dev} {i : StreamIdx} {x : StreamBody} (taken : d.body i = some x) : d.cutClosing i =
    (d.modBody i fun b => { b with ending := some (.truncated .power) }).reportCut x .power := by
  simp only [Dev.cutClosing, taken]

theorem Dev.body_cutClosing (i j : StreamIdx) : (d.cutClosing i).body j =
    if i = j then (d.body j).map fun b => { b with ending := some (.truncated .power) } else d.body j := by
  cases taken : d.body i with
  | none =>
    simp only [Dev.cutClosing, taken]
    split
    next same =>
      subst same
      rw [taken]
      rfl
    · rfl
  | some x => rw [Dev.cutClosing_taken taken, Dev.body_reportCut, Dev.body_modBody]

/-- What the cuts of some slots leave. -/
theorem Dev.body_cutSlots (slots : List StreamIdx) (distinct : slots.Nodup) (j : StreamIdx) :
    (slots.foldl Dev.cutClosing d).body j =
      if j ∈ slots then (d.body j).map fun b => { b with ending := some (.truncated .power) } else d.body j := by
  induction slots generalizing d with
  | nil => rfl
  | cons i slots ih =>
    obtain ⟨fresh, distinct⟩ := List.nodup_cons.1 distinct
    rw [List.foldl_cons, ih _ distinct, Dev.body_cutClosing]
    by_cases same : i = j
    · subst same
      simp [fresh]
    · simp [same, Ne.symm same]

theorem Dev.body_cutAll (j : StreamIdx) :
    d.cutAll.body j = (d.body j).map fun b => { b with ending := some b.powerKind } := by
  rw [Dev.cutAll, Dev.body_cutSlots d _ (d.openSlots_nodup _)]
  cases taken : d.body j with
  | none => simp
  | some x =>
    cases ending : x.ending with
    | none =>
      rw [if_pos (Dev.mem_openSlots.2 ⟨x, taken, ending, rfl⟩)]
      simp [StreamBody.powerKind, ending]
    | some k =>
      rw [if_neg fun mem => ?_]
      · have kind : x.powerKind = k := by simp [StreamBody.powerKind, ending]
        rw [Option.map_some, kind, ← ending]
      · obtain ⟨y, hy, isOpen, -⟩ := Dev.mem_openSlots.1 mem
        obtain rfl := Option.some.inj (taken.symm.trans hy)
        exact absurd (isOpen.symm.trans ending) nofun

theorem Dev.cutSlots_flowsTo (slots : List StreamIdx) : d.flowsTo (slots.foldl Dev.cutClosing d) :=
  Dev.flowsTo_foldl _ (fun d i => d.cutClosing_flowsTo i) _ d

/-- Each stream cut is reported. -/
theorem Dev.cutSlots_reports {slots : List StreamIdx} (distinct : slots.Nodup) {i : StreamIdx} {x : StreamBody}
    (mem : i ∈ slots) (taken : d.body i = some x) : (slots.foldl Dev.cutClosing d).reportsCut x .power := by
  induction slots generalizing d with
  | nil => exact absurd mem List.not_mem_nil
  | cons j slots ih =>
    obtain ⟨fresh, distinct⟩ := List.nodup_cons.1 distinct
    by_cases same : i = j
    · subst same
      rw [List.foldl_cons, Dev.cutClosing_taken taken]
      exact (Dev.reportCut_reports _ x .power).later (Dev.cutSlots_flowsTo _ slots)
    · refine ih (d.cutClosing j) distinct ((List.mem_cons.1 mem).resolve_left same) ?_
      rw [Dev.body_cutClosing, if_neg (Ne.symm same), taken]

theorem Dev.cutAll_reports {d : Dev} {i : StreamIdx} {x : StreamBody} (taken : d.body i = some x)
    (isOpen : x.ending = none) : d.cutAll.reportsCut x .power :=
  d.cutSlots_reports (d.openSlots_nodup _) (Dev.mem_openSlots.2 ⟨x, taken, isOpen, rfl⟩) taken

/-- The first of them by the first event. -/
theorem Dev.cutAll_records {d : Dev} {i : StreamIdx} {x : StreamBody} (taken : d.body i = some x)
    (isOpen : x.ending = none) (first : ∀ j y, j < i → d.body j = some y → y.ending ≠ none) :
    d.records d.cutAll (cutBody x .power) 2 evStreamCut := by
  obtain ⟨rest, slots⟩ := Dev.openSlots_first (p := fun _ => true) taken isOpen rfl
    fun j y before hy isOpen' => absurd isOpen' (first j y before hy)
  rw [Dev.cutAll, slots, List.foldl_cons, Dev.cutClosing_taken taken]
  exact ((Dev.reportCut_records _ x .power).later (Dev.cutSlots_flowsTo _ rest)).before rfl rfl

theorem Dev.queue_discardBlocks (i : StreamIdx) :
    (d.discardBlocks i).stb.queue = d.stb.queue.filter (·.slot != i) := rfl

/-- A stream whose blocks are discarded. -/
def Dev.emptied (x : StreamBody) (i : StreamIdx) : StreamBody :=
  { x with fill := none, queued := x.queued - (d.stb.queue.filter (·.slot == i)).length }

/-- What the discards of some slots leave. -/
theorem Dev.discardSlots (slots : List StreamIdx) (distinct : slots.Nodup) :
    (∀ j, (slots.foldl Dev.discardBlocks d).body j =
      if j ∈ slots then (d.body j).map fun b => d.emptied b j else d.body j)
    ∧ (slots.foldl Dev.discardBlocks d).stb.queue = d.stb.queue.filter fun f => f.slot ∉ slots := by
  induction slots generalizing d with
  | nil => exact ⟨fun _ => rfl, by simp⟩
  | cons i slots ih =>
    obtain ⟨fresh, distinct⟩ := List.nodup_cons.1 distinct
    obtain ⟨bodies, queue⟩ := ih (d.discardBlocks i) distinct
    refine ⟨fun j => ?_, ?_⟩
    · rw [List.foldl_cons, bodies, Dev.body_discardBlocks]
      by_cases same : i = j
      · subst same
        simp only [fresh, if_false, if_true, List.mem_cons_self]
        rfl
      · have other : (d.discardBlocks i).stb.queue.filter (·.slot == j) = d.stb.queue.filter (·.slot == j) := by
          rw [Dev.queue_discardBlocks, List.filter_filter]
          refine List.filter_congr fun f _ => ?_
          by_cases slot : f.slot = j
          · simp [slot, Ne.symm same]
          · simp [slot]
        simp only [same, if_false, List.mem_cons, Ne.symm same, false_or, Dev.emptied, other]
    · rw [List.foldl_cons, queue, Dev.queue_discardBlocks, List.filter_filter]
      refine List.filter_congr fun f _ => ?_
      by_cases slot : f.slot = i <;> simp [slot]

theorem Dev.body_discardAll (j : StreamIdx) : d.discardAll.body j = (d.body j).map fun b => d.emptied b j := by
  rw [Dev.discardAll, (d.discardSlots _ d.takenSlots_nodup).1 j]
  split
  · rfl
  next out =>
    cases taken : d.body j with
    | none => rfl
    | some x => exact absurd (Dev.mem_takenSlots.2 ⟨x, taken⟩) out

theorem Dev.queue_discardAll {d : Dev} {i : StreamIdx} {x : StreamBody} (taken : d.body i = some x) :
    ∀ f ∈ d.discardAll.stb.queue, f.slot ≠ i := fun f mem same => by
  rw [Dev.discardAll, (d.discardSlots _ d.takenSlots_nodup).2] at mem
  have out := (List.mem_filter.1 mem).2
  simp only [same, decide_eq_true_eq] at out
  exact out (Dev.mem_takenSlots.2 ⟨x, taken⟩)

end

/-! ### Streams that have left OPEN hold until their release -/

/-- A stream that has left OPEN keeps its slot as it is, or is gone with its STREAM_END queued. -/
structure Dev.holdsTo (d e : Dev) : Prop where
  grows : d.drm.growsTo e.drm
  ended : ∀ i x k, d.body i = some x → x.ending = some k →
    e.body i = some x ∨ (e.body i = none ∧ x.endEntry k ∈ e.drm.queue)
  free : ∀ i, d.body i = none → e.body i = none

theorem Dev.holdsTo_of_cpm {d e : Dev} (grows : d.drm.growsTo e.drm) (cpm : e.cpm = d.cpm) : d.holdsTo e :=
  ⟨grows, fun i _ _ taken _ => .inl ((Dev.body_of_cpm cpm i).trans taken), fun i h => (Dev.body_of_cpm cpm i).trans h⟩

theorem Dev.holdsTo_rfl (d : Dev) : d.holdsTo d := Dev.holdsTo_of_cpm (Drm.growsTo_rfl _) rfl

theorem Dev.holdsTo.trans {d e f : Dev} (h : d.holdsTo e) (g : e.holdsTo f) : d.holdsTo f where
  grows := h.grows.trans g.grows
  ended i x k taken ending := by
    rcases h.ended i x k taken ending with still | ⟨gone, mem⟩
    · exact g.ended i x k still ending
    · exact .inr ⟨g.free i gone, g.grows.queue.subset mem⟩
  free i none := g.free i (h.free i none)

theorem Dev.releaseKeeping_holdsTo (d : Dev) (i : StreamIdx) : d.holdsTo (d.releaseKeeping i) := by
  rcases d.releaseKeeping_cases i with stays | waits | ⟨x, k, taken, drained, releases⟩
  · rw [stays]
    exact d.holdsTo_rfl
  · rw [waits]
    exact Dev.holdsTo_of_cpm (d.waitCapture_grows fun _ => rfl) (d.waitCapture_cpm _)
  · rw [releases]
    refine Dev.holdsTo.trans ⟨d.releaseSlot_grows i x k, fun j y k' hy ending => ?_, fun j free => ?_⟩
      (Dev.holdsTo_of_cpm (Dev.tryKeep_grows _) (Dev.tryKeep_frame _).2.2.2.1)
    · rw [Dev.body_releaseSlot]
      by_cases same : i = j
      · subst same
        obtain rfl := Option.some.inj (taken.symm.trans hy)
        obtain rfl := Option.some.inj ((StreamBody.drained_iff.1 drained).1.symm.trans ending)
        exact .inr ⟨if_pos rfl, by simp [Dev.releaseSlot_queue, StreamBody.endEntry]⟩
      · exact .inl ((if_neg same).trans hy)
    · rw [Dev.body_releaseSlot]
      split
      · rfl
      · exact free

theorem Dev.releaseSlots_holdsTo : ∀ (slots : List StreamIdx) (d : Dev), d.holdsTo (slots.foldl Dev.releaseKeeping d)
  | [], d => d.holdsTo_rfl
  | i :: slots, d => (d.releaseKeeping_holdsTo i).trans (Dev.releaseSlots_holdsTo slots _)

theorem Dev.releaseAll_holdsTo (d : Dev) : d.holdsTo d.releaseAll := Dev.releaseSlots_holdsTo _ d

/-! ### CME and ICT at the beginning -/

section
variable (d : Dev)

/-- The streams are left but for their counts of queued blocks, and these too when CME holds no block. -/
theorem Dev.body_dropUnderProgram (j : StreamIdx) :
    ∃ n : StreamBody → Nat, d.dropUnderProgram.body j = (d.body j).map fun x => { x with queued := n x } := by
  unfold Dev.dropUnderProgram
  split
  next b _ =>
    refine ⟨fun x => if b.slot = j then x.queued - 1 else x.queued, (Dev.body_modBody ..).trans ?_⟩
    by_cases same : b.slot = j
    · simp only [same, if_true]
      rfl
    · simp only [same, if_false]
      exact Option.map_id'.symm
  · exact ⟨(·.queued), Option.map_id'.symm⟩

theorem Dev.dropUnderProgram_none (h : d.cme.block = none) : d.dropUnderProgram = d := by
  simp only [Dev.dropUnderProgram, h]

theorem Dev.dropUnderProgram_queue : d.dropUnderProgram.stb.queue = d.stb.queue := by
  unfold Dev.dropUnderProgram
  split <;> rfl

theorem Dev.body_cmeClosing (j : StreamIdx) :
    ∃ n : StreamBody → Nat, d.cmeClosing.body j = (d.body j).map fun x => { x with queued := n x } := by
  have same (e : Dev) (h : e.body j = d.body j) :
      ∃ n : StreamBody → Nat, e.body j = (d.body j).map fun x => { x with queued := n x } :=
    ⟨(·.queued), h.trans Option.map_id'.symm⟩
  unfold Dev.cmeClosing
  split
  · cases page : (d.withdraw .commit).cme.page with
    | none =>
      dsimp only
      rw [page]
      exact Dev.body_dropUnderProgram (d.withdraw .commit) j
    | some p =>
      dsimp only
      rw [page]
      exact Dev.body_dropUnderProgram ((d.withdraw .commit).setPlm (·.undoPage p)) j
  · exact Dev.body_dropUnderProgram ((d.withdraw .voidMark).setPlm Plm.usedUpTest) j
  · exact same _ rfl
  · exact same _ rfl
  · exact same _ rfl

theorem Dev.cmeClosing_queue : d.cmeClosing.stb.queue = d.stb.queue := by
  unfold Dev.cmeClosing
  split
  · refine (Dev.dropUnderProgram_queue _).trans ?_
    split <;> rfl
  · exact Dev.dropUnderProgram_queue _
  · rfl
  · rfl
  · rfl

/-- A closing phase that finds CME with no block leaves the streams. -/
theorem Dev.body_cmeClosing_none (h : d.cme.block = none) (j : StreamIdx) : d.cmeClosing.body j = d.body j := by
  unfold Dev.cmeClosing
  split
  · dsimp only
    split
    next p _ =>
      exact congrArg (·.body j) (Dev.dropUnderProgram_none ((d.withdraw .commit).setPlm (·.undoPage p)) h)
    · exact congrArg (·.body j) (Dev.dropUnderProgram_none (d.withdraw .commit) h)
  · exact congrArg (·.body j) (Dev.dropUnderProgram_none ((d.withdraw .voidMark).setPlm Plm.usedUpTest) h)
  · rfl
  · rfl
  · rfl

/-- CME then waits for no grant; a program in progress goes on. -/
theorem Dev.cmeClosing_cme : d.cmeClosing.cme.state ≠ .waitGrant ∧ d.cmeClosing.cme.state ≠ .voidWait
    ∧ (d.cme.state = .programming ∨ d.cme.state = .voiding → d.cmeClosing.cme = { d.cme with dropping := true }) := by
  unfold Dev.cmeClosing
  cases state : d.cme.state with
  | waitGrant => exact ⟨nofun, nofun, by simp⟩
  | voidWait => exact ⟨nofun, nofun, by simp⟩
  | programming => exact ⟨by simp [Dev.setCme, state], by simp [Dev.setCme, state], fun _ => rfl⟩
  | voiding => exact ⟨by simp [Dev.setCme, state], by simp [Dev.setCme, state], fun _ => rfl⟩
  | idle => exact ⟨by simp [state], by simp [state], by simp⟩

theorem Dev.cmeClosing_grows : d.drm.growsTo d.cmeClosing.drm := Drm.growsTo_of_eq (by simp) (by simp)

theorem Dev.ictClosing_eq (h : d.ict.recording = none) : d.ictClosing = d := by
  simp [Dev.ictClosing, h]

end

/-! ### The closing phase, part by part -/

section
variable (d : Dev) (c : ClosingCause)

/-- The state in which CPM makes its passes. -/
def Dev.closingStart : Dev :=
  ((d.setHum fun h => { h with closing := some c }).deadlines fun t => { t with holdup := none }).cmeClosing.ictClosing

/-- The state in which CLOSING_PHASE is offered. -/
def Dev.closingEnd : Dev := (d.closingStart c).cpmClosing.closeRun

theorem Dev.beginClosing_eq : d.beginClosing c = ((d.closingEnd c).markedEvent evClosingPhase 1
    (f1 ((d.closingEnd c).creditBytes ++ leBytes 1 (ClosingCause.code c)))).dev := rfl

theorem Dev.body_closingStart (j : StreamIdx) :
    ∃ n : StreamBody → Nat, (d.closingStart c).body j = (d.body j).map fun x => { x with queued := n x } := by
  obtain ⟨n, bodies⟩ := Dev.body_cmeClosing
    ((d.setHum fun h => { h with closing := some c }).deadlines fun t => { t with holdup := none }) j
  exact ⟨n, (Dev.body_of_cpm (by simp [Dev.closingStart]) j).trans bodies⟩

theorem Dev.ictClosing_deadlines : d.ictClosing.tmb.deadlines.holdup = d.tmb.deadlines.holdup
    ∧ d.ictClosing.tmb.deadlines.recharge = d.tmb.deadlines.recharge ∧ d.ictClosing.ict.closing = d.ict.closing
    ∧ d.ictClosing.ict.opening = d.ict.opening ∧ d.ictClosing.ict.recording = d.ict.recording := by
  unfold Dev.ictClosing
  split <;> exact ⟨rfl, rfl, rfl, rfl, rfl⟩

/-- What the start of the closing phase leaves. -/
theorem Dev.closingStart_frame : (d.closingStart c).hum = { d.hum with closing := some c }
    ∧ (d.closingStart c).hiu = d.hiu ∧ (d.closingStart c).ntu = d.ntu ∧ (d.closingStart c).drm = d.drm
    ∧ (d.closingStart c).tmb.tick = d.tmb.tick ∧ (d.closingStart c).stb.queue = d.stb.queue := by
  unfold Dev.closingStart
  refine ⟨by simp [Dev.setHum, Dev.deadlines], by simp [Dev.setHum, Dev.deadlines], by simp [Dev.setHum, Dev.deadlines],
    by simp [Dev.setHum, Dev.deadlines], by simp [Dev.setHum, Dev.deadlines], ?_⟩
  rw [(Dev.ictClosing_frame _).2.2.2.2.1]
  exact Dev.cmeClosing_queue _

theorem Dev.closingStart_ict : (d.closingStart c).ict.closing = d.ict.closing
    ∧ (d.closingStart c).ict.recording = d.ict.recording ∧ (d.closingStart c).tmb.deadlines.holdup = none
    ∧ (d.closingStart c).tmb.deadlines.recharge = d.tmb.deadlines.recharge
    ∧ (d.closingStart c).ict.opening = d.ict.opening := by
  obtain ⟨holdup, recharge, closing, opening, recording⟩ := Dev.ictClosing_deadlines
    ((d.setHum fun h => { h with closing := some c }).deadlines fun t => { t with holdup := none }).cmeClosing
  have tmb := (Dev.cmeClosing_frame
    ((d.setHum fun h => { h with closing := some c }).deadlines fun t => { t with holdup := none })).2.2.2.2.2.2.2.1
  have ict := (Dev.cmeClosing_frame
    ((d.setHum fun h => { h with closing := some c }).deadlines fun t => { t with holdup := none })).2.2.2.1
  rw [tmb] at holdup recharge
  rw [ict] at closing opening recording
  exact ⟨closing, recording, holdup, recharge, opening⟩

/-- CPM's passes over what is left of each stream. -/
theorem Dev.body_passes (d : Dev) (j : StreamIdx) : d.cutAll.discardAll.body j =
    (d.body j).map fun x => d.cutAll.emptied { x with ending := some x.powerKind } j := by
  rw [Dev.body_discardAll, Dev.body_cutAll, Option.map_map]
  rfl

theorem Dev.closing_body {d : Dev} {i : StreamIdx} {x : StreamBody} (taken : d.body i = some x) :
    ∃ m, (d.closingStart c).cutAll.discardAll.body i
      = some { x with ending := some x.powerKind, fill := none, queued := m } := by
  obtain ⟨n, start⟩ := d.body_closingStart c i
  rw [Dev.body_passes, start, taken]
  exact ⟨_, rfl⟩

theorem Dev.cutAll_drm : d.cutAll.drm = d.drm := by
  suffices ∀ (slots : List StreamIdx) (d : Dev), (slots.foldl Dev.cutClosing d).drm = d.drm from this _ d
  intro slots
  induction slots with
  | nil => exact fun _ => rfl
  | cons i slots ih => exact fun d => (ih _).trans (by simp)

theorem Dev.discardAll_frame : d.discardAll.drm = d.drm ∧ d.discardAll.ict = d.ict := by
  suffices ∀ (slots : List StreamIdx) (d : Dev), (slots.foldl Dev.discardBlocks d).drm = d.drm
      ∧ (slots.foldl Dev.discardBlocks d).ict = d.ict from this _ d
  intro slots
  induction slots with
  | nil => exact fun _ => ⟨rfl, rfl⟩
  | cons i slots ih =>
    intro d
    obtain ⟨drm, ict⟩ := ih (d.discardBlocks i)
    exact ⟨drm.trans (by simp), ict.trans (by simp)⟩

theorem Dev.cutAll_frame : d.cutAll.ict = d.ict ∧ d.cutAll.stb = d.stb := by
  suffices ∀ (slots : List StreamIdx) (d : Dev), (slots.foldl Dev.cutClosing d).ict = d.ict
      ∧ (slots.foldl Dev.cutClosing d).stb = d.stb from this _ d
  intro slots
  induction slots with
  | nil => exact fun _ => ⟨rfl, rfl⟩
  | cons i slots ih =>
    intro d
    obtain ⟨ict, stb⟩ := ih (d.cutClosing i)
    exact ⟨ict.trans (by simp), stb.trans (by simp)⟩

theorem Dev.releaseSlots_frame (slots : List StreamIdx) (d : Dev) :
    (slots.foldl Dev.releaseKeeping d).stb = d.stb := by
  induction slots generalizing d with
  | nil => rfl
  | cons i slots ih => exact (ih _).trans (by simp)

theorem Dev.markedEvent_holdsTo (code severity : Nat) (body : HBody) :
    d.holdsTo (d.markedEvent code severity body).dev :=
  Dev.holdsTo_of_cpm (Drm.growsTo_of_eq (by simp) (by simp)) (by simp)

/-- From CPM's passes on every stream holds until its release. -/
theorem Dev.closing_holdsTo : (d.closingStart c).cutAll.discardAll.holdsTo (d.beginClosing c) :=
  (Dev.releaseAll_holdsTo _).trans
    ((Dev.holdsTo_of_cpm (Dev.closeRun_grows _) (by simp)).trans (Dev.markedEvent_holdsTo _ _ _ _))

theorem Dev.closing_grows : d.drm.growsTo (d.beginClosing c).drm := by
  have same : (d.closingStart c).cutAll.discardAll.drm = d.drm := by
    rw [(Dev.discardAll_frame _).1, Dev.cutAll_drm, (d.closingStart_frame c).2.2.2.1]
  have grows := (d.closing_holdsTo c).grows
  rwa [same] at grows

theorem Dev.closing_flowsTo : (d.closingStart c).cutAll.flowsTo (d.beginClosing c) :=
  (Dev.flowsTo_foldl _ Dev.discardBlocks_flowsTo _ _).trans ((Dev.flowsTo_foldl _ Dev.releaseKeeping_flowsTo _ _).trans
    ((Dev.closeRun_flowsTo _).trans (Dev.markedEvent_flowsTo _ _ _ _)))

/-! ### What the closing phase gives -/

/-- Each stream takes its end, with no block held. -/
theorem Dev.closing_takes {d : Dev} {i : StreamIdx} {x : StreamBody} (taken : d.body i = some x) :
    (d.beginClosing c).takesEnd i x x.powerKind := by
  obtain ⟨m, stands⟩ := Dev.closing_body c taken
  rcases (d.closing_holdsTo c).ended i _ _ stands rfl with still | gone
  · exact .inl ⟨m, still⟩
  · exact .inr gone

theorem Dev.closing_ended {d : Dev} {i : StreamIdx} {x : StreamBody} (h : (d.beginClosing c).body i = some x) :
    x.ending ≠ none ∧ x.fill = none := by
  cases taken : d.body i with
  | none =>
    obtain ⟨n, start⟩ := d.body_closingStart c i
    have gone : (d.closingStart c).cutAll.discardAll.body i = none := by
      rw [Dev.body_passes, start, taken]
      rfl
    exact absurd (((d.closing_holdsTo c).free i gone).symm.trans h) nofun
  | some y =>
    obtain ⟨m, stands⟩ := Dev.closing_body c taken
    rcases (d.closing_holdsTo c).ended i _ _ stands rfl with still | ⟨gone, -⟩
    · rw [← Option.some.inj (still.symm.trans h)]
      exact ⟨nofun, rfl⟩
    · exact absurd (gone.symm.trans h) nofun

/-- No block of a slot that was taken stands on the commit queue. -/
theorem Dev.closing_queue {d : Dev} {i : StreamIdx} {x : StreamBody} (taken : d.body i = some x) :
    ∀ f ∈ (d.beginClosing c).stb.queue, f.slot ≠ i := by
  have stb : (d.beginClosing c).stb = (d.closingStart c).cutAll.discardAll.stb := by
    rw [Dev.beginClosing_eq, (Dev.markedEvent_frame ..).2.2.2.2.2.1, Dev.closingEnd, (Dev.closeRun_frame _).2.2.2.2.1]
    exact Dev.releaseSlots_frame ..
  obtain ⟨n, start⟩ := d.body_closingStart c i
  rw [stb]
  refine Dev.queue_discardAll (x := { x with queued := n x, ending := some (StreamBody.powerKind { x with queued := n x }) }) ?_
  rw [Dev.body_cutAll, start, taken]
  rfl

theorem Dev.closing_cme : (d.beginClosing c).cme = ((d.setHum fun h => { h with closing := some c }).deadlines fun t =>
    { t with holdup := none }).cmeClosing.cme := by
  rw [Dev.beginClosing_eq, (Dev.markedEvent_frame ..).2.2.2.2.2.2.1, Dev.closingEnd]
  simp [Dev.closingStart]

/-- Each stream that was OPEN is reported, the first by the first event. -/
theorem Dev.closing_reports {d : Dev} {i : StreamIdx} {x : StreamBody} (taken : d.body i = some x)
    (isOpen : x.ending = none) : (d.beginClosing c).reportsCut x .power
      ∧ ((∀ j y, j < i → d.body j = some y → y.ending ≠ none) →
          d.records (d.beginClosing c) (cutBody x .power) 2 evStreamCut) := by
  obtain ⟨n, start⟩ := d.body_closingStart c i
  rw [taken] at start
  refine ⟨(Dev.cutAll_reports start isOpen).later (d.closing_flowsTo c), fun first => ?_⟩
  obtain ⟨-, hiu, -, -, tick, -⟩ := d.closingStart_frame c
  refine ((Dev.cutAll_records start isOpen fun j y before hy => ?_).later (d.closing_flowsTo c)).before hiu tick
  obtain ⟨n', start'⟩ := d.body_closingStart c j
  rw [start'] at hy
  obtain ⟨z, hz, rfl⟩ := Option.map_eq_some_iff.1 hy
  exact first j z before hz

theorem Dev.closing_hum : (d.beginClosing c).hum = { d.hum with closing := some c } := by
  rw [Dev.beginClosing_eq]
  simp [Dev.closingEnd, (d.closingStart_frame c).1]

theorem Dev.markedEvent_records (code severity : Nat) (body : HBody) :
    d.records (d.markedEvent code severity body).dev body severity code :=
  (d.event_records code severity body).later (Dev.markTo_flowsTo _ _)

/-- CLOSING_PHASE is offered with the credits and the cause. -/
theorem Dev.closing_offered : (d.closingEnd c).records (d.beginClosing c)
    (f1 (leBytes 2 d.hum.credits ++ leBytes 1 (ClosingCause.code c))) 1 0x0003 := by
  have credits : (d.closingEnd c).creditBytes = leBytes 2 d.hum.credits := by
    simp [Dev.creditBytes, Dev.closingEnd, (d.closingStart_frame c).1]
  rw [Dev.beginClosing_eq, credits]
  exact Dev.markedEvent_records _ _ _ _

end

end Sys2Proof.Machine
end


section
/-! PROOFS. The expiry of the hold-up deadline (R133), and the release of every stream at once (R43, R47). -/

namespace Sys2Proof.Machine

/-! ### Every empty slot is released while places are free -/

/-- A STREAM_END. -/
def JEntry.isEnd : JEntry → Bool
  | .streamEnd .. => true
  | _ => false

/-- The entries added are those of a list, between others that are no STREAM_END. -/
structure Drm.endsBy (m n : Drm) (ends : List JEntry) : Prop where
  added : ∃ l, n.queue = m.queue ++ l ∧ l.filter JEntry.isEnd = ends

theorem Drm.endsBy.trans {a b c : Drm} {k l : List JEntry} (h : a.endsBy b k) (g : b.endsBy c l) :
    a.endsBy c (k ++ l) := by
  obtain ⟨x, hx, kx⟩ := h.added
  obtain ⟨y, hy, ly⟩ := g.added
  exact ⟨x ++ y, by rw [hy, hx, List.append_assoc], by rw [List.filter_append, kx, ly]⟩

theorem Drm.endsBy_of_queue {m n : Drm} (h : n.queue = m.queue) : m.endsBy n [] := ⟨[], by rw [h, List.append_nil], rfl⟩

theorem Dev.tryPass_endsBy (d : Dev) : d.drm.endsBy d.tryPass.drm [] := by
  rcases d.tryPass_cases with stays | ⟨k, r, -, passes⟩
  · rw [stays]
    exact Drm.endsBy_of_queue rfl
  · rw [passes, Dev.passed_drm]
    exact Drm.endsBy_of_queue rfl

theorem Dev.tryKeep_endsBy (d : Dev) : d.drm.endsBy d.tryKeep.drm [] := by
  rcases d.tryKeep_cases with stays | waits | ⟨k, r, -, keeps⟩
  · rw [stays]
    exact Drm.endsBy_of_queue rfl
  · rw [waits]
    unfold Dev.waitCapture
    split <;> exact Drm.endsBy_of_queue rfl
  · rw [keeps, Dev.keep_drm]
    exact ⟨[_], rfl, rfl⟩

theorem Dev.closeRun_endsBy (d : Dev) : d.drm.endsBy d.closeRun.drm [] :=
  d.tryPass_endsBy.trans ((Dev.tryKeep_endsBy _).trans ((Dev.tryPass_endsBy _).trans (Dev.tryKeep_endsBy _)))

/-- The places that the releases of some slots can take: one for each, and one for the CLOSING incident. -/
def Dev.placesFor (d : Dev) (n : Nat) : Prop :=
  d.drm.captureWaiters = [] ∧ d.drm.queue.length + n + (if d.ict.closing = none then 0 else 1) ≤ 80

theorem Dev.tryKeep_places {d : Dev} {n : Nat} (h : d.placesFor n) : d.tryKeep.placesFor n := by
  obtain ⟨idle, room⟩ := h
  cases keepable : d.keepable with
  | none =>
    rw [Dev.tryKeep_stays keepable]
    exact ⟨idle, room⟩
  | some kr =>
    obtain ⟨k, r⟩ := kr
    have closing := (Dev.keepable_iff.1 keepable).1
    rw [closing, if_neg nofun] at room
    have now : d.drm.capRoom 1 = true := Drm.capRoom_iff.2 ⟨idle, by omega⟩
    rw [Dev.tryKeep_keeps keepable now]
    unfold Dev.placesFor
    rw [Dev.keep_drm, Dev.keep_ict]
    refine ⟨idle, ?_⟩
    simp only [List.length_append, List.length_singleton, if_true]
    omega

/-- A drained slot with a place in the queue is released. -/
theorem Dev.releaseKeeping_now {d : Dev} {i : StreamIdx} {x : StreamBody} {k : PendingEnd} {n : Nat}
    (taken : d.body i = some x) (drained : x.drained = some k) (h : d.placesFor (n + 1)) :
    (d.releaseKeeping i).placesFor n ∧ d.drm.endsBy (d.releaseKeeping i).drm [x.endEntry k]
      ∧ ∀ j, (d.releaseKeeping i).body j = if i = j then none else d.body j := by
  obtain ⟨idle, room⟩ := h
  have now : d.drm.capRoom 1 = true := Drm.capRoom_iff.2 ⟨idle, by omega⟩
  have releases : d.releaseKeeping i = (d.releaseSlot i x k).tryKeep := by
    simp only [Dev.releaseKeeping, taken, drained, now, if_true]
  have places : (d.releaseSlot i x k).placesFor n := by
    refine ⟨by simpa [Dev.releaseSlot] using idle, ?_⟩
    rw [Dev.releaseSlot_queue, (Dev.releaseSlot_frame ..).2.2.2.1]
    simp only [List.length_append, List.length_singleton]
    omega
  have ends : d.drm.endsBy (d.releaseSlot i x k).drm [x.endEntry k] :=
    ⟨[x.endEntry k], d.releaseSlot_queue i x k, rfl⟩
  rw [releases]
  refine ⟨Dev.tryKeep_places places, ends.trans (Dev.tryKeep_endsBy _), fun j => ?_⟩
  rw [Dev.body_of_cpm (Dev.tryKeep_frame _).2.2.2.1, Dev.body_releaseSlot]

/-- What the release of each of some slots queues. -/
def Dev.endEntries (d : Dev) (slots : List StreamIdx) : List JEntry :=
  slots.filterMap fun i => (d.body i).map fun x => x.endEntry x.powerKind

theorem Dev.releaseSlots_now (slots : List StreamIdx) (d : Dev) (distinct : slots.Nodup)
    (drained : ∀ i ∈ slots, ∃ x k, d.body i = some x ∧ x.drained = some k) (places : d.placesFor slots.length) :
    d.drm.endsBy (slots.foldl Dev.releaseKeeping d).drm (d.endEntries slots)
      ∧ ∀ j, (slots.foldl Dev.releaseKeeping d).body j = if j ∈ slots then none else d.body j := by
  induction slots generalizing d with
  | nil => exact ⟨Drm.endsBy_of_queue rfl, fun _ => rfl⟩
  | cons i slots ih =>
    obtain ⟨fresh, distinct⟩ := List.nodup_cons.1 distinct
    obtain ⟨x, k, taken, hk⟩ := drained i List.mem_cons_self
    obtain ⟨places, ends, bodies⟩ := Dev.releaseKeeping_now taken hk places
    have others (j : StreamIdx) (mem : j ∈ slots) : (d.releaseKeeping i).body j = d.body j := by
      have other : i ≠ j := fun same => fresh (same ▸ mem)
      rw [bodies, if_neg other]
    obtain ⟨ends', bodies'⟩ := ih (d.releaseKeeping i) distinct (fun j mem => by
      rw [others j mem]
      exact drained j (List.mem_cons_of_mem _ mem)) places
    have kind : x.powerKind = k := by
      simp [StreamBody.powerKind, (StreamBody.drained_iff.1 hk).1]
    have rest : (d.releaseKeeping i).endEntries slots = d.endEntries slots := by
      unfold Dev.endEntries
      exact List.filterMap_congr fun j mem => by rw [others j mem]
    have head : d.endEntries (i :: slots) = [x.endEntry k] ++ d.endEntries slots := by
      simp [Dev.endEntries, taken, kind]
    refine ⟨?_, fun j => ?_⟩
    · rw [head, ← rest]
      exact ends.trans ends'
    · rw [List.foldl_cons, bodies', bodies]
      by_cases same : i = j
      · simp [same]
      · simp [same, Ne.symm same]

/-! ### The closing phase releases every stream -/

section
variable {d : Dev} (c : ClosingCause)

/-- With CME without a block and each stream's queued blocks on the commit queue, CPM's passes leave every slot
drained. -/
theorem Dev.closing_drained (noBlock : d.cme.block = none)
    (counted : ∀ i x, d.body i = some x → x.queued = (d.stb.queue.filter (·.slot == i)).length) {i : StreamIdx}
    {x : StreamBody} (taken : d.body i = some x) : (d.closingStart c).cutAll.discardAll.body i =
      some { x with ending := some x.powerKind, fill := none, queued := 0 } := by
  have start : (d.closingStart c).body i = d.body i :=
    (Dev.body_of_cpm (by simp [Dev.closingStart]) i).trans (Dev.body_cmeClosing_none ((d.setHum fun h =>
      { h with closing := some c }).deadlines fun t => { t with holdup := none }) noBlock i)
  have queue : (d.closingStart c).cutAll.stb.queue = d.stb.queue := by
    rw [(Dev.cutAll_frame _).2, (d.closingStart_frame c).2.2.2.2.2]
  rw [Dev.body_passes, start, taken, Option.map_some, Dev.emptied, queue]
  simp [counted i x taken]

theorem Dev.takenSlots_length (d : Dev) : d.takenSlots.length ≤ 16 :=
  (List.length_filter_le ..).trans (by simp)

/-- Every stream is then released, its STREAM_END in slot order. -/
theorem Dev.closing_releases (noBlock : d.cme.block = none) (idle : d.drm.captureWaiters = [])
    (short : d.drm.queue.length + 18 ≤ 80)
    (counted : ∀ i x, d.body i = some x → x.queued = (d.stb.queue.filter (·.slot == i)).length) :
    (∀ i, (d.beginClosing c).body i = none)
      ∧ d.drm.endsBy (d.beginClosing c).drm (d.endEntries (List.finRange 16)) := by
  let g := (d.closingStart c).cutAll.discardAll
  have drm : g.drm = d.drm := by
    rw [(Dev.discardAll_frame _).1, Dev.cutAll_drm, (d.closingStart_frame c).2.2.2.1]
  have free {i : StreamIdx} (empty : d.body i = none) : g.body i = none := by
    obtain ⟨n, start⟩ := d.body_closingStart c i
    rw [Dev.body_passes, start, empty]
    rfl
  have drained : ∀ i ∈ g.takenSlots, ∃ x k, g.body i = some x ∧ x.drained = some k := fun i mem => by
    cases taken : d.body i with
    | none =>
      obtain ⟨y, hy⟩ := Dev.mem_takenSlots.1 mem
      exact absurd ((free taken).symm.trans hy) nofun
    | some x =>
      exact ⟨_, x.powerKind, Dev.closing_drained c noBlock counted taken, StreamBody.drained_iff.2 ⟨rfl, rfl, rfl⟩⟩
  have places : g.placesFor g.takenSlots.length := by
    have few := g.takenSlots_length
    refine ⟨drm ▸ idle, ?_⟩
    rw [drm]
    split <;> omega
  obtain ⟨ends, bodies⟩ := Dev.releaseSlots_now _ g g.takenSlots_nodup drained places
  have entries : g.endEntries g.takenSlots = d.endEntries (List.finRange 16) := by
    unfold Dev.endEntries Dev.takenSlots
    rw [List.filterMap_filter]
    refine List.filterMap_congr fun i _ => ?_
    cases taken : d.body i with
    | none => simp [free taken]
    | some x =>
      have now : g.body i = _ := Dev.closing_drained c noBlock counted taken
      simp [now, StreamBody.powerKind, StreamBody.endEntry]
  have last : g.releaseAll.drm.endsBy (d.beginClosing c).drm [] := by
    refine (Dev.closeRun_endsBy _).trans (l := []) (Drm.endsBy_of_queue ?_)
    rw [Dev.beginClosing_eq, (Dev.markedEvent_frame ..).2.2.2.2.2.2.2.2.1]
    rfl
  refine ⟨fun i => ?_, ?_⟩
  · have gone : g.releaseAll.body i = none := by
      rw [Dev.releaseAll, bodies]
      split
      · rfl
      next out =>
        cases taken : g.body i with
        | none => rfl
        | some x => exact absurd (Dev.mem_takenSlots.2 ⟨x, taken⟩) out
    rw [Dev.beginClosing_eq, Dev.body_of_cpm (Dev.markedEvent_frame ..).2.2.2.2.1, Dev.closingEnd, Dev.body_closeRun]
    exact gone
  · rw [← entries, ← List.append_nil (g.endEntries _), ← drm]
    exact ends.trans last

/-- Where there is no stream and no incident under capture, CLOSING_PHASE is the first event. -/
theorem Dev.closing_first (free : ∀ i, d.body i = none) (recording : d.ict.recording = none)
    (closing : d.ict.closing = none) : d.records (d.beginClosing c)
      (f1 (leBytes 2 d.hum.credits ++ leBytes 1 (ClosingCause.code c))) 1 0x0003 := by
  have noneOf {e : Dev} (h : ∀ i, e.body i = none) : e.takenSlots = [] ∧ e.openSlots (fun _ => true) = [] :=
    ⟨List.eq_nil_iff_forall_not_mem.2 fun i mem => by
      obtain ⟨x, hx⟩ := Dev.mem_takenSlots.1 mem
      exact absurd ((h i).symm.trans hx) nofun,
    List.eq_nil_iff_forall_not_mem.2 fun i mem => by
      obtain ⟨x, hx, -⟩ := Dev.mem_openSlots.1 mem
      exact absurd ((h i).symm.trans hx) nofun⟩
  have start (i : StreamIdx) : (d.closingStart c).body i = none := by
    obtain ⟨n, start⟩ := d.body_closingStart c i
    rw [start, free i]
    rfl
  have passes : (d.closingStart c).cpmClosing = d.closingStart c := by
    rw [Dev.cpmClosing_eq, Dev.cutAll, (noneOf start).2, List.foldl_nil, Dev.discardAll, (noneOf start).1, List.foldl_nil,
      Dev.releaseAll, (noneOf start).1, List.foldl_nil]
  have ict := d.closingStart_ict c
  have keepable : (d.closingStart c).keepable = none := by
    cases keepable : (d.closingStart c).keepable with
    | none => rfl
    | some kr => exact absurd ((ict.1.trans closing).symm.trans (Dev.keepable_iff.1 keepable).1) nofun
  have rests : d.closingEnd c = d.closingStart c := by
    rw [Dev.closingEnd, passes, Dev.closeRun_stays (Dev.passes_of_open (ict.2.1.trans recording)) keepable]
  obtain ⟨-, hiu, -, -, tick, -⟩ := d.closingStart_frame c
  have offered := d.closing_offered c
  rw [rests] at offered
  exact offered.before hiu tick

theorem Dev.releaseSlots_capturesTo : ∀ (slots : List StreamIdx) (d : Dev),
    d.capturesTo (slots.foldl Dev.releaseKeeping d)
  | [], d => d.capturesTo_rfl
  | i :: slots, d => (d.releaseKeeping_capturesTo i).trans (Dev.releaseSlots_capturesTo slots _)

theorem Dev.discardSlots_capturesTo : ∀ (slots : List StreamIdx) (d : Dev),
    d.capturesTo (slots.foldl Dev.discardBlocks d)
  | [], d => d.capturesTo_rfl
  | i :: slots, d => (Dev.capturesTo_of_eq (by simp) (by simp)).trans (Dev.discardSlots_capturesTo slots _)

theorem Dev.cutClosing_capturesTo (d : Dev) (i : StreamIdx) : d.capturesTo (d.cutClosing i) := by
  unfold Dev.cutClosing
  split
  · exact (Dev.capturesTo_of_eq (by simp) (by simp)).trans (Dev.reportCut_capturesTo _ _ _)
  · exact d.capturesTo_rfl

theorem Dev.cutSlots_capturesTo : ∀ (slots : List StreamIdx) (d : Dev), d.capturesTo (slots.foldl Dev.cutClosing d)
  | [], d => d.capturesTo_rfl
  | i :: slots, d => (d.cutClosing_capturesTo i).trans (Dev.cutSlots_capturesTo slots _)

theorem Dev.closing_capturesTo (d : Dev) : (d.closingStart c).capturesTo (d.beginClosing c) :=
  (Dev.cutSlots_capturesTo _ _).trans ((Dev.discardSlots_capturesTo _ _).trans ((Dev.releaseSlots_capturesTo _ _).trans
    ((Dev.closeRun_capturesTo _).trans (Dev.capturesTo_of_logsTo (Dev.markedEvent_logsTo ..)))))

theorem Dev.capturesTo.holdup {d e : Dev} (h : d.capturesTo e) :
    e.tmb.deadlines.holdup = d.tmb.deadlines.holdup := by
  rw [h.tmb]

theorem Dev.closing_deadlines (d : Dev) : (d.beginClosing c).tmb.deadlines.holdup = none
    ∧ (d.beginClosing c).tmb.deadlines.recharge = d.tmb.deadlines.recharge := by
  obtain ⟨-, -, holdup, recharge, -⟩ := d.closingStart_ict c
  rw [(d.closing_capturesTo c).tmb]
  exact ⟨holdup, recharge⟩

theorem Dev.beginClosing_keepsAllBut (d : Dev) :
    d.keepsAllBut [.hum, .ict, .cpm, .stb, .cme, .plm, .arc, .drm, .hiu, .tmb, .ntu] (d.beginClosing c) :=
  fun b hb => by cases b <;> simp [Part.agrees] at hb ⊢

end

theorem Dev.holdupExpires_rests {d : Dev} (h : ¬(d.hum.mode = .holdup ∧ d.hum.closing = none)) :
    d.holdupExpires = (d.deadlines fun t => { t with holdup := none }).settle := by
  have rests : (d.hum.mode == .holdup && d.hum.closing.isNone) = false := by
    refine Bool.eq_false_iff.2 fun t => h ?_
    simpa using t
  unfold Dev.holdupExpires Dev.onlyIf
  rw [show (d.hum.mode == .holdup && d.hum.closing.isNone) = false from rests]
  rfl

theorem Dev.holdupExpires_closes {d : Dev} (mode : d.hum.mode = .holdup) (closing : d.hum.closing = none) :
    d.holdupExpires = ((d.deadlines fun t => { t with holdup := none }).beginClosing .deadline).settle := by
  unfold Dev.holdupExpires Dev.onlyIf
  rw [mode, closing]
  rfl

/-- Settles O47: the closing phase, part by part. -/
theorem holdupDeadlineExpires : Obligations.HoldupDeadlineExpires := by
  intro s hpower due
  have expires : exec .holdupDeadlineExpiry s = .next { s with dev := s.dev.holdupExpires } :=
    (exec_eq_run ..).trans (State.act_atExpiry_due hpower (slot := (·.holdup)) due)
  refine ⟨fun mode closing => ?_, fun rests => ?_⟩
  · let d := s.dev.deadlines fun t => { t with holdup := none }
    have hum : (d.beginClosing .deadline).hum = { s.dev.hum with closing := some .deadline } :=
      Dev.closing_hum d .deadline
    have body (i : StreamIdx) : (d.beginClosing .deadline).settle.body i = (d.beginClosing .deadline).body i :=
      Dev.body_settle _ i
    have stb : (d.beginClosing .deadline).settle.stb = (d.beginClosing .deadline).stb :=
      (Dev.settle_frame _).2.2.2.2.2.1
    have cme : (d.beginClosing .deadline).settle.cme = (d.beginClosing .deadline).cme :=
      (Dev.settle_frame _).2.2.2.2.2.2.1
    obtain ⟨noGrant, noVoid, program⟩ := ((d.setHum fun h => { h with closing := some .deadline }).deadlines fun t =>
      { t with holdup := none }).cmeClosing_cme
    rw [← Dev.closing_cme] at noGrant noVoid program
    refine ⟨(d.beginClosing .deadline).settle, ?_, ?_, ?_, fun i x h => ?_, fun i x taken => ?_, ?_, ?_, fun h => ?_,
      fun i x taken => ⟨?_, ?_⟩, fun noBlock idle short counted => ?_, ?_, fun free recording noneClosing => ?_, ?_⟩
    · rw [expires, Dev.holdupExpires_closes mode closing]
    · simpa using hum
    · rw [(Dev.settle_capturesTo _).holdup, (d.closing_deadlines .deadline).1]
    · exact Dev.closing_ended (d := d) .deadline ((body i).symm.trans h)
    · rw [stb]
      exact Dev.closing_queue (d := d) .deadline taken
    · rw [cme]
      exact noGrant
    · rw [cme]
      exact noVoid
    · rw [cme]
      exact program h
    · rcases Dev.closing_takes (d := d) .deadline taken with ⟨n, stands⟩ | ⟨gone, mem⟩
      · exact .inl ⟨n, (body i).trans stands⟩
      · exact .inr ⟨(body i).trans gone, (Dev.settle_grows _).queue.subset mem⟩
    · intro isOpen
      obtain ⟨reports, first⟩ := Dev.closing_reports (d := d) .deadline taken isOpen
      exact ⟨reports.later (Dev.settle_flowsTo _), fun h => ((first h).later (Dev.settle_flowsTo _)).before rfl rfl⟩
    · obtain ⟨gone, ends⟩ := Dev.closing_releases (d := d) .deadline noBlock idle short counted
      refine ⟨fun i => (body i).trans (gone i), ?_⟩
      obtain ⟨l, queue, ended⟩ := ends.added
      refine ⟨l, (Dev.settle_inner _).2.1.trans queue, Eq.trans ?_ ended⟩
      rfl
    · have offered := (Dev.closing_offered d .deadline).later (Dev.settle_flowsTo _)
      cases takes : (d.closingEnd .deadline).hiu.canTake with
      | true => exact .inl ⟨_, offered.1 takes, rfl, rfl, rfl, rfl⟩
      | false => exact .inr (offered.2 takes)
    · exact ((Dev.closing_first (d := d) .deadline free recording noneClosing).later (Dev.settle_flowsTo _)).before rfl rfl
    · have disarmed : s.dev.keepsAllBut [.tmb] d := by
        intro b hb
        cases b <;> simp at hb <;> rfl
      exact (disarmed.mono (by decide)).trans
        ((Dev.beginClosing_keepsAllBut .deadline d).trans ((Dev.settle_keepsAllBut _).mono (by decide)))
  · rw [expires, Dev.holdupExpires_rests rests]
    rfl

end Sys2Proof.Machine
end


section
/-! PROOFS. The pool of zones and the page that PLM gives (R72, R73, R82, R89). -/

namespace Sys2Proof.Machine

/-! ### The Zone Table and the Page Map -/

section
variable (m : Plm)

theorem Plm.zone_setZone (z w : Zone) (x : ZoneEntry) : (m.setZone z x).zone w.val = if w = z then x else m.zone w.val := by
  refine (SMap.get_set ..).trans ?_
  by_cases same : w = z
  · rw [if_pos same, if_pos (congrArg Fin.val same)]
  · rw [if_neg same, if_neg fun h => same (Fin.ext h)]
    rfl

theorem Plm.zone_setPage (p : PageAddr) (e : PageEntry) (n : Nat) : (m.setPage p e).zone n = m.zone n := rfl

theorem pageEntry_inj {p q : PageAddr} (hp : 19 ≤ p.zone.val) (hq : 19 ≤ q.zone.val) (h : pageEntry p = pageEntry q) :
    p = q := by
  obtain ⟨⟨zp, _⟩, ⟨np, _⟩⟩ := p
  obtain ⟨⟨zq, _⟩, ⟨nq, _⟩⟩ := q
  simp only [pageEntry, Config.pagesPerZone, Config.firstPoolZone] at hp hq h
  have zones : zp = zq := by omega
  have pages : np = nq := by omega
  subst zones pages
  rfl

theorem Plm.page_setPage {p q : PageAddr} (hp : 19 ≤ p.zone.val) (hq : 19 ≤ q.zone.val) (x : PageEntry) :
    (m.setPage p x).page q = if q = p then x else m.page q := by
  refine (SMap.get_set ..).trans ?_
  by_cases same : q = p
  · rw [if_pos same, if_pos (congrArg pageEntry same)]
  · rw [if_neg same, if_neg fun h => same (pageEntry_inj hq hp h)]
    rfl

theorem Plm.page_setZone (z : Zone) (x : ZoneEntry) (p : PageAddr) : (m.setZone z x).page p = m.page p := rfl

variable {m}

/-- The FREE count is the same where the states of the zones are. -/
theorem Plm.freeZones_congr {n : Plm} (h : ∀ w : Zone, (n.zone w.val).state = (m.zone w.val).state) :
    n.freeZones = m.freeZones := by
  unfold Plm.freeZones
  refine congrArg List.length (List.filter_congr fun z mem => ?_)
  have hz : z < 256 := by
    simp only [poolZoneList, Config.firstPoolZone, Config.poolZones, List.mem_range'_1] at mem
    omega
  rw [h ⟨z, hz⟩]

theorem Plm.usedUpTest_stays (h : ∀ z, m.fillZone = some z → (m.zone z.val).nextPage ≠ 32) : m.usedUpTest = m := by
  unfold Plm.usedUpTest
  split
  next z fill => exact if_neg (h z fill)
  · rfl

theorem Plm.usedUpTest_ends {z : Zone} (fill : m.fillZone = some z) (h : (m.zone z.val).nextPage = 32) :
    m.usedUpTest = { m.setZone z { m.zone z.val with
      state := if (m.zone z.val).holders = [] then .retired else .full } with fillZone := none } := by
  simp only [Plm.usedUpTest, fill, Config.pagesPerZone, h, if_true, List.isEmpty_iff]

end

/-! ### The search for a FREE zone -/

/-- In a list that rises in a key, the least element that satisfies a test is the first found. -/
theorem find?_of_least {α : Type} {l : List α} (key : α → Nat) (rises : l.Pairwise fun a b => key a < key b)
    {p : α → Bool} {x : α} (mem : x ∈ l) (hp : p x = true) (least : ∀ y ∈ l, p y = true → key x ≤ key y) :
    l.find? p = some x := by
  induction l with
  | nil => exact absurd mem List.not_mem_nil
  | cons a l ih =>
    obtain ⟨first, rises⟩ := List.pairwise_cons.1 rises
    rcases List.mem_cons.1 mem with rfl | later
    · rw [List.find?_cons, hp]
    · have no : p a = false := Bool.eq_false_iff.2 fun pa =>
        absurd (least a List.mem_cons_self pa) (Nat.not_le.2 (first x later))
      rw [List.find?_cons, no]
      exact ih rises later fun y hy => least y (List.mem_cons_of_mem _ hy)

/-- How far behind the search cursor a zone comes. -/
def searchPlace (cursor : Zone) (z : Nat) : Nat := (z + 255 - cursor.val) % 256

theorem mem_poolZoneList {z : Nat} : z ∈ poolZoneList ↔ 19 ≤ z ∧ z < 256 := by
  simp only [poolZoneList, Config.firstPoolZone, Config.poolZones, List.mem_range'_1]

theorem searchOrder_rises (cursor : Zone) :
    (searchOrder cursor).Pairwise fun a b => searchPlace cursor a < searchPlace cursor b := by
  have sorted : poolZoneList.Pairwise (· < ·) := List.pairwise_lt_range'
  unfold searchOrder searchPlace
  have c := cursor.isLt
  refine List.pairwise_append.2 ⟨?_, ?_, fun a ha b hb => ?_⟩
  · refine (sorted.filter _).imp_of_mem fun ha hb lt => ?_
    simp only [List.mem_filter, mem_poolZoneList, decide_eq_true_eq] at ha hb
    omega
  · refine (sorted.filter _).imp_of_mem fun ha hb lt => ?_
    simp only [List.mem_filter, mem_poolZoneList, decide_eq_true_eq] at ha hb
    omega
  · simp only [List.mem_filter, mem_poolZoneList, decide_eq_true_eq] at ha hb
    omega

theorem mem_searchOrder {cursor : Zone} {z : Nat} : z ∈ searchOrder cursor ↔ 19 ≤ z ∧ z < 256 := by
  simp only [searchOrder, List.mem_append, List.mem_filter, mem_poolZoneList, decide_eq_true_eq]
  omega

/-! ### The page given -/

section
variable {d : Dev}

theorem Dev.givePage_fill {z : Zone} (fill : d.plm.fillZone = some z) (left : (d.plm.zone z.val).nextPage < 32) :
    d.givePage = some (d.giveFrom z) := by
  have givable : d.plm.givable = some z := by
    rw [Plm.givable, fill, Option.filter_some, if_pos (by simpa [Config.pagesPerZone] using left)]
  simp only [Dev.givePage, givable]

theorem Plm.givable_none (h : ∀ z, d.plm.fillZone = some z → 32 ≤ (d.plm.zone z.val).nextPage) :
    d.plm.givable = none := by
  unfold Plm.givable
  cases fill : d.plm.fillZone with
  | none => rfl
  | some z =>
    rw [Option.filter_some, if_neg]
    simpa [Config.pagesPerZone] using h z fill

theorem Dev.givePage_none (used : ∀ z, d.plm.fillZone = some z → 32 ≤ (d.plm.zone z.val).nextPage)
    (noFree : ∀ z : Zone, ¬(19 ≤ z.val ∧ (d.plm.zone z.val).state = .free)) : d.givePage = none := by
  have none : (searchOrder d.plm.cursor).find? (fun z => (d.plm.zone z).state == .free) = none := by
    refine List.find?_eq_none.2 fun z mem free => ?_
    obtain ⟨pool, small⟩ := mem_searchOrder.1 mem
    exact noFree ⟨z, small⟩ ⟨pool, eq_of_beq free⟩
  simp only [Dev.givePage, Plm.givable_none used, Dev.newFillZone, none, Option.map_none]

/-- The zone that becomes the fill zone: the first FREE one behind the cursor. -/
theorem Dev.newFillZone_least {z : Zone} (free : 19 ≤ z.val ∧ (d.plm.zone z.val).state = .free)
    (least : ∀ w : Zone, 19 ≤ w.val ∧ (d.plm.zone w.val).state = .free →
      (z.val + 255 - d.plm.cursor.val) % 256 ≤ (w.val + 255 - d.plm.cursor.val) % 256) :
    d.newFillZone = some (d.setPlm fun m =>
      { (m.setZone z ⟨.filling, 0, []⟩) with fillZone := some z, cursor := z }).poolLowTest := by
  have found : (searchOrder d.plm.cursor).find? (fun z => (d.plm.zone z).state == .free) = some z.val := by
    refine find?_of_least (searchPlace d.plm.cursor) (searchOrder_rises _) (mem_searchOrder.2 ⟨free.1, z.isLt⟩)
      (beq_iff_eq.2 free.2) fun w mem hw => ?_
    obtain ⟨pool, small⟩ := mem_searchOrder.1 mem
    exact least ⟨w, small⟩ ⟨pool, eq_of_beq hw⟩
  have same : Fin.ofNat 256 z.val = z := Fin.ext (Nat.mod_eq_of_lt z.isLt)
  simp only [Dev.newFillZone, found, Option.map_some, same]

/-- The state after a zone became the fill zone and its first page was given. -/
def Plm.filled (m : Plm) (z : Zone) : Plm :=
  (({ (m.setZone z ⟨.filling, 0, []⟩) with fillZone := some z, cursor := z } : Plm).setZone z ⟨.filling, 1, []⟩).setPage
    ⟨z, 0⟩ .programming

theorem Plm.zone_filled (m : Plm) (z w : Zone) :
    (m.filled z).zone w.val = if w = z then ⟨.filling, 1, []⟩ else m.zone w.val := by
  unfold Plm.filled
  rw [Plm.zone_setPage, Plm.zone_setZone]
  split
  · rfl
  next other => exact (m.zone_setZone z w _).trans (if_neg other)

theorem Plm.page_filled (m : Plm) {z : Zone} (pool : 19 ≤ z.val) {p : PageAddr} (hp : 19 ≤ p.zone.val) :
    (m.filled z).page p = if p = ⟨z, 0⟩ then .programming else m.page p := by
  unfold Plm.filled
  rw [Plm.page_setPage _ pool hp]
  rfl

theorem Dev.poolLowTest_plm (d : Dev) : d.poolLowTest.plm = d.plm := by simp

theorem Dev.givePage_new (used : ∀ z, d.plm.fillZone = some z → 32 ≤ (d.plm.zone z.val).nextPage) {z : Zone}
    (free : 19 ≤ z.val ∧ (d.plm.zone z.val).state = .free)
    (least : ∀ w : Zone, 19 ≤ w.val ∧ (d.plm.zone w.val).state = .free →
      (z.val + 255 - d.plm.cursor.val) % 256 ≤ (w.val + 255 - d.plm.cursor.val) % 256) :
    d.givePage = some (⟨z, 0⟩, { (if (d.plm.filled z).freeZones < d.sst.working.poolLow
      then d.raise .poolLow (d.plm.filled z).freeZones else d) with plm := d.plm.filled z }) := by
  let m : Plm := { (d.plm.setZone z ⟨.filling, 0, []⟩) with fillZone := some z, cursor := z }
  have zone : m.zone z.val = ⟨.filling, 0, []⟩ := (d.plm.zone_setZone z z _).trans (if_pos rfl)
  have givable : m.givable = some z := by
    rw [Plm.givable, Option.filter_some, if_pos]
    rw [zone]
    rfl
  have count : m.freeZones = (d.plm.filled z).freeZones := by
    refine Plm.freeZones_congr fun w => ?_
    rw [Plm.zone_filled]
    by_cases same : w = z
    · subst same
      rw [zone, if_pos rfl]
    · rw [if_neg same, show m.zone w.val = _ from (d.plm.zone_setZone z w _).trans (if_neg same)]
  have tested : (d.setPlm fun _ => m).poolLowTest = { (if (d.plm.filled z).freeZones < d.sst.working.poolLow
      then d.raise .poolLow (d.plm.filled z).freeZones else d) with plm := m } := by
    unfold Dev.poolLowTest
    rw [show (d.setPlm fun _ => m).plm.freeZones = (d.plm.filled z).freeZones from count,
      show (d.setPlm fun _ => m).sst = d.sst from rfl]
    by_cases low : (d.plm.filled z).freeZones < d.sst.working.poolLow
    · rw [if_pos low, if_pos low]
      rfl
    · rw [if_neg low, if_neg low]
      rfl
  have fresh : d.newFillZone = some (d.setPlm fun _ => m).poolLowTest := Dev.newFillZone_least free least
  have plm : (d.setPlm fun _ => m).poolLowTest.plm = m := Dev.poolLowTest_plm _
  have given : (d.setPlm fun _ => m).poolLowTest.giveFrom z = (⟨z, 0⟩, { (d.setPlm fun _ => m).poolLowTest with
      plm := d.plm.filled z }) := by
    unfold Dev.giveFrom Plm.modZone
    simp only [Dev.setPlm] at plm ⊢
    rw [plm, zone]
    rfl
  simp only [Dev.givePage, Plm.givable_none used, fresh, plm, givable, Option.map_some, given]
  rw [tested]

/-! ### CME at rest without a page -/

/-- Whether a page is given turns on PLM alone. -/
theorem Dev.givePage_none_of_plm {e : Dev} (plm : e.plm = d.plm) (noPage : d.givePage = none) : e.givePage = none := by
  unfold Dev.givePage Dev.newFillZone at *
  rw [plm]
  cases givable : d.plm.givable with
  | some z => simp [givable] at noPage
  | none =>
    cases found : (searchOrder d.plm.cursor).find? (fun z => (d.plm.zone z).state == .free) with
    | none => simp
    | some z =>
      simp only [givable, found, Option.map_some, Option.map_eq_none_iff, Dev.poolLowTest_plm, Dev.setPlm] at noPage ⊢
      rw [plm]
      exact noPage

end

/-! ### A cut that discards -/

section
variable {d : Dev} {i : StreamIdx} {x : StreamBody}

theorem cutEnding_ne_ended (r : Reason) (k : Option PendingEnd) : cutEnding r k ≠ .ended := by
  cases k with
  | none => exact nofun
  | some k => cases k <;> exact nofun

theorem Dev.cutDiscard_takes (taken : d.body i = some x) (r : Reason) :
    (d.cutDiscard i r).takesEnd i x (cutEnding r x.ending) := by
  have start : ((d.modBody i fun b => { b with ending := some (cutEnding r b.ending) }).discardBlocks i).takesEnd i x
      (cutEnding r x.ending) := by
    refine .inl ⟨x.queued - (d.stb.queue.filter (·.slot == i)).length, ?_⟩
    rw [Dev.body_discardBlocks, if_pos rfl, Dev.body_modBody, if_pos rfl, taken]
    rfl
  rw [Dev.cutDiscard_taken taken]
  exact start.later ((Dev.reportCut_streamsTo _ x r).trans ((Dev.closeRun_streamsTo _).trans
    (Dev.tryRelease_streamsTo _ i))) (cutEnding_ne_ended r _)

theorem Dev.cutDiscard_reports (taken : d.body i = some x) (r : Reason) : (d.cutDiscard i r).reportsCut x r := by
  rw [Dev.cutDiscard_taken taken]
  exact (Dev.reportCut_reports _ x r).later ((Dev.closeRun_flowsTo _).trans (Dev.tryRelease_flowsTo _ i))

theorem Dev.cutDiscard_records (taken : d.body i = some x) (r : Reason) :
    d.records (d.cutDiscard i r) (cutBody x r) 2 evStreamCut := by
  rw [Dev.cutDiscard_taken taken]
  exact ((Dev.reportCut_records _ x r).later ((Dev.closeRun_flowsTo _).trans (Dev.tryRelease_flowsTo _ i))).before
    (by simp) (by simp)

theorem Dev.cmeLoop_flowsTo : ∀ (n : Nat) (d : Dev), d.flowsTo (Dev.cmeLoop n d)
  | 0, d => d.flowsTo_rfl
  | n + 1, d => by
    unfold Dev.cmeLoop
    split
    next runs => exact (Dev.cmeOnce_flowsTo runs.1).trans (Dev.cmeLoop_flowsTo n _)
    · exact d.flowsTo_rfl

theorem Dev.cmeOnce_cuts {b : Block} {rest : List Block} (queue : d.stb.queue = b :: rest) (noPage : d.givePage = none) :
    d.cmeOnce = d.cutDiscard b.slot .storeFull := by
  simp only [Dev.cmeOnce, queue, noPage]

theorem Dev.cmeOnce_takes {b : Block} {rest : List Block} (queue : d.stb.queue = b :: rest) {p : PageAddr} {e : Dev}
    (given : d.givePage = some (p, e)) :
    d.cmeOnce = (e.setStb fun s => { s with queue := rest }).commitOn b p 0 := by
  simp only [Dev.cmeOnce, queue, given]

/-- The mode lets CME take blocks. -/
theorem Dev.commits_iff : d.commits = true ↔ d.hum.mode = .normal ∨ (d.hum.mode = .holdup ∧ d.hum.closing = none) := by
  simp [Dev.commits]

/-- CME without a page: every stream with a block on the queue is cut, and CME stays at rest. -/
structure Dev.cutsQueue (d e : Dev) : Prop where
  cme : e.cme = d.cme
  queue : e.stb.queue = []
  plm : e.plm = d.plm
  cut : ∀ i x, d.body i = some x → (∃ b ∈ d.stb.queue, b.slot = i) →
    e.takesEnd i x (cutEnding .storeFull x.ending) ∧ e.reportsCut x .storeFull
  other : ∀ i, (∀ b ∈ d.stb.queue, b.slot ≠ i) → e.body i = d.body i

theorem Dev.cmeLoop_cutsQueue (n : Nat) (d : Dev) (idle : d.cme.state = .idle) (commits : d.commits = true)
    (noPage : d.givePage = none) (held : ∀ b ∈ d.stb.queue, d.body b.slot ≠ none) (enough : d.stb.queue.length ≤ n) :
    d.cutsQueue (Dev.cmeLoop n d) := by
  induction n generalizing d with
  | zero =>
    have empty : d.stb.queue = [] := List.length_eq_zero_iff.1 (Nat.le_zero.1 enough)
    exact ⟨rfl, empty, rfl, fun i x _ ⟨b, mem, _⟩ => absurd (empty ▸ mem) List.not_mem_nil, fun _ _ => rfl⟩
  | succ n ih =>
    unfold Dev.cmeLoop
    cases queue : d.stb.queue with
    | nil =>
      rw [if_neg fun h => h.2.2 rfl]
      exact ⟨rfl, queue, rfl, fun i x _ ⟨b, mem, _⟩ => absurd (queue ▸ mem) List.not_mem_nil, fun _ _ => rfl⟩
    | cons b rest =>
      rw [if_pos ⟨idle, commits, nofun⟩, Dev.cmeOnce_cuts queue noPage]
      obtain ⟨y, taken⟩ := Option.ne_none_iff_exists'.1 (held b (queue ▸ List.mem_cons_self))
      let e := d.cutDiscard b.slot .storeFull
      have left : e.stb.queue = d.stb.queue.filter (·.slot != b.slot) := Dev.cutDiscard_queue taken _
      have others {j : StreamIdx} (other : j ≠ b.slot) : e.body j = d.body j := Dev.body_cutDiscard_ne other _
      have fewer : e.stb.queue.length ≤ n := by
        rw [left, queue, List.filter_cons, if_neg (by simp)]
        exact (List.length_filter_le ..).trans (Nat.le_of_succ_le_succ (by simpa [queue] using enough))
      have runs := ih e (by simpa [e] using idle) (by simpa [e, Dev.commits] using commits)
        (Dev.givePage_none_of_plm (by simp [e]) noPage) (fun g mem => by
          rw [left, List.mem_filter] at mem
          rw [others (bne_iff_ne.1 mem.2)]
          exact held g mem.1) fewer
      refine ⟨runs.cme.trans (by simp [e]), runs.queue, runs.plm.trans (by simp [e]), fun i x hx block => ?_, fun i none => ?_⟩
      · by_cases same : i = b.slot
        · subst same
          exact ⟨(Dev.cutDiscard_takes hx _).later (Dev.cmeLoop_streamsTo n _) (cutEnding_ne_ended _ _),
            (Dev.cutDiscard_reports hx _).later (Dev.cmeLoop_flowsTo n _)⟩
        · obtain ⟨g, mem, slot⟩ := block
          refine runs.cut i x ((others same).trans hx) ⟨g, ?_, slot⟩
          rw [left, List.mem_filter]
          exact ⟨mem, bne_iff_ne.2 (slot ▸ same)⟩
      · have other : i ≠ b.slot := fun same => none b (queue ▸ List.mem_cons_self) same.symm
        exact (runs.other i fun g mem => none g (List.mem_of_mem_filter (left ▸ mem))).trans (others other)

end

/-! ### The commit queue and the program of a page -/

/-- A block that joins stands behind those of its class or lower, ahead of those of a higher one. -/
theorem joinQueue_sorted {q : List Block} (b : Block) (sorted : q.Pairwise fun x y => x.cls ≤ y.cls) :
    (joinQueue q b).Pairwise (fun x y => x.cls ≤ y.cls) := by
  unfold joinQueue
  have low : ∀ x ∈ q.filter (·.cls ≤ b.cls), x.cls ≤ b.cls := fun x mem => by simpa using (List.mem_filter.1 mem).2
  have high : ∀ x ∈ q.filter (b.cls < ·.cls), b.cls < x.cls := fun x mem => by simpa using (List.mem_filter.1 mem).2
  refine List.pairwise_append.2 ⟨List.pairwise_append.2 ⟨sorted.filter _, List.pairwise_singleton .., fun x hx y hy => ?_⟩,
    sorted.filter _, fun x hx y hy => ?_⟩
  · rw [List.mem_singleton.1 hy]
    exact low x hx
  · rcases List.mem_append.1 hx with hx | hx
    · exact (low x hx).trans (high y hy).le
    · rw [List.mem_singleton.1 hx]
      exact (high y hy).le

/-- A queue ordered by class is its part up to a class, then the rest. -/
theorem sorted_split {q : List Block} (sorted : q.Pairwise fun x y => x.cls ≤ y.cls) (n : Nat) :
    q.filter (·.cls ≤ n) ++ q.filter (n < ·.cls) = q := by
  induction q with
  | nil => rfl
  | cons a q ih =>
    obtain ⟨first, sorted⟩ := List.pairwise_cons.1 sorted
    by_cases low : a.cls ≤ n
    · rw [List.filter_cons_of_pos (by simpa using low), List.filter_cons_of_neg (by simpa using low), List.cons_append,
        ih sorted]
    · have above : ∀ x ∈ q, n < x.cls := fun x mem => (Nat.not_le.1 low).trans_le (first x mem)
      have none : q.filter (·.cls ≤ n) = [] := List.filter_eq_nil_iff.2 fun x mem => by simpa using above x mem
      have all : q.filter (n < ·.cls) = q := List.filter_eq_self.2 fun x mem => by simpa using above x mem
      rw [List.filter_cons_of_neg (by simpa using low), List.filter_cons_of_pos (by simpa using Nat.not_le.1 low), none, all]
      rfl

/-- The bytes that complete data to a chunk. -/
theorem paddedData_fillers (data : List Byte) : ∃ fillers : List Byte, (∀ x ∈ fillers, x = 0xFF) ∧ fillers.length < 64
    ∧ (data.length + fillers.length) % 64 = 0 ∧ paddedData data = data ++ fillers := by
  refine ⟨List.replicate ((chunkBytes - data.length % chunkBytes) % chunkBytes) erasedByte,
    fun x mem => (List.mem_replicate.1 mem).2, ?_, ?_, rfl⟩
  · rw [List.length_replicate]
    exact Nat.mod_lt _ (by decide)
  · rw [List.length_replicate]
    simp only [chunkBytes]
    omega

/-- Settles O38: the queue, the loop of CME, the program it places, and the pages that PLM gives. -/
theorem theCommitQueueIsOrderedByClass : Obligations.TheCommitQueueIsOrderedByClass := by
  refine ⟨fun q b sorted => ⟨joinQueue_sorted b sorted, ?_⟩, fun d b rest idle queue mode p e given => ?_,
    fun d idle held mode noPage => ?_, fun d b p retry => ?_, fun d => ⟨fun z fill left => ?_, fun used => ⟨fun none => ?_,
      fun z free least => ?_⟩⟩, fun m => ⟨Plm.usedUpTest_stays, fun z fill ends => Plm.usedUpTest_ends fill ends⟩,
    fun d => rfl, fun m z w x => m.zone_setZone z w x, fun m p q x hp hq => m.page_setPage hp hq x⟩
  · refine ⟨q.filter (·.cls ≤ b.cls), q.filter (b.cls < ·.cls), (sorted_split sorted b.cls).symm, by simp [joinQueue],
      fun x mem => by simpa using (List.mem_filter.1 mem).2, fun x mem => by simpa using (List.mem_filter.1 mem).2⟩
  · have once : d.cmeTest = Dev.cmeLoop d.stb.queue.length d.cmeOnce := by
      refine if_pos ⟨idle, Dev.commits_iff.2 mode, ?_⟩
      rw [queue]
      exact nofun
    have takes := Dev.cmeOnce_takes queue given
    have busy (n : Nat) : Dev.cmeLoop n ((e.setStb fun s => { s with queue := rest }).commitOn b p 0)
        = (e.setStb fun s => { s with queue := rest }).commitOn b p 0 := by
      cases n with
      | zero => rfl
      | succ n => exact if_neg fun h => nomatch h.1
    rw [once, takes, busy]
    rfl
  · obtain ⟨cme, queue, plm, cut, other⟩ := Dev.cmeLoop_cutsQueue _ d idle (Dev.commits_iff.2 mode) noPage held
      (Nat.le_succ _)
    refine ⟨cme, queue, plm, fun i x taken => ⟨fun block => ?_, fun none => (other i none).trans taken⟩,
      fun b rest x hq taken => ?_⟩
    · obtain ⟨takes, reports⟩ := cut i x taken block
      refine ⟨?_, reports⟩
      cases ending : x.ending with
      | none => rwa [ending] at takes
      | some k =>
        rw [ending] at takes
        cases k <;> exact takes
    · have once : d.cmeTest = Dev.cmeLoop d.stb.queue.length d.cmeOnce :=
        if_pos ⟨idle, Dev.commits_iff.2 mode, by rw [hq]; exact nofun⟩
      rw [once, Dev.cmeOnce_cuts hq noPage]
      exact (Dev.cutDiscard_records taken .storeFull).later (Dev.cmeLoop_flowsTo _ _)
  · obtain ⟨fillers, erased, few, whole, padded⟩ := paddedData_fillers b.data
    refine ⟨fillers, erased, few, whole, ?_⟩
    have words : (fun k => if k * chunkBytes < b.data.length then leBytes 2 (checkWord (chunkOf (b.data ++ fillers) k)).toNat
        else leBytes 2 0xFFFF) = fun k => leBytes 2 (if k * 64 < b.data.length
          then (checkWord (((b.data ++ fillers).drop (k * 64)).take 64)).toNat else 0xFFFF) :=
      funext fun k => (apply_ite (leBytes 2) ..).symm
    unfold Dev.commitOn commitJob checkWords
    rw [padded, words]
    rfl
  · exact Dev.givePage_fill fill left
  · exact Dev.givePage_none used none
  · refine ⟨_, Dev.givePage_new used free least, rfl, rfl, Plm.zone_filled _ z, fun p hp => Plm.page_filled _ free.1 hp,
      ?_, rfl, rfl, rfl⟩
    rfl

end Sys2Proof.Machine
end


section
/-! PROOFS. The ends of the directory's programs: journal batches and image pages (R86, R92, R96, R97, R101, R102). -/

namespace Sys2Proof.Machine

/-! ### The end of a program -/

section
variable {s : State} {who : Requester} {p : PageAddr} {a : Nat} {data : List Byte} {b : Nat} {spare : List Byte}
  {o : ProgramOutcome}

/-- The state in which the requester of a program hears its outcome. -/
abbrev Dev.opEnded (d : Dev) : Dev := { d with arc := { d.arc with op := none } }

theorem State.programDone_dev (hpower : s.powered = true)
    (op : s.dev.arc.op = some ⟨who, .program p a data b spare⟩) (f : Bool → Dev → Dev) :
    ∃ t, s.programDone who o f = .next t
      ∧ (o = .ok ∧ (Job.program p a data b spare).verifies s.flash = true → t.dev = (f true s.dev.opEnded).settle)
      ∧ (¬(o = .ok ∧ (Job.program p a data b spare).verifies s.flash = true) → t.dev = (f false s.dev.opEnded).settle) := by
  refine ⟨_, State.programDone_eq hpower op o f, fun good => ?_, fun bad => ?_⟩
  · rw [(State.programDone_good ..).2 good]
  · rw [Bool.eq_false_iff.2 fun h => bad ((State.programDone_good ..).1 h)]

end

/-- The directory after what follows every change: its writer alone moves. -/
theorem Dev.settle_drm_writer (d : Dev) : d.settle.drm = { d.drm with writer := d.settle.drm.writer } :=
  congrArg Dev.drm d.settle_settlesTo

/-! ### Durability reports -/

section
variable {d : Dev}

theorem Dev.reportDurable_plm_other {e : JEntry} (start : ∀ z, e = .reclaimStart z → d.plm.reclaim ≠ .startWait z)
    (done : ∀ z, e = .reclaimDone z → d.plm.reclaim ≠ .doneWait z) : d.reportDurable e = d := by
  unfold Dev.reportDurable
  split
  next z => exact if_neg (start z rfl)
  next z => exact if_neg (done z rfl)
  · rfl

theorem Dev.reportDurable_asksTo (d : Dev) (e : JEntry) : d.asksTo (d.reportDurable e) := by
  unfold Dev.reportDurable
  split
  · split
    · exact (Dev.place_asksTo _ (by simp) _).after rfl
    · exact d.asksTo_rfl
  · split <;> exact Dev.asksTo_of_same rfl
  · exact d.asksTo_rfl

theorem Dev.reportAll_asksTo : ∀ (l : List JEntry) (d : Dev), d.asksTo (d.reportAll l)
  | [], d => d.asksTo_rfl
  | e :: l, d => (d.reportDurable_asksTo e).trans (Dev.reportAll_asksTo l _)

theorem Dev.asksTo.mem {e : Dev} (h : d.asksTo e) {r : ArrReq} (mem : r ∈ d.arc.waiting) : r ∈ e.arc.waiting := by
  obtain ⟨l, hl, -⟩ := h.waiting
  exact hl ▸ List.mem_append_left _ mem

/-- A reclaim process that waits for no report is left. -/
theorem Dev.reportAll_rests (start : ∀ z, d.plm.reclaim ≠ .startWait z) (done : ∀ z, d.plm.reclaim ≠ .doneWait z)
    (l : List JEntry) : d.reportAll l = d := by
  induction l with
  | nil => rfl
  | cons e l ih =>
    have same : d.reportDurable e = d := Dev.reportDurable_plm_other (fun z _ => start z) (fun z _ => done z)
    show (d.reportDurable e).reportAll l = d
    rw [same, ih]

/-- The report of its RECLAIM_START lets the reclaim process ask for the erase. -/
theorem Dev.reportAll_start {z : Zone} (waits : d.plm.reclaim = .startWait z) {l : List JEntry}
    (mem : .reclaimStart z ∈ l) : (d.reportAll l).plm.reclaim = .eraseWait z
      ∧ ArrReq.mk .reclaim (.erase z) ∈ (d.reportAll l).arc.waiting := by
  induction l with
  | nil => exact absurd mem List.not_mem_nil
  | cons e l ih =>
    by_cases own : e = .reclaimStart z
    · subst own
      have erases : d.reportDurable (.reclaimStart z) = d.reclaimErase z := if_pos waits
      have rests : (d.reclaimErase z).reportAll l = d.reclaimErase z := Dev.reportAll_rests
        (fun w (h : ReclaimStep.eraseWait z = .startWait w) => by cases h)
        (fun w (h : ReclaimStep.eraseWait z = .doneWait w) => by cases h) l
      show ((d.reportDurable (.reclaimStart z)).reportAll l).plm.reclaim = _ ∧ _ ∈
        ((d.reportDurable (.reclaimStart z)).reportAll l).arc.waiting
      rw [erases, rests]
      exact ⟨rfl, List.mem_append_right _ List.mem_cons_self⟩
    · have same : d.reportDurable e = d := by
        refine Dev.reportDurable_plm_other (fun w he h => own ?_) (fun w _ h => ?_)
        · rw [he, (ReclaimStep.startWait.inj (waits.symm.trans h))]
        · exact absurd (waits.symm.trans h) nofun
      show ((d.reportDurable e).reportAll l).plm.reclaim = _ ∧ _ ∈ ((d.reportDurable e).reportAll l).arc.waiting
      rw [same]
      exact ih ((List.mem_cons.1 mem).resolve_left (Ne.symm own))

/-- The report of its RECLAIM_DONE makes the zone FREE. -/
theorem Dev.reportAll_done {z : Zone} (waits : d.plm.reclaim = .doneWait z) {l : List JEntry}
    (mem : .reclaimDone z ∈ l) : (d.reportAll l).plm.reclaim = .idle
      ∧ (d.reportAll l).plm.zone z.val = ⟨.free, 0, []⟩ := by
  induction l with
  | nil => exact absurd mem List.not_mem_nil
  | cons e l ih =>
    by_cases own : e = .reclaimDone z
    · subst own
      have frees : d.reportDurable (.reclaimDone z) =
          d.setPlm fun m => { (m.setZone z ZoneEntry.fresh) with reclaim := .idle } := if_pos waits
      have rests : (d.setPlm fun m => { (m.setZone z ZoneEntry.fresh) with reclaim := .idle }).reportAll l
          = d.setPlm fun m => { (m.setZone z ZoneEntry.fresh) with reclaim := .idle } := Dev.reportAll_rests
        (fun w (h : ReclaimStep.idle = .startWait w) => by cases h)
        (fun w (h : ReclaimStep.idle = .doneWait w) => by cases h) l
      show ((d.reportDurable (.reclaimDone z)).reportAll l).plm.reclaim = _
        ∧ ((d.reportDurable (.reclaimDone z)).reportAll l).plm.zone z.val = _
      rw [frees, rests]
      exact ⟨rfl, (Plm.zone_setZone ..).trans (if_pos rfl)⟩
    · have same : d.reportDurable e = d := by
        refine Dev.reportDurable_plm_other (fun w _ h => ?_) (fun w he h => own ?_)
        · exact absurd (waits.symm.trans h) nofun
        · rw [he, (ReclaimStep.doneWait.inj (waits.symm.trans h))]
      show ((d.reportDurable e).reportAll l).plm.reclaim = _ ∧ ((d.reportDurable e).reportAll l).plm.zone z.val = _
      rw [same]
      exact ih ((List.mem_cons.1 mem).resolve_left (Ne.symm own))

end

/-! ### The journal -/

/-- The state with a batch durable, before its reports. -/
abbrev Dev.batchDone (d : Dev) : Dev := d.setDrm fun m =>
  { m with queue := m.queue.drop d.drm.batch, pos := m.pos + d.drm.batch, batch := 0, writer := .idle }

theorem Dev.journalWritten_ok (d : Dev) :
    d.journalWritten true = d.batchDone.reportAll (d.drm.queue.take d.drm.batch) := rfl

theorem Dev.settle_plm (d : Dev) : d.settle.plm = d.plm := by simp

/-- Settles O51: the batch leaves the queue and is reported, or the journal closes. -/
theorem journalProgramDone : Obligations.JournalProgramDone := by
  intro s o p a data b spare hpower op good n
  obtain ⟨t, runs, ok, fails⟩ := State.programDone_dev (o := o) hpower op Dev.journalWritten
  refine ⟨t, runs, fun h => ?_, fun h => ?_⟩
  · let g := s.dev.opEnded.batchDone
    have dev : t.dev = (g.reportAll (s.dev.drm.queue.take n)).settle := ok h
    refine ⟨?_, fun z waits mem => ?_, fun z waits mem => ?_, ?_⟩
    · rw [dev, Dev.settle_drm_writer, (Dev.reportAll_frame _ _).2.2.2.2.2.2.2.1]
      rfl
    · obtain ⟨reclaim, asked⟩ := Dev.reportAll_start (d := g) waits mem
      rw [dev, Dev.settle_plm]
      exact ⟨reclaim, (Dev.settle_asksTo _).mem asked⟩
    · rw [dev, Dev.settle_plm]
      exact Dev.reportAll_done (d := g) waits mem
    · have kept : s.dev.keepsAllBut [.plm, .arc, .drm, .hiu, .ntu] (g.reportAll (s.dev.drm.queue.take n)) := by
        intro c hc
        cases c <;> simp [Part.agrees, g, Dev.setDrm] at hc ⊢
      rw [dev]
      exact kept.trans ((Dev.settle_keepsAllBut _).mono (by decide))
  · rw [fails h]
    rfl

end Sys2Proof.Machine
end


section
/-! PROOFS. Compaction: its start, the pages of its image, and the image's entries (R99 to R102). -/

namespace Sys2Proof.Machine

/-! ### The start -/

theorem Drm.compactionDue_iff {m : Drm} :
    m.compactionDue = true ↔ m.active ≠ none ∧ (512 - m.pos < 32 ∨ m.journalOpen = false) := by
  simp [Drm.compactionDue, Config.journalSlots, Config.compactionMargin, Option.isSome_iff_ne_none]

theorem Dev.compactionReady_iff {d : Dev} : d.compactionReady = true ↔
    d.drm.active ≠ none ∧ (512 - d.drm.pos < 32 ∨ d.drm.journalOpen = false)
      ∧ d.hum.mode = .normal ∧ d.arc.storeFailed = false ∧ d.drm.spare = some .erased
      ∧ d.drm.writer = .idle ∧ d.drm.generation < 4294967295 ∧ d.drm.copy = none := by
  simp [Dev.compactionReady, Drm.compactionDue_iff, Config.max32, and_assoc]

/-- The reclaim a compaction finds unfinished: the process's own, else the first zone left for re-erase. -/
def Plm.unfinished (m : Plm) : Option Zone := match m.reclaim.unfinished with
  | some z => some z
  | none => m.reErase.head?

section
variable {m : Plm}

theorem Plm.unfinished_own {z : Zone} (h : m.reclaim.unfinished = some z) : m.unfinished = some z := by
  simp [Plm.unfinished, h]

theorem Plm.unfinished_left (h : m.reclaim = .idle ∨ ∃ z, m.reclaim = .doneWait z) :
    m.unfinished = m.reErase.head? := by
  have own : m.reclaim.unfinished = none := by
    rcases h with h | ⟨z, h⟩ <;> simp [h, ReclaimStep.unfinished]
  simp [Plm.unfinished, own]

end

/-! ### The image -/

theorem CompactionCopy.length_image (c : CompactionCopy) : c.image.length = c.middle.length + 2 := by
  simp [CompactionCopy.image]

/-- The zones of the image's defect entries. -/
def CompactionCopy.zones (c : CompactionCopy) : List Zone := (List.finRange 256).filter (c.defects.contains ·)

theorem CompactionCopy.zones_pairwise (c : CompactionCopy) : c.zones.Pairwise (· < ·) :=
  (List.pairwise_lt_finRange 256).filter _

theorem CompactionCopy.mem_zones {c : CompactionCopy} {z : Zone} : z ∈ c.zones ↔ z ∈ c.defects := by
  simp [CompactionCopy.zones]

/-- The entries of the image about a slot. -/
def CompactionCopy.summaries (c : CompactionCopy) (i : DirSlot) : List JEntry := match c.dir[i] with
  | some r => summaryEntries i.val r
  | none => []

theorem CompactionCopy.middle_eq (c : CompactionCopy) : c.middle = (List.finRange 32).flatMap c.summaries
    ++ c.zones.map .zoneDefect ++ (c.unfinished.map .reclaimStart).toList := rfl

/-! ### The end of an image page -/

section
variable {d : Dev}

theorem Dev.eraseSpare_asks (d : Dev) (sound : d.arc.defects.contains d.drm.spareZone = false) :
    ArrReq.mk .dirErase (.erase d.drm.spareZone) ∈ d.eraseSpare.arc.waiting := by
  have places : d.eraseSpare = d.place .dirErase (.erase d.drm.spareZone) := if_neg (Bool.eq_false_iff.1 sound)
  rw [places]
  exact List.mem_append_right _ List.mem_cons_self

theorem Dev.dirtySpare_drm (d : Dev) : d.dirtySpare.drm = { d.drm with spare := some .dirty } := by
  unfold Dev.dirtySpare Dev.eraseSpare
  split <;> rfl

theorem Dev.dirtySpare_asks (d : Dev) (sound : d.arc.defects.contains d.drm.spareZone = false) :
    ArrReq.mk .dirErase (.erase d.drm.spareZone) ∈ d.dirtySpare.arc.waiting :=
  Dev.eraseSpare_asks (d.setDrm fun m => { m with spare := some .dirty }) sound

/-- The state after the last page of an image, before its reports. -/
abbrev Dev.compacted (d : Dev) (n : Nat) : Dev := d.setDrm fun m => { m with
  active := some m.spareZone, pos := n, journalOpen := true, generation := m.generation + 1
  absorbed := [], copy := none, imagePos := 0 }

theorem Dev.compactionEnds_eq (d : Dev) (n : Nat) :
    d.compactionEnds n = ((d.compacted n).reportAll d.drm.absorbed).dirtySpare := rfl

theorem Dev.compactionEnds_drm (d : Dev) (n : Nat) :
    (d.compactionEnds n).drm = { (d.compacted n).drm with spare := some .dirty } := by
  rw [Dev.compactionEnds_eq, Dev.dirtySpare_drm, (Dev.reportAll_frame _ _).2.2.2.2.2.2.2.1]

theorem Dev.compactionEnds_asks (d : Dev) {n : Nat} {z : Zone} (other : z = if d.drm.spareZone = 1 then 2 else 1)
    (sound : d.arc.defects.contains z = false) :
    ArrReq.mk .dirErase (.erase z) ∈ (d.compactionEnds n).arc.waiting := by
  let g := (d.compacted n).reportAll d.drm.absorbed
  have zone : g.drm.spareZone = z := by
    rw [show g.drm = (d.compacted n).drm from (Dev.reportAll_frame _ _).2.2.2.2.2.2.2.1, other]
    simp [Drm.spareZone, Dev.setDrm]
  have defects : g.arc.defects = d.arc.defects := by
    show ((d.compacted n).reportAll d.drm.absorbed).arc.defects = _
    simp [Dev.setDrm]
  have asks := g.dirtySpare_asks (by rw [zone, defects]; exact sound)
  rw [zone] at asks
  exact asks

theorem Dev.imageWritten_keepsAllBut (ok : Bool) (d : Dev) :
    d.keepsAllBut [.plm, .arc, .drm] (d.imageWritten ok) := by
  intro c hc
  unfold Dev.imageWritten
  cases ok
  · cases c <;> simp [Part.agrees, Dev.setDrm] at hc ⊢
  · simp only [if_true]
    split <;> cases c <;> simp [Part.agrees, Dev.setDrm] at hc ⊢

/-- The state that a program's end leaves the writer of the image. -/
abbrev Dev.writerFree (d : Dev) : Dev := d.setDrm fun m => { m with writer := .idle }

variable {c : CompactionCopy}

theorem Dev.imageWritten_more (copy : d.drm.copy = some c) (more : d.drm.imagePos + 16 < c.image.length) :
    d.imageWritten true = d.writerFree.setDrm fun m => { m with imagePos := m.imagePos + 16 } := by
  simp [Dev.imageWritten, copy, Dev.setDrm, slotsPerPage, Nat.not_le.2 more]

theorem Dev.imageWritten_last (copy : d.drm.copy = some c) (last : c.image.length ≤ d.drm.imagePos + 16) :
    d.imageWritten true = d.writerFree.compactionEnds c.image.length := by
  simp [Dev.imageWritten, copy, Dev.setDrm, slotsPerPage, last]

theorem Dev.imageWritten_fails (d : Dev) :
    d.imageWritten false = (d.writerFree.setDrm fun m => { m with copy := none, imagePos := 0 }).dirtySpare := rfl

end

/-- Settles O52: a due compaction starts on a copy of the directory, its pages follow each other, and its image holds
what R100 lists. -/
theorem compaction : Obligations.Compaction := by
  refine ⟨?_, ?_, fun c => ?_⟩
  · intro s hpower due
    refine ⟨fun h => ⟨s.dev.plm.unfinished, ?_, fun left rests => ?_, fun z own => ?_, Plm.unfinished_left⟩, fun h => ?_⟩
    · exact State.act_onlyIf_due (due := Dev.compactionReady) (f := fun d => d.startCompaction.settle) hpower
        (Dev.compactionReady_iff.2 h)
    · rw [Plm.unfinished_left rests, left]
      rfl
    · exact Plm.unfinished_own (by rcases own with h | h | h | h <;> rw [h] <;> rfl)
    · exact State.act_onlyIf_idle (due := Dev.compactionReady) (f := fun d => d.startCompaction.settle)
        (Bool.eq_false_iff.2 fun ready => h (Dev.compactionReady_iff.1 ready))
  · intro s o p a data b spare c hpower op copy good n
    obtain ⟨t, runs, ok, fails⟩ := State.programDone_dev (o := o) hpower op Dev.imageWritten
    refine ⟨t, runs, ?_, fun h more => ?_, fun h last => ⟨?_, fun z other sound => ?_⟩, fun h => ⟨?_, fun sound => ?_⟩⟩
    · have kept : ∀ b, s.dev.keepsAllBut [.plm, .arc, .drm, .hiu, .ntu] (s.dev.opEnded.imageWritten b).settle := by
        intro b
        have started : s.dev.keepsAllBut [.plm, .arc, .drm] s.dev.opEnded := by
          intro c hc
          cases c <;> simp [Part.agrees] at hc ⊢
        exact ((started.trans (Dev.imageWritten_keepsAllBut b _)).mono (by decide)).trans
          ((Dev.settle_keepsAllBut _).mono (by decide))
      by_cases h : good
      · exact ok h ▸ kept true
      · exact fails h ▸ kept false
    · rw [ok h, Dev.settle_drm_writer, Dev.imageWritten_more (d := s.dev.opEnded) copy more]
      rfl
    · rw [ok h, Dev.settle_drm_writer, Dev.imageWritten_last (d := s.dev.opEnded) copy last, Dev.compactionEnds_drm]
      rfl
    · rw [ok h, Dev.imageWritten_last (d := s.dev.opEnded) copy last]
      exact (Dev.settle_asksTo _).mem (Dev.compactionEnds_asks _ other sound)
    · rw [fails h, Dev.settle_drm_writer, Dev.imageWritten_fails, Dev.dirtySpare_drm]
      rfl
    · rw [fails h, Dev.imageWritten_fails]
      exact (Dev.settle_asksTo _).mem (Dev.dirtySpare_asks _ sound)
  · intro incidents
    have summaries : (List.finRange 32).flatMap c.summaries = incidents := by
      refine congrArg (List.flatMap · _) (funext fun i => ?_)
      unfold CompactionCopy.summaries
      cases c.dir[i] <;> rfl
    refine ⟨c.zones, c.zones_pairwise, fun z => CompactionCopy.mem_zones, ?_⟩
    rw [c.length_image, ← summaries]
    simp only [CompactionCopy.image, c.middle_eq, List.append_assoc]

end Sys2Proof.Machine
end


section
/-! PROOFS. The ring through the tests of the history unit: what the moves of the intake queue, the test of ring
preparation and the test of an awaited zone leave of it (R115, R117, R120, R121). -/

namespace Sys2Proof.Machine

/-! ### The ring stands -/

/-- The ring, the write target and ring preparation are as they were. -/
structure Hiu.sameRing (a b : Hiu) : Prop where
  ring : b.ring = a.ring
  target : b.target = a.target
  prep : b.prep = a.prep
  newest : b.newest = a.newest
  deferred : b.deferred = a.deferred

theorem Hiu.sameRing_rfl (h : Hiu) : h.sameRing h := ⟨rfl, rfl, rfl, rfl, rfl⟩

theorem Hiu.sameRing.trans {a b c : Hiu} (h : a.sameRing b) (g : b.sameRing c) : a.sameRing c :=
  ⟨g.ring.trans h.ring, g.target.trans h.target, g.prep.trans h.prep, g.newest.trans h.newest,
    g.deferred.trans h.deferred⟩

theorem Hiu.sameRing_markTo (h : Hiu) (n : Nat) : h.sameRing (h.markTo n) := by
  unfold Hiu.markTo
  split <;> exact ⟨rfl, rfl, rfl, rfl, rfl⟩

section
variable {d e : Dev}

theorem Dev.takeEntry_sameRing (d : Dev) (body : HBody) (severity : Nat) (source : Source) (code : Nat) :
    d.hiu.sameRing (d.takeEntry body severity source code).hiu := by
  unfold Dev.takeEntry Dev.setHiu
  split
  · exact Hiu.sameRing.trans (b := { d.hiu with
      intake := d.hiu.intake ++ [⟨body, severity, source, code, d.hiu.nextSeq, d.tmb.tick⟩]
      nextSeq := d.hiu.nextSeq + 1
      halted := d.hiu.halted || Config.max32 < d.hiu.nextSeq + 1 }) ⟨rfl, rfl, rfl, rfl, rfl⟩ (Hiu.sameRing_markTo _ _)
  · exact ⟨rfl, rfl, rfl, rfl, rfl⟩

theorem Dev.gapTest_sameRing (d : Dev) : d.hiu.sameRing d.gapTest.hiu := by
  unfold Dev.gapTest
  split
  · exact (d.takeEntry_sameRing ..).trans ⟨rfl, rfl, rfl, rfl, rfl⟩
  · exact d.hiu.sameRing_rfl

theorem Dev.stageHead_sameRing (d : Dev) (x : HEntry) (rest : List HEntry) :
    d.hiu.sameRing (d.stageHead x rest).hiu := by
  have armed : d.hiu = (if d.hiu.staging.isEmpty then d.armFlush else d).hiu := by
    split
    · unfold Dev.armFlush Dev.deadlines
      split <;> rfl
    · rfl
  let g := (if d.hiu.staging.isEmpty then d.armFlush else d).setHiu fun h =>
    { h with intake := rest, staging := h.staging ++ [x] }
  have staged : d.hiu.sameRing g.hiu := by
    rw [armed]
    exact ⟨rfl, rfl, rfl, rfl, rfl⟩
  exact staged.trans g.gapTest_sameRing

theorem HEntry.size_le (x : HEntry) : x.size ≤ 40 := by
  unfold HEntry.size
  cases x.body <;> simp [HBody.size]

/-- No byte of the page of the write target is programmed, or a zone is awaited. -/
def Hiu.atPageStart (h : Hiu) : Prop := ∀ t, h.target = some t → t.programmed = 0

theorem Hiu.sameRing.atPageStart {a b : Hiu} (h : a.sameRing b) (start : a.atPageStart) : b.atPageStart :=
  fun t target => start t (h.target ▸ target)

/-- At the start of a page an entry that does not fit leaves others pending: the page does not advance. -/
theorem Dev.moveOnce_sameRing (start : d.hiu.atPageStart) (h : d.moveOnce = some e) : d.hiu.sameRing e.hiu := by
  unfold Dev.moveOnce at h
  split at h
  next => cases h
  next x rest intake =>
    split at h
    next target =>
      split at h
      · cases h
        exact d.stageHead_sameRing x rest
      · cases h
    next t target =>
      split at h
      · cases h
      split at h
      · cases h
        exact d.stageHead_sameRing x rest
      next full =>
        have pending : d.hiu.staging ≠ [] := by
          intro none
          have fits := x.size_le
          simp [Hiu.pendingBytes, none, entriesSize, start t target, Config.pageData] at full
          omega
        cases h
        rw [if_neg (by simp [Dev.setHiu, Hiu.markTo]; split <;> simpa using pending)]
        exact (Hiu.sameRing_markTo _ _).trans ⟨rfl, rfl, rfl, rfl, rfl⟩

theorem Dev.moveLoop_sameRing (n : Nat) (start : d.hiu.atPageStart) : d.hiu.sameRing (d.moveLoop n).hiu := by
  induction n generalizing d with
  | zero => exact d.hiu.sameRing_rfl
  | succ n ih =>
    unfold Dev.moveLoop
    split
    next e moved =>
      have once := Dev.moveOnce_sameRing start moved
      exact once.trans (ih (once.atPageStart start))
    · exact d.hiu.sameRing_rfl

theorem Dev.haltTest_sameRing (d : Dev) : d.hiu.sameRing d.haltTest.hiu := by
  unfold Dev.haltTest Dev.setHiu Dev.raise
  simp only []
  split <;> exact ⟨rfl, rfl, rfl, rfl, rfl⟩

/-! ### A zone that ring preparation passes over -/

theorem Dev.prepare_ring_ne {j k : RingIdx} (ne : j ≠ k) : (d.prepare j).hiu.ring[k] = d.hiu.ring[k] :=
  get_modify_ne _ ne _

theorem Dev.prepTest_target (d : Dev) : d.prepTest.hiu.target = d.hiu.target ∧ d.prepTest.hiu.newest = d.hiu.newest
    ∧ d.prepTest.hiu.deferred = d.hiu.deferred := by
  unfold Dev.prepTest
  split
  · exact ⟨rfl, rfl, rfl⟩
  split
  · exact ⟨rfl, rfl, rfl⟩
  split
  · split <;> exact ⟨rfl, rfl, rfl⟩
  · exact ⟨rfl, rfl, rfl⟩

theorem Dev.prepTest_ring {k : RingIdx} (erasing : (d.hiu.ring[k]).state ≠ .erasing)
    (filled : (d.hiu.ring[k]).state ≠ .filled) : d.prepTest.hiu.ring[k] = d.hiu.ring[k] := by
  unfold Dev.prepTest
  split
  · rfl
  split
  next j found =>
    have state : (d.hiu.ring[j]).state = .erasing := by simpa using firstFin_some found
    exact Dev.prepare_ring_ne fun same => erasing (same ▸ state)
  split
  next j _ =>
    split
    next state => exact Dev.prepare_ring_ne fun same => filled (same ▸ state)
    · rfl
  · rfl

theorem Dev.activate_ring (d : Dev) (j k : RingIdx) : (d.activate j).hiu.ring[k] =
    if j = k then { d.hiu.ring[k] with state := .active, pins := d.hiu.deferred ++ (d.hiu.ring[k]).pins }
    else d.hiu.ring[k] := by
  unfold Dev.activate
  rw [(Dev.haltTest_sameRing _).ring]
  exact get_modify ..

theorem Dev.activate_target (d : Dev) (k : RingIdx) : (d.activate k).hiu.target = some ⟨k, 0, 0⟩
    ∧ (d.activate k).hiu.newest = k ∧ (d.activate k).hiu.deferred = [] ∧ (d.activate k).hiu.prep = d.hiu.prep := by
  unfold Dev.activate
  have same := (Dev.haltTest_sameRing (d.setHiu fun h => { h with
    ring := modify h.ring k fun z => { z with state := .active, pins := h.deferred ++ z.pins }
    deferred := [], target := some ⟨k, 0, 0⟩, newest := k, closed := false }))
  exact ⟨same.target, same.newest, same.deferred, same.prep⟩

/-- The state of an ERASED or DEFECTIVE zone stands, but the write target that awaits a zone may take an ERASED one. -/
theorem Dev.awaitTest_state {k : RingIdx}
    (rests : (d.hiu.ring[k]).state = .erased ∨ (d.hiu.ring[k]).state = .defective) :
    (d.awaitTest.hiu.ring[k]).state = (d.hiu.ring[k]).state
      ∨ (d.hiu.target = none ∧ (d.hiu.ring[k]).state = .erased ∧ (d.awaitTest.hiu.ring[k]).state = .active) := by
  have awaits (j : RingIdx) (erased : (d.hiu.ring[j]).state = .erased) :
      ((d.activate j).hiu.ring[k]).state = (d.hiu.ring[k]).state ∨
      ((d.hiu.ring[k]).state = .erased ∧ ((d.activate j).hiu.ring[k]).state = .active) := by
    rw [d.activate_ring]
    split
    next same => exact .inr ⟨same ▸ erased, rfl⟩
    · exact .inl rfl
  unfold Dev.awaitTest
  split
  · exact .inl rfl
  next none =>
    have target : d.hiu.target = .none := by simpa using none
    split
    next j _ =>
      split
      next erased =>
        have start : (d.activate j).prepTest.hiu.atPageStart := fun t h => by
          rw [(Dev.prepTest_target _).1, (d.activate_target j).1] at h
          cases h
          rfl
        have ring : (d.activate j).prepTest.hiuMove.hiu.ring[k] = (d.activate j).hiu.ring[k] := by
          have passed : ((d.activate j).hiu.ring[k]).state ≠ .erasing ∧ ((d.activate j).hiu.ring[k]).state ≠ .filled := by
            rcases awaits j erased with h | ⟨-, h⟩ <;> rw [h]
            · rcases rests with r | r <;> rw [r] <;> exact ⟨nofun, nofun⟩
            · exact ⟨nofun, nofun⟩
          exact (congrArg (·[k]) (Dev.moveLoop_sameRing 256 start).ring).trans (Dev.prepTest_ring passed.1 passed.2)
        rw [ring]
        exact (awaits j erased).imp id fun h => ⟨target, h⟩
      · exact .inl rfl
    · exact .inl rfl

/-! ### Ring preparation goes on -/

theorem Dev.prepTest_prep (h : d.hiu.prep.isSome = true) : d.prepTest = d := if_pos h

/-- The state with the ACTIVE zone FILLED, before the ring takes its successor. -/
def Dev.zoneFull (d : Dev) (filled : RingIdx) : Dev := d.setHiu fun h =>
  { h with
    ring := modify h.ring filled fun z => { z with state := .filled }
    newest := filled
    target := none
    closed := false }

/-- The state with the successor of a FILLED zone taken, where it is ERASED. -/
def Dev.succeed (d : Dev) (filled : RingIdx) : Dev := match d.hiu.successor with
  | some k => if (d.hiu.ring[k]).state = RingState.erased ∧ k ≠ filled then d.activate k else d
  | none => d

theorem Dev.ringAdvance_eq (d : Dev) (filled : RingIdx) :
    d.ringAdvance filled = ((d.zoneFull filled).succeed filled).prepTest := rfl

theorem Dev.succeed_prep (d : Dev) (filled : RingIdx) : (d.succeed filled).hiu.prep = d.hiu.prep := by
  unfold Dev.succeed
  split
  · split
    · exact (d.activate_target _).2.2.2
    · rfl
  · rfl

theorem Dev.ringAdvance_prep {j : RingIdx} (h : d.hiu.prep.isSome = true) :
    (d.ringAdvance j).hiu.prep = d.hiu.prep := by
  have kept : ((d.zoneFull j).succeed j).hiu.prep = d.hiu.prep := (d.zoneFull j).succeed_prep j
  rw [Dev.ringAdvance_eq, Dev.prepTest_prep (kept ▸ h), kept]

theorem Dev.pageAdvance_prep (h : d.hiu.prep.isSome = true) : d.pageAdvance.hiu.prep = d.hiu.prep := by
  unfold Dev.pageAdvance
  split
  · rfl
  · split
    · exact Dev.ringAdvance_prep h
    · rfl

theorem Dev.moveOnce_prep (some : d.hiu.prep.isSome = true) (h : d.moveOnce = .some e) :
    e.hiu.prep = d.hiu.prep := by
  unfold Dev.moveOnce at h
  split at h
  next => cases h
  next x rest intake =>
    split at h
    · split at h
      · cases h
        exact (d.stageHead_sameRing x rest).prep
      · cases h
    next t target =>
      split at h
      · cases h
      split at h
      · cases h
        exact (d.stageHead_sameRing x rest).prep
      · cases h
        have closed : ({ d.hiu.markTo (d.hiu.lastInPage t.zone) with closed := true } : Hiu).prep = d.hiu.prep :=
          (Hiu.sameRing_markTo _ _).prep
        split
        · exact (Dev.pageAdvance_prep (d := d.setHiu _) (by rw [← closed] at some; exact some)).trans closed
        · exact closed

theorem Dev.moveLoop_prep (n : Nat) (some : d.hiu.prep.isSome = true) : (d.moveLoop n).hiu.prep = d.hiu.prep := by
  induction n generalizing d with
  | zero => rfl
  | succ n ih =>
    unfold Dev.moveLoop
    split
    next e moved =>
      have once := Dev.moveOnce_prep some moved
      exact (ih (once ▸ some)).trans once
    · rfl

theorem Dev.event_prep (some : d.hiu.prep.isSome = true) (code severity : Nat) (body : HBody) :
    (d.event code severity body).hiu.prep = d.hiu.prep := by
  unfold Dev.event Dev.offerSeq
  split
  · have taken := (d.takeEntry_sameRing body severity .internal code).prep
    exact (Dev.moveLoop_prep 256 (taken ▸ some)).trans taken
  · rfl

end

end Sys2Proof.Machine
end


section
/-! PROOFS. Reclaim starts, and the ends of the erases of reclaim, ring preparation and the spare directory zone
(R85 to R88, R93, R94, R103, R120, R121). -/

namespace Sys2Proof.Machine

/-! ### The zone reclaim starts with -/

section
variable {m : Plm}

/-- A RETIRED zone of the pool. -/
def Plm.retired (m : Plm) (z : Zone) : Prop := 19 ≤ z.val ∧ (m.zone z.val).state = .retired

theorem Plm.retiredZone_none : m.retiredZone = none ↔ ∀ z, ¬m.retired z := by
  unfold Plm.retiredZone
  rw [Option.map_eq_none_iff, List.find?_eq_none]
  refine ⟨fun h z ⟨pool, state⟩ => h z.val (mem_poolZoneList.2 ⟨pool, z.isLt⟩) (by simp [state]), fun h n mem state => ?_⟩
  obtain ⟨pool, lt⟩ := mem_poolZoneList.1 mem
  exact h ⟨n, lt⟩ ⟨pool, by simpa using state⟩

theorem Plm.retiredZone_some {z : Zone} :
    m.retiredZone = some z ↔ m.retired z ∧ ∀ w, m.retired w → z ≤ w := by
  have sorted : poolZoneList.Pairwise (· < ·) := List.pairwise_lt_range'
  unfold Plm.retiredZone
  constructor
  · intro h
    obtain ⟨n, found, rfl⟩ := Option.map_eq_some_iff.1 h
    obtain ⟨state, before, behind, split, none⟩ := List.find?_eq_some_iff_append.1 found
    obtain ⟨pool, lt⟩ := mem_poolZoneList.1 (List.mem_of_find?_eq_some found)
    have val : (Fin.ofNat 256 n : Zone).val = n := Nat.mod_eq_of_lt lt
    refine ⟨⟨val.symm ▸ pool, by rw [val]; simpa using state⟩, fun w ⟨wpool, wstate⟩ => ?_⟩
    have place : w.val ∈ before ++ n :: behind := split ▸ mem_poolZoneList.2 ⟨wpool, w.isLt⟩
    rw [split, List.pairwise_append, List.pairwise_cons] at sorted
    obtain ⟨-, ⟨rises, -⟩, -⟩ := sorted
    show (Fin.ofNat 256 n : Zone).val ≤ w.val
    rw [val]
    rcases List.mem_append.1 place with early | late
    · have not := none w.val early
      simp [wstate] at not
    · rcases List.mem_cons.1 late with same | late
      · exact same.symm.le
      · exact (rises _ late).le
  · rintro ⟨⟨pool, state⟩, least⟩
    have found : poolZoneList.find? (fun z => (m.zone z).state == .retired) = some z.val := by
      refine find?_of_least id sorted (mem_poolZoneList.2 ⟨pool, z.isLt⟩) (by simp [state]) fun w mem hw => ?_
      obtain ⟨wpool, lt⟩ := mem_poolZoneList.1 mem
      exact least ⟨w, lt⟩ ⟨wpool, by simpa using hw⟩
    rw [found]
    exact congrArg some (Fin.ext (Nat.mod_eq_of_lt z.isLt))

theorem Plm.retiredZone_isSome : m.retiredZone.isSome = true ↔ ∃ z, m.retired z := by
  rw [Option.isSome_iff_ne_none, ne_eq, Plm.retiredZone_none]
  simp

end

section
variable {d : Dev}

theorem Dev.reclaimReady_iff : d.reclaimReady = true ↔ d.plm.reclaim = .idle ∧ d.plm.reclaimAsked = none
    ∧ (d.plm.reErase ≠ [] ∨ ∃ z, d.plm.retired z) ∧ d.hum.mode = .normal ∧ d.arc.storeFailed = false := by
  simp [Dev.reclaimReady, Plm.retiredZone_isSome, and_assoc]

/-! ### A maintenance entry -/

theorem Dev.maintEntry_room (e : JEntry) (room : d.drm.queue.length < 16) (first : d.drm.maintWaiters = []) :
    d.maintEntry e = d.acceptMaint e :=
  if_pos ⟨decide_eq_true room, first⟩

theorem Dev.maintEntry_full (e : JEntry) (full : 16 ≤ d.drm.queue.length ∨ d.drm.maintWaiters ≠ []) :
    d.maintEntry e = d.setDrm fun m => { m with maintWaiters := m.maintWaiters ++ [e] } := by
  refine if_neg fun ⟨room, first⟩ => ?_
  rcases full with full | others
  · exact absurd (of_decide_eq_true room) (Nat.not_lt.2 full)
  · exact others first

/-! ### The start -/

theorem Dev.startReclaim_left {z : Zone} {rest : List Zone} (h : d.plm.reErase = z :: rest) :
    d.startReclaim = (d.setPlm fun m => { m with reErase := rest }).reclaimErase z := by
  simp [Dev.startReclaim, h]

theorem Dev.startReclaim_retired {z : Zone} (none : d.plm.reErase = []) (h : d.plm.retiredZone = some z) :
    d.startReclaim = (d.setPlm fun m => { m with reclaimAsked := some z }).maintEntry (.reclaimStart z) := by
  simp [Dev.startReclaim, none, h]

theorem Dev.startReclaim_keepsAllBut (d : Dev) : d.keepsAllBut [.plm, .arc, .drm] d.startReclaim := by
  intro c hc
  cases c <;> simp [Part.agrees] at hc ⊢

/-! ### A defect mark -/

/-- The mark of a zone is told: its entry is queued or waits, and its event is offered. -/
def Dev.tellsDefect (d e : Dev) (z : Zone) : Prop := d.records e (f1 (leBytes 1 z.val)) 1 0x0004
  ∧ (d.drm.queue.length < 16 → d.drm.maintWaiters = [] →
      e.drm.queue = d.drm.queue ++ [JEntry.zoneDefect z] ∧ e.drm.maintWaiters = [])
  ∧ ((16 ≤ d.drm.queue.length ∨ d.drm.maintWaiters ≠ []) →
      e.drm.queue = d.drm.queue ∧ e.drm.maintWaiters = d.drm.maintWaiters ++ [JEntry.zoneDefect z])

theorem Dev.records.laterBut {d e f : Dev} {body : HBody} {severity code : Nat} (h : d.records e body severity code)
    (g : e.flowsBut f) : d.records f body severity code :=
  ⟨fun hc => g.entries.subset (h.1 hc), fun hc => g.notices.notifies (h.2 hc)⟩

theorem Dev.tellsDefect.later {d e f : Dev} {z : Zone} (h : d.tellsDefect e z) (g : e.flowsBut f)
    (queue : f.drm.queue = e.drm.queue) (waiters : f.drm.maintWaiters = e.drm.maintWaiters) : d.tellsDefect f z := by
  obtain ⟨records, room, full⟩ := h
  refine ⟨records.laterBut g, ?_⟩
  rw [queue, waiters]
  exact ⟨room, full⟩

theorem Dev.markDefect_drm (d : Dev) (m : Memory) (z : Zone) :
    (d.markDefect m z).drm = (d.maintEntry (.zoneDefect z)).drm := by
  unfold Dev.markDefect
  dsimp only
  rw [(Dev.defectiveReads_frame _ _ _ _).2.2.2.2.2.2.2.1, (Dev.event_frame _ _ _ _).2.2.2.2.2.2.2.2.1]
  unfold Dev.maintEntry Dev.acceptMaint
  split <;> rfl

theorem Dev.markDefect_tells (d : Dev) (m : Memory) (z : Zone) : d.tellsDefect (d.markDefect m z) z := by
  refine ⟨?_, fun room first => ?_, fun full => ?_⟩
  · unfold Dev.markDefect
    dsimp only
    refine Dev.records.later ?_ (Dev.defectiveReads_flowsTo m z allPorts _)
    exact (Dev.event_records ..).before (by simp) (by simp)
  · rw [d.markDefect_drm, Dev.maintEntry_room _ room first]
    exact ⟨rfl, first⟩
  · rw [d.markDefect_drm, Dev.maintEntry_full _ full]
    exact ⟨rfl, rfl⟩

theorem Dev.mem_defects_markDefect (d : Dev) (m : Memory) (z : Zone) : z ∈ (d.markDefect m z).arc.defects := by
  simp

/-! ### The end of an erase -/

/-- The state in which the requester of an erase hears its outcome. -/
abbrev Dev.eraseEnded (d : Dev) : Dev := { d with arc := { d.arc with erase := none } }

theorem State.eraseDone_dev {s : State} {who : Requester} {phase : ErasePhase} {z : Zone} (hpower : s.powered = true)
    (erase : s.dev.arc.erase = some ⟨phase, z, who⟩) (runs : phase ≠ .suspended) (o : EraseOutcome)
    (f : Bool → Memory → Zone → Dev → Dev) :
    ∃ t flash, s.eraseDone who o f = .next t
      ∧ (o = .ok → t.dev = (f true flash z s.dev.eraseEnded).settle)
      ∧ (o = .eraseFail → t.dev = (f false flash z s.dev.eraseEnded).settle) := by
  cases o
  · exact ⟨_, _, State.eraseDone_eq hpower erase runs .ok f, fun _ => rfl, nofun⟩
  · exact ⟨_, _, State.eraseDone_eq hpower erase runs .eraseFail f, nofun, fun _ => rfl⟩

/-- What the ends of erases share: what is told stands through what follows every change. -/
theorem Dev.tellsDefect.settled {d e : Dev} {z : Zone} (h : d.eraseEnded.tellsDefect e z) : d.tellsDefect e.settle z :=
  have settled : d.eraseEnded.tellsDefect e.settle z := h.later (Dev.settle_flowsTo _).but (by simp) (by simp)
  settled

/-! ### The pool zone -/

theorem Plm.zone_withReclaim (m : Plm) (r : ReclaimStep) (n : Nat) :
    ({ m with reclaim := r } : Plm).zone n = m.zone n := rfl

theorem Plm.page_withReclaim (m : Plm) (r : ReclaimStep) (p : PageAddr) :
    ({ m with reclaim := r } : Plm).page p = m.page p := rfl

theorem Plm.page_setZonePages (m : Plm) (z : Zone) (x : PageEntry) (p : PageNo) : (m.setZonePages z x).page ⟨z, p⟩ = x := by
  have set (m : Plm) (q : PageAddr) (given : m.page ⟨z, p⟩ = x ∨ q = ⟨z, p⟩) : (m.setPage q x).page ⟨z, p⟩ = x := by
    refine (SMap.get_set ..).trans ?_
    split
    · rfl
    next ne => exact given.resolve_right fun same => ne (same ▸ rfl)
  have all (l : List PageAddr) (m : Plm) (given : m.page ⟨z, p⟩ = x ∨ ⟨z, p⟩ ∈ l) :
      (l.foldl (fun m p => m.setPage p x) m).page ⟨z, p⟩ = x := by
    induction l generalizing m with
    | nil => exact given.resolve_right List.not_mem_nil
    | cons q l ih =>
      refine ih _ ?_
      rcases given with h | h
      · exact .inl (set m q (.inl h))
      · rcases List.mem_cons.1 h with h | h
        · exact .inl (set m q (.inr h.symm))
        · exact .inr h
  exact all _ m (.inr (List.mem_map.2 ⟨p, List.mem_finRange p, rfl⟩))

theorem Dev.reclaimErased_keepsAllBut (d : Dev) (ok : Bool) (m : Memory) (z : Zone) :
    d.keepsAllBut [.pif, .plm, .arc, .drm, .hiu, .tmb, .ntu, .rtu, .sst] (d.reclaimErased ok m z) := by
  intro c hc
  cases c <;> simp at hc <;> simp [Part.agrees]

theorem Dev.maintEntry_pages (d : Dev) (e : JEntry) (p : PageAddr) : (d.maintEntry e).plm.page p = d.plm.page p := by
  unfold Dev.maintEntry Dev.acceptMaint
  split
  · cases e <;> rfl
  · rfl

/-- The state with an erased pool zone's pages ERASED, before its RECLAIM_DONE. -/
abbrev Dev.zoneErased (d : Dev) (z : Zone) : Dev :=
  d.setPlm fun m => { (m.setZonePages z .erased) with reclaim := .doneQueue z }

theorem Dev.reclaimErased_ok (d : Dev) (m : Memory) (z : Zone) :
    d.reclaimErased true m z = (d.zoneErased z).maintEntry (.reclaimDone z) := rfl

theorem Dev.reclaimErased_pages (d : Dev) (m : Memory) (z : Zone) (p : PageNo) :
    (d.reclaimErased true m z).plm.page ⟨z, p⟩ = .erased := by
  rw [Dev.reclaimErased_ok, Dev.maintEntry_pages]
  exact (Plm.page_withReclaim ..).trans (d.plm.page_setZonePages z .erased p)

theorem Dev.reclaimErased_room (m : Memory) (z : Zone) (room : d.drm.queue.length < 16)
    (first : d.drm.maintWaiters = []) : (d.reclaimErased true m z).plm.reclaim = .doneWait z
      ∧ (d.reclaimErased true m z).drm.queue = d.drm.queue ++ [.reclaimDone z] := by
  rw [Dev.reclaimErased_ok, Dev.maintEntry_room (d := d.zoneErased z) _ room first]
  exact ⟨rfl, rfl⟩

theorem Dev.reclaimErased_full (m : Memory) (z : Zone) (full : 16 ≤ d.drm.queue.length ∨ d.drm.maintWaiters ≠ []) :
    (d.reclaimErased true m z).plm.reclaim = .doneQueue z
      ∧ (d.reclaimErased true m z).drm.maintWaiters = d.drm.maintWaiters ++ [.reclaimDone z] := by
  rw [Dev.reclaimErased_ok, Dev.maintEntry_full (d := d.zoneErased z) _ full]
  exact ⟨rfl, rfl⟩

/-- The pool's part of a failed erase. -/
def Plm.lost (m : Plm) (z : Zone) : Plm :=
  { ((m.setZonePages z .torn).setZone z ⟨.defective, Config.pagesPerZone, []⟩) with reclaim := .idle }

theorem Dev.reclaimErased_fail (d : Dev) (m : Memory) (z : Zone) :
    d.reclaimErased false m z = ((d.markDefect m z).setPlm fun m => m.lost z).defectTest z := rfl

theorem Dev.reclaimErased_lost (d : Dev) (m : Memory) (z : Zone) :
    (d.reclaimErased false m z).plm = d.plm.lost z := by
  rw [Dev.reclaimErased_fail, (Dev.defectTest_frame _ _).2.2.2.2.2.2.1]
  exact congrArg (Plm.lost · z) (by simp)

theorem Plm.lost_zone (m : Plm) (z : Zone) : (m.lost z).zone z.val = ⟨.defective, 32, []⟩ :=
  (Plm.zone_withReclaim ..).trans ((Plm.zone_setZone ..).trans (if_pos rfl))

theorem Plm.lost_page (m : Plm) (z : Zone) (p : PageNo) : (m.lost z).page ⟨z, p⟩ = .torn :=
  ((Plm.page_withReclaim ..).trans (Plm.page_setZone ..)).trans (m.page_setZonePages z .torn p)

theorem Dev.reclaimErased_tells (d : Dev) (m : Memory) (z : Zone) : d.tellsDefect (d.reclaimErased false m z) z := by
  rw [Dev.reclaimErased_fail]
  exact (d.markDefect_tells m z).later ((Dev.setPlm_flowsTo _ _).trans (Dev.defectTest_flowsTo _ _)).but
    (by simp [Dev.setPlm]) (by simp [Dev.setPlm])

/-! ### The spare zone -/

theorem Dev.spareErased_keepsAllBut (d : Dev) (ok : Bool) (m : Memory) (z : Zone) :
    d.keepsAllBut [.pif, .arc, .drm, .hiu, .tmb, .ntu, .rtu, .sst] (d.spareErased ok m z) := by
  intro c hc
  cases c <;> simp at hc <;> simp [Part.agrees]

theorem Dev.spareErased_fail (d : Dev) (m : Memory) (z : Zone) :
    d.spareErased false m z = ((d.markDefect m z).setDrm fun m => { m with spare := some .dirty }).defectTest z := rfl

theorem Dev.spareErased_tells (d : Dev) (m : Memory) (z : Zone) : d.tellsDefect (d.spareErased false m z) z := by
  rw [Dev.spareErased_fail]
  exact (d.markDefect_tells m z).later ((Dev.setDrm_flowsTo _ _).trans (Dev.defectTest_flowsTo _ _)).but
    (by simp [Dev.setDrm]) (by simp [Dev.setDrm])

end

end Sys2Proof.Machine
end


section
/-! PROOFS. The end of ring preparation's erase, and the statement about reclaim and the erases (R85 to R88, R103,
R120, R121). -/

namespace Sys2Proof.Machine

theorem Dev.settle_ring (d : Dev) : d.settle.hiu.ring = d.hiu.ring := by simp

/-! ### The ring zone -/

section
variable {d : Dev} {k : RingIdx}

theorem Dev.prepEnds_ring (h : d.hiu.prep = some k) (x : RingState) :
    ((d.prepEnds x).hiu.ring[k]).state = x ∧ (d.prepEnds x).hiu.target = d.hiu.target := by
  unfold Dev.prepEnds
  rw [h]
  exact ⟨congrArg RingZone.state (get_modify_same ..), rfl⟩

theorem Dev.prepTest_state {x : RingState} (h : (d.hiu.ring[k]).state = x) (erasing : x ≠ .erasing)
    (filled : x ≠ .filled) : (d.prepTest.hiu.ring[k]).state = x := by
  rw [Dev.prepTest_ring (h ▸ erasing) (h ▸ filled), h]

theorem Dev.markDefect_prep (h : d.hiu.prep = some k) (m : Memory) (z : Zone) : (d.markDefect m z).hiu.prep = some k := by
  unfold Dev.markDefect
  dsimp only
  rw [(Dev.defectiveReads_frame _ _ _ _).2.2.2.2.2.2.2.2.1]
  have before : (({ d with arc := { d.arc with defects := z :: d.arc.defects.filter (· != z) } } : Dev).maintEntry
      (.zoneDefect z)).hiu.prep = some k := by
    rw [(Dev.maintEntry_frame _ _).2.2.2.2.2.2.2.2.1]
    exact h
  rw [Dev.event_prep (by rw [before]; rfl), before]

theorem Dev.ringErased_ok (d : Dev) (m : Memory) (z : Zone) :
    d.ringErased true m z = (d.prepEnds .erased).awaitTest.prepTest := rfl

theorem Dev.ringErased_fail (d : Dev) (m : Memory) (z : Zone) :
    d.ringErased false m z =
      (((d.markDefect m z).prepEnds .defective).defectTest z).awaitTest.haltTest.prepTest := rfl

theorem Dev.ringErased_sound (h : d.hiu.prep = some k) (m : Memory) (z : Zone) :
    ((d.ringErased true m z).hiu.ring[k]).state = .erased
      ∨ (d.hiu.target = none ∧ ((d.ringErased true m z).hiu.ring[k]).state = .active) := by
  obtain ⟨erased, target⟩ := Dev.prepEnds_ring h .erased
  rw [Dev.ringErased_ok]
  rcases Dev.awaitTest_state (.inl erased) with same | ⟨awaits, -, active⟩
  · exact .inl (Dev.prepTest_state (same.trans erased) nofun nofun)
  · exact .inr ⟨target.symm.trans awaits, Dev.prepTest_state active nofun nofun⟩

theorem Dev.ringErased_lost (h : d.hiu.prep = some k) (m : Memory) (z : Zone) :
    ((d.ringErased false m z).hiu.ring[k]).state = .defective := by
  let g := ((d.markDefect m z).prepEnds .defective).defectTest z
  have defective : (g.hiu.ring[k]).state = .defective := by
    rw [show g.hiu = ((d.markDefect m z).prepEnds .defective).hiu from (Dev.defectTest_frame _ _).2.2.2.2.2.2.2.2.1]
    exact (Dev.prepEnds_ring (Dev.markDefect_prep h m z) .defective).1
  have awaited : (g.awaitTest.hiu.ring[k]).state = .defective := by
    rcases Dev.awaitTest_state (.inr defective) with same | ⟨-, erased, -⟩
    · exact same.trans defective
    · exact absurd (defective.symm.trans erased) nofun
  rw [Dev.ringErased_fail]
  refine Dev.prepTest_state ?_ nofun nofun
  rw [(Dev.haltTest_sameRing g.awaitTest).ring]
  exact awaited

theorem Dev.ringErased_tells (d : Dev) (m : Memory) (z : Zone) : d.tellsDefect (d.ringErased false m z) z := by
  rw [Dev.ringErased_fail]
  exact (d.markDefect_tells m z).later ((Dev.prepEnds_flowsBut _ _).trans ((Dev.defectTest_flowsTo _ _).trans
    ((Dev.awaitTest_flowsTo _).trans ((Dev.haltTest_flowsTo _).trans (Dev.prepTest_flowsTo _)))).but)
    (by simp) (by simp)

theorem Dev.ringErased_defects (d : Dev) (m : Memory) (z : Zone) : z ∈ (d.ringErased false m z).arc.defects := by
  rw [Dev.ringErased_fail]
  simp

theorem Dev.ringErased_keepsAllBut (d : Dev) (ok : Bool) (m : Memory) (z : Zone) :
    d.keepsAllBut [.pif, .arc, .drm, .hiu, .tmb, .ntu, .rtu, .sst] (d.ringErased ok m z) := by
  intro c hc
  cases c <;> simp at hc <;> simp [Part.agrees]

theorem Dev.eraseEnded_keepsAllBut {parts : List Part} {e : Dev} (h : d.eraseEnded.keepsAllBut parts e)
    (arc : [.arc, .drm, .hiu, .ntu] ⊆ parts) : d.keepsAllBut parts e.settle := by
  have started : d.keepsAllBut [.arc] d.eraseEnded := by
    intro c hc
    cases c <;> simp at hc <;> rfl
  exact (started.mono fun x hx => arc (by simp at hx; simp [hx])).trans (h.trans ((Dev.settle_keepsAllBut _).mono arc))

end

/-- Settles O55: reclaim's start, the zone it starts with, when it starts, and the ends of the three erases. -/
theorem reclaimAndZoneErases : Obligations.ReclaimAndZoneErases := by
  refine ⟨fun s hpower => ⟨fun idle => ?_, fun ready => ⟨fun z rest left => ?_, fun z none retired => ⟨fun room first => ?_,
    fun full => ?_⟩⟩⟩, fun m => ⟨Plm.retiredZone_none, fun z => Plm.retiredZone_some⟩, fun d => Dev.reclaimReady_iff, ?_⟩
  · exact State.act_onlyIf_idle (due := Dev.reclaimReady) (f := fun d => d.startReclaim.settle) idle
  · refine (State.act_onlyIf_due (due := Dev.reclaimReady) (f := fun d => d.startReclaim.settle) hpower ready).trans ?_
    rw [Dev.startReclaim_left left]
    rfl
  · refine ⟨s.dev.startReclaim.settle,
      State.act_onlyIf_due (due := Dev.reclaimReady) (f := fun d => d.startReclaim.settle) hpower ready, ?_, ?_, ?_⟩
    · rw [Dev.settle_drm_writer, Dev.startReclaim_retired none retired, Dev.maintEntry_room (d := s.dev.setPlm _) _ room first]
      rfl
    · rw [Dev.settle_plm, Dev.startReclaim_retired none retired, Dev.maintEntry_room (d := s.dev.setPlm _) _ room first]
      rfl
    · exact ((Dev.startReclaim_keepsAllBut _).mono (by decide)).trans ((Dev.settle_keepsAllBut _).mono (by decide))
  · refine (State.act_onlyIf_due (due := Dev.reclaimReady) (f := fun d => d.startReclaim.settle) hpower ready).trans ?_
    rw [Dev.startReclaim_retired none retired, Dev.maintEntry_full (d := s.dev.setPlm _) _ full]
    rfl
  · intro s o phase z hpower runs defect
    refine ⟨fun erase => ?_, fun k erase prep => ?_, fun erase => ?_⟩
    · obtain ⟨t, flash, next, ok, fails⟩ := State.eraseDone_dev hpower erase runs o Dev.reclaimErased
      refine ⟨t, next, ?_, fun h => ⟨fun p => ?_, fun room first => ?_, fun full => ?_⟩, fun h => ⟨?_, ?_, ?_, fun p => ?_, ?_⟩⟩
      · cases o
        · exact ok rfl ▸ Dev.eraseEnded_keepsAllBut (Dev.reclaimErased_keepsAllBut _ _ _ _) (by decide)
        · exact fails rfl ▸ Dev.eraseEnded_keepsAllBut (Dev.reclaimErased_keepsAllBut _ _ _ _) (by decide)
      · rw [ok h, Dev.settle_plm, Dev.reclaimErased_pages]
      · rw [ok h, Dev.settle_plm, (Dev.settle_inner _).2.1]
        exact Dev.reclaimErased_room (d := s.dev.eraseEnded) flash z room first
      · rw [ok h, Dev.settle_plm, Dev.settle_drm_writer]
        exact Dev.reclaimErased_full (d := s.dev.eraseEnded) flash z full
      · rw [fails h, Dev.reclaimErased_fail]
        simp [Dev.setPlm]
      · rw [fails h, Dev.settle_plm, Dev.reclaimErased_lost, Plm.lost_zone]
      · rw [fails h, Dev.settle_plm, Dev.reclaimErased_lost]
        rfl
      · rw [fails h, Dev.settle_plm, Dev.reclaimErased_lost, Plm.lost_page]
      · rw [fails h]
        exact (Dev.reclaimErased_tells ..).settled
    · obtain ⟨t, flash, next, ok, fails⟩ := State.eraseDone_dev hpower erase runs o Dev.ringErased
      refine ⟨t, next, ?_, fun h => ?_, fun h => ⟨?_, ?_, ?_⟩⟩
      · cases o
        · exact ok rfl ▸ Dev.eraseEnded_keepsAllBut (Dev.ringErased_keepsAllBut _ _ _ _) (by decide)
        · exact fails rfl ▸ Dev.eraseEnded_keepsAllBut (Dev.ringErased_keepsAllBut _ _ _ _) (by decide)
      · rw [ok h, Dev.settle_ring]
        exact Dev.ringErased_sound (d := s.dev.eraseEnded) prep flash z
      · rw [fails h]
        simpa using Dev.ringErased_defects s.dev.eraseEnded flash z
      · rw [fails h, Dev.settle_ring]
        exact Dev.ringErased_lost (d := s.dev.eraseEnded) prep flash z
      · rw [fails h]
        exact (Dev.ringErased_tells ..).settled
    · obtain ⟨t, flash, next, ok, fails⟩ := State.eraseDone_dev hpower erase runs o Dev.spareErased
      refine ⟨t, next, ?_, fun h => ?_, fun h => ⟨?_, ?_, ?_, fun low => ?_⟩⟩
      · cases o
        · exact ok rfl ▸ Dev.eraseEnded_keepsAllBut (Dev.spareErased_keepsAllBut _ _ _ _) (by decide)
        · exact fails rfl ▸ Dev.eraseEnded_keepsAllBut (Dev.spareErased_keepsAllBut _ _ _ _) (by decide)
      · rw [ok h]
        rfl
      · rw [fails h, Dev.spareErased_fail]
        simp [Dev.setDrm]
      · rw [fails h, Dev.settle_drm_writer, Dev.spareErased_fail, (Dev.defectTest_frame _ _).2.2.2.2.2.2.2.1]
        rfl
      · rw [fails h]
        exact (Dev.spareErased_tells ..).settled
      · rw [fails h, Dev.spareErased_fail]
        simpa using Dev.defectTest_low _ z low

end Sys2Proof.Machine
end


section
/-! PROOFS. The ends of a save's program and of the erase of the settings zone (R67, R68, R172, R194). -/

namespace Sys2Proof.Machine

section
variable {d : Dev} {x : Save} {rest : List Save}

/-! ### Serving the next save -/

theorem Dev.sstServe_pif (d : Dev) (stored : d.arc.storeFailed = false) : d.sstServe.pif = d.pif := by
  unfold Dev.sstServe
  split
  · rfl
  split
  · rfl
  split
  · rfl
  · rw [if_neg (by rw [stored]; exact nofun)]
    rfl

theorem Dev.sstServe_sst (free : d.sst.busy = false) (stored : d.arc.storeFailed = false) :
    d.sstServe.sst = { d.sst with busy := !d.sst.saves.isEmpty } := by
  cases saves : d.sst.saves with
  | nil =>
    have idle : d.sstServe = d := by simp [Dev.sstServe, saves]
    have same : ({ d.sst with busy := false } : Sst) = d.sst := by rw [← free]
    rw [idle]
    exact same.symm
  | cons y l =>
    by_cases page : d.sst.savePos < 32
    · rw [Dev.sstServe_program free saves page]
      simp [Dev.setSst, saves, Dev.place]
    · rw [Dev.sstServe_erase free saves page stored]
      simp [Dev.setSst, saves, Dev.place]

/-! ### A save is answered -/

/-- The ports after the answer of a save, at the port that waits for it. -/
def Dev.answersSave (d : Dev) (q : Option Port) (o : SaveOutcome) : Pif := match q with
  | some q => (d.reply q .ok 0 (.save o)).pif
  | none => d.pif

theorem Dev.answersSave_eq {e : Dev} (h : e.pif = d.pif) (q : Option Port) (o : SaveOutcome) :
    (e.replyTo q .ok 0 (.save o)).pif = d.answersSave q o := by
  cases q with
  | none => exact h
  | some q => exact Dev.reply_congr h q _ _ _

theorem Dev.answersSave_congr {e : Dev} (h : e.pif = d.pif) (q : Option Port) (o : SaveOutcome) :
    e.answersSave q o = d.answersSave q o := by
  cases q with
  | none => exact h
  | some q => exact Dev.reply_congr h q _ _ _

theorem Dev.saveAnswered_eq (full : d.sst.saves = x :: rest) (stored : d.arc.storeFailed = false) (o : SaveOutcome) :
    (d.saveAnswered o).pif = d.answersSave x.port o
      ∧ (d.saveAnswered o).sst = { d.sst with saves := rest, busy := !rest.isEmpty } := by
  have served : d.saveAnswered o =
      ((d.setSst fun y => { y with saves := rest, busy := false }).replyTo x.port .ok 0 (.save o)).sstServe := by
    simp [Dev.saveAnswered, full]
  rw [served]
  let g := (d.setSst fun y => { y with saves := rest, busy := false }).replyTo x.port .ok 0 (.save o)
  have sst : g.sst = { d.sst with saves := rest, busy := false } := by simp [g, Dev.setSst]
  have ready : g.arc.storeFailed = false := by simp [g, Dev.setSst, stored]
  refine ⟨(g.sstServe_pif ready).trans (Dev.answersSave_eq (d := d) (e := d.setSst _) rfl x.port o), ?_⟩
  rw [Dev.sstServe_sst (by rw [sst]) ready, sst]

/-! ### The program of a save ends -/

/-- The state with the save position advanced. -/
abbrev Dev.pageTried (d : Dev) : Dev := d.setSst fun y => { y with savePos := d.sst.savePos + 1 }

theorem Dev.saveDone_ok (d : Dev) : d.saveDone true = d.pageTried.saveAnswered (.saved d.sst.savePos) := rfl

theorem Dev.saveDone_again (full : d.sst.saves = x :: rest) (first : x.fails = 0) :
    d.saveDone false =
      (d.pageTried.setSst fun y => { y with saves := { x with fails := 1 } :: rest, busy := false }).sstServe := by
  simp [Dev.saveDone, Dev.setSst, full, first]

theorem Dev.saveDone_lost (full : d.sst.saves = x :: rest) (second : x.fails ≠ 0) :
    d.saveDone false = d.pageTried.saveAnswered .notSaved := by
  simp [Dev.saveDone, Dev.setSst, full, second]

theorem Dev.saveDone_keepsAllBut (d : Dev) (ok : Bool) : d.keepsAllBut [.pif, .arc, .sst] (d.saveDone ok) := by
  intro c hc
  cases c <;> simp at hc <;> simp [Part.agrees]

/-! ### The saves are dropped -/

theorem Dev.dropSaves_sst (d : Dev) : d.dropSaves.sst = { d.sst with saves := [], busy := false } :=
  (Dev.answerSaves_frame d.sst.saves _).2.2.2.2.2.2.2.2.2.2.2.2.2.1

theorem Dev.dropSaves_of_none (none : d.sst.saves = []) (free : d.sst.busy = false) : d.dropSaves = d := by
  have same : d.setSst (fun s => { s with saves := [], busy := false }) = d := by
    simp [Dev.setSst, ← none, ← free]
  simp [Dev.dropSaves, none, same]

/-- The test of a defect leaves the ports and the settings where no save waits. -/
theorem Dev.defectTest_of_none (none : d.sst.saves = []) (free : d.sst.busy = false) (z : Zone) :
    (d.defectTest z).pif = d.pif ∧ (d.defectTest z).sst = d.sst := by
  unfold Dev.defectTest
  split
  · unfold Dev.enterStoreFailed
    split
    · exact ⟨rfl, rfl⟩
    · dsimp only
      split
      · rw [Dev.dropSaves_of_none (by simpa [Dev.withdraw, Dev.raise] using none)
          (by simpa [Dev.withdraw, Dev.raise] using free)]
        simp [Dev.withdraw, Dev.raise]
      · simp [Dev.raise]
  · exact ⟨rfl, rfl⟩

/-- No read is under way in a zone below the ring. -/
theorem Dev.defectiveRead_low {z : Zone} (low : z.val < 3) (m : Memory) (p : Port) : d.defectiveRead m z p = d := by
  unfold Dev.defectiveRead
  split
  next h prior _ =>
    refine if_neg fun same => ?_
    have val : (ringZone h.zone).val = 3 + h.zone.val := Nat.mod_eq_of_lt (by simp [Config.firstRingZone]; omega)
    rw [same] at val
    omega
  · rfl

theorem Dev.markDefect_pif {z : Zone} (low : z.val < 3) (d : Dev) (m : Memory) : (d.markDefect m z).pif = d.pif := by
  have reads (l : List Port) (e : Dev) : (l.foldl (fun d p => d.defectiveRead m z p) e) = e := by
    induction l with
    | nil => rfl
    | cons p l ih => rw [List.foldl_cons, Dev.defectiveRead_low low, ih]
  unfold Dev.markDefect
  dsimp only
  rw [reads]
  simp

/-! ### The erase of the settings zone ends -/

theorem Dev.settingsErased_ok (full : d.sst.saves = x :: rest) (m : Memory) (z : Zone) : d.settingsErased true m z =
    (d.setSst fun y => { y with savePos := 0, busy := true }).place .save (saveJob d.drm.epoch 0 x.record) := by
  have served := Dev.sstServe_program (d := d.setSst fun y => { y with savePos := 0, busy := false }) rfl full (Nat.zero_lt_succ _)
  exact served

theorem Dev.settingsErased_fail (d : Dev) (m : Memory) (z : Zone) :
    d.settingsErased false m z = (d.markDefect m z).dropSaves.defectTest z := rfl

theorem Dev.settingsErased_drops (d : Dev) (m : Memory) (z : Zone) :
    (d.settingsErased false m z).pif = (d.markDefect m z).dropSaves.pif
      ∧ (d.settingsErased false m z).sst = { d.sst with saves := [], busy := false } := by
  have sst : (d.markDefect m z).dropSaves.sst = { d.sst with saves := [], busy := false } := by
    rw [Dev.dropSaves_sst]
    simp
  obtain ⟨pif, kept⟩ := Dev.defectTest_of_none (d := (d.markDefect m z).dropSaves) (by rw [sst]) (by rw [sst]) z
  exact ⟨pif, kept.trans sst⟩

theorem Dev.settingsErased_keepsAllBut (d : Dev) (ok : Bool) (m : Memory) (z : Zone) :
    d.keepsAllBut [.pif, .arc, .drm, .hiu, .tmb, .ntu, .rtu, .sst] (d.settingsErased ok m z) := by
  intro c hc
  cases c <;> simp at hc <;> simp [Part.agrees]

/-- The reply to a dropped save at the port that waits for it. -/
def PortState.storeFailedReply (x : PortState) (code tag : Byte) : Reply :=
  ⟨code, tag, .storeFailed, if x.overlap = 0 then 0x00 else 0x01, .empty⟩

theorem Dev.reply_storeFailed {q : Port} {code tag : Byte} (waits : (d.port q).exchange = .outstanding code tag) :
    d.reply q .storeFailed 0 .empty = d.deliver q code ((d.port q).storeFailedReply code tag) := by
  rw [Dev.reply_of_outstanding waits (by decide)]
  congr 2
  by_cases none : (d.port q).overlap = 0
  · rw [none]
    rfl
  · rw [if_pos (Nat.pos_of_ne_zero none), if_neg none]
    rfl

/-- The state from which the answers to the dropped saves go out. -/
theorem Dev.dropSaves_eq (d : Dev) : d.dropSaves = d.sst.saves.foldl
    (fun d s => d.replyTo s.port .storeFailed 0 .empty) (d.setSst fun s => { s with saves := [], busy := false }) := rfl

/-- Where the answers to the dropped saves leave the port of one of them, and the line of SVC. -/
theorem Dev.dropSaves_answers {q : Port} {code tag : Byte} {y : Save} (mem : y ∈ d.sst.saves) (own : y.port = some q)
    (waits : (d.port q).exchange = .outstanding code tag) :
    d.dropSaves.port q = { d.port q with
      exchange := .ready code tag ((d.port q).storeFailedReply code tag)
      sent := if q = .svc ∧ d.pif.svcOut = none then [0xA5] else (d.port q).sent }
    ∧ (q = .svc → d.dropSaves.pif.svcOut = if d.pif.svcOut = none
        then some ⟨((d.port q).storeFailedReply code tag).frame, 0, true⟩ else d.pif.svcOut) := by
  let g := d.setSst fun s => { s with saves := [], busy := false }
  obtain ⟨port, line⟩ := Dev.answerSaves_answers (q := q) d.sst.saves g waits ⟨y, mem, own⟩
  have reply : g.reply q .storeFailed 0 .empty = g.deliver q code ((d.port q).storeFailedReply code tag) :=
    Dev.reply_storeFailed (d := g) waits
  rw [reply, Dev.port_deliver, if_pos rfl] at port
  rw [reply, Dev.svcOut_deliver] at line
  refine ⟨port, fun svc => (line svc).trans ?_⟩
  simp only [svc, true_and]
  rfl

theorem Dev.dropSaves_elsewhere {q : Port} (others : ∀ y ∈ d.sst.saves, y.port ≠ some q) :
    d.dropSaves.port q = d.port q ∧ (q = .svc → d.dropSaves.pif.svcOut = d.pif.svcOut) :=
  Dev.answerSaves_elsewhere q d.sst.saves (d.setSst fun s => { s with saves := [], busy := false }) (.inr others)

section
variable {g e : Dev} (before : g.pif = d.pif) (saves : g.sst.saves = d.sst.saves) (final : e.pif = g.dropSaves.pif)
include before saves final

theorem Dev.dropSaves_answersAfter {q : Port} {code tag : Byte} {y : Save} (mem : y ∈ d.sst.saves)
    (own : y.port = some q) (waits : (d.port q).exchange = .outstanding code tag) :
    e.port q = { d.port q with
      exchange := .ready code tag ((d.port q).storeFailedReply code tag)
      sent := if q = .svc ∧ d.pif.svcOut = none then [0xA5] else (d.port q).sent }
    ∧ (q = .svc → e.pif.svcOut = if d.pif.svcOut = none
        then some ⟨((d.port q).storeFailedReply code tag).frame, 0, true⟩ else d.pif.svcOut) := by
  have port : g.port q = d.port q := congrArg (fun x : Pif => x.ports[Port.idx q]) before
  have after : e.port q = g.dropSaves.port q := congrArg (fun x : Pif => x.ports[Port.idx q]) final
  rw [after, final, ← before, ← port]
  exact Dev.dropSaves_answers (d := g) (saves ▸ mem) own (port ▸ waits)

theorem Dev.dropSaves_elsewhereAfter {q : Port} (others : ∀ y ∈ d.sst.saves, y.port ≠ some q) :
    e.port q = d.port q ∧ (q = .svc → e.pif.svcOut = d.pif.svcOut) := by
  have port : g.port q = d.port q := congrArg (fun x : Pif => x.ports[Port.idx q]) before
  have after : e.port q = g.dropSaves.port q := congrArg (fun x : Pif => x.ports[Port.idx q]) final
  rw [after, final, ← before, ← port]
  exact Dev.dropSaves_elsewhere (d := g) (saves ▸ others)

end

end

/-- Settles O54: the ends of a save's program, and of the erase of the settings zone. -/
theorem savesComplete : Obligations.SavesComplete := by
  intro s x rest hpower full
  constructor
  · intro o p a data b spare op stored good answered pos
    obtain ⟨t, runs, ok, fails⟩ := State.programDone_dev (o := o) hpower op fun ok d => d.saveDone ok
    have answers (y : SaveOutcome) : s.dev.opEnded.pageTried.answersSave x.port y = answered x.port y := by
      refine (Dev.answersSave_congr (d := s.dev) (e := s.dev.opEnded.pageTried) rfl x.port y).trans ?_
      cases x.port <;> rfl
    have pif (e : Dev) : e.settle.pif = e.pif := (Dev.settle_frame _).1
    have sst (e : Dev) : e.settle.sst = e.sst := by simp
    have kept (b : Bool) : s.dev.keepsAllBut [.pif, .arc, .drm, .hiu, .ntu, .sst] (s.dev.opEnded.saveDone b).settle := by
      have started : s.dev.keepsAllBut [.arc] s.dev.opEnded := by
        intro c hc
        cases c <;> simp at hc <;> rfl
      exact (started.mono (by decide)).trans (((Dev.saveDone_keepsAllBut _ b).mono (by decide)).trans
        ((Dev.settle_keepsAllBut _).mono (by decide)))
    refine ⟨t, runs, ?_, fun h => ?_, fun h first => ?_, fun h second => ?_⟩
    · by_cases h : good
      · exact ok h ▸ kept true
      · exact fails h ▸ kept false
    · obtain ⟨ports, left⟩ := Dev.saveAnswered_eq (d := s.dev.opEnded.pageTried) full stored (.saved s.dev.sst.savePos)
      rw [ok h, pif, sst]
      exact ⟨ports.trans (answers _), left⟩
    · let g := s.dev.opEnded.pageTried.setSst fun y => { y with saves := { x with fails := 1 } :: rest, busy := false }
      rw [fails h, pif, sst, Dev.saveDone_again (d := s.dev.opEnded) full first]
      exact ⟨Dev.sstServe_pif g stored, Dev.sstServe_sst (d := g) rfl stored⟩
    · obtain ⟨ports, left⟩ := Dev.saveAnswered_eq (d := s.dev.opEnded.pageTried) full stored .notSaved
      rw [fails h, pif, sst, Dev.saveDone_lost (d := s.dev.opEnded) full second]
      exact ⟨ports.trans (answers _), left⟩
  · intro o phase z erase runs
    obtain ⟨t, flash, next, ok, fails⟩ := State.eraseDone_dev hpower erase runs o Dev.settingsErased
    have sst (e : Dev) : e.settle.sst = e.sst := by simp
    have pif (e : Dev) : e.settle.pif = e.pif := (Dev.settle_frame _).1
    refine ⟨t, next, ?_, fun h => ⟨?_, ?_⟩, fun h => ?_⟩
    · cases o
      · exact ok rfl ▸ Dev.eraseEnded_keepsAllBut (Dev.settingsErased_keepsAllBut _ _ _ _) (by decide)
      · exact fails rfl ▸ Dev.eraseEnded_keepsAllBut (Dev.settingsErased_keepsAllBut _ _ _ _) (by decide)
    · rw [ok h, sst, Dev.settingsErased_ok (d := s.dev.eraseEnded) full]
      rfl
    · rw [ok h, Dev.settingsErased_ok (d := s.dev.eraseEnded) full]
      exact (Dev.settle_asksTo _).mem (List.mem_append_right _ List.mem_cons_self)
    · obtain ⟨ports, dropped⟩ := s.dev.eraseEnded.settingsErased_drops flash z
      have final : t.dev.pif = (s.dev.eraseEnded.markDefect flash z).dropSaves.pif := by rw [fails h, pif, ports]
      have saves : (s.dev.eraseEnded.markDefect flash z).sst.saves = s.dev.sst.saves := by simp
      have before (low : z.val < 3) : (s.dev.eraseEnded.markDefect flash z).pif = s.dev.pif :=
        Dev.markDefect_pif low _ _
      refine ⟨by rw [fails h, sst, dropped], ?_, fun low => ?_, ?_, fun q low others => ?_⟩
      · rw [fails h, Dev.settingsErased_fail]
        simp
      · rw [fails h, Dev.settingsErased_fail]
        simpa using Dev.defectTest_low _ z low
      · intro y q code tag low mem own waits
        exact Dev.dropSaves_answersAfter (before low) saves final mem own waits
      · exact Dev.dropSaves_elsewhereAfter (before low) saves final others

end Sys2Proof.Machine
end


section
/-! PROOFS. The end of a history flush: the page, and the ring behind page 31 (R117, R118, R120, R121, R124). -/

namespace Sys2Proof.Machine

/-! ### The successor -/

/-- How far a ring zone stands behind another in ring order. -/
def behind (z k : RingIdx) : Nat := (k.val + 15 - z.val) % 16

theorem ringAfter_rises : ∀ z : RingIdx, (ringAfter z).Pairwise fun a b => behind z a < behind z b := by decide

theorem mem_ringAfter : ∀ z k : RingIdx, k ∈ ringAfter z := by decide

theorem behind_le (z k : RingIdx) : behind z k ≤ 15 := Nat.le_of_lt_succ (Nat.mod_lt _ (by decide))

theorem behind_self : ∀ z : RingIdx, behind z z = 15 := by decide

/-- A zone that ring order may take behind another: usable, unpinned and not that one. -/
def Hiu.usable (h : Hiu) (z k : RingIdx) : Prop := k ≠ z ∧ (h.ring[k]).state ≠ .defective ∧ (h.ring[k]).pins = []

section
variable {h : Hiu} {k : RingIdx}

theorem Hiu.successor_spec {j : RingIdx} (found : h.successor = some j) :
    (h.ring[j]).state ≠ .defective ∧ (h.ring[j]).pins = [] := by
  simpa using List.find?_some found

theorem Hiu.successor_usable {j : RingIdx} (found : h.successor = some j) (ne : j ≠ h.newest) : h.usable h.newest j :=
  ⟨ne, Hiu.successor_spec found⟩

theorem Hiu.successor_nearest (usable : h.usable h.newest k)
    (least : ∀ j, h.usable h.newest j → behind h.newest k ≤ behind h.newest j) : h.successor = some k := by
  obtain ⟨-, sound, unpinned⟩ := usable
  refine find?_of_least (behind h.newest) (ringAfter_rises _) (mem_ringAfter _ k) (by simpa using And.intro sound unpinned)
    fun j _ hj => ?_
  by_cases own : j = h.newest
  · rw [own, behind_self]
    exact behind_le ..
  · exact least j ⟨own, by simpa using hj⟩

end

/-! ### The ring advances -/

section
variable {d e : Dev} {z k : RingIdx}

theorem Dev.zoneFull_ring (d : Dev) (z k : RingIdx) : (d.zoneFull z).hiu.ring[k] =
    if z = k then { d.hiu.ring[k] with state := .filled } else d.hiu.ring[k] := get_modify ..

theorem Dev.zoneFull_next (ne : k ≠ z) : (d.zoneFull z).hiu.ring[k] = d.hiu.ring[k] := by
  rw [Dev.zoneFull_ring, if_neg ne.symm]

theorem Dev.zoneFull_usable : (d.zoneFull z).hiu.usable z k ↔ d.hiu.usable z k := by
  unfold Hiu.usable
  by_cases same : z = k
  · simp [same]
  · rw [Dev.zoneFull_ring, if_neg same]

theorem Dev.succeed_ring (d : Dev) : (d.succeed z).hiu.ring[z] = d.hiu.ring[z] := by
  unfold Dev.succeed
  split
  · split
    next ok => rw [Dev.activate_ring, if_neg ok.2]
    · rfl
  · rfl

theorem Dev.prepTest_filled (h : (d.hiu.ring[z]).state = .filled) :
    (d.prepTest.hiu.ring[z]).state = .filled ∨ (d.prepTest.hiu.ring[z]).state = .erasing := by
  have prepared (j : RingIdx) :
      ((d.prepare j).hiu.ring[z]).state = .filled ∨ ((d.prepare j).hiu.ring[z]).state = .erasing := by
    by_cases same : j = z
    · exact .inr (by rw [same]; exact congrArg RingZone.state (get_modify_same ..))
    · exact .inl (by rw [Dev.prepare_ring_ne same, h])
  unfold Dev.prepTest
  split
  · exact .inl h
  split
  · exact prepared _
  split
  · split
    · exact prepared _
    · exact .inl h
  · exact .inl h

theorem Dev.ringAdvance_zone (d : Dev) (z : RingIdx) : ((d.ringAdvance z).hiu.ring[z]).state = .filled
    ∨ ((d.ringAdvance z).hiu.ring[z]).state = .erasing := by
  rw [Dev.ringAdvance_eq]
  refine Dev.prepTest_filled ?_
  rw [Dev.succeed_ring, Dev.zoneFull_ring, if_pos rfl]

theorem Dev.ringAdvance_none (none : ∀ k, ¬d.hiu.usable z k) : (d.ringAdvance z).hiu.target = .none := by
  have stays : (d.zoneFull z).succeed z = d.zoneFull z := by
    unfold Dev.succeed
    split
    next j found =>
      refine if_neg fun ⟨_, ne⟩ => none j (Dev.zoneFull_usable.1 (Hiu.successor_usable found ne))
    · rfl
  rw [Dev.ringAdvance_eq, stays, (Dev.prepTest_target _).1]
  rfl

section
variable (usable : d.hiu.usable z k) (least : ∀ j, d.hiu.usable z j → behind z k ≤ behind z j)
include usable least

theorem Dev.zoneFull_successor : (d.zoneFull z).hiu.successor = some k :=
  Hiu.successor_nearest (h := (d.zoneFull z).hiu) (Dev.zoneFull_usable.2 usable) fun j hj =>
    least j (Dev.zoneFull_usable.1 hj)

theorem Dev.ringAdvance_erased (erased : (d.hiu.ring[k]).state = .erased) :
    (d.ringAdvance z).hiu.target = some ⟨k, 0, 0⟩ ∧ ((d.ringAdvance z).hiu.ring[k]).state = .active
      ∧ ((d.ringAdvance z).hiu.ring[k]).pins = d.hiu.deferred ∧ (d.ringAdvance z).hiu.deferred = []
      ∧ (d.ringAdvance z).hiu.newest = k := by
  have next := Dev.zoneFull_next (d := d) usable.1
  have takes : (d.zoneFull z).succeed z = (d.zoneFull z).activate k := by
    unfold Dev.succeed
    rw [Dev.zoneFull_successor usable least]
    exact if_pos ⟨by rw [next, erased], usable.1⟩
  have ring : ((d.zoneFull z).activate k).hiu.ring[k] =
      { d.hiu.ring[k] with state := .active, pins := d.hiu.deferred ++ (d.hiu.ring[k]).pins } := by
    rw [Dev.activate_ring, if_pos rfl, next]
    rfl
  have kept : (d.ringAdvance z).hiu.ring[k] = ((d.zoneFull z).activate k).hiu.ring[k] := by
    rw [Dev.ringAdvance_eq, takes]
    exact Dev.prepTest_ring (by rw [ring]; exact nofun) (by rw [ring]; exact nofun)
  obtain ⟨target, newest, deferred⟩ := Dev.prepTest_target ((d.zoneFull z).activate k)
  obtain ⟨atStart, last, moved, -⟩ := (d.zoneFull z).activate_target k
  rw [kept, ring, usable.2.2, List.append_nil, Dev.ringAdvance_eq, takes]
  exact ⟨target.trans atStart, rfl, rfl, deferred.trans moved, newest.trans last⟩

theorem Dev.ringAdvance_waits (other : (d.hiu.ring[k]).state ≠ .erased) :
    d.ringAdvance z = (d.zoneFull z).prepTest := by
  have stays : (d.zoneFull z).succeed z = d.zoneFull z := by
    unfold Dev.succeed
    rw [Dev.zoneFull_successor usable least]
    exact if_neg fun h => other (by rw [← Dev.zoneFull_next (d := d) usable.1]; exact h.1)
  rw [Dev.ringAdvance_eq, stays]

theorem Dev.ringAdvance_awaits (other : (d.hiu.ring[k]).state ≠ .erased) :
    (d.ringAdvance z).hiu.target = none ∧ (d.ringAdvance z).hiu.newest = z := by
  obtain ⟨target, newest, -⟩ := Dev.prepTest_target (d.zoneFull z)
  rw [Dev.ringAdvance_waits usable least other]
  exact ⟨target, newest⟩

theorem Dev.ringAdvance_prepares (filled : (d.hiu.ring[k]).state = .filled) (idle : d.hiu.prep = none)
    (none : ∀ j : RingIdx, (d.hiu.ring[j]).state ≠ .erasing) : d.ringAdvance z = (d.zoneFull z).prepare k := by
  have noErase : firstFin 16 (fun j => ((d.zoneFull z).hiu.ring[j]).state == .erasing) = .none := by
    refine firstFin_none.2 fun j => ?_
    rw [Dev.zoneFull_ring]
    split
    · rfl
    · simpa using none j
  rw [Dev.ringAdvance_waits usable least (by rw [filled]; exact nofun), Dev.prepTest, if_neg (by
    rw [show (d.zoneFull z).hiu.prep = d.hiu.prep from rfl, idle]
    exact nofun), noErase]
  dsimp only
  rw [Dev.zoneFull_successor usable least]
  exact if_pos (by rw [Dev.zoneFull_next (d := d) usable.1, filled])

end

theorem Dev.prepare_spec (d : Dev) (k : RingIdx) : (d.prepare k).hiu.prep = some k
    ∧ ((d.prepare k).hiu.ring[k]).state = .erasing ∧ ((d.prepare k).hiu.ring[k]).range = none
    ∧ ArrReq.mk .ringPrep (.erase (ringZone k)) ∈ (d.prepare k).arc.waiting :=
  ⟨rfl, congrArg RingZone.state (get_modify_same ..), congrArg RingZone.range (get_modify_same ..),
    List.mem_append_right _ List.mem_cons_self⟩

theorem Dev.ringAdvance_start (d : Dev) (z : RingIdx) : (d.ringAdvance z).hiu.atPageStart := by
  intro t target
  rw [Dev.ringAdvance_eq, (Dev.prepTest_target _).1] at target
  unfold Dev.succeed at target
  split at target
  · split at target
    · rw [(Dev.activate_target _ _).1] at target
      cases target
      rfl
    · cases target
  · cases target

/-! ### The page advances -/

section
variable {w : WritePage} (target : d.hiu.target = some w)
include target

theorem Dev.pageAdvance_low (low : w.page.val < 31) :
    d.pageAdvance = d.setHiu fun h => { h with target := some ⟨w.zone, w.page + 1, 0⟩, closed := false } := by
  have notLast : w.page ≠ 31 := fun h => by simp [h] at low
  simp [Dev.pageAdvance, target, notLast]

theorem Dev.pageAdvance_last (last : w.page.val = 31) : d.pageAdvance = d.ringAdvance w.zone := by
  have isLast : w.page = 31 := Fin.ext last
  simp [Dev.pageAdvance, target, isLast]

theorem Dev.pageAdvance_start : d.pageAdvance.hiu.atPageStart := by
  by_cases low : w.page.val < 31
  · rw [Dev.pageAdvance_low target low]
    intro t h
    cases h
    rfl
  · rw [Dev.pageAdvance_last target (by omega)]
    exact d.ringAdvance_start w.zone

/-- Below page 31 a move leaves the ring, and the target stays or goes to the next page. -/
theorem Dev.moveOnce_low (low : w.page.val < 31) (h : d.moveOnce = some e) : e.hiu.ring = d.hiu.ring
    ∧ (e.hiu.target = some w ∨ e.hiu.target = some ⟨w.zone, w.page + 1, 0⟩) := by
  unfold Dev.moveOnce at h
  split at h
  next => cases h
  next x rest intake =>
    rw [target] at h
    dsimp only at h
    split at h
    · cases h
    split at h
    · cases h
      have same := d.stageHead_sameRing x rest
      exact ⟨same.ring, .inl (same.target.trans target)⟩
    · cases h
      have marked := Hiu.sameRing_markTo d.hiu (d.hiu.lastInPage w.zone)
      split
      · rw [Dev.pageAdvance_low (w := w) (marked.target.trans target) low]
        exact ⟨marked.ring, .inr rfl⟩
      · exact ⟨marked.ring, .inl (marked.target.trans target)⟩

theorem Dev.moveLoop_low (low : w.page.val < 31) (n : Nat) : (d.moveLoop n).hiu.ring = d.hiu.ring := by
  induction n generalizing d with
  | zero => rfl
  | succ n ih =>
    unfold Dev.moveLoop
    split
    next e moved =>
      obtain ⟨ring, stays | next⟩ := Dev.moveOnce_low target low moved
      · exact (ih stays).trans ring
      · have start : e.hiu.atPageStart := fun t h => by
          rw [next] at h
          cases h
          rfl
        exact (Dev.moveLoop_sameRing n start).ring.trans ring
    · rfl

end

theorem Dev.hiuMove_of_none (none : d.hiu.intake = []) : d.hiuMove = d := by
  have rests : d.moveOnce = .none := by simp [Dev.moveOnce, none]
  unfold Dev.hiuMove Dev.moveLoop
  rw [rests]

theorem Dev.logsTo.keepsAllBut (h : d.logsTo e) : d.keepsAllBut [.arc, .drm, .hiu, .tmb, .ntu] e := by
  intro c hc
  cases c <;> simp at hc <;> exact (congrArg _ h).trans rfl

end

end Sys2Proof.Machine
end


section
/-! PROOFS. HISTORY_FLUSH_DONE (R117, R118, R120, R121, R124). -/

namespace Sys2Proof.Machine

section
variable {d : Dev} {w : WritePage}

theorem Dev.armFlush_hiu (d : Dev) : d.armFlush.hiu = d.hiu := by
  unfold Dev.armFlush Dev.deadlines
  split <;> rfl

theorem Dev.flushEnds_hiu (d : Dev) : d.flushEnds.hiu = { d.hiu with
    writer := .idle, flushing := 0
    mark := if coveredBy d.hiu.mark (d.hiu.staging ++ d.hiu.intake) then d.hiu.mark else none } := by
  unfold Dev.flushEnds
  dsimp only
  split
  · rfl
  · rw [Dev.armFlush_hiu]
    rfl

/-! ### The state before the page advances -/

/-- The state with the flushed entries out of the staging block and in the range of their zone. -/
def Dev.pageFlushed (d : Dev) (w : WritePage) : Dev := (d.setHiu fun h =>
  { h with
    staging := h.staging.drop h.flushing
    target := some { w with programmed := w.programmed + entriesSize (h.staging.take h.flushing) }
    ring := modify h.ring w.zone (·.flushed (h.staging.take h.flushing)) }).flushEnds

/-- The state with the page of a failed flush closed. -/
def Dev.pageLost (d : Dev) : Dev := (d.setHiu fun h => { h with closed := true }).flushEnds

theorem Dev.flushFail_eq (d : Dev) : d.flushFail = d.pageLost.pageAdvance.hiuMove := rfl

theorem Dev.pageFlushed_hiu (d : Dev) (w : WritePage) :
    (d.pageFlushed w).hiu.staging = d.hiu.staging.drop d.hiu.flushing
      ∧ (d.pageFlushed w).hiu.intake = d.hiu.intake
      ∧ (d.pageFlushed w).hiu.target =
        some { w with programmed := w.programmed + entriesSize (d.hiu.staging.take d.hiu.flushing) }
      ∧ (d.pageFlushed w).hiu.ring = modify d.hiu.ring w.zone (·.flushed (d.hiu.staging.take d.hiu.flushing))
      ∧ (d.pageFlushed w).hiu.deferred = d.hiu.deferred ∧ (d.pageFlushed w).hiu.prep = d.hiu.prep
      ∧ (d.pageFlushed w).hiu.closed = d.hiu.closed := by
  unfold Dev.pageFlushed
  rw [Dev.flushEnds_hiu]
  exact ⟨rfl, rfl, rfl, rfl, rfl, rfl, rfl⟩

theorem Dev.pageLost_hiu (d : Dev) : d.pageLost.hiu.unflushed = d.hiu.unflushed
    ∧ d.pageLost.hiu.target = d.hiu.target ∧ d.pageLost.hiu.ring = d.hiu.ring
    ∧ d.pageLost.hiu.deferred = d.hiu.deferred ∧ d.pageLost.hiu.prep = d.hiu.prep := by
  unfold Dev.pageLost Hiu.unflushed
  rw [Dev.flushEnds_hiu]
  exact ⟨rfl, rfl, rfl, rfl, rfl⟩

theorem Dev.flushOk_advances (full : w.programmed + entriesSize (d.hiu.staging.take d.hiu.flushing) = 1024
    ∨ (d.hiu.closed = true ∧ d.hiu.staging.drop d.hiu.flushing = [])) :
    d.flushOk w = (d.pageFlushed w).pageAdvance.hiuMove := by
  obtain ⟨staging, -, -, -, -, -, closed⟩ := d.pageFlushed_hiu w
  refine congrArg Dev.hiuMove (if_pos ?_)
  show ((d.pageFlushed w).hiu.closed = true ∧ (d.pageFlushed w).hiu.staging = []) ∨ _
  rw [staging, closed]
  exact full.symm

theorem Dev.flushOk_stays (open' : ¬(w.programmed + entriesSize (d.hiu.staging.take d.hiu.flushing) = 1024
    ∨ (d.hiu.closed = true ∧ d.hiu.staging.drop d.hiu.flushing = []))) :
    d.flushOk w = (d.pageFlushed w).hiuMove := by
  obtain ⟨staging, -, -, -, -, -, closed⟩ := d.pageFlushed_hiu w
  refine congrArg Dev.hiuMove (if_neg ?_)
  show ¬(((d.pageFlushed w).hiu.closed = true ∧ (d.pageFlushed w).hiu.staging = []) ∨ _)
  rw [staging, closed]
  exact fun h => open' h.symm

theorem RingZone.flushed_state (z : RingZone) (l : List HEntry) :
    (z.flushed l).state = z.state ∧ (z.flushed l).pins = z.pins := by
  unfold RingZone.flushed
  split <;> exact ⟨rfl, rfl⟩

theorem RingZone.flushed_range {l : List HEntry} {x y : HEntry} (first : l.head? = some x) (last : l.getLast? = some y)
    (z : RingZone) : (z.flushed l).range = some ((z.range.map (·.1)).getD x.seq, y.seq) := by
  simp [RingZone.flushed, first, last]

/-! ### The page advances, and the entries move -/

/-- The history before a page advances, as the statement sees it: the target's zone as it was but for its range. -/
structure Hiu.atFlushEnd (h g : Hiu) (w : WritePage) : Prop where
  target : ∃ n, g.target = some { w with programmed := n }
  state (k : RingIdx) : (g.ring[k]).state = (h.ring[k]).state ∧ (g.ring[k]).pins = (h.ring[k]).pins
  deferred : g.deferred = h.deferred
  prep : g.prep = h.prep

theorem Dev.pageFlushed_atFlushEnd (d : Dev) (w : WritePage) : d.hiu.atFlushEnd (d.pageFlushed w).hiu w := by
  obtain ⟨-, -, target, ring, deferred, prep, -⟩ := d.pageFlushed_hiu w
  refine ⟨⟨_, target⟩, fun k => ?_, deferred, prep⟩
  rw [ring, get_modify]
  split
  · exact RingZone.flushed_state ..
  · exact ⟨rfl, rfl⟩

theorem Dev.pageLost_atFlushEnd (target : d.hiu.target = some w) : d.hiu.atFlushEnd d.pageLost.hiu w := by
  obtain ⟨-, same, ring, deferred, prep⟩ := d.pageLost_hiu
  exact ⟨⟨w.programmed, same.trans target⟩, fun k => by rw [ring]; exact ⟨rfl, rfl⟩, deferred, prep⟩

section
variable {h : Hiu} (ends : h.atFlushEnd d.hiu w)
include ends

theorem Hiu.atFlushEnd.usable {k : RingIdx} : d.hiu.usable w.zone k ↔ h.usable w.zone k := by
  unfold Hiu.usable
  rw [(ends.state k).1, (ends.state k).2]

theorem Hiu.atFlushEnd.moved_low (low : w.page.val < 31) : d.pageAdvance.hiuMove.hiu.ring = d.hiu.ring
    ∧ d.pageAdvance.hiuMove.hiu.target = some ⟨w.zone, w.page + 1, 0⟩ := by
  obtain ⟨n, target⟩ := ends.target
  have same := Dev.moveLoop_sameRing 256 (Dev.pageAdvance_start target)
  rw [Dev.pageAdvance_low target low] at same ⊢
  exact ⟨same.ring, same.target⟩

/-- What a flush that ends page 31 does to the ring (R120, R121, R124). -/
theorem Hiu.atFlushEnd.moved_last (last : w.page.val = 31) :
    ((d.pageAdvance.hiuMove.hiu.ring[w.zone]).state = .filled
        ∨ (d.pageAdvance.hiuMove.hiu.ring[w.zone]).state = .erasing)
      ∧ ((∀ k, ¬h.usable w.zone k) → d.pageAdvance.hiuMove.hiu.target = none)
      ∧ ∀ k, h.usable w.zone k → (∀ j, h.usable w.zone j → behind w.zone k ≤ behind w.zone j) →
        ((h.ring[k]).state = .erased →
          d.pageAdvance.hiuMove.hiu.target = some ⟨k, 0, 0⟩
            ∧ (d.pageAdvance.hiuMove.hiu.ring[k]).state = .active
            ∧ (d.pageAdvance.hiuMove.hiu.ring[k]).pins = h.deferred
            ∧ d.pageAdvance.hiuMove.hiu.deferred = [] ∧ d.pageAdvance.hiuMove.hiu.newest = k)
        ∧ ((h.ring[k]).state ≠ .erased →
          d.pageAdvance.hiuMove.hiu.target = none ∧ d.pageAdvance.hiuMove.hiu.newest = w.zone)
        ∧ ((h.ring[k]).state = .filled → h.prep = none → (∀ j : RingIdx, (h.ring[j]).state ≠ .erasing) →
          d.pageAdvance.hiuMove.hiu.prep = some k ∧ (d.pageAdvance.hiuMove.hiu.ring[k]).state = .erasing
            ∧ (d.pageAdvance.hiuMove.hiu.ring[k]).range = none
            ∧ ArrReq.mk .ringPrep (.erase (ringZone k)) ∈ d.pageAdvance.hiuMove.arc.waiting) := by
  obtain ⟨n, target⟩ := ends.target
  have same : (d.ringAdvance w.zone).hiu.sameRing (d.ringAdvance w.zone).hiuMove.hiu :=
    Dev.moveLoop_sameRing 256 (d.ringAdvance_start w.zone)
  rw [Dev.pageAdvance_last target last, same.ring, same.target, same.deferred, same.newest, same.prep]
  refine ⟨d.ringAdvance_zone w.zone, fun none => ?_, fun k usable least => ⟨fun erased => ?_, fun other => ?_,
    fun filled idle none => ?_⟩⟩
  · exact Dev.ringAdvance_none fun k hk => none k (ends.usable.1 hk)
  all_goals
    have usable := ends.usable.2 usable
    have least (j : RingIdx) (hj : d.hiu.usable w.zone j) : behind w.zone k ≤ behind w.zone j :=
      least j (ends.usable.1 hj)
  · rw [← ends.deferred]
    exact Dev.ringAdvance_erased usable least ((ends.state k).1.trans erased)
  · exact Dev.ringAdvance_awaits usable least fun h => other ((ends.state k).1.symm.trans h)
  · have prepares := Dev.ringAdvance_prepares usable least ((ends.state k).1.trans filled) (ends.prep.trans idle)
      fun j hj => none j ((ends.state j).1.symm.trans hj)
    obtain ⟨prep, state, range, asked⟩ := (d.zoneFull w.zone).prepare_spec k
    rw [prepares]
    exact ⟨prep, state, range, (Dev.moveLoop_asksTo 256 _).mem asked⟩

end

theorem Dev.flushOk_unflushed (d : Dev) (w : WritePage) :
    ∃ l, (d.flushOk w).hiu.unflushed = d.hiu.staging.drop d.hiu.flushing ++ d.hiu.intake ++ l := by
  obtain ⟨staging, intake, -⟩ := d.pageFlushed_hiu w
  have left : (d.pageFlushed w).hiu.unflushed = d.hiu.staging.drop d.hiu.flushing ++ d.hiu.intake := by
    rw [Hiu.unflushed, staging, intake]
  by_cases full : w.programmed + entriesSize (d.hiu.staging.take d.hiu.flushing) = 1024
      ∨ (d.hiu.closed = true ∧ d.hiu.staging.drop d.hiu.flushing = [])
  · obtain ⟨l, more⟩ := Dev.unflushed_hiuMove (d.pageFlushed w).pageAdvance
    rw [Dev.flushOk_advances full]
    exact ⟨l, by rw [more, Dev.unflushed_pageAdvance, left]⟩
  · rw [Dev.flushOk_stays full, ← left]
    exact Dev.unflushed_hiuMove _

theorem Dev.flushFail_unflushed (d : Dev) : ∃ l, d.flushFail.hiu.unflushed = d.hiu.unflushed ++ l := by
  obtain ⟨l, more⟩ := Dev.unflushed_hiuMove d.pageLost.pageAdvance
  rw [Dev.flushFail_eq]
  exact ⟨l, by rw [more, Dev.unflushed_pageAdvance, d.pageLost_hiu.1]⟩

theorem Dev.flushOk_ring (low : w.page.val < 31) : (d.flushOk w).hiu.ring = (d.pageFlushed w).hiu.ring := by
  by_cases full : w.programmed + entriesSize (d.hiu.staging.take d.hiu.flushing) = 1024
      ∨ (d.hiu.closed = true ∧ d.hiu.staging.drop d.hiu.flushing = [])
  · rw [Dev.flushOk_advances full]
    exact ((d.pageFlushed_atFlushEnd w).moved_low low).1
  · rw [Dev.flushOk_stays full]
    obtain ⟨n, target⟩ := (d.pageFlushed_atFlushEnd w).target
    exact Dev.moveLoop_low target low 256

/-- What the end of a flush makes of the history: the function of its outcome. -/
def Dev.flushEnd (ok : Bool) (d : Dev) : Dev := match ok, d.hiu.target with
  | true, some t => d.flushOk t
  | _, _ => d.flushFail

theorem Dev.flushEnd_ok (target : d.hiu.target = some w) : d.flushEnd true = d.flushOk w := by
  simp [Dev.flushEnd, target]

theorem Dev.flushEnd_fail (d : Dev) : d.flushEnd false = d.flushFail := rfl

/-- A page that ends does so in one way, whatever the outcome. -/
theorem Dev.flushEnd_advances (target : d.hiu.target = some w) {ok : Bool}
    (full : ok = false ∨ w.programmed + entriesSize (d.hiu.staging.take d.hiu.flushing) = 1024
      ∨ (d.hiu.closed = true ∧ d.hiu.staging.drop d.hiu.flushing = [])) :
    ∃ g : Dev, d.hiu.atFlushEnd g.hiu w ∧ d.flushEnd ok = g.pageAdvance.hiuMove := by
  cases ok with
  | true => exact ⟨d.pageFlushed w, d.pageFlushed_atFlushEnd w,
      (Dev.flushEnd_ok target).trans (Dev.flushOk_advances (full.resolve_left nofun))⟩
  | false => exact ⟨d.pageLost, Dev.pageLost_atFlushEnd target, rfl⟩

theorem Dev.flushEnd_keepsAllBut (d : Dev) (ok : Bool) : d.keepsAllBut [.arc, .drm, .hiu, .tmb, .ntu] (d.flushEnd ok) := by
  unfold Dev.flushEnd
  split
  · exact (d.flushOk_logsTo _).keepsAllBut
  · exact d.flushFail_logsTo.keepsAllBut

end

theorem Dev.settle_hiu_writer (d : Dev) : d.settle.hiu = { d.hiu with writer := d.settle.hiu.writer } :=
  congrArg Dev.hiu d.settle_settlesTo

/-- Settles O53: what leaves the staging block, the page, and the ring behind page 31. -/
theorem historyFlushDone : Obligations.HistoryFlushDone := by
  intro s o p a data b spare w hpower op target good h
  obtain ⟨t, runs, ok, fails⟩ := State.programDone_dev (o := o) hpower op Dev.flushEnd
  have target' : s.dev.opEnded.hiu.target = some w := target
  have ended (e : Bool) (dev : t.dev = (s.dev.opEnded.flushEnd e).settle) :
      t.dev.hiu = { (s.dev.opEnded.flushEnd e).hiu with writer := t.dev.hiu.writer } := by
    rw [dev]
    exact Dev.settle_hiu_writer _
  have outcome : ∃ e : Bool, (e = true ↔ good) ∧ t.dev = (s.dev.opEnded.flushEnd e).settle := by
    by_cases h : good
    · exact ⟨true, ⟨fun _ => h, fun _ => rfl⟩, ok h⟩
    · exact ⟨false, ⟨nofun, fun g => absurd g h⟩, fails h⟩
  obtain ⟨e, goodIff, dev⟩ := outcome
  have hiu := ended e dev
  have advancing {programmed : Nat} (advances : ¬good ∨ programmed = 1024 ∨ (h.closed = true ∧ h.staging.drop h.flushing = []))
      (hn : w.programmed + entriesSize (h.staging.take h.flushing) = programmed) :
      ∃ g : Dev, h.atFlushEnd g.hiu w ∧ s.dev.opEnded.flushEnd e = g.pageAdvance.hiuMove :=
    Dev.flushEnd_advances target' (advances.imp (fun bad => Bool.eq_false_iff.2 fun he => bad (goodIff.1 he))
      (Or.imp_left hn.trans))
  refine ⟨t, runs, fun isGood => ⟨?_, fun x y low first last => ?_⟩, fun bad => ⟨?_, fun low _ => ?_⟩,
    ⟨fun low advances => ?_, fun stays none => ?_, fun last advances => ?_⟩, ?_⟩
  · rw [hiu, goodIff.2 isGood, Dev.flushEnd_ok target']
    exact Dev.flushOk_unflushed ..
  · rw [hiu, goodIff.2 isGood, Dev.flushEnd_ok target']
    show ((s.dev.opEnded.flushOk w).hiu.ring[w.zone]).range = _
    obtain ⟨-, -, -, ring, -⟩ := s.dev.opEnded.pageFlushed_hiu w
    rw [Dev.flushOk_ring low, ring]
    refine (congrArg RingZone.range (get_modify_same ..)).trans ?_
    exact RingZone.flushed_range first last _
  · have failed : e = false := Bool.eq_false_iff.2 fun he => bad (goodIff.1 he)
    rw [hiu, failed, Dev.flushEnd_fail]
    exact Dev.flushFail_unflushed _
  · obtain ⟨g, ends, moves⟩ := advancing (.inl bad) rfl
    rw [hiu, moves]
    exact (ends.moved_low low).2
  · obtain ⟨g, ends, moves⟩ := advancing advances rfl
    obtain ⟨ring, target⟩ := ends.moved_low low
    rw [hiu, moves]
    refine ⟨target, ?_⟩
    show (g.pageAdvance.hiuMove.hiu.ring[w.zone]).state = _
    rw [ring]
    exact (ends.state w.zone).1
  · obtain ⟨isGood, rests⟩ := not_or.1 stays
    obtain ⟨-, intake, target, -⟩ := s.dev.opEnded.pageFlushed_hiu w
    rw [hiu, goodIff.2 (not_not.1 isGood), Dev.flushEnd_ok target', Dev.flushOk_stays (d := s.dev.opEnded) rests,
      Dev.hiuMove_of_none (intake.trans none)]
    exact target
  · obtain ⟨g, ends, moves⟩ := advancing advances rfl
    obtain ⟨zone, noneLeft, nearest⟩ := ends.moved_last last
    rw [hiu, moves]
    refine ⟨zone, noneLeft, fun k usable least => ?_⟩
    obtain ⟨erased, other, filled⟩ := nearest k usable least
    refine ⟨erased, other, fun state idle none => ?_⟩
    obtain ⟨prep, erasing, range, asked⟩ := filled state idle none
    rw [dev, moves]
    exact ⟨prep, erasing, range, (Dev.settle_asksTo _).mem asked⟩
  · have started : s.dev.keepsAllBut [.arc] s.dev.opEnded := by
      intro c hc
      cases c <;> simp at hc <;> rfl
    rw [dev]
    exact (started.mono (by decide)).trans ((Dev.flushEnd_keepsAllBut _ e).trans
      ((Dev.settle_keepsAllBut _).mono (by decide)))

end Sys2Proof.Machine
end


section
/-! PROOFS. The blocks and the pages through the end of a commit: what the operations of CME leave of the queue, what
they free, and the page that PLM gives (R44, R46, R71 to R79). -/

namespace Sys2Proof.Machine

/-! ### Blocks -/

/-- No block joins the commit queue, and free blocks stay free. -/
structure Dev.blocksTo (d e : Dev) : Prop where
  free : ∀ n ∈ d.stb.free, n ∈ e.stb.free
  queue : ∀ f ∈ e.stb.queue, f ∈ d.stb.queue

section
variable {d e : Dev}

theorem Dev.blocksTo_of_stb (h : e.stb = d.stb) : d.blocksTo e := ⟨fun _ => by rw [h]; exact id, fun _ => by rw [h]; exact id⟩

theorem Dev.blocksTo_rfl (d : Dev) : d.blocksTo d := Dev.blocksTo_of_stb rfl

theorem Dev.blocksTo.trans {f : Dev} (h : d.blocksTo e) (g : e.blocksTo f) : d.blocksTo f :=
  ⟨fun n hn => g.free n (h.free n hn), fun x hx => h.queue x (g.queue x hx)⟩

theorem Dev.blocksTo.after {f : Dev} (g : e.blocksTo f) (h : e.stb = d.stb) : d.blocksTo f :=
  (Dev.blocksTo_of_stb h).trans g

theorem Dev.discardBlocks_blocksTo (d : Dev) (i : StreamIdx) : d.blocksTo (d.discardBlocks i) :=
  ⟨fun _ hn => List.mem_append_left _ hn, fun _ hf => (List.mem_filter.1 hf).1⟩

theorem Dev.cutDiscard_blocksTo (d : Dev) (i : StreamIdx) (r : Reason) : d.blocksTo (d.cutDiscard i r) := by
  cases taken : d.body i with
  | none =>
    have stays : d.cutDiscard i r = d := by simp [Dev.cutDiscard, taken]
    rw [stays]
    exact d.blocksTo_rfl
  | some x =>
    rw [Dev.cutDiscard_taken taken]
    let g := d.modBody i fun b => { b with ending := some (cutEnding r b.ending) }
    exact ((Dev.discardBlocks_blocksTo g i).after (by simp [g])).trans (Dev.blocksTo_of_stb (by simp [g]))

theorem Dev.cmeOnce_blocksTo (d : Dev) : d.blocksTo d.cmeOnce := by
  cases queue : d.stb.queue with
  | nil =>
    have stays : d.cmeOnce = d := by simp [Dev.cmeOnce, queue]
    rw [stays]
    exact d.blocksTo_rfl
  | cons b rest =>
    cases given : d.givePage with
    | none =>
      rw [Dev.cmeOnce_cuts queue given]
      exact d.cutDiscard_blocksTo _ _
    | some pe =>
      obtain ⟨p, e⟩ := pe
      obtain ⟨-, -, -, -, -, stb, -⟩ := Dev.givePage_frame given
      rw [Dev.cmeOnce_takes queue given]
      refine ⟨fun n hn => by simpa [Dev.setStb, stb] using hn, fun f hf => ?_⟩
      have mem : f ∈ rest := by simpa [Dev.setStb] using hf
      rw [queue]
      exact List.mem_cons_of_mem _ mem

theorem Dev.cmeLoop_blocksTo : ∀ (n : Nat) (d : Dev), d.blocksTo (Dev.cmeLoop n d)
  | 0, d => d.blocksTo_rfl
  | n + 1, d => by
    unfold Dev.cmeLoop
    split
    · exact d.cmeOnce_blocksTo.trans (Dev.cmeLoop_blocksTo n _)
    · exact d.blocksTo_rfl

theorem Dev.cmeTest_blocksTo (d : Dev) : d.blocksTo d.cmeTest := Dev.cmeLoop_blocksTo _ d

theorem Dev.tryRelease_blocksTo (d : Dev) (i : StreamIdx) : d.blocksTo (d.tryRelease i) := Dev.blocksTo_of_stb (by simp)

theorem Dev.settle_blocksTo (d : Dev) : d.blocksTo d.settle := Dev.blocksTo_of_stb (by simp)

theorem Dev.cmeFree_blocksTo (d : Dev) (slot : Option StreamIdx) : d.blocksTo (d.cmeFree slot) := by
  cases slot with
  | none => exact (Dev.cmeTest_blocksTo (d.setCme fun _ => Cme.rest)).after rfl
  | some i =>
    exact (Dev.cmeTest_blocksTo ((d.setCme fun _ => Cme.rest).tryRelease i)).after (by simp [Dev.setCme])

/-- The block under program is dropped: it is free, and the rest of the blocks stand. -/
theorem Dev.dropUnderProgram_some {f : Block} (block : d.cme.block = some f) :
    d.dropUnderProgram.stb = { d.stb with free := d.stb.free ++ [f.id] }
      ∧ d.dropUnderProgram.cme = { d.cme with block := none }
      ∧ ∀ j, d.dropUnderProgram.body j =
        if f.slot = j then (d.body j).map fun x => { x with queued := x.queued - 1 } else d.body j := by
  unfold Dev.dropUnderProgram
  rw [block]
  refine ⟨by simp [Dev.freeBlocks, Dev.setStb, Dev.setCme], by simp [Dev.setCme], fun j => ?_⟩
  rw [Dev.body_modBody]
  rfl

/-! ### Pages -/

theorem Plm.page_setPage_same (m : Plm) (p : PageAddr) (x : PageEntry) : (m.setPage p x).page p = x :=
  (SMap.get_set ..).trans (if_pos rfl)

theorem Plm.page_usedUpTest (m : Plm) (p : PageAddr) : m.usedUpTest.page p = m.page p := by
  unfold Plm.usedUpTest
  split
  · dsimp only
    split <;> rfl
  · rfl

theorem Dev.giveFrom_of_plm (plm : e.plm = d.plm) (z : Zone) :
    (e.giveFrom z).1 = (d.giveFrom z).1 ∧ (e.giveFrom z).2.plm = (d.giveFrom z).2.plm := by
  simp [Dev.giveFrom, Dev.setPlm, plm]

theorem Dev.newFillZone_of_plm (plm : e.plm = d.plm) {d' : Dev} (new : d.newFillZone = some d') :
    ∃ e', e.newFillZone = some e' ∧ e'.plm = d'.plm := by
  unfold Dev.newFillZone at *
  obtain ⟨z, found, rfl⟩ := Option.map_eq_some_iff.1 new
  rw [plm, found]
  exact ⟨_, rfl, by rw [Dev.poolLowTest_plm, Dev.poolLowTest_plm, Dev.setPlm, Dev.setPlm, plm]⟩

/-- The page that PLM gives, and the pool after it, follow from the pool. -/
theorem Dev.givePage_of_plm (plm : e.plm = d.plm) {p : PageAddr} {d' : Dev} (given : d.givePage = some (p, d')) :
    ∃ e', e.givePage = some (p, e') ∧ e'.plm = d'.plm := by
  have gives {a b : Dev} (same : b.plm = a.plm) {z : Zone} (h : a.giveFrom z = (p, d')) :
      ∃ e', b.giveFrom z = (p, e') ∧ e'.plm = d'.plm := by
    obtain ⟨page, pool⟩ := Dev.giveFrom_of_plm same z
    have first : (b.giveFrom z).1 = p := page.trans (congrArg Prod.fst h)
    exact ⟨(b.giveFrom z).2, Prod.ext first rfl,
      pool.trans (congrArg (fun x : PageAddr × Dev => x.2.plm) h)⟩
  unfold Dev.givePage at *
  rw [plm]
  cases givable : d.plm.givable with
  | some z =>
    rw [givable] at given
    obtain ⟨e', h, same⟩ := gives plm (Option.some.inj given)
    exact ⟨e', congrArg some h, same⟩
  | none =>
    rw [givable] at given
    cases new : d.newFillZone with
    | none => simp [new] at given
    | some d₁ =>
      simp only [new] at given
      obtain ⟨e₁, new', pool⟩ := Dev.newFillZone_of_plm plm new
      obtain ⟨z, givable', h⟩ := Option.map_eq_some_iff.1 given
      obtain ⟨e', h', same⟩ := gives pool h
      exact ⟨e', by simp only [new', pool, givable', Option.map_some, h'], same⟩

/-! ### CME takes its next block -/

theorem Dev.cmeTest_takes {g : Block} {rest : List Block} (idle : d.cme.state = .idle) (commits : d.commits = true)
    (queue : d.stb.queue = g :: rest) {p : PageAddr} (given : d.givePage = some (p, e)) :
    d.cmeTest = (e.setStb fun s => { s with queue := rest }).commitOn g p 0 := by
  have once : d.cmeTest = Dev.cmeLoop d.stb.queue.length d.cmeOnce :=
    if_pos ⟨idle, commits, by rw [queue]; exact List.cons_ne_nil _ _⟩
  have busy (n : Nat) : Dev.cmeLoop n ((e.setStb fun s => { s with queue := rest }).commitOn g p 0)
      = (e.setStb fun s => { s with queue := rest }).commitOn g p 0 := by
    cases n with
    | zero => rfl
    | succ n => exact if_neg fun h => nomatch h.1
  rw [once, Dev.cmeOnce_takes queue given, busy]

/-- CME rests where no block waits or the mode takes none. -/
theorem Dev.cmeTest_rests (h : d.stb.queue = [] ∨ d.commits = false) : d.cmeTest = d :=
  h.elim Dev.cmeTest_empty Dev.cmeTest_shut

theorem Dev.commits_false_iff : d.commits = false ↔ ¬(d.hum.mode = .normal ∨ (d.hum.mode = .holdup ∧ d.hum.closing = none)) := by
  rw [← Dev.commits_iff, Bool.not_eq_true]

end

/-! ### The epoch -/

section
variable {d : Dev}

theorem Dev.tryPass_epoch (d : Dev) : d.tryPass.drm.epoch = d.drm.epoch := by
  rcases d.tryPass_cases with h | ⟨k, r, -, h⟩ <;> rw [h]
  rw [Dev.passed_drm]

theorem Dev.waitCapture_epoch (d : Dev) (w : CapWaiter) : (d.waitCapture w).drm.epoch = d.drm.epoch := by
  unfold Dev.waitCapture
  split <;> rfl

theorem Dev.tryKeep_epoch (d : Dev) : d.tryKeep.drm.epoch = d.drm.epoch := by
  rcases d.tryKeep_cases with h | h | ⟨k, r, -, h⟩ <;> rw [h]
  · exact d.waitCapture_epoch _
  · rw [Dev.keep_drm]

theorem Dev.closeRun_epoch (d : Dev) : d.closeRun.drm.epoch = d.drm.epoch :=
  (Dev.tryKeep_epoch _).trans ((Dev.tryPass_epoch _).trans ((Dev.tryKeep_epoch _).trans d.tryPass_epoch))

theorem Dev.modIncident_epoch (d : Dev) (n : Nat) (f : Incident → Incident) : (d.modIncident n f).drm.epoch = d.drm.epoch := by
  unfold Dev.modIncident
  split <;> rfl

theorem Dev.releaseKeeping_epoch (d : Dev) (i : StreamIdx) : (d.releaseKeeping i).drm.epoch = d.drm.epoch := by
  rcases d.releaseKeeping_cases i with h | h | ⟨x, k, -, -, h⟩ <;> rw [h]
  · exact d.waitCapture_epoch _
  · rw [Dev.tryKeep_epoch]
    exact (Dev.modIncident_epoch ..).trans rfl

theorem Dev.tryRelease_epoch (d : Dev) (i : StreamIdx) : (d.tryRelease i).drm.epoch = d.drm.epoch :=
  (Dev.closeRun_epoch _).trans (d.releaseKeeping_epoch i)

end

end Sys2Proof.Machine
end


section
/-! PROOFS. VOID_MARK_DONE (R44, R46, R77, R79, R80). -/

namespace Sys2Proof.Machine

section
variable {d e : Dev} {pg : PageAddr} {f : Block}

/-! ### What follows a void mark -/

/-- The state with the entry of the page that CME holds, and the fill zone's test. -/
def Dev.pageMarked (d : Dev) (pg : PageAddr) (x : PageEntry) : Dev :=
  { d with plm := (d.plm.setPage pg x).usedUpTest }

/-- The entry of a page after its void mark. -/
def voidEntry (ok : Bool) : PageEntry := if ok then .void else .torn

section
variable (page : d.cme.page = some pg) (ok : Bool)
include page

theorem Dev.voidDone_none (block : d.cme.block = none) :
    d.voidDone ok = (d.pageMarked pg (voidEntry ok)).cmeFree none := by
  simp [Dev.voidDone, Dev.cmePage, page, Dev.setPlm, block, Dev.pageMarked, voidEntry]

variable (block : d.cme.block = some f)
include block

theorem Dev.voidDone_drops (dropping : d.cme.dropping = true) :
    d.voidDone ok = (d.pageMarked pg (voidEntry ok)).dropUnderProgram.cmeFree (some f.slot) := by
  simp [Dev.voidDone, Dev.cmePage, page, Dev.setPlm, block, Dev.pageMarked, voidEntry, dropping]

theorem Dev.voidDone_again (kept : d.cme.dropping = false) {p : PageAddr}
    (given : (d.pageMarked pg (voidEntry ok)).givePage = some (p, e)) : d.voidDone ok = e.commitOn f p 1 := by
  unfold Dev.pageMarked voidEntry at given
  simp [Dev.voidDone, Dev.cmePage, page, Dev.setPlm, block, kept, given]

theorem Dev.voidDone_cuts (kept : d.cme.dropping = false) (noPage : (d.pageMarked pg (voidEntry ok)).givePage = none) :
    d.voidDone ok = ((d.pageMarked pg (voidEntry ok)).dropUnderProgram.cutDiscard f.slot .storeFull).cmeFree none := by
  unfold Dev.pageMarked voidEntry at noPage
  simp [Dev.voidDone, Dev.cmePage, page, Dev.setPlm, block, kept, noPage, Dev.pageMarked, voidEntry]

end

theorem Dev.pageMarked_page (d : Dev) (pg : PageAddr) (x : PageEntry) : (d.pageMarked pg x).plm.page pg = x :=
  (Plm.page_usedUpTest ..).trans (Plm.page_setPage_same ..)

theorem Dev.voidDone_keepsAllBut (d : Dev) (ok : Bool) :
    d.keepsAllBut [.ict, .cpm, .stb, .cme, .plm, .arc, .drm, .hiu, .tmb, .ntu] (d.voidDone ok) := by
  intro c hc
  cases c <;> simp at hc <;> simp [Part.agrees]

/-! ### CME at rest -/

theorem Dev.cmeFree_rests (slot : Option StreamIdx) (h : d.stb.queue = [] ∨ d.commits = false) :
    (d.cmeFree slot).plm = d.plm ∧ (d.cmeFree slot).cme = ⟨.idle, none, none, 0, false⟩ := by
  have rest (g : Dev) (stb : g.stb = d.stb) (hum : g.hum = d.hum) : g.cmeTest = g := by
    refine Dev.cmeTest_rests (h.imp (fun h => by rw [stb, h]) fun h => ?_)
    rw [← h, Dev.commits, Dev.commits, hum]
  cases slot with
  | none =>
    show (d.setCme fun _ => Cme.rest).cmeTest.plm = _ ∧ (d.setCme fun _ => Cme.rest).cmeTest.cme = _
    rw [rest (d.setCme fun _ => Cme.rest) rfl rfl]
    exact ⟨rfl, rfl⟩
  | some i =>
    show ((d.setCme fun _ => Cme.rest).tryRelease i).cmeTest.plm = _
      ∧ ((d.setCme fun _ => Cme.rest).tryRelease i).cmeTest.cme = _
    rw [rest ((d.setCme fun _ => Cme.rest).tryRelease i) (by simp [Dev.setCme]) (by simp [Dev.setCme])]
    simp [Dev.setCme, Cme.rest]

/-! ### The cut for want of a page -/

/-- A block under program is dropped, its stream's body counted down. -/
theorem Dev.dropUnderProgram_streamsTo (d : Dev) : d.streamsTo d.dropUnderProgram := by
  cases block : d.cme.block with
  | none =>
    rw [show d.dropUnderProgram = d by simp [Dev.dropUnderProgram, block]]
    exact d.streamsTo_rfl
  | some f =>
    obtain ⟨-, -, body⟩ := Dev.dropUnderProgram_some block
    refine Dev.streamsTo_of_body f.slot (fun x => { x with queued := x.queued - 1 })
      (Drm.growsTo_of_eq (by simp) (by simp)) ((body f.slot).trans (if_pos rfl)) (fun j other => (body j).trans (if_neg other.symm)) ?_
    exact fun x _ => ⟨rfl, fun _ => .inl, id⟩

theorem Dev.cmeFree_none_streamsTo (d : Dev) : d.streamsTo (d.cmeFree none) :=
  have rest : d.streamsTo (d.setCme fun _ => Cme.rest) := Dev.streamsTo_of_cpm (Drm.growsTo_rfl _) rfl
  rest.trans (Dev.cmeTest_streamsTo (d.setCme fun _ => Cme.rest))

/-- What a cut of the block under program tells: the stream's end, its blocks gone, its reports. -/
theorem Dev.dropCut_cutsFor {r : Reason} {i : StreamIdx} {x : StreamBody} (block : d.cme.block = some f)
    (own : f.slot = i) (taken : d.body i = some x) : d.cutsFor (d.dropUnderProgram.cutDiscard i r) i x r := by
  obtain ⟨-, -, body⟩ := Dev.dropUnderProgram_some block
  have left : d.dropUnderProgram.body i = some { x with queued := x.queued - 1 } := by
    rw [body, if_pos own, taken]
    rfl
  refine ⟨?_, fun g mem => ?_, Dev.cutDiscard_reports left r, ?_⟩
  · exact Dev.cutDiscard_takes left r
  · rw [Dev.cutDiscard_queue left] at mem
    exact by simpa using (List.mem_filter.1 mem).2
  · exact (Dev.cutDiscard_records left r).before (by simp) (by simp)

/-- A cut stands through what CME and the settling do after it. -/
theorem Dev.cutsFor.later {r : Reason} {i : StreamIdx} {x : StreamBody} {g : Dev} (h : d.cutsFor e i x r)
    (streams : e.streamsTo g) (blocks : e.blocksTo g) (flows : e.flowsTo g) : d.cutsFor g i x r := by
  obtain ⟨takes, queue, reports, records⟩ := h
  exact ⟨takes.later streams (cutEnding_ne_ended r x.ending), fun f mem => queue f (blocks.queue f mem),
    reports.later flows, records.later flows⟩

/-- The stream of a slot, if it stands, is ended and fills no block. -/
def Dev.endedAt (d : Dev) (i : StreamIdx) : Prop := ∀ x, d.body i = some x → x.ending ≠ none ∧ x.fill = none

theorem Dev.endedAt.later {i : StreamIdx} (h : d.endedAt i) (streams : d.streamsTo e) : e.endedAt i := by
  intro y hy
  obtain ⟨x, taken, passes⟩ := streams.stays i y hy
  obtain ⟨ending, fill⟩ := h x taken
  obtain ⟨k, hk⟩ := Option.ne_none_iff_exists'.1 ending
  refine ⟨?_, passes.fill fill⟩
  rcases passes.ending k hk with same | ⟨-, other⟩
  · rw [same]
    exact nofun
  · exact other

theorem Dev.cutDiscard_endedAt (d : Dev) (i : StreamIdx) (r : Reason) : (d.cutDiscard i r).endedAt i := by
  intro y hy
  cases taken : d.body i with
  | none =>
    have stays : d.cutDiscard i r = d := by simp [Dev.cutDiscard, taken]
    rw [stays, taken] at hy
    cases hy
  | some x =>
    rcases Dev.cutDiscard_takes taken r with ⟨n, stands⟩ | ⟨gone, -⟩
    · rw [stands] at hy
      cases hy
      exact ⟨nofun, rfl⟩
    · rw [gone] at hy
      cases hy

end

/-- Settles O50: after its void mark a block is tried again, cut or dropped, or CME rests. -/
theorem voidMarkDone : Obligations.VoidMarkDone := by
  intro s o p a data b spare pg hpower op page entry d
  obtain ⟨t, runs, ok, fails⟩ := State.programDone_dev (o := o) hpower op Dev.voidDone
  have outcome : ∃ ok : Bool, voidEntry ok = entry ∧ t.dev = (s.dev.opEnded.voidDone ok).settle := by
    by_cases good : o = .ok ∧ (Job.program p a data b spare).verifies s.flash = true
    · exact ⟨true, (if_pos good).symm, ok good⟩
    · exact ⟨false, (if_neg good).symm, fails good⟩
  obtain ⟨ok, same, dev⟩ := outcome
  have marked : s.dev.opEnded.pageMarked pg (voidEntry ok) = d := by rw [same]; rfl
  have cuts (f : Block) (block : s.dev.cme.block = some f) (kept : s.dev.cme.dropping = false)
      (noPage : d.givePage = none) :
      t.dev = ((d.dropUnderProgram.cutDiscard f.slot .storeFull).cmeFree none).settle := by
    rw [dev, Dev.voidDone_cuts (d := s.dev.opEnded) page ok block kept (by rw [marked]; exact noPage), marked]
  refine ⟨t, runs, ?_, ?_, fun block queue => ?_, fun f p' d' block kept given => ?_, fun f block kept noPage => ?_,
    fun f x block kept noPage taken => ?_, fun f block dropping rests => ?_⟩
  · rw [dev]
    simp
  · have started : s.dev.keepsAllBut [.arc] s.dev.opEnded := by
      intro c hc
      cases c <;> simp at hc <;> rfl
    rw [dev]
    exact (started.mono (by decide)).trans ((Dev.voidDone_keepsAllBut _ ok).trans
      ((Dev.settle_keepsAllBut _).mono (by decide)))
  · obtain ⟨plm, cme⟩ := Dev.cmeFree_rests (d := d) none (.inl queue)
    rw [dev, Dev.voidDone_none (d := s.dev.opEnded) page ok block, marked, Dev.settle_plm, plm,
      (Dev.settle_frame _).2.2.2.2.2.2.1, cme]
    exact ⟨Dev.pageMarked_page s.dev.opEnded pg entry, rfl⟩
  · rw [dev, Dev.voidDone_again (d := s.dev.opEnded) page ok block kept (by rw [marked]; exact given)]
  · have blocks := Dev.dropUnderProgram_some (d := d) block
    have after := ((Dev.cutDiscard_blocksTo d.dropUnderProgram f.slot .storeFull).trans
      (Dev.cmeFree_blocksTo _ none)).trans (Dev.settle_blocksTo _)
    rw [cuts f block kept noPage]
    refine ⟨after.free f.id ?_, ?_⟩
    · rw [blocks.1]
      exact List.mem_append_right _ List.mem_cons_self
    · exact (Dev.cutDiscard_endedAt _ f.slot .storeFull).later
        ((Dev.cmeFree_none_streamsTo _).trans (Dev.settle_streamsTo _))
  · rw [cuts f block kept noPage]
    have cut := Dev.dropCut_cutsFor (d := d) (r := .storeFull) block rfl taken
    exact cut.later ((Dev.cmeFree_none_streamsTo _).trans (Dev.settle_streamsTo _))
      ((Dev.cmeFree_blocksTo _ none).trans (Dev.settle_blocksTo _))
      ((Dev.cmeFree_flowsTo (by simp [Dev.dropUnderProgram_block]) none).trans (Dev.settle_flowsTo _))
  · obtain ⟨stb, -⟩ := Dev.dropUnderProgram_some (d := d) block
    obtain ⟨plm, cme⟩ := Dev.cmeFree_rests (d := d.dropUnderProgram) (some f.slot) (by
      refine rests.imp (fun h => by rw [stb]; exact h) fun ⟨closing, mode⟩ => ?_
      refine Dev.commits_false_iff.2 ?_
      rw [show d.dropUnderProgram.hum = s.dev.hum by simp [d], mode]
      exact fun h => h.elim nofun fun h => closing h.2)
    have freed := ((Dev.cmeFree_blocksTo d.dropUnderProgram (some f.slot)).trans (Dev.settle_blocksTo _)).free f.id
      (by rw [stb]; exact List.mem_append_right _ List.mem_cons_self)
    rw [dev, Dev.voidDone_drops (d := s.dev.opEnded) page ok block dropping, marked]
    refine ⟨?_, ?_, freed⟩
    · rw [Dev.settle_plm, plm, show d.dropUnderProgram.plm = d.plm by simp]
      exact Dev.pageMarked_page s.dev.opEnded pg entry
    · rw [(Dev.settle_frame _).2.2.2.2.2.2.1, cme]

end Sys2Proof.Machine
end


section
/-! PROOFS. COMMIT_PROGRAM_DONE (R25, R34, R45 to R47, R71, R75, R76, R78, R80). -/

namespace Sys2Proof.Machine

section
variable {d e : Dev} {pg : PageAddr} {f : Block} {x : StreamBody}

/-! ### A page is durable -/

/-- The pool with a page LIVE. -/
abbrev Plm.stored (m : Plm) (pg : PageAddr) (f : Block) : Plm := (m.setLive pg f).usedUpTest

/-- The body of a stream that a page was committed for. -/
def StreamBody.stored (x : StreamBody) (f : Block) : StreamBody :=
  { x with committed := x.committed + f.data.length, pages := x.pages + 1, queued := x.queued - 1 }

/-- The state with the page LIVE, its stream counted and its block free. -/
def Dev.pageStored (d : Dev) (pg : PageAddr) (f : Block) : Dev :=
  ((({ d with plm := d.plm.stored pg f } : Dev).modBody f.slot (·.stored f)).syncRecord f.slot).freeBlocks [f.id]

theorem Dev.commitOk_eq (block : d.cme.block = some f) (page : d.cme.page = some pg) :
    d.commitOk = (d.pageStored pg f).cmeFree (some f.slot) := by
  simp only [Dev.commitOk, block, page]
  rfl

theorem Dev.body_pageStored (d : Dev) (pg : PageAddr) (f : Block) (j : StreamIdx) :
    (d.pageStored pg f).body j = if f.slot = j then (d.body j).map (·.stored f) else d.body j := by
  have body : (d.pageStored pg f).body j = (({ d with plm := d.plm.stored pg f } : Dev).modBody f.slot (·.stored f)).body j :=
    Dev.body_of_cpm (by simp [Dev.pageStored]) j
  rw [body, Dev.body_modBody]
  rfl

theorem Dev.pageStored_fields (d : Dev) (pg : PageAddr) (f : Block) :
    (d.pageStored pg f).plm = d.plm.stored pg f
      ∧ (d.pageStored pg f).stb = { d.stb with free := d.stb.free ++ [f.id] }
      ∧ (d.pageStored pg f).hum = d.hum ∧ (d.pageStored pg f).arc = d.arc := by
  simp [Dev.pageStored, Dev.freeBlocks, Dev.setStb]

theorem Dev.modIncident_queue (d : Dev) (n : Nat) (f : Incident → Incident) :
    (d.modIncident n f).drm = { d.drm with dir := (d.modIncident n f).drm.dir } := by
  unfold Dev.modIncident
  split <;> rfl

theorem Dev.syncRecord_drm (d : Dev) (i : StreamIdx) : (d.syncRecord i).drm = { d.drm with dir := (d.syncRecord i).drm.dir } := by
  unfold Dev.syncRecord
  split
  · exact Dev.modIncident_queue ..
  · rfl

theorem Dev.pageStored_drm (d : Dev) (pg : PageAddr) (f : Block) : (d.pageStored pg f).drm.queue = d.drm.queue
    ∧ (d.pageStored pg f).drm.captureWaiters = d.drm.captureWaiters ∧ (d.pageStored pg f).drm.epoch = d.drm.epoch := by
  have drm : (d.pageStored pg f).drm =
      ((({ d with plm := d.plm.stored pg f } : Dev).modBody f.slot (·.stored f)).syncRecord f.slot).drm := by
    simp [Dev.pageStored]
  rw [drm, Dev.syncRecord_drm]
  simp

/-- The record of the stream takes what the page adds. -/
theorem Dev.pageStored_records (pg : PageAddr) (taken : d.body f.slot = some x) :
    d.recordTakes (d.pageStored pg f) x (x.stored f).counted := by
  let g := ({ d with plm := d.plm.stored pg f } : Dev).modBody f.slot (·.stored f)
  have body : g.body f.slot = some (x.stored f) := by
    refine (Dev.body_modBody ..).trans ?_
    rw [if_pos rfl]
    exact congrArg (Option.map _) taken
  have counted : g.recordTakes (g.syncRecord f.slot) (x.stored f) (x.stored f).counted := Dev.syncRecord_recordTakes body
  have sameDir : d.keepsStreams g := Dev.keepsStreams_of_dir (by simp [g])
  have freed : (g.syncRecord f.slot).keepsStreams (d.pageStored pg f) := Dev.keepsStreams_of_dir (by simp [Dev.pageStored, g])
  exact Dev.recordTakes_then (Dev.recordTakes_after sameDir counted) freed

theorem Dev.syncRecord_slotOf (d : Dev) (i : StreamIdx) (n : Nat) : (d.syncRecord i).drm.slotOf n = d.drm.slotOf n := by
  unfold Dev.syncRecord
  split
  · exact d.modIncident_slotOf _ _ n _
  · rfl

theorem Dev.pageStored_slotOf (d : Dev) (pg : PageAddr) (f : Block) (n : Nat) :
    (d.pageStored pg f).drm.slotOf n = d.drm.slotOf n := by
  let g := ({ d with plm := d.plm.stored pg f } : Dev).modBody f.slot (·.stored f)
  have same : (d.pageStored pg f).drm = (g.syncRecord f.slot).drm := by simp [Dev.pageStored, g]
  rw [same, Dev.syncRecord_slotOf]
  simp [g]

/-! ### The release, and the next block -/

/-- The state in which CME looks for its next block. -/
def Dev.freed (d : Dev) (i : StreamIdx) : Dev := (d.setCme fun _ => Cme.rest).tryRelease i

theorem Dev.cmeFree_some (d : Dev) (i : StreamIdx) : d.cmeFree (some i) = (d.freed i).cmeTest := rfl

theorem Dev.freed_fields (d : Dev) (i : StreamIdx) : (d.freed i).cme = Cme.rest ∧ (d.freed i).stb = d.stb
    ∧ (d.freed i).plm = d.plm ∧ (d.freed i).hum = d.hum := by
  simp [Dev.freed, Dev.setCme]

/-- CME takes no block, or takes one for which there is a page. -/
def Dev.cmeQuiet (d : Dev) : Prop := d.stb.queue = [] ∨ d.commits = false ∨ d.givePage ≠ none

theorem Dev.cmeTest_quiet (idle : d.cme.state = .idle) (quiet : d.cmeQuiet) :
    d.cmeTest.drm = d.drm ∧ d.cmeTest.cpm = d.cpm := by
  have rests (h : d.stb.queue = [] ∨ d.commits = false) : d.cmeTest.drm = d.drm ∧ d.cmeTest.cpm = d.cpm := by
    rw [Dev.cmeTest_rests h]
    exact ⟨rfl, rfl⟩
  rcases quiet with empty | shut | page
  · exact rests (.inl empty)
  · exact rests (.inr shut)
  · obtain ⟨⟨p, e⟩, given⟩ := Option.ne_none_iff_exists'.1 page
    cases queue : d.stb.queue with
    | nil => exact rests (.inl queue)
    | cons g rest =>
      cases commits : d.commits with
      | false => exact rests (.inr commits)
      | true =>
        obtain ⟨-, -, -, -, cpm, -, -, -, drm, -⟩ := Dev.givePage_frame given
        rw [Dev.cmeTest_takes idle commits queue given]
        simp [Dev.setStb, cpm, drm]

theorem Dev.givePage_ne_none_of_plm (plm : e.plm = d.plm) (page : d.givePage ≠ none) : e.givePage ≠ none := by
  obtain ⟨⟨p, d'⟩, given⟩ := Option.ne_none_iff_exists'.1 page
  obtain ⟨e', h, -⟩ := Dev.givePage_of_plm plm given
  rw [h]
  exact nofun

theorem Dev.cmeQuiet.congr (h : d.cmeQuiet) (stb : e.stb.queue = d.stb.queue) (hum : e.hum = d.hum)
    (plm : e.plm = d.plm) : e.cmeQuiet :=
  h.imp (fun h => stb.trans h) (Or.imp (fun h => (by rw [← h, Dev.commits, Dev.commits, hum]))
    (Dev.givePage_ne_none_of_plm plm))

/-- The stream of the block after its page: what the record takes, where CME's next step leaves streams alone. -/
theorem Dev.cmeFree_quiet (quiet : d.cmeQuiet) (taken : d.body f.slot = some x) :
    ((x.drained = none ∨ d.drm.capRoom 1 = false) → (d.cmeFree (some f.slot)).body f.slot = some x
      ∧ d.recordTakes (d.cmeFree (some f.slot)) x id)
    ∧ ∀ k, x.drained = some k → d.drm.capRoom 1 = true → (d.cmeFree (some f.slot)).body f.slot = none
      ∧ d.recordTakes (d.cmeFree (some f.slot)) x (x.closed k) := by
  obtain ⟨cme, stb, plm, hum⟩ := d.freed_fields f.slot
  obtain ⟨drm, cpm⟩ := Dev.cmeTest_quiet (d := d.freed f.slot) (by rw [cme]; rfl) (quiet.congr (by rw [stb]) hum plm)
  have keeps : (d.freed f.slot).keepsStreams (d.cmeFree (some f.slot)) := Dev.keepsStreams_of_dir (congrArg Drm.dir drm)
  have body : (d.cmeFree (some f.slot)).body f.slot = (d.freed f.slot).body f.slot := Dev.body_of_cpm cpm _
  rw [body]
  refine ⟨fun h => ?_, fun k drained room => ?_⟩
  · obtain ⟨stands, records⟩ := Dev.tryRelease_waits (d := d.setCme fun _ => Cme.rest) taken h
    exact ⟨stands, Dev.recordTakes_then records keeps⟩
  · obtain ⟨gone, records⟩ := Dev.tryRelease_releases (d := d.setCme fun _ => Cme.rest) taken drained room
    exact ⟨gone, Dev.recordTakes_then records keeps⟩

/-- A release enters the stream's end in the queue. -/
theorem Dev.cmeFree_entry {k : PendingEnd} (taken : d.body f.slot = some x) (drained : x.drained = some k)
    (room : d.drm.capRoom 1 = true) : x.endEntry k ∈ (d.cmeFree (some f.slot)).drm.queue := by
  let g := d.setCme fun _ => Cme.rest
  have released : d.freed f.slot = ((g.releaseSlot f.slot x k).tryKeep).closeRun :=
    Dev.tryRelease_drained (d := g) taken drained room
  have entry : x.endEntry k ∈ (g.releaseSlot f.slot x k).drm.queue := by
    rw [Dev.releaseSlot_queue]
    exact List.mem_append_right _ List.mem_cons_self
  have kept : x.endEntry k ∈ (d.freed f.slot).drm.queue := by
    rw [released]
    exact ((Dev.tryKeep_grows _).trans (Dev.closeRun_grows _)).queue.subset entry
  exact (Dev.cmeTest_streamsTo (d.freed f.slot)).grows.queue.subset kept

theorem StreamBody.drained_none_iff : x.drained = none ↔ x.ending = none ∨ x.fill ≠ none ∨ x.queued ≠ 0 := by
  unfold StreamBody.drained
  by_cases fill : x.fill = none <;> by_cases queued : x.queued = 0 <;> simp [fill, queued, Option.isNone_iff_eq_none]

theorem Dev.releaseSlot_slotOf (d : Dev) (i : StreamIdx) (x : StreamBody) (k : PendingEnd) (n : Nat) :
    (d.releaseSlot i x k).drm.slotOf n = d.drm.slotOf n :=
  (Dev.modIncident_slotOf ..).trans rfl

theorem Dev.tryRelease_slotOf (d : Dev) (i : StreamIdx) (n : Nat) : (d.tryRelease i).drm.slotOf n = d.drm.slotOf n := by
  have kept : (d.releaseKeeping i).drm.slotOf n = d.drm.slotOf n := by
    rcases d.releaseKeeping_cases i with h | h | ⟨x, k, -, -, h⟩ <;> rw [h]
    · exact Dev.keepsStreams_slotOf (d.waitCapture_keepsStreams _) n
    · rw [Dev.keepsStreams_slotOf (Dev.tryKeep_keepsStreams _) n, Dev.releaseSlot_slotOf]
  exact (Dev.keepsStreams_slotOf (Dev.closeRun_keepsStreams _) n).trans kept

/-- For want of a page CME cuts a stream whose blocks alone wait, and comes to rest. -/
theorem Dev.cmeTest_cutsOwn {i : StreamIdx} (idle : d.cme.state = .idle) (commits : d.commits = true)
    (waits : d.stb.queue ≠ []) (own : ∀ g ∈ d.stb.queue, g.slot = i) (noPage : d.givePage = none)
    (taken : d.body i = some x) : d.cmeTest = d.cutDiscard i .storeFull := by
  obtain ⟨g, rest, queue⟩ := List.exists_cons_of_ne_nil waits
  have once : d.cmeTest = Dev.cmeLoop d.stb.queue.length d.cmeOnce := if_pos ⟨idle, commits, waits⟩
  have empty : (d.cutDiscard i .storeFull).stb.queue = [] := by
    rw [Dev.cutDiscard_queue taken, List.filter_eq_nil_iff]
    exact fun g mem => by simp [own g mem]
  rw [once, Dev.cmeOnce_cuts queue noPage, own g (queue ▸ List.mem_cons_self), queue]
  exact if_neg fun h => h.2.2 empty

theorem Dev.cmeFree_own (own : ∀ g ∈ d.stb.queue, g.slot = f.slot) (taken : d.body f.slot = some x)
    (held : x.drained = none) :
    ((d.cmeFree (some f.slot)).body f.slot ≠ none → d.recordTakes (d.cmeFree (some f.slot)) x id)
      ∧ ((d.cmeFree (some f.slot)).body f.slot = none →
          d.recordTakes (d.cmeFree (some f.slot)) x (x.closed (cutEnding .storeFull x.ending))) := by
  by_cases quiet : d.cmeQuiet
  · obtain ⟨stands, records⟩ := (Dev.cmeFree_quiet quiet taken).1 (.inl held)
    exact ⟨fun _ => records, fun gone => absurd (stands.symm.trans gone) nofun⟩
  · obtain ⟨waits, runs⟩ := not_or.1 quiet
    obtain ⟨commits, noPage⟩ := not_or.1 runs
    obtain ⟨cme, stb, plm, hum⟩ := d.freed_fields f.slot
    obtain ⟨stands, records⟩ := Dev.tryRelease_waits (d := d.setCme fun _ => Cme.rest) taken (.inl held)
    have cuts : d.cmeFree (some f.slot) = (d.freed f.slot).cutDiscard f.slot .storeFull :=
      Dev.cmeTest_cutsOwn (d := d.freed f.slot) (by rw [cme]; rfl)
        (by rw [Dev.commits, hum]; exact Bool.not_eq_false _ ▸ commits) (by rw [stb]; exact waits)
        (by rw [stb]; exact own) (Dev.givePage_none_of_plm plm (not_not.1 noPage)) stands
    have sameSlots : (d.freed f.slot).drm.slotOf x.incident = d.drm.slotOf x.incident :=
      Dev.tryRelease_slotOf ..
    rw [cuts]
    rcases Dev.cutDiscard_recordTakes (d := d.freed f.slot) stands .storeFull with ⟨gone, closed⟩ | ⟨left, kept⟩
    · exact ⟨fun some => absurd gone some, fun _ => Dev.recordTakes_trans (f := id) (fun _ => rfl) sameSlots records closed⟩
    · exact ⟨fun _ => Dev.recordTakes_trans (f := id) (fun _ => rfl) sameSlots records kept, fun none => absurd none left⟩

/-- What the record takes after the page was counted in. -/
theorem Dev.pageStored_then {g : StreamRec → StreamRec} (taken : d.body f.slot = some x)
    (h : (d.pageStored pg f).recordTakes e (x.stored f) g) : d.recordTakes e x (g ∘ (x.stored f).counted) :=
  Dev.recordTakes_trans (fun _ => rfl) (d.pageStored_slotOf pg f _) (Dev.pageStored_records pg taken) h

/-! ### The program fails -/

/-- The state with the page of a failed program TORN. -/
abbrev Dev.pageTorn (d : Dev) (pg : PageAddr) : Dev := d.setPlm (·.setPage pg .torn)

section
variable (block : d.cme.block = some f) (page : d.cme.page = some pg)
include page

theorem Dev.commitFail_first (kept : d.cme.dropping = false) (first : d.cme.retry = 0) :
    d.commitFail = ((d.pageTorn pg).setCme fun c => { c with state := .voidWait, retry := 1 }).place
      .voidMark (.program pg 0 [] 29 [0x00]) := by
  have asks : (d.pageTorn pg).askVoid = ((d.pageTorn pg).setCme fun c => { c with state := .voidWait, retry := 1 }).place
      .voidMark (voidJob pg) := by
    show (match d.cme.page with | some p => _ | none => _) = _
    rw [page]
  simp [Dev.commitFail, Dev.cmePage, page, Dev.setPlm, kept, first]
  exact asks

include block

theorem Dev.commitFail_second (kept : d.cme.dropping = false) (second : d.cme.retry ≠ 0) : d.commitFail =
    ((((d.pageTorn pg).setCme fun c => { c with state := .voidWait }).dropUnderProgram).cutDiscard f.slot .media).askVoid := by
  simp [Dev.commitFail, Dev.cmePage, page, Dev.setPlm, block, kept, second]

theorem Dev.commitFail_drops (dropping : d.cme.dropping = true) : d.commitFail =
    (((d.pageTorn pg).setPlm Plm.usedUpTest).dropUnderProgram).cmeFree (some f.slot) := by
  simp [Dev.commitFail, Dev.cmePage, page, Dev.setPlm, block, dropping]

end

theorem Dev.askVoid_asks (page : d.cme.page = some pg) :
    d.askVoid = (d.setCme fun c => { c with state := .voidWait, retry := 1 }).place .voidMark (voidJob pg) := by
  simp [Dev.askVoid, page]

end

end Sys2Proof.Machine
end


section
/-! PROOFS. The statement about COMMIT_PROGRAM_DONE, assembled (R25, R34, R45 to R47, R71, R75, R76, R78, R80). -/

namespace Sys2Proof.Machine

section
variable {d e : Dev} {pg : PageAddr} {f : Block} {x : StreamBody}

/-! ### The pool -/

theorem Plm.zone_withFillZone (m : Plm) (z : Option Zone) (n : Nat) :
    ({ m with fillZone := z } : Plm).zone n = m.zone n := rfl

theorem Plm.holders_usedUpTest (m : Plm) (z : Zone) : (m.usedUpTest.zone z.val).holders = (m.zone z.val).holders := by
  unfold Plm.usedUpTest
  split
  next w _ =>
    dsimp only
    split
    · rw [Plm.zone_withFillZone, Plm.zone_setZone]
      split
      next same => rw [same]
      · rfl
    · rfl
  · rfl

theorem Plm.stored_page (m : Plm) (pg : PageAddr) (f : Block) :
    (m.stored pg f).page pg = .live f.incident f.stream f.seq f.data.length := by
  rw [Plm.stored, Plm.page_usedUpTest]
  exact (Plm.page_setZone ..).trans (Plm.page_setPage_same ..)

theorem Plm.stored_holders (m : Plm) (pg : PageAddr) (f : Block) : ((m.stored pg f).zone pg.zone.val).holders
    = f.incident :: (m.zone pg.zone.val).holders.filter (· != f.incident) := by
  rw [Plm.stored, Plm.holders_usedUpTest]
  refine (congrArg ZoneEntry.holders ((Plm.zone_setZone ..).trans (if_pos rfl))).trans ?_
  rw [Plm.zone_setPage]

/-! ### CME's next step -/

theorem Dev.pageStored_quiet (h : d.stb.queue = [] ∨ d.commits = false
    ∨ ({ d with plm := d.plm.stored pg f } : Dev).givePage ≠ none) : (d.pageStored pg f).cmeQuiet := by
  obtain ⟨plm, stb, hum, -⟩ := d.pageStored_fields pg f
  exact Dev.cmeQuiet.congr (d := { d with plm := d.plm.stored pg f }) h (by rw [stb]) hum plm

theorem Dev.commitOk_takes (block : d.cme.block = some f) (page : d.cme.page = some pg) (commits : d.commits = true)
    {g : Block} {rest : List Block} (queue : d.stb.queue = g :: rest) {p : PageAddr}
    (given : ({ d with plm := d.plm.stored pg f } : Dev).givePage = some (p, e)) :
    d.commitOk.plm = e.plm ∧ d.commitOk.cme = ⟨.waitGrant, some g, some p, 0, false⟩ ∧ d.commitOk.stb.queue = rest
      ∧ ArrReq.mk .commit (commitJob d.drm.epoch p g) ∈ d.commitOk.arc.waiting := by
  let h := (d.pageStored pg f).freed f.slot
  obtain ⟨plm, stb, hum, -⟩ := d.pageStored_fields pg f
  obtain ⟨cme', stb', plm', hum'⟩ := (d.pageStored pg f).freed_fields f.slot
  obtain ⟨e', given', pool⟩ := Dev.givePage_of_plm (e := h) (plm'.trans plm) given
  obtain ⟨-, -, -, -, -, -, -, -, drm, -⟩ := Dev.givePage_frame given'
  have epoch : h.drm.epoch = d.drm.epoch :=
    (Dev.tryRelease_epoch ((d.pageStored pg f).setCme fun _ => Cme.rest) f.slot).trans (d.pageStored_drm pg f).2.2
  have takes : d.commitOk = (e'.setStb fun s => { s with queue := rest }).commitOn g p 0 := by
    rw [Dev.commitOk_eq block page]
    refine Dev.cmeTest_takes (d := h) (by rw [cme']; rfl) ?_ ?_ given'
    · rw [← commits, Dev.commits, Dev.commits, hum', hum]
    · rw [stb', stb]
      exact queue
  rw [takes]
  refine ⟨by simpa [Dev.setStb] using pool, rfl, by simp [Dev.setStb], ?_⟩
  refine List.mem_append_right _ (List.mem_singleton.2 ?_)
  show _ = ArrReq.mk .commit (commitJob e'.drm.epoch p g)
  rw [drm, epoch]

theorem Dev.commitOk_rests (block : d.cme.block = some f) (page : d.cme.page = some pg)
    (rests : d.stb.queue = [] ∨ d.commits = false) :
    d.commitOk.plm = d.plm.stored pg f ∧ d.commitOk.cme = ⟨.idle, none, none, 0, false⟩ := by
  obtain ⟨plm, stb, hum, -⟩ := d.pageStored_fields pg f
  rw [Dev.commitOk_eq block page, ← plm]
  exact Dev.cmeFree_rests _ (rests.imp (fun h => by rw [stb]; exact h)
    fun h => by rw [← h, Dev.commits, Dev.commits, hum])

theorem Dev.commitOk_free (block : d.cme.block = some f) (page : d.cme.page = some pg) : f.id ∈ d.commitOk.stb.free := by
  obtain ⟨-, stb, -, -⟩ := d.pageStored_fields pg f
  rw [Dev.commitOk_eq block page]
  exact (Dev.cmeFree_blocksTo _ _).free _ (by rw [stb]; exact List.mem_append_right _ List.mem_cons_self)

/-! ### The stream -/

section
variable (block : d.cme.block = some f) (page : d.cme.page = some pg) (taken : d.body f.slot = some x)
include taken

theorem Dev.pageStored_taken : (d.pageStored pg f).body f.slot = some (x.stored f) := by
  rw [Dev.body_pageStored, if_pos rfl, taken]
  rfl

include block page

theorem Dev.commitOk_holds (quiet : (d.pageStored pg f).cmeQuiet)
    (held : (x.stored f).drained = none ∨ (d.pageStored pg f).drm.capRoom 1 = false) :
    d.commitOk.body f.slot = some (x.stored f) ∧ d.recordTakes d.commitOk x (x.stored f).counted := by
  rw [Dev.commitOk_eq block page]
  obtain ⟨stands, records⟩ := (Dev.cmeFree_quiet quiet (Dev.pageStored_taken taken)).1 held
  exact ⟨stands, Dev.pageStored_then taken records⟩

theorem Dev.commitOk_releases (quiet : (d.pageStored pg f).cmeQuiet) {k : PendingEnd}
    (drained : (x.stored f).drained = some k) (room : (d.pageStored pg f).drm.capRoom 1 = true) :
    d.commitOk.body f.slot = none ∧ d.recordTakes d.commitOk x ((x.stored f).closed k)
      ∧ (x.stored f).endEntry k ∈ d.commitOk.drm.queue := by
  rw [Dev.commitOk_eq block page]
  obtain ⟨gone, records⟩ := (Dev.cmeFree_quiet quiet (Dev.pageStored_taken taken)).2 k drained room
  exact ⟨gone, Dev.pageStored_then taken records, Dev.cmeFree_entry (Dev.pageStored_taken taken) drained room⟩

theorem Dev.commitOk_own (own : ∀ g ∈ d.stb.queue, g.slot = f.slot) (held : (x.stored f).drained = none) :
    (d.commitOk.body f.slot ≠ none → d.recordTakes d.commitOk x (x.stored f).counted)
      ∧ (d.commitOk.body f.slot = none →
          d.recordTakes d.commitOk x ((x.stored f).closed (cutEnding .storeFull x.ending))) := by
  obtain ⟨-, stb, -, -⟩ := d.pageStored_fields pg f
  obtain ⟨stands, gone⟩ := Dev.cmeFree_own (d := d.pageStored pg f) (by rw [stb]; exact own)
    (Dev.pageStored_taken taken) held
  rw [Dev.commitOk_eq block page]
  exact ⟨fun h => Dev.pageStored_then taken (stands h), fun h => Dev.pageStored_then taken (gone h)⟩

end

theorem StreamBody.stored_held (h : x.ending = none ∨ x.fill ≠ none ∨ 1 < x.queued) : (x.stored f).drained = none :=
  StreamBody.drained_none_iff.2 (h.imp id (Or.imp id fun more => Nat.sub_ne_zero_of_lt more))

theorem StreamBody.stored_drained {k : PendingEnd} (ending : x.ending = some k) (fill : x.fill = none)
    (last : x.queued ≤ 1) : (x.stored f).drained = some k :=
  StreamBody.drained_iff.2 ⟨ending, fill, Nat.sub_eq_zero_of_le last⟩

theorem Dev.pageStored_capRoom (d : Dev) (pg : PageAddr) (f : Block) :
    (d.pageStored pg f).drm.capRoom 1 = true ↔ d.drm.captureWaiters = [] ∧ d.drm.queue.length < 80 := by
  obtain ⟨queue, waiters, -⟩ := d.pageStored_drm pg f
  rw [Drm.capRoom_iff, queue, waiters]

/-! ### The second failure -/

section
variable (block : d.cme.block = some f) (page : d.cme.page = some pg) (kept : d.cme.dropping = false)
  (second : d.cme.retry ≠ 0)

/-- The state in which the second failure cuts the stream. -/
def Dev.failedTwice (d : Dev) (pg : PageAddr) : Dev :=
  ((d.pageTorn pg).setCme fun c => { c with state := .voidWait }).dropUnderProgram

include block in
theorem Dev.failedTwice_body (taken : d.body f.slot = some x) :
    (d.failedTwice pg).body f.slot = some { x with queued := x.queued - 1 } := by
  obtain ⟨-, -, body⟩ := Dev.dropUnderProgram_some (d := (d.pageTorn pg).setCme fun c => { c with state := .voidWait }) block
  rw [Dev.failedTwice, body, if_pos rfl]
  exact congrArg (Option.map _) taken

include page in
theorem Dev.failedTwice_cme : ((d.failedTwice pg).cutDiscard f.slot .media).cme.page = some pg
    ∧ ((d.failedTwice pg).cutDiscard f.slot .media).cme.block = none := by
  refine ⟨?_, ?_⟩
  · rw [(Dev.cutDiscard_frame ..).2.2.2.1]
    unfold Dev.failedTwice Dev.dropUnderProgram
    split <;> simpa [Dev.setCme, Dev.setPlm] using page
  · rw [(Dev.cutDiscard_frame ..).2.2.2.1]
    exact Dev.dropUnderProgram_block _

/-- The void mark asked for after a cut leaves what the cut made. -/
theorem Dev.place_streamsTo (d : Dev) (c : Cme) (who : Requester) (job : Job) :
    d.streamsTo ((d.setCme fun _ => c).place who job) :=
  Dev.streamsTo_of_cpm (Drm.growsTo_rfl _) rfl

include block page kept second

theorem Dev.commitFail_asks : ∃ c : Cme, c.state = .voidWait ∧ c.block = none ∧ d.commitFail =
    (((d.failedTwice pg).cutDiscard f.slot .media).setCme fun _ => c).place .voidMark (voidJob pg) := by
  obtain ⟨samePage, noBlock⟩ := Dev.failedTwice_cme (f := f) page
  refine ⟨{ ((d.failedTwice pg).cutDiscard f.slot .media).cme with state := .voidWait, retry := 1 }, rfl, noBlock, ?_⟩
  exact (Dev.commitFail_second block page kept second).trans (Dev.askVoid_asks samePage)

theorem Dev.commitFail_plm : d.commitFail.plm.page pg = .torn := by
  obtain ⟨c, -, -, asks⟩ := Dev.commitFail_asks block page kept second
  have plm : d.commitFail.plm = d.plm.setPage pg .torn := by
    rw [asks]
    simp [Dev.setCme, Dev.place, Dev.failedTwice, Dev.setPlm]
  rw [plm, Plm.page_setPage_same]

theorem Dev.commitFail_free : f.id ∈ d.commitFail.stb.free := by
  obtain ⟨c, -, -, asks⟩ := Dev.commitFail_asks block page kept second
  obtain ⟨stb, -⟩ := Dev.dropUnderProgram_some (d := (d.pageTorn pg).setCme fun c => { c with state := .voidWait }) block
  rw [asks]
  refine (Dev.cutDiscard_blocksTo (d.failedTwice pg) f.slot .media).free f.id ?_
  rw [Dev.failedTwice, stb]
  exact List.mem_append_right _ List.mem_cons_self

theorem Dev.commitFail_endedAt : d.commitFail.endedAt f.slot := by
  obtain ⟨c, -, -, asks⟩ := Dev.commitFail_asks block page kept second
  rw [asks]
  exact (Dev.cutDiscard_endedAt _ f.slot .media).later (Dev.place_streamsTo ..)

theorem Dev.commitFail_cutsFor (taken : d.body f.slot = some x) : d.cutsFor d.commitFail f.slot x .media := by
  obtain ⟨c, -, -, asks⟩ := Dev.commitFail_asks block page kept second
  have cut := Dev.dropCut_cutsFor (d := (d.pageTorn pg).setCme fun c => { c with state := .voidWait }) (r := .media)
    block rfl taken
  have flows : ((d.failedTwice pg).cutDiscard f.slot .media).flowsTo d.commitFail := by
    rw [Dev.commitFail_second block page kept second]
    exact Dev.askVoid_flowsTo _
  have streams : ((d.failedTwice pg).cutDiscard f.slot .media).streamsTo d.commitFail := by
    rw [asks]
    exact Dev.place_streamsTo ..
  have blocks : ((d.failedTwice pg).cutDiscard f.slot .media).blocksTo d.commitFail := by
    rw [asks]
    exact ⟨fun _ => id, fun _ => id⟩
  exact cut.later streams blocks flows

theorem Dev.commitFail_records (taken : d.body f.slot = some x) :
    (d.commitFail.body f.slot ≠ none → d.recordTakes d.commitFail x id)
      ∧ (d.commitFail.body f.slot = none → d.recordTakes d.commitFail x (x.closed (cutEnding .media x.ending))) := by
  obtain ⟨c, -, -, asks⟩ := Dev.commitFail_asks block page kept second
  have before : d.keepsStreams (d.failedTwice pg) := Dev.keepsStreams_of_dir (by simp [Dev.failedTwice, Dev.setCme, Dev.setPlm])
  have after : ((d.failedTwice pg).cutDiscard f.slot .media).keepsStreams d.commitFail := by
    rw [asks]
    exact Dev.keepsStreams_of_dir rfl
  have body : d.commitFail.body f.slot = ((d.failedTwice pg).cutDiscard f.slot .media).body f.slot := by
    rw [asks]
    rfl
  rw [body]
  rcases Dev.cutDiscard_recordTakes (Dev.failedTwice_body (pg := pg) block taken) .media with ⟨gone, closed⟩ | ⟨left, same⟩
  · exact ⟨fun some => absurd gone some, fun _ => Dev.recordTakes_then (Dev.recordTakes_after before closed) after⟩
  · exact ⟨fun _ => Dev.recordTakes_then (Dev.recordTakes_after before same) after, fun none => absurd none left⟩

theorem Dev.commitFail_noticed (taken : d.body f.slot = some x) : d.commitFail.noticed .streamCut x.incident := by
  obtain ⟨c, -, -, asks⟩ := Dev.commitFail_asks block page kept second
  rw [asks]
  exact Dev.cutDiscard_noticed (Dev.failedTwice_body (pg := pg) block taken) .media

end

end

end Sys2Proof.Machine
end


section
/-! PROOFS. COMMIT_PROGRAM_DONE, settled. -/

namespace Sys2Proof.Machine

section
variable {d e : Dev} {pg : PageAddr} {f : Block}

theorem Dev.commitFail_dropped (block : d.cme.block = some f) (page : d.cme.page = some pg)
    (dropping : d.cme.dropping = true) (rests : d.stb.queue = [] ∨ d.commits = false) :
    d.commitFail.plm.page pg = .torn ∧ d.commitFail.cme = ⟨.idle, none, none, 0, false⟩ ∧ f.id ∈ d.commitFail.stb.free := by
  let g := (d.pageTorn pg).setPlm Plm.usedUpTest
  obtain ⟨stb, -⟩ := Dev.dropUnderProgram_some (d := g) block
  obtain ⟨plm, cme⟩ := Dev.cmeFree_rests (d := g.dropUnderProgram) (some f.slot) (rests.imp
    (fun h => by rw [stb]; exact h) fun h => by
      rw [← h, Dev.commits, Dev.commits, show g.dropUnderProgram.hum = d.hum by simp [g, Dev.setPlm]])
  rw [Dev.commitFail_drops block page dropping]
  refine ⟨?_, cme, (Dev.cmeFree_blocksTo g.dropUnderProgram (some f.slot)).free f.id ?_⟩
  · rw [plm, show g.dropUnderProgram.plm = g.plm by simp]
    exact (Plm.page_usedUpTest ..).trans (Plm.page_setPage_same ..)
  · rw [stb]
    exact List.mem_append_right _ List.mem_cons_self

theorem Dev.settle_op (d : Dev) : d.settle.arc.op = d.arc.op := by simp

/-- The end of a commit's program, whatever its outcome. -/
def Dev.commitEnd (ok : Bool) (d : Dev) : Dev := if ok then d.commitOk else d.commitFail

theorem Dev.commitEnd_keepsAllBut (d : Dev) (ok : Bool) :
    d.keepsAllBut [.ict, .cpm, .stb, .cme, .plm, .arc, .drm, .hiu, .tmb, .ntu] (d.commitEnd ok) := by
  intro c hc
  cases ok <;> cases c <;> simp at hc <;> simp [Part.agrees, Dev.commitEnd]

theorem Dev.commitEnd_op (d : Dev) (ok : Bool) : (d.commitEnd ok).arc.op = d.arc.op := by
  cases ok <;> simp [Dev.commitEnd]

end

/-- Settles O49: a page is durable, tried again behind its void mark, or its stream is cut. -/
theorem commitProgramDone : Obligations.CommitProgramDone := by
  intro s o p a data b spare f pg hpower op block page good takes
  obtain ⟨t, runs, ok, fails⟩ := State.programDone_dev (o := o) hpower op Dev.commitEnd
  have block' : s.dev.opEnded.cme.block = some f := block
  have page' : s.dev.opEnded.cme.page = some pg := page
  have quiet (h : s.dev.stb.queue = [] ∨ ¬takes
      ∨ ({ s.dev with plm := s.dev.plm.stored pg f } : Dev).givePage ≠ none) : (s.dev.opEnded.pageStored pg f).cmeQuiet :=
    Dev.pageStored_quiet (d := s.dev.opEnded) (h.imp id (Or.imp Dev.commits_false_iff.2
      (Dev.givePage_ne_none_of_plm (d := { s.dev with plm := s.dev.plm.stored pg f })
        (e := { s.dev.opEnded with plm := s.dev.plm.stored pg f }) rfl)))
  have cme (e : Dev) : e.settle.cme = e.cme := (Dev.settle_frame _).2.2.2.2.2.2.1
  have stb (e : Dev) : e.settle.stb = e.stb := (Dev.settle_frame _).2.2.2.2.2.1
  refine ⟨t, runs, ?_, ?_, fun g rest pg' d' h commits queue given => ?_, fun h rests => ?_, fun x h taken rests => ?_,
    fun x h taken own held => ?_, fun h kept first => ?_, fun h kept second taken => ?_, fun x h kept second taken => ?_,
    fun h dropping rests => ?_⟩
  · by_cases h : good
    · rw [ok h, Dev.settle_op, Dev.commitEnd_op]
    · rw [fails h, Dev.settle_op, Dev.commitEnd_op]
  · have started : s.dev.keepsAllBut [.arc] s.dev.opEnded := by
      intro c hc
      cases c <;> simp at hc <;> rfl
    have kept (e : Bool) := (started.mono (by decide)).trans ((Dev.commitEnd_keepsAllBut _ e).trans
      ((Dev.settle_keepsAllBut _).mono (by decide)))
    by_cases h : good
    · exact ok h ▸ kept true
    · exact fails h ▸ kept false
  · obtain ⟨d₁, given', pool⟩ := Dev.givePage_of_plm (d := { s.dev with plm := s.dev.plm.stored pg f })
      (e := { s.dev.opEnded with plm := s.dev.plm.stored pg f }) rfl given
    obtain ⟨plm, taken, left, asked⟩ := Dev.commitOk_takes block' page' (Dev.commits_iff.2 commits) queue given'
    rw [ok h, Dev.settle_plm, cme, stb]
    refine ⟨plm.trans pool, taken, left, (Dev.settle_asksTo _).mem asked, Dev.commitOk_free block' page',
      fun x taken held => ?_⟩
    rw [Dev.body_settle]
    exact (Dev.commitOk_holds block' page' taken (quiet (.inr (.inr (by rw [given]; exact nofun))))
      (.inl (StreamBody.stored_held held))).1
  · obtain ⟨plm, rest⟩ := Dev.commitOk_rests block' page' (rests.imp_right Dev.commits_false_iff.2)
    have still := quiet (rests.imp_right .inl)
    rw [ok h, Dev.settle_plm, cme, stb]
    refine ⟨?_, ?_, rest, Dev.commitOk_free block' page', fun x taken held => ?_, fun x e taken ending fill last none room => ?_⟩
    · exact (congrArg (Plm.page · pg) plm).trans (Plm.stored_page ..)
    · exact (congrArg (fun m : Plm => (m.zone pg.zone.val).holders) plm).trans (Plm.stored_holders ..)
    · rw [Dev.body_settle]
      exact (Dev.commitOk_holds block' page' taken still (.inl (StreamBody.stored_held held))).1
    · obtain ⟨gone, -, entry⟩ := Dev.commitOk_releases block' page' taken still
        (StreamBody.stored_drained ending fill last.le) ((Dev.pageStored_capRoom ..).2 ⟨none, by
          show s.dev.drm.queue.length < 80
          omega⟩)
      rw [Dev.body_settle, (Dev.settle_inner _).2.1]
      exact ⟨gone, entry⟩
  · have still := quiet rests
    rw [ok h]
    refine ⟨fun held => ?_, fun e ending fill last => ⟨fun none room => ?_, fun full => ?_⟩⟩
    · exact Dev.recordTakes_then (Dev.commitOk_holds block' page' taken still (.inl (StreamBody.stored_held held))).2
        (Dev.settle_keepsStreams _)
    · obtain ⟨gone, records, -⟩ := Dev.commitOk_releases block' page' taken still
        (StreamBody.stored_drained ending fill last) ((Dev.pageStored_capRoom ..).2 ⟨none, room⟩)
      rw [Dev.body_settle]
      exact ⟨gone, Dev.recordTakes_then records (Dev.settle_keepsStreams _)⟩
    · obtain ⟨stands, records⟩ := Dev.commitOk_holds block' page' taken still (.inr (Bool.eq_false_iff.2 fun room => by
        obtain ⟨none, short⟩ := (Dev.pageStored_capRoom ..).1 room
        exact full.elim (fun some => some none) (Nat.not_le.2 short)))
      rw [Dev.body_settle]
      exact ⟨fun gone => absurd (stands.symm.trans gone) nofun, Dev.recordTakes_then records (Dev.settle_keepsStreams _)⟩
  · obtain ⟨stands, gone⟩ := Dev.commitOk_own block' page' taken own (StreamBody.stored_held held)
    rw [ok h]
    refine ⟨fun left => ?_, fun none => ?_⟩
    · exact Dev.recordTakes_then (stands (by rwa [Dev.body_settle] at left)) (Dev.settle_keepsStreams _)
    · exact Dev.recordTakes_then (gone (by rwa [Dev.body_settle] at none)) (Dev.settle_keepsStreams _)
  · rw [fails h]
    exact congrArg Dev.settle (Dev.commitFail_first page' kept first)
  · obtain ⟨x, taken⟩ := Option.ne_none_iff_exists'.1 taken
    obtain ⟨c, waits, noBlock, asks⟩ := Dev.commitFail_asks block' page' kept second
    rw [fails h, Dev.settle_plm, cme, stb]
    refine ⟨Dev.commitFail_plm block' page' kept second, ?_, ?_, Dev.commitFail_free block' page' kept second,
      (Dev.commitFail_cutsFor block' page' kept second taken).2.1,
      (Dev.commitFail_endedAt block' page' kept second).later (Dev.settle_streamsTo _)⟩
    · exact (congrArg (·.cme.state) asks).trans waits
    · exact (congrArg (·.cme.block) asks).trans noBlock
  · obtain ⟨stands, gone⟩ := Dev.commitFail_records block' page' kept second taken
    rw [fails h]
    refine ⟨(Dev.commitFail_cutsFor block' page' kept second taken).later (Dev.settle_streamsTo _)
      (Dev.settle_blocksTo _) (Dev.settle_flowsTo _), fun left => ?_, fun none => ?_, ?_⟩
    · exact Dev.recordTakes_then (stands (by rwa [Dev.body_settle] at left)) (Dev.settle_keepsStreams _)
    · exact Dev.recordTakes_then (gone (by rwa [Dev.body_settle] at none)) (Dev.settle_keepsStreams _)
    · exact (Dev.settle_stays _).told _ (Dev.commitFail_noticed block' page' kept second taken)
  · have shut : s.dev.stb.queue = [] ∨ s.dev.opEnded.commits = false := rests.imp_right fun ⟨closing, mode⟩ =>
      Dev.commits_false_iff.2 fun h => by
        rcases h with normal | ⟨-, none⟩
        · exact nomatch mode.symm.trans normal
        · exact closing none
    rw [fails h, Dev.settle_plm, cme, stb]
    exact Dev.commitFail_dropped block' page' dropping shut

end Sys2Proof.Machine
end


section
/-! PROOFS. The batch and the flush that are under way through the operations of the closing phase (R96, R117). -/

namespace Sys2Proof.Machine

/-- The batch and the flush under way are as they were. -/
structure Dev.batchesTo (d e : Dev) : Prop where
  batch : e.drm.batch = d.drm.batch
  flushing : e.hiu.flushing = d.hiu.flushing

section
variable {d e : Dev}

theorem Dev.batchesTo_rfl (d : Dev) : d.batchesTo d := ⟨rfl, rfl⟩

theorem Dev.batchesTo.trans {f : Dev} (h : d.batchesTo e) (g : e.batchesTo f) : d.batchesTo f :=
  ⟨g.batch.trans h.batch, g.flushing.trans h.flushing⟩

theorem Dev.batchesTo_of_same (drm : e.drm = d.drm) (hiu : e.hiu = d.hiu) : d.batchesTo e :=
  ⟨congrArg Drm.batch drm, congrArg Hiu.flushing hiu⟩

/-! ### The history -/

theorem Hiu.flushing_markTo (h : Hiu) (n : Nat) : (h.markTo n).flushing = h.flushing := by
  unfold Hiu.markTo
  split <;> rfl

theorem Dev.takeEntry_flushing (d : Dev) (body : HBody) (severity : Nat) (source : Source) (code : Nat) :
    (d.takeEntry body severity source code).hiu.flushing = d.hiu.flushing := by
  unfold Dev.takeEntry Dev.setHiu
  split
  · exact Hiu.flushing_markTo ..
  · rfl

theorem Dev.gapTest_flushing (d : Dev) : d.gapTest.hiu.flushing = d.hiu.flushing := by
  unfold Dev.gapTest
  split
  · exact (d.takeEntry_flushing ..).trans rfl
  · rfl

theorem Dev.stageHead_flushing (d : Dev) (x : HEntry) (rest : List HEntry) :
    (d.stageHead x rest).hiu.flushing = d.hiu.flushing := by
  unfold Dev.stageHead
  rw [Dev.gapTest_flushing]
  dsimp only [Dev.setHiu]
  split
  · rw [Dev.armFlush_hiu]
  · rfl

theorem Dev.haltTest_flushing (d : Dev) : d.haltTest.hiu.flushing = d.hiu.flushing := by
  unfold Dev.haltTest Dev.setHiu Dev.raise
  dsimp only
  split <;> rfl

theorem Dev.prepTest_flushing (d : Dev) : d.prepTest.hiu.flushing = d.hiu.flushing := by
  unfold Dev.prepTest
  split
  · rfl
  split
  · rfl
  split
  · split <;> rfl
  · rfl

theorem Dev.ringAdvance_flushing (d : Dev) (z : RingIdx) : (d.ringAdvance z).hiu.flushing = d.hiu.flushing := by
  rw [Dev.ringAdvance_eq, Dev.prepTest_flushing]
  unfold Dev.succeed
  split
  · split
    · unfold Dev.activate
      rw [Dev.haltTest_flushing]
      rfl
    · rfl
  · rfl

theorem Dev.pageAdvance_flushing (d : Dev) : d.pageAdvance.hiu.flushing = d.hiu.flushing := by
  unfold Dev.pageAdvance
  split
  · rfl
  · split
    · exact d.ringAdvance_flushing _
    · rfl

theorem Dev.moveOnce_flushing (h : d.moveOnce = some e) : e.hiu.flushing = d.hiu.flushing := by
  unfold Dev.moveOnce at h
  split at h
  next => cases h
  next x rest intake =>
    split at h
    · split at h
      · cases h
        exact d.stageHead_flushing x rest
      · cases h
    next t target =>
      split at h
      · cases h
      split at h
      · cases h
        exact d.stageHead_flushing x rest
      · cases h
        have marked := Hiu.flushing_markTo d.hiu (d.hiu.lastInPage t.zone)
        split
        · rw [Dev.pageAdvance_flushing]
          exact marked
        · exact marked

theorem Dev.moveLoop_flushing (n : Nat) (d : Dev) : (d.moveLoop n).hiu.flushing = d.hiu.flushing := by
  induction n generalizing d with
  | zero => rfl
  | succ n ih =>
    unfold Dev.moveLoop
    split
    next e moved => rw [ih, Dev.moveOnce_flushing moved]
    · rfl

theorem Dev.offerSeq_batchesTo (d : Dev) (body : HBody) (severity : Nat) (source : Source) (code : Nat) :
    d.batchesTo (d.offerSeq body severity source code).dev := by
  refine ⟨by simp, ?_⟩
  unfold Dev.offerSeq
  split
  · exact (Dev.moveLoop_flushing 256 _).trans (d.takeEntry_flushing ..)
  · rfl

theorem Dev.markedEvent_batchesTo (d : Dev) (code severity : Nat) (body : HBody) :
    d.batchesTo (d.markedEvent code severity body).dev :=
  (d.offerSeq_batchesTo body severity .internal code).trans ⟨rfl, Hiu.flushing_markTo ..⟩

/-! ### Captures and releases -/

theorem Dev.tryPass_batchesTo (d : Dev) : d.batchesTo d.tryPass := by
  refine ⟨?_, by simp⟩
  rcases d.tryPass_cases with h | ⟨k, r, -, h⟩ <;> rw [h]
  rw [Dev.passed_drm]

theorem Dev.waitCapture_batchesTo (d : Dev) (w : CapWaiter) : d.batchesTo (d.waitCapture w) := by
  unfold Dev.waitCapture
  split <;> exact ⟨rfl, rfl⟩

theorem Dev.keep_batchesTo (d : Dev) (k : DirSlot) (r : Incident) : d.batchesTo (d.keep k r) := by
  refine ⟨by rw [Dev.keep_drm], ?_⟩
  unfold Dev.keep
  exact (Dev.offerSeq_batchesTo _ _ _ _ _).flushing.trans (by simp [Dev.setIct])

theorem Dev.tryKeep_batchesTo (d : Dev) : d.batchesTo d.tryKeep := by
  rcases d.tryKeep_cases with h | h | ⟨k, r, -, h⟩ <;> rw [h]
  · exact d.batchesTo_rfl
  · exact d.waitCapture_batchesTo _
  · exact d.keep_batchesTo k r

theorem Dev.closeRun_batchesTo (d : Dev) : d.batchesTo d.closeRun :=
  d.tryPass_batchesTo.trans ((Dev.tryKeep_batchesTo _).trans ((Dev.tryPass_batchesTo _).trans (Dev.tryKeep_batchesTo _)))

theorem Dev.releaseSlot_batchesTo (d : Dev) (i : StreamIdx) (x : StreamBody) (k : PendingEnd) :
    d.batchesTo (d.releaseSlot i x k) := by
  refine ⟨?_, by simp [Dev.releaseSlot]⟩
  exact (congrArg Drm.batch (Dev.modIncident_queue ..)).trans rfl

theorem Dev.releaseKeeping_batchesTo (d : Dev) (i : StreamIdx) : d.batchesTo (d.releaseKeeping i) := by
  rcases d.releaseKeeping_cases i with h | h | ⟨x, k, -, -, h⟩ <;> rw [h]
  · exact d.batchesTo_rfl
  · exact d.waitCapture_batchesTo _
  · exact (d.releaseSlot_batchesTo i x k).trans (Dev.tryKeep_batchesTo _)

theorem Dev.cutClosing_batchesTo (d : Dev) (i : StreamIdx) : d.batchesTo (d.cutClosing i) := by
  unfold Dev.cutClosing
  split
  · unfold Dev.reportCut Dev.event
    exact ((Dev.batchesTo_of_same (by simp) (by simp)).trans (Dev.offerSeq_batchesTo _ _ _ _ _)).trans ⟨rfl, rfl⟩
  · exact d.batchesTo_rfl

theorem Dev.foldl_batchesTo {α : Type} {f : Dev → α → Dev} (step : ∀ (d : Dev) a, d.batchesTo (f d a)) :
    ∀ (l : List α) (d : Dev), d.batchesTo (l.foldl f d)
  | [], d => d.batchesTo_rfl
  | a :: l, d => (step d a).trans (Dev.foldl_batchesTo step l _)

theorem Dev.closingStart_batchesTo (d : Dev) (c : ClosingCause) : d.batchesTo (d.closingStart c) := by
  refine Dev.batchesTo_of_same ?_ ?_ <;> simp [Dev.closingStart]

theorem Dev.closing_batchesTo (d : Dev) (c : ClosingCause) : d.batchesTo (d.beginClosing c) := by
  rw [Dev.beginClosing_eq]
  exact (((((d.closingStart_batchesTo c).trans (Dev.foldl_batchesTo Dev.cutClosing_batchesTo _ _)).trans
    (Dev.foldl_batchesTo (f := Dev.discardBlocks) (fun e i => Dev.batchesTo_of_same (by simp) (by simp)) _ _)).trans
    (Dev.foldl_batchesTo Dev.releaseKeeping_batchesTo _ _)).trans (Dev.closeRun_batchesTo _)).trans
    (Dev.markedEvent_batchesTo ..)

/-- A free slot stays free. -/
theorem Dev.closing_free {i : StreamIdx} (c : ClosingCause) (free : d.body i = none) : (d.beginClosing c).body i = none := by
  obtain ⟨n, start⟩ := d.body_closingStart c i
  refine (d.closing_holdsTo c).free i ?_
  rw [Dev.body_passes, start, free]
  rfl

end

end Sys2Proof.Machine
end


section
/-! PROOFS. The arbiter: what it may grant, what it grants, and what a grant does (R60 to R65, R128, R132 to R135). -/

namespace Sys2Proof.Machine

/-! ### What may be granted -/

/-- Table 3.7 and R65: the requesters that a mode allows. -/
def Dev.allows (d : Dev) (who : Requester) : Prop := match d.hum.mode with
  | .start => (∃ p, who = .rtu p) ∨ who = .scanner
  | .normal => d.arc.storeFailed = false ∨ (who ≠ .ringPrep ∧ who ≠ .dirErase ∧ who ≠ .settingsErase ∧ who ≠ .reclaim)
  | .holdup => who = .journal ∨ who = .image ∨ who = .flush
      ∨ (d.hum.closing = none ∧ (who = .commit ∨ who = .voidMark))
  | .exhausted => False

theorem Dev.modeAllows_iff (d : Dev) (who : Requester) : d.modeAllows who = true ↔ d.allows who := by
  unfold Dev.modeAllows Dev.allows
  cases d.hum.mode with
  | start => cases who <;> simp [Requester.order]
  | normal => cases who <;> simp [Requester.order]
  | holdup => cases who <;> simp [Requester.order]
  | exhausted => simp

theorem Dev.grantable_iff (d : Dev) (q : ArrReq) : d.grantable q = true ↔ q.job.zone ∉ d.arc.defects
    ∧ (∀ e, d.arc.erase = some e → e.zone ≠ q.job.zone) ∧ d.allows q.who
    ∧ (d.hum.mode = .holdup → q.job.isProgram = true → 1 ≤ d.hum.credits) := by
  have credit : d.creditFor q.job = true ↔ (d.hum.mode = .holdup → q.job.isProgram = true → 1 ≤ d.hum.credits) := by
    by_cases mode : d.hum.mode = .holdup <;> cases program : q.job.isProgram <;> simp [Dev.creditFor, mode, program]
  have erase : d.arc.erase.all (·.zone != q.job.zone) = true ↔ ∀ e, d.arc.erase = some e → e.zone ≠ q.job.zone := by
    cases d.arc.erase <;> simp
  rw [Dev.grantable, Bool.and_eq_true, Bool.and_eq_true, Bool.and_eq_true, credit, erase, Dev.modeAllows_iff, and_assoc,
    and_assoc]
  simp

/-! ### What is granted -/

theorem lowest_filter {p : ArrReq → Bool} {l : List ArrReq} {r : ArrReq} (h : lowest (l.filter p) = some r) :
    r ∈ l ∧ p r = true ∧ (∀ x ∈ l, p x = true → r.who.order ≤ x.who.order)
      ∧ ∃ before after, l = before ++ r :: after ∧ ∀ x ∈ before, p x = true → r.who.order < x.who.order := by
  obtain ⟨a, b, split, first, rest⟩ := lowest_split _ r h
  obtain ⟨l₁, l₂, rfl, left, right⟩ := List.filter_eq_append_iff.1 split
  obtain ⟨l₃, l₄, rfl, skipped, holds, later⟩ := List.filter_eq_cons_iff.1 right
  have before (x : ArrReq) (mem : x ∈ l₁ ++ l₃) (px : p x = true) : r.who.order < x.who.order := by
    rcases List.mem_append.1 mem with early | none
    · exact first x (left ▸ List.mem_filter.2 ⟨early, px⟩)
    · exact absurd px (skipped x none)
  have mem : r ∈ l₁ ++ (l₃ ++ r :: l₄) := by simp
  refine ⟨mem, holds, fun x hx px => ?_, l₁ ++ l₃, l₄, (List.append_assoc ..).symm, before⟩
  rw [← List.append_assoc] at hx
  rcases List.mem_append.1 hx with early | late
  · exact (before x early px).le
  · rcases List.mem_cons.1 late with rfl | last
    · exact le_rfl
    · exact rest x (later ▸ List.mem_filter.2 ⟨last, px⟩)

section
variable {d : Dev} {r : ArrReq}

/-- A request of a kind that could be granted waits. -/
def Dev.ready (d : Dev) (erase : Bool) : Prop := ∃ x ∈ d.arc.waiting, x.job.isErase = erase ∧ d.grantable x = true

theorem Dev.grantableOps_nil : d.grantableOps = [] ↔ ¬d.ready false := by
  simp only [Dev.grantableOps, List.filter_eq_nil_iff, Dev.ready, not_exists, not_and, Bool.and_eq_true, Bool.not_eq_true']

theorem Dev.grantableErases_nil : d.arc.waiting.filter (fun r => r.job.isErase && d.grantable r) = [] ↔ ¬d.ready true := by
  simp only [List.filter_eq_nil_iff, Dev.ready, not_exists, not_and, Bool.and_eq_true]

/-- The array is free for the grant of a READ or a PROGRAM. -/
def Dev.arrayFree (d : Dev) : Prop := d.arc.op = none ∧ ∀ e, d.arc.erase = some e → e.phase = .suspended

theorem Dev.nextGrant_busy (busy : ¬d.arrayFree) : d.nextGrant = none := by
  unfold Dev.nextGrant
  split
  · rfl
  next op =>
    refine if_pos (by_contra fun suspended => busy ⟨by simpa using op, fun e erase => ?_⟩)
    simpa [erase] using suspended

theorem Dev.nextGrant_free (free : d.arrayFree) : d.nextGrant = match lowest d.grantableOps with
    | some r => some r
    | none => if d.arc.erase.isSome then none else lowest (d.arc.waiting.filter fun r => r.job.isErase && d.grantable r) := by
  obtain ⟨op, suspended⟩ := free
  have idle : ¬d.arc.erase.any (·.phase != .suspended) = true := by
    cases erase : d.arc.erase with
    | none => simp
    | some e => simp [suspended e erase]
  exact (if_neg (by simp [op])).trans (if_neg idle)

theorem Dev.nextGrant_op (free : d.arrayFree) (ready : d.ready false) : d.nextGrant = lowest d.grantableOps := by
  rw [Dev.nextGrant_free free]
  cases found : lowest d.grantableOps with
  | none => exact absurd ready (Dev.grantableOps_nil.1 ((lowest_none _).1 found))
  | some r => rfl

theorem Dev.nextGrant_erase (free : d.arrayFree) (none : ¬d.ready false) (noErase : d.arc.erase = .none) :
    d.nextGrant = lowest (d.arc.waiting.filter fun r => r.job.isErase && d.grantable r) := by
  rw [Dev.nextGrant_free free, (lowest_none _).2 (Dev.grantableOps_nil.2 none)]
  exact if_neg (by simp [noErase])

theorem Dev.nextGrant_erasing (free : d.arrayFree) (none : ¬d.ready false) (erase : d.arc.erase ≠ .none) :
    d.nextGrant = .none := by
  rw [Dev.nextGrant_free free, (lowest_none _).2 (Dev.grantableOps_nil.2 none)]
  exact if_pos (Option.isSome_iff_ne_none.2 erase)

theorem Dev.arrayFree_iff : ¬d.arrayFree ↔ d.arc.op ≠ none ∨ ∃ e, d.arc.erase = some e ∧ e.phase ≠ .suspended := by
  simp only [Dev.arrayFree, not_and_or, not_forall, ne_eq, exists_prop]

theorem Dev.nextGrant_none_iff : d.nextGrant = none ↔ d.arc.op ≠ none ∨ (∃ e, d.arc.erase = some e ∧ e.phase ≠ .suspended)
    ∨ (¬d.ready false ∧ (d.arc.erase ≠ none ∨ ¬d.ready true)) := by
  rw [← or_assoc, ← Dev.arrayFree_iff]
  by_cases free : d.arrayFree
  · by_cases ready : d.ready false
    · rw [Dev.nextGrant_op free ready, lowest_none, Dev.grantableOps_nil]
      simp [free, ready]
    · by_cases erase : d.arc.erase = none
      · rw [Dev.nextGrant_erase free ready erase, lowest_none, Dev.grantableErases_nil]
        simp [free, ready, erase]
      · rw [Dev.nextGrant_erasing free ready erase]
        simp [ready, erase]
  · simp [Dev.nextGrant_busy free, free]

/-- What a grant tells of the request granted. -/
structure Dev.grants (d : Dev) (r : ArrReq) : Prop where
  mem : r ∈ d.arc.waiting
  grantable : d.grantable r = true
  free : d.arrayFree
  ops : r.job.isErase = true → ¬d.ready false ∧ d.arc.erase = none
  least : ∀ x ∈ d.arc.waiting, d.grantable x = true → x.job.isErase = r.job.isErase → r.who.order ≤ x.who.order
  first : ∃ before after, d.arc.waiting = before ++ r :: after
    ∧ ∀ x ∈ before, d.grantable x = true → x.job.isErase = r.job.isErase → r.who.order < x.who.order

theorem Dev.grants_of_nextGrant (h : d.nextGrant = some r) : d.grants r := by
  have free : d.arrayFree := by_contra fun busy => by rw [Dev.nextGrant_busy busy] at h; cases h
  by_cases ready : d.ready false
  · rw [Dev.nextGrant_op free ready] at h
    obtain ⟨mem, holds, least, before, after, split, first⟩ := lowest_filter h
    obtain ⟨op, grantable⟩ : r.job.isErase = false ∧ d.grantable r = true := by simpa using holds
    exact ⟨mem, grantable, free, fun erase => absurd (op.symm.trans erase) nofun,
      fun x mem g same => least x mem (by simp [same, op, g]),
      before, after, split, fun x mem g same => first x mem (by simp [same, op, g])⟩
  · by_cases erase : d.arc.erase = none
    · rw [Dev.nextGrant_erase free ready erase] at h
      obtain ⟨mem, holds, least, before, after, split, first⟩ := lowest_filter h
      obtain ⟨isErase, grantable⟩ : r.job.isErase = true ∧ d.grantable r = true := by simpa using holds
      exact ⟨mem, grantable, free, fun _ => ⟨ready, erase⟩,
        fun x mem g same => least x mem (by simp [same, isErase, g]),
        before, after, split, fun x mem g same => first x mem (by simp [same, isErase, g])⟩
    · rw [Dev.nextGrant_erasing free ready erase] at h
      cases h

end

end Sys2Proof.Machine
end


section
/-! PROOFS. What a grant does: the operation it starts, the credit it takes, and the tests of the reserve and of the
last credit (R63, R64, R128, R132 to R135). -/

namespace Sys2Proof.Machine

section
variable {d : Dev} {r : ArrReq}

/-! ### The operation -/

/-- The state with a request out of the waiting set. -/
abbrev Dev.unqueued (d : Dev) (r : ArrReq) : Dev := { d with arc := { d.arc with waiting := d.arc.waiting.erase r } }

/-- The job that a grant starts. -/
def Dev.grantJob (d : Dev) (r : ArrReq) : Job := ((d.unqueued r).granted r).1

/-- The state with a job under way. -/
def Dev.starts (d : Dev) (who : Requester) : Job → Dev
  | .erase z => { d with arc := { d.arc with erase := some ⟨.running, z, who⟩, runTimer := 0 } }
  | job => { d with arc := { d.arc with op := some ⟨who, job⟩ } }

/-- The state with the operation of a grant under way, before its credit. -/
def Dev.begun (d : Dev) (r : ArrReq) : Dev := ((d.unqueued r).granted r).2.starts r.who (d.grantJob r)

theorem Dev.grant_eq (d : Dev) (r : ArrReq) : d.grant r = (d.begun r).onlyIf
    ((d.begun r).hum.mode == .holdup && (d.grantJob r).isProgram) fun d => d.spendCredit.reserveTest.exhaustTest := rfl

theorem Dev.starts_fields (d : Dev) (who : Requester) (job : Job) : (d.starts who job).hum = d.hum
    ∧ (d.starts who job).tmb = d.tmb ∧ (d.starts who job).cpm = d.cpm ∧ (d.starts who job).stb = d.stb
    ∧ (d.starts who job).sst = d.sst ∧ (d.starts who job).drm = d.drm ∧ (d.starts who job).hiu = d.hiu := by
  cases job <;> exact ⟨rfl, rfl, rfl, rfl, rfl, rfl, rfl⟩

theorem Dev.begun_fields (d : Dev) (r : ArrReq) : (d.begun r).hum = d.hum ∧ (d.begun r).tmb = d.tmb
    ∧ (d.begun r).cpm = d.cpm ∧ (d.begun r).stb = d.stb ∧ (d.begun r).sst = d.sst := by
  obtain ⟨hum, tmb, cpm, stb, sst, -⟩ := ((d.unqueued r).granted r).2.starts_fields r.who (d.grantJob r)
  unfold Dev.begun
  rw [hum, tmb, cpm, stb, sst]
  simp

theorem Dev.grantJob_own (journal : r.who ≠ .journal) (flush : r.who ≠ .flush) : d.grantJob r = r.job := by
  unfold Dev.grantJob Dev.granted
  cases who : r.who with
  | journal => exact absurd who journal
  | flush => exact absurd who flush
  | _ => rfl

theorem Dev.grantJob_journal {z : Zone} (who : r.who = .journal) (active : d.drm.active = some z) :
    d.grantJob r = d.drm.batchJob z := by
  simp [Dev.grantJob, Dev.granted, who, active]

theorem Dev.grantJob_flush {t : WritePage} (who : r.who = .flush) (target : d.hiu.target = some t) :
    d.grantJob r = d.flushJob t := by
  simp [Dev.grantJob, Dev.granted, who, target]
  rfl

theorem Dev.begun_batch (who : r.who = .journal) : (d.begun r).drm.batch = d.drm.batchNow.length := by
  obtain ⟨-, -, -, -, -, drm, -⟩ := ((d.unqueued r).granted r).2.starts_fields r.who (d.grantJob r)
  unfold Dev.begun
  rw [drm]
  simp [Dev.granted, who, Dev.setDrm]

theorem Dev.begun_flushing (who : r.who = .flush) : (d.begun r).hiu.flushing = d.hiu.staging.length := by
  obtain ⟨-, -, -, -, -, -, hiu⟩ := ((d.unqueued r).granted r).2.starts_fields r.who (d.grantJob r)
  unfold Dev.begun
  rw [hiu]
  simp [Dev.granted, who, Dev.setHiu]

theorem Dev.begun_arc (d : Dev) (r : ArrReq) : ((d.unqueued r).granted r).2.arc = (d.unqueued r).arc := by simp

theorem Dev.begun_op (op : (d.grantJob r).isErase = false) : (d.begun r).arc.op = some ⟨r.who, d.grantJob r⟩ := by
  unfold Dev.begun
  cases job : d.grantJob r with
  | erase z => simp [job, Job.isErase] at op
  | _ => rfl

theorem Dev.begun_erase {z : Zone} (job : d.grantJob r = .erase z) : (d.begun r).arc.erase = some ⟨.running, z, r.who⟩
    ∧ (d.begun r).arc.runTimer = 0 ∧ (d.begun r).arc.op = d.arc.op := by
  unfold Dev.begun
  rw [job]
  refine ⟨rfl, rfl, ?_⟩
  show ((d.unqueued r).granted r).2.arc.op = d.arc.op
  rw [Dev.begun_arc]

/-! ### The credit -/

/-- The state with a credit spent and tested. -/
def Dev.spent (d : Dev) : Dev := d.spendCredit.reserveTest.exhaustTest

/-- The spending begins the closing phase. -/
def Dev.reserveReached (d : Dev) : Prop := d.hum.closing = none ∧ d.hum.credits - 1 ≤ d.sst.working.reserve

theorem Dev.reserveTest_closes (h : d.reserveReached) : d.spendCredit.reserveTest = d.spendCredit.beginClosing .reserve :=
  if_pos ⟨by simpa [Dev.spendCredit, Dev.setHum] using h.1, h.2⟩

theorem Dev.reserveTest_stays (h : ¬d.reserveReached) : d.spendCredit.reserveTest = d.spendCredit :=
  if_neg fun c => h ⟨by simpa [Dev.spendCredit, Dev.setHum] using c.1, c.2⟩

theorem Dev.exhaustTest_eq (d : Dev) : d.exhaustTest = { d with hum := d.exhaustTest.hum } := by
  unfold Dev.exhaustTest
  split <;> rfl

theorem Dev.spent_eq (d : Dev) : d.spent = { d.spendCredit.reserveTest with hum := d.spent.hum } :=
  Dev.exhaustTest_eq _

theorem Dev.exhaustTest_hum (mode : d.hum.mode = .holdup) :
    d.exhaustTest.hum = { d.hum with mode := if d.hum.credits = 0 then .exhausted else .holdup } := by
  unfold Dev.exhaustTest
  by_cases none : d.hum.credits = 0
  · rw [if_pos ⟨mode, none⟩, if_pos none]
    rfl
  · rw [if_neg fun h => none h.2, if_neg none, ← mode]

open Classical in
theorem Dev.spent_hum (mode : d.hum.mode = .holdup) : d.spent.hum =
    { mode := if d.hum.credits - 1 = 0 then .exhausted else .holdup
      credits := d.hum.credits - 1
      closing := if d.reserveReached then some .reserve else d.hum.closing } := by
  have tested : d.spendCredit.reserveTest.hum = { d.hum with
      credits := d.hum.credits - 1, closing := if d.reserveReached then some .reserve else d.hum.closing } := by
    by_cases h : d.reserveReached
    · rw [Dev.reserveTest_closes h, Dev.closing_hum, if_pos h]
      rfl
    · rw [Dev.reserveTest_stays h, if_neg h]
      rfl
  unfold Dev.spent
  rw [Dev.exhaustTest_hum (by rw [tested]; exact mode), tested]

theorem Dev.spent_arc (d : Dev) : d.spent.arc.op = d.arc.op ∧ d.spent.arc.erase = d.arc.erase
    ∧ d.spent.arc.runTimer = d.arc.runTimer := by
  rw [d.spent_eq]
  by_cases h : d.reserveReached
  · rw [Dev.reserveTest_closes h]
    simp
  · rw [Dev.reserveTest_stays h]
    simp

theorem Dev.spent_batchesTo (d : Dev) : d.batchesTo d.spent := by
  have exhausts : d.spendCredit.reserveTest.batchesTo d.spent := by
    unfold Dev.spent
    rw [Dev.exhaustTest_eq]
    exact ⟨rfl, rfl⟩
  refine Dev.batchesTo.trans ?_ exhausts
  by_cases h : d.reserveReached
  · rw [Dev.reserveTest_closes h]
    exact (Dev.batchesTo_of_same (d := d) (e := d.spendCredit) rfl rfl).trans (d.spendCredit.closing_batchesTo .reserve)
  · rw [Dev.reserveTest_stays h]
    exact ⟨rfl, rfl⟩

/-- The closing phase that a spending begins. -/
theorem Dev.spent_closes (h : d.reserveReached) : d.spent.tmb.deadlines.holdup = none
    ∧ ∀ i x, d.spent.body i = some x → x.ending ≠ none ∧ x.fill = none ∧ ∀ f ∈ d.spent.stb.queue, f.slot ≠ i := by
  have stb : d.spent.stb = (d.spendCredit.beginClosing .reserve).stb := by
    rw [d.spent_eq, Dev.reserveTest_closes h]
  have cpm : d.spent.cpm = (d.spendCredit.beginClosing .reserve).cpm := by
    rw [d.spent_eq, Dev.reserveTest_closes h]
  have tmb : d.spent.tmb = (d.spendCredit.beginClosing .reserve).tmb := by
    rw [d.spent_eq, Dev.reserveTest_closes h]
  rw [tmb, stb]
  refine ⟨(d.spendCredit.closing_deadlines .reserve).1, fun i x hx => ?_⟩
  rw [Dev.body_of_cpm cpm] at hx
  obtain ⟨ending, fill⟩ := Dev.closing_ended .reserve hx
  refine ⟨ending, fill, ?_⟩
  cases taken : d.spendCredit.body i with
  | none => exact absurd ((Dev.closing_free .reserve taken).symm.trans hx) nofun
  | some y => exact Dev.closing_queue .reserve taken

/-! ### The grant as a whole -/

theorem Dev.grant_free (h : d.hum.mode ≠ .holdup ∨ (d.grantJob r).isProgram = false) : d.grant r = d.begun r := by
  have hum : (d.begun r).hum = d.hum := (d.begun_fields r).1
  rw [Dev.grant_eq, hum]
  refine if_neg fun spends => ?_
  obtain ⟨mode, program⟩ := Bool.and_eq_true_iff.1 spends
  exact h.elim (fun other => other (beq_iff_eq.1 mode)) fun no => nomatch no.symm.trans program

theorem Dev.grant_spends (mode : d.hum.mode = .holdup) (program : (d.grantJob r).isProgram = true) :
    d.grant r = (d.begun r).spent := by
  have hum : (d.begun r).hum = d.hum := (d.begun_fields r).1
  rw [Dev.grant_eq, hum]
  exact if_pos (by simp [mode, program])

theorem Dev.grant_credits (d : Dev) (r : ArrReq) : (d.grant r).hum.credits =
    d.hum.credits - (if d.hum.mode = .holdup ∧ (d.grantJob r).isProgram = true then 1 else 0) := by
  have hum : (d.begun r).hum = d.hum := (d.begun_fields r).1
  by_cases h : d.hum.mode = .holdup ∧ (d.grantJob r).isProgram = true
  · rw [Dev.grant_spends h.1 h.2, Dev.spent_hum (by rw [hum]; exact h.1), if_pos h, hum]
  · rw [Dev.grant_free ((not_and_or.1 h).imp_right Bool.eq_false_iff.2), if_neg h, hum]
    rfl

theorem Dev.grant_arc (d : Dev) (r : ArrReq) : (d.grant r).arc.op = (d.begun r).arc.op
    ∧ (d.grant r).arc.erase = (d.begun r).arc.erase ∧ (d.grant r).arc.runTimer = (d.begun r).arc.runTimer := by
  by_cases h : d.hum.mode = .holdup ∧ (d.grantJob r).isProgram = true
  · rw [Dev.grant_spends h.1 h.2]
    exact Dev.spent_arc _
  · rw [Dev.grant_free ((not_and_or.1 h).imp_right Bool.eq_false_iff.2)]
    exact ⟨rfl, rfl, rfl⟩

theorem Dev.grant_batchesTo (d : Dev) (r : ArrReq) : (d.begun r).batchesTo (d.grant r) := by
  by_cases h : d.hum.mode = .holdup ∧ (d.grantJob r).isProgram = true
  · rw [Dev.grant_spends h.1 h.2]
    exact Dev.spent_batchesTo _
  · rw [Dev.grant_free ((not_and_or.1 h).imp_right Bool.eq_false_iff.2)]
    exact Dev.batchesTo_rfl _

end

end Sys2Proof.Machine
end


section
/-! PROOFS. The arbiter, settled (R60 to R65, Tables 3.6 and 3.7). -/

namespace Sys2Proof.Machine

section
variable {d : Dev} {r : ArrReq}

theorem Requester.order_lt_iff (x y : Requester) :
    let rank (r : Requester) : Nat := match r with
      | .journal | .image => 1
      | .commit | .voidMark => 2
      | .flush => 3
      | .rtu _ | .scanner => 4
      | .save => 5
      | .ringPrep => 6
      | .dirErase => 7
      | .settingsErase => 8
      | .reclaim => 9
    x.order < y.order ↔ rank x < rank y := by
  intro rank
  have placed (r : Requester) : r.order = (if rank r ≤ 6 then 10 * rank r else 54 + rank r) := by cases r <;> rfl
  rw [placed x, placed y]
  split <;> split <;> omega

/-! ### Suspension -/

theorem Dev.erasePhase_eq {z : Zone} {who : Requester} {x : ErasePhase} (erase : d.arc.erase = some ⟨x, z, who⟩)
    (y : ErasePhase) : d.erasePhase y = { d with arc := { d.arc with erase := some ⟨y, z, who⟩ } } := by
  simp [Dev.erasePhase, erase]

theorem Dev.wanted_iff (d : Dev) : d.suspendWanted = true ↔
    (∃ r ∈ d.arc.waiting, r.job.isErase = false ∧ d.grantable r = true)
      ∨ d.hum.mode = .holdup ∨ d.hum.mode = .exhausted := by
  have ops : (!d.grantableOps.isEmpty) = true ↔ d.ready false := by
    rw [Bool.not_eq_true', List.isEmpty_eq_false_iff, ne_eq, Dev.grantableOps_nil, not_not]
  rw [Dev.suspendWanted, Bool.or_eq_true, Bool.or_eq_true, ops, or_assoc]
  simp [Dev.ready]

/-- An erase that has just begun or that gives way does not change its phase with what follows every change. -/
theorem Dev.settle_begun {z : Zone} {who : Requester} (erase : d.arc.erase = some ⟨.running, z, who⟩)
    (fresh : d.arc.runTimer = 0) : d.settle.arc.erase = some ⟨.running, z, who⟩ ∧ d.settle.arc.runTimer = 0 := by
  obtain ⟨-, same, -, timer, -⟩ := d.writers_leave
  rw [d.settle_erase.1, d.settle_erase.2, Dev.arcSettle_running (same.trans erase),
    if_neg (by rw [timer, fresh]; exact fun h => absurd h.1 (by decide)), same, timer]
  exact ⟨erase, fresh⟩

/-! ### The grant, settled -/

/-- The state after a grant and what follows it. -/
abbrev Dev.granted' (d : Dev) (r : ArrReq) : Dev := (d.grant r).settle

theorem Dev.grantJob_program (h : (r.job.isProgram = true ∧ r.who ≠ .journal ∧ r.who ≠ .flush)
    ∨ (r.who = .journal ∧ d.drm.active ≠ none) ∨ (r.who = .flush ∧ d.hiu.target ≠ none)) :
    (d.grantJob r).isProgram = true := by
  rcases h with ⟨program, journal, flush⟩ | ⟨who, active⟩ | ⟨who, target⟩
  · rw [Dev.grantJob_own journal flush, program]
  · obtain ⟨z, hz⟩ := Option.ne_none_iff_exists'.1 active
    rw [Dev.grantJob_journal who hz]
    rfl
  · obtain ⟨t, ht⟩ := Option.ne_none_iff_exists'.1 target
    rw [Dev.grantJob_flush who ht]
    rfl

theorem Dev.grant_hum_free (h : d.hum.mode ≠ .holdup ∨ (d.grantJob r).isProgram = false) : (d.grant r).hum = d.hum := by
  rw [Dev.grant_free h, (d.begun_fields r).1]

theorem Dev.settle_hum (d : Dev) : d.settle.hum = d.hum := by simp

theorem Dev.settle_batch (d : Dev) : d.settle.drm.batch = d.drm.batch ∧ d.settle.hiu.flushing = d.hiu.flushing := by simp

theorem Job.program_of_not_erase {j : Job} (h : j.isProgram = true) : j.isErase = false := by
  cases j with
  | program => rfl
  | read => cases h
  | erase => cases h

theorem Dev.grantNext_some (h : d.nextGrant = some r) : d.grantNext = d.grant r := by
  simp [Dev.grantNext, h]

theorem Dev.grantNext_none (h : d.nextGrant = none) : d.grantNext = d := by
  simp [Dev.grantNext, h]

/-- Whether the run timer's end suspends the erase. -/
def Dev.runEnds (d : Dev) : Bool :=
  d.arc.erase.any (·.phase == .running) && Config.eraseMinRun ≤ d.arc.runTimer && d.suspendWanted

theorem Dev.runEnds_iff {z : Zone} {who : Requester} (erase : d.arc.erase = some ⟨.running, z, who⟩) :
    d.runEnds = true ↔ 1000 ≤ d.arc.runTimer ∧ d.suspendWanted = true := by
  simp [Dev.runEnds, erase, Config.eraseMinRun]

end

/-- Settles O48: what may be granted, the order, the next grant, suspension, and what a grant does. -/
theorem theArbiterGrants : Obligations.TheArbiterGrants := by
  refine ⟨fun d q => ⟨d.modeAllows_iff q.who, ?_⟩, Requester.order_lt_iff, fun d => ⟨fun _ _ => rfl, Dev.nextGrant_none_iff,
    fun r h => ?_⟩, fun s z who hpower => ?_, fun s hpower => ⟨fun none => ?_, fun r h => ?_⟩⟩
  · refine (d.grantable_iff q).trans ?_
    cases q.job <;> rfl
  · obtain ⟨-, -, -, ops, -, first⟩ := Dev.grants_of_nextGrant h
    exact ⟨fun erase => (ops erase).1, first⟩
  · intro wanted phase
    have wants := s.dev.wanted_iff
    refine ⟨fun erase => ⟨fun long want => ?_, fun rests => ?_⟩, fun erase => ?_⟩
    · refine (State.act_onlyIf_due (due := Dev.runEnds) (f := fun d => d.erasePhase .suspending) hpower
        ((Dev.runEnds_iff erase).2 ⟨long, wants.2 want⟩)).trans ?_
      rw [Dev.erasePhase_eq erase]
    · refine State.act_onlyIf_idle (due := Dev.runEnds) (f := fun d => d.erasePhase .suspending)
        (Bool.eq_false_iff.2 fun ends => ?_)
      obtain ⟨long, want⟩ := (Dev.runEnds_iff erase).1 ends
      exact rests.elim (Nat.not_lt.2 long) fun no => no (wants.1 want)
    · have runs : exec .eraseSuspended s = .next { s with dev := (phase .suspended).grantNext.settle } := by
        refine (State.act_onlyIf_due (due := fun d => d.arc.erase.any (·.phase == .suspending))
          (f := fun d => (d.erasePhase .suspended).grantNext.settle) hpower (by simp [erase])).trans ?_
        rw [Dev.erasePhase_eq erase]
      rw [runs]
      refine ⟨fun none => by rw [Dev.grantNext_none none], fun r h => ⟨?_, by rw [Dev.grantNext_some h]⟩⟩
      refine Bool.eq_false_iff.2 fun isErase => ?_
      exact nomatch ((Dev.grants_of_nextGrant h).ops isErase).2
  · exact State.act_onlyIf_idle (due := fun d => d.nextGrant.isSome) (f := fun d => d.grantNext.settle) (by simp [none])
  · obtain ⟨mem, grantable, ⟨op, suspended⟩, ops, least, -⟩ := Dev.grants_of_nextGrant h
    have runs : exec .arbiterGrant s = .next { s with dev := (s.dev.grant r).settle } := by
      refine (State.act_onlyIf_due (due := fun d => d.nextGrant.isSome) (f := fun d => d.grantNext.settle) hpower
        (by simp [h])).trans ?_
      rw [Dev.grantNext_some h]
    have credits : (s.dev.grant r).settle.hum.credits = s.dev.hum.credits
        - (if s.dev.hum.mode = .holdup ∧ (s.dev.grantJob r).isProgram = true then 1 else 0) := by
      rw [Dev.settle_hum, Dev.grant_credits]
    have started (own : (s.dev.grantJob r).isErase = false) :
        (s.dev.grant r).settle.arc.op = some ⟨r.who, s.dev.grantJob r⟩ := by
      rw [Dev.settle_op, (s.dev.grant_arc r).1, Dev.begun_op own]
    refine ⟨mem, grantable, op, fun x hx hg noErase => ?_, fun isErase => ⟨(ops isErase).2, fun x hx hg => ?_⟩,
      (s.dev.grant r).settle, runs, fun normal => ?_, ?_, fun journal flush => ⟨fun z job => ?_, fun noErase => ?_⟩,
      ⟨fun mode program => ?_, fun normal => ?_, fun no journal flush => ?_⟩, fun z who active => ?_, fun t who target => ?_⟩
    · have own : r.job.isErase = false := Bool.eq_false_iff.2 fun isErase => (ops isErase).1 ⟨x, hx, noErase, hg⟩
      exact ⟨own, least x hx hg (noErase.trans own.symm)⟩
    · refine least x hx hg (Eq.trans ?_ isErase.symm)
      exact Bool.eq_true_of_not_eq_false fun no => (ops isErase).1 ⟨x, hx, no, hg⟩
    · exact ((s.dev.grant_keepsAllBut r).1 normal).trans ((Dev.settle_keepsAllBut _).mono (by decide))
    · exact (s.dev.grant_keepsAllBut r).2.trans ((Dev.settle_keepsAllBut _).mono (by decide))
    · have own : s.dev.grantJob r = .erase z := (Dev.grantJob_own journal flush).trans job
      obtain ⟨-, erase, timer⟩ := s.dev.grant_arc r
      obtain ⟨begun, fresh, kept⟩ := Dev.begun_erase own
      obtain ⟨settled, stands⟩ := Dev.settle_begun (d := s.dev.grant r) (erase.trans begun) (timer.trans fresh)
      refine ⟨settled, stands, ?_, ?_⟩
      · rw [Dev.settle_op, (s.dev.grant_arc r).1, kept, op]
      · rw [Dev.settle_hum, Dev.grant_hum_free (.inr (by rw [own]; rfl))]
    · have own := Dev.grantJob_own (d := s.dev) journal flush
      refine ⟨(started (by rw [own]; exact noErase)).trans (by rw [own]), ?_⟩
      rw [credits, own]
    · have spends := Dev.grantJob_program program
      obtain ⟨hum, tmb, cpm, stb, sst⟩ := s.dev.begun_fields r
      have spent := Dev.grant_spends mode spends
      have reached (closing : s.dev.hum.closing = none) (low : s.dev.hum.credits - 1 ≤ s.dev.sst.working.reserve) :
          (s.dev.begun r).reserveReached := by
        rw [Dev.reserveReached, hum, sst]
        exact ⟨closing, low⟩
      refine ⟨?_, fun closing low => ?_⟩
      · rw [Dev.settle_hum, spent, Dev.spent_hum (by rw [hum]; exact mode), hum]
        have same : (s.dev.begun r).reserveReached ↔
            s.dev.hum.closing = none ∧ s.dev.hum.credits - 1 ≤ s.dev.sst.working.reserve := by
          rw [Dev.reserveReached, hum, sst]
        simp only [same]
      · obtain ⟨holdup, bodies⟩ := Dev.spent_closes (reached closing low)
        rw [spent, (Dev.settle_frame _).2.2.2.2.2.1, (Dev.settle_capturesTo _).holdup]
        refine ⟨holdup, fun i x hx => bodies i x ?_⟩
        rwa [Dev.body_settle] at hx
    · rw [Dev.settle_hum, Dev.grant_hum_free (.inl normal)]
    · rw [Dev.settle_hum, Dev.grant_hum_free (.inr (by rw [Dev.grantJob_own journal flush, no]))]
    · have job := Dev.grantJob_journal (r := r) who active
      refine ⟨(started (by rw [job]; rfl)).trans (by rw [job, who]), ?_, ?_⟩
      · rw [(Dev.settle_batch _).1, (s.dev.grant_batchesTo r).batch, Dev.begun_batch who]
      · rw [credits, job]
        simp [Drm.batchJob, Job.isProgram]
    · have job := Dev.grantJob_flush (r := r) who target
      refine ⟨(started (by rw [job]; rfl)).trans (by rw [job, who]), ?_, ?_⟩
      · rw [(Dev.settle_batch _).2, (s.dev.grant_batchesTo r).flushing, Dev.begun_flushing who]
      · rw [credits, job]
        simp [Dev.flushJob, Job.isProgram]

end Sys2Proof.Machine
end


section
/-! PROOFS. An OPEN_STREAM (R24, R25, R27 to R29, R95, Table 2.3). -/

namespace Sys2Proof.Machine

/-- Whether the part's supply lets a stream of a class be opened (Table 2.3, first condition). -/
def Dev.mayOpen (d : Dev) (cls : Nat) : Prop :=
  d.hum.mode = .normal ∨ (d.hum.mode = .holdup ∧ cls ≤ 1 ∧ d.hum.closing = none)

section
variable {d : Dev} {cls : Nat} {x : Incident}

theorem Dev.mayOpen_iff : (d.hum.mode == .normal || (d.hum.mode == .holdup && cls ≤ 1 && d.hum.closing.isNone)) = true
    ↔ d.mayOpen cls := by
  simp [Dev.mayOpen, and_assoc]

theorem Dev.openStreamTest_power (h : ¬d.mayOpen cls) : d.openStreamTest cls = some .power := by
  rw [Dev.openStreamTest, if_pos]
  simpa only [Bool.not_eq_true', ← Bool.not_eq_true, Dev.mayOpen_iff] using h

theorem Dev.openStreamTest_noIncident (h : d.mayOpen cls) (hx : d.drm.at? d.ict.recording = none) :
    d.openStreamTest cls = some .noIncident := by
  have supplied := Dev.mayOpen_iff.2 h
  simp only [Dev.openStreamTest, supplied, hx, Bool.not_true, Bool.false_eq_true, if_false]

theorem Dev.openStreamTest_recording (h : d.mayOpen cls) (hx : d.drm.at? d.ict.recording = some x) :
    d.openStreamTest cls =
      if d.ict.windowExpired then some .windowClosed
      else if 12 ≤ x.streams.length then some .streamLimit
      else if (List.finRange 16).all (fun i => (d.body i).isSome) then some .noSlot
      else none := by
  have supplied := Dev.mayOpen_iff.2 h
  simp only [Dev.openStreamTest, supplied, hx, Bool.not_true, Bool.false_eq_true, if_false, Config.streamsPerIncident]

theorem Dev.all_taken_iff : (List.finRange 16).all (fun i => (d.body i).isSome) = true ↔ ∀ i, d.body i ≠ none := by
  simp [Option.isSome_iff_ne_none]

/-- An OPEN_STREAM that passes Table 2.3. -/
theorem Dev.openStreamTest_none (h : d.mayOpen cls) (hx : d.drm.at? d.ict.recording = some x)
    (hw : d.ict.windowExpired = false) (hn : x.streams.length < 12) (free : ∃ i, d.body i = none) :
    d.openStreamTest cls = none := by
  have some_free : ¬(List.finRange 16).all (fun i => (d.body i).isSome) = true := by
    rw [Dev.all_taken_iff]
    obtain ⟨i, hi⟩ := free
    exact fun all => all i hi
  rw [Dev.openStreamTest_recording h hx, if_neg (by simp [hw]), if_neg (by omega), if_neg some_free]

end

@[simp] theorem Dev.openStreamTest_takeFrame (d : Dev) (cls : Nat) (p : Port) (code tag : Byte) (b : List Byte) :
    (d.takeFrame p code tag b).openStreamTest cls = d.openStreamTest cls := by
  simp [Dev.openStreamTest, Dev.body]

section
variable {s : State} {p : Port} {tag : Byte} {b : List Byte}

/-- A condition of Table 2.3 refuses an OPEN_STREAM. -/
theorem exec_openStream_refused (reaches : s.reaches p .openStream b) {status : Status}
    (h : s.dev.openStreamTest (byte b 0) = some status) (hs : status ≠ .unknownRequest) :
    exec (.openStream p tag b) s = .next (s.onlyAnswers p b (Request.openStream.says tag status 0 .empty)) := by
  refine exec_onlyAnswers reaches hs ?_
  show Dev.serveOpenStream p b _ = _
  simp [Dev.serveOpenStream, Dev.openStreamNow, h]

/-- An OPEN_STREAM that stands and finds no place waits as a capture requester (R29, R95). -/
theorem exec_openStream_waits (reaches : s.reaches p .openStream b) (h : s.dev.openStreamTest (byte b 0) = none)
    (full : s.dev.drm.capRoom 1 = false) :
    exec (.openStream p tag b) s = .next { s with dev := { s.dev with
      pif := s.dev.waitsFor p b 0x01 tag
      drm := { s.dev.drm with captureWaiters := s.dev.drm.captureWaiters ++
          [.openStream p (byte b 0) (BitVec.ofNat 64 (field b 1 8))
            (if b.length = 13 then some (field b 9 4) else none)] } } } := by
  refine exec_of_serve (r := .openStream) reaches ?_
  show Dev.serveOpenStream p b _ = _
  have stands : ((s.dev.takeFrame p 0x01 tag b).openStreamTest (byte b 0)).isNone ∧
      (s.dev.takeFrame p 0x01 tag b).drm.capRoom 1 = false := by simp [h, full]
  refine (if_pos stands).trans ?_
  rw [Dev.takeFrame_eq]
  rfl

theorem exec_openStream_now (reaches : s.reaches p .openStream b) (room : s.dev.drm.capRoom 1 = true) :
    exec (.openStream p tag b) s = .next { s with
      dev := (s.dev.takeFrame p 0x01 tag b).openStreamNow p (byte b 0) (BitVec.ofNat 64 (field b 1 8))
        (if b.length = 13 then some (field b 9 4) else none) } := by
  refine exec_of_serve (r := .openStream) reaches ?_
  show Dev.serveOpenStream p b _ = _
  exact if_neg (by simp [room])

/-- The taking of an OPEN_STREAM, written out (R25, R28). -/
theorem Dev.takeStream_eq {d : Dev} {k : DirSlot} {x : Incident} (hk : d.drm.slotOf x.number = some k)
    (hx : d.drm.dir[k] = some x) (i : StreamIdx) (p : Port) (cls : Nat) (label : BitVec 64) (declared : Option Nat) :
    d.takeStream i x p cls label declared = Dev.reply { d with
        cpm := { d.cpm with
          slots := put d.cpm.slots i
            ⟨(d.cpm.slots[i]).gen + 1, some (newBody x.number x.streams.length p cls declared)⟩ }
        ict := d.ict.attnClear p
        drm := { d.drm with
          queue := d.drm.queue ++ [JEntry.streamOpen x.number x.streams.length (.port p) cls label declared]
          dir := put d.drm.dir k (some { x with
            streams := x.streams ++ [newStream x.streams.length p cls label declared] }) } }
      p .ok 0 (.opened i ((d.cpm.slots[i]).gen + 1) x.number x.streams.length) := by
  unfold Dev.takeStream
  dsimp only
  rw [Dev.modIncident_of_slotOf (i := k) (x := x) (by exact hk) (by exact hx)]
  rfl

end

/-- Settles O34: the conditions of Table 2.3 in their order, then the opening in the lowest-numbered slot. -/
theorem openStreamTakesASlot : Obligations.OpenStreamTakesASlot := by
  constructor
  · intro p tag b s reaches cls answered power
    refine ⟨fun h => exec_openStream_refused reaches (Dev.openStreamTest_power h) (by decide), fun h off => ?_,
      fun x h hx => ?_⟩
    · exact exec_openStream_refused reaches (Dev.openStreamTest_noIncident (not_not.1 h) off) (by decide)
    · have test := Dev.openStreamTest_recording (d := s.dev) (not_not.1 h) hx
      refine ⟨fun hw => ?_, fun hw hn => ?_, fun hw hn all => ?_, fun hw hn free full => ?_⟩
      · exact exec_openStream_refused reaches (test.trans (by simp [hw])) (by decide)
      · exact exec_openStream_refused reaches (test.trans (by simp [hw, hn])) (by decide)
      · refine exec_openStream_refused reaches (test.trans ?_) (by decide)
        rw [if_neg (by simp [hw]), if_neg (by omega), if_pos (Dev.all_taken_iff.2 all)]
      · refine exec_openStream_waits reaches (Dev.openStreamTest_none (not_not.1 h) hx hw hn free) ?_
        rw [← Bool.not_eq_true, Drm.capRoom_iff]
        rintro ⟨empty, room⟩
        rcases full with some | full
        · exact some empty
        · omega
  · intro p tag b s i k x reaches cls label declared n gen power hk hx slot hw hn free empty room
    have at_k : s.dev.drm.at? s.dev.ict.recording = some x := by rw [hk]; exact hx
    have unused : s.dev.body i = none := by simpa using firstFin_some free
    have passes := Dev.openStreamTest_none (d := s.dev) power at_k hw hn ⟨i, unused⟩
    rw [exec_openStream_now reaches (Drm.capRoom_iff.2 ⟨empty, by omega⟩)]
    have free' : (s.dev.takeFrame p 0x01 tag b).freeStreamSlot = some i := by
      rw [Dev.takeFrame_eq]; exact free
    have now : (s.dev.takeFrame p 0x01 tag b).openStreamNow p cls label declared
        = ((s.dev.takeFrame p 0x01 tag b).takeStream i x p cls label declared).settle := by
      simp only [Dev.openStreamNow, Dev.openStreamTest_takeFrame, passes, free', cls]
      simp [at_k]
    have pif : (s.dev.takeFrame p 0x01 tag b).pif = (s.dev.takeFrame p Request.openStream.code tag b).pif := rfl
    rw [now, Dev.takeStream_eq (k := k) (by simpa using slot) (by simpa using hx),
      Dev.reply_taken (by exact pif) (by decide), Dev.takeFrame_eq]
    rfl

end Sys2Proof.Machine
end


section
/-! PROOFS. A DECLARE that joins, waits or is refused (R4, R10 to R12, R29, R95, Table 1.7). -/

namespace Sys2Proof.Machine

/-! ### What a trigger offers -/

theorem Dev.logsTo.withDrm {d e : Dev} (h : d.logsTo e) (m : Drm) :
    ({ d with drm := m } : Dev).logsTo { e with drm := m } := by
  unfold Dev.logsTo at *
  exact congrArg (fun y : Dev => { y with drm := m }) h

theorem Dev.triggerEvent_logsTo (d : Dev) (t : TriggerRecord) (n : Nat) (x : Disposition) :
    d.logsTo (d.triggerEvent t n x).dev := Dev.markedEvent_logsTo ..

/-- The mark of a trigger's event touches nothing else of the history (R116). -/
theorem Dev.triggerEvent_hiu (d : Dev) (t : TriggerRecord) (n : Nat) (x : Disposition) :
    (d.triggerEvent t n x).dev.hiu
      = { (d.offerSeq (.trigger n t.cause t.tick t.snapshot x) 0 .internal evTrigger).dev.hiu with
          mark := (d.triggerEvent t n x).dev.hiu.mark } := by
  simp only [Dev.triggerEvent, Dev.markedEvent, Dev.setHiu, Hiu.markTo]
  split <;> rfl

theorem Dev.triggerEvent_offers (d : Dev) (t : TriggerRecord) (n : Nat) (x : Disposition) :
    d.offers (d.triggerEvent t n x).dev (.trigger n t.cause t.tick t.snapshot x) 0 .internal evTrigger :=
  (d.offerSeq_offers ..).later (Dev.markTo_flowsTo _ _) (by rw [Dev.triggerEvent_hiu])

/-- A notice of a cause and a detail that stands in both sets. -/
def Dev.notes (d : Dev) (c : NoticeCause) (detail : BitVec 32) : Prop :=
  ∀ l ∈ [d.ntu.management, d.ntu.service], ∃ x ∈ l, x.cause = c ∧ x.detail = detail

theorem Dev.raise_notes (d : Dev) (c : NoticeCause) (n : Nat) : (d.raise c n).notes c (BitVec.ofNat 32 n) := by
  simp only [Dev.notes, List.forall_mem_cons, List.not_mem_nil, false_implies, implies_true, and_true]
  exact ⟨mem_raiseIn_detail _ _ _, mem_raiseIn_detail _ _ _⟩

/-- An answer and what follows every change leave the notices as they stand. -/
theorem Dev.notes.answered {d : Dev} {c : NoticeCause} {detail : BitVec 32} (h : d.notes c detail) (p : Port)
    (status : Status) (flags : Byte) (x : ReplyBody) : ((d.reply p status flags x).settle).notes c detail := by
  simpa only [Dev.notes, Dev.settle_inner, Dev.reply_fields] using h

/-! ### A secondary trigger -/

/-- The incident's share in a secondary trigger, of which `n` are recorded or waiting (R11, R95). -/
def Dev.countSecondary (d : Dev) (number n : Nat) (t : TriggerRecord) : Dev :=
  if n < 4 then
    if d.drm.capRoom 1 then d.addSecondary number t.cause t.tick
    else d.addWaiter (.triggerAdd number t.cause t.tick)
  else d.modIncident number fun x => { x with overflow := bump 255 x.overflow }

theorem Dev.secondaryOf_eq (d : Dev) (number n : Nat) (t : TriggerRecord) (p : Option Port) :
    d.secondaryOf number n t p
      = ((d.triggerEvent t number .secondary).dev.countSecondary number n t).answer p .secondary number := by
  have same : (d.triggerEvent t number .secondary).dev.drm = d.drm := by simp
  unfold Dev.secondaryOf Dev.countSecondary
  rw [same]

/-- The directory after a secondary trigger of the incident in slot `i`. -/
def Drm.withSecondary (m : Drm) (i : DirSlot) (x : Incident) (n : Nat) (t : TriggerRecord) : Drm :=
  if n < 4 then
    if m.captureWaiters = [] ∧ m.queue.length < 80 then
      { m with
        queue := m.queue ++ [.triggerAdd x.number t.cause t.tick]
        dir := put m.dir i (some { x with secondary := x.secondary ++ [(t.cause, t.tick)] }) }
    else { m with captureWaiters := m.captureWaiters ++ [.triggerAdd x.number t.cause t.tick] }
  else { m with dir := put m.dir i (some { x with overflow := min 255 (x.overflow + 1) }) }

theorem Dev.addSecondary_eq {d : Dev} {i : DirSlot} {x : Incident} (hk : d.drm.slotOf x.number = some i)
    (hx : d.drm.dir[i] = some x) (c : Cause) (k : Tick) : d.addSecondary x.number c k = { d with
      drm := { d.drm with
        queue := d.drm.queue ++ [.triggerAdd x.number c k]
        dir := put d.drm.dir i (some { x with secondary := x.secondary ++ [(c, k)] }) } } := by
  unfold Dev.addSecondary
  rw [Dev.modIncident_of_slotOf (i := i) (x := x) (by exact hk) (by exact hx)]
  rfl

theorem Dev.countSecondary_eq {d : Dev} {i : DirSlot} {x : Incident} (hk : d.drm.slotOf x.number = some i)
    (hx : d.drm.dir[i] = some x) (n : Nat) (t : TriggerRecord) :
    d.countSecondary x.number n t = { d with drm := d.drm.withSecondary i x n t } := by
  unfold Dev.countSecondary Drm.withSecondary
  by_cases few : n < 4
  · by_cases room : d.drm.capRoom 1 = true
    · rw [if_pos few, if_pos room, if_pos few, if_pos (Drm.capRoom_iff.1 room), Dev.addSecondary_eq hk hx]
    · rw [if_pos few, if_neg room, if_pos few, if_neg (fun h => room (Drm.capRoom_iff.2 h))]
      rfl
  · rw [if_neg few, if_neg few, Dev.modIncident_of_slotOf hk hx]
    rfl

/-! ### How ICT takes a trigger -/

section
variable {d : Dev} (running : d.arc.storeFailed = false)
include running

theorem Dev.takeTrigger_secondary {x : Incident} (h : d.drm.at? d.ict.recording = some x) (t : TriggerRecord)
    (p : Option Port) : d.takeTrigger t p = d.secondaryOf x.number (d.secondaryCount x) t p := by
  simp [Dev.takeTrigger, running, h, Dev.secondaryTrigger]

theorem Dev.takeTrigger_joins (h : d.drm.at? d.ict.recording = none) {o : Opening} (ho : d.ict.opening = some o)
    (t : TriggerRecord) (p : Option Port) : d.takeTrigger t p = d.joinOpening o t p := by
  simp [Dev.takeTrigger, running, h, ho]

theorem Dev.takeTrigger_opens (h : d.drm.at? d.ict.recording = none) (ho : d.ict.opening = none)
    (now : d.openingWay.places = 0 ∨ d.drm.capRoom d.openingWay.places = true) (t : TriggerRecord) (p : Option Port) :
    d.takeTrigger t p = d.openBy d.openingWay t p := by
  simp only [Dev.takeTrigger, running, h, ho, now, if_true, Bool.false_eq_true, if_false]

theorem Dev.takeTrigger_waits (h : d.drm.at? d.ict.recording = none) (ho : d.ict.opening = none)
    (way : d.openingWay ≠ .refused) (full : d.drm.capRoom d.openingWay.places = false) (t : TriggerRecord)
    (p : Option Port) : d.takeTrigger t p
      = (d.setIct fun c => { c with opening := some ⟨t, p, []⟩ }).addWaiter .opening := by
  have some_place : ¬(d.openingWay.places = 0 ∨ d.drm.capRoom d.openingWay.places = true) := by
    rintro (zero | room)
    · revert zero way
      cases d.openingWay <;> simp [OpeningWay.places]
    · simp [full] at room
  simp only [Dev.takeTrigger, running, h, ho, some_place, if_false, Bool.false_eq_true]

theorem Dev.refuseTrigger_eq (t : TriggerRecord) (p : Option Port) : d.refuseTrigger t p
    = ((d.triggerEvent t 0 .refused).dev.raise .triggerRefused 0).answer p .refused 0 := by
  simp only [Dev.refuseTrigger, running, Bool.false_eq_true, if_false]

end

/-! ### The request -/

theorem Dev.running_of_judge {d : Dev} {p : Port} {b : List Byte} (h : judge d p .declare b = none) :
    d.arc.storeFailed = false := by
  have mode := (judge_none_iff.1 h).2.2.2
  by_contra failed
  simp only [Bool.not_eq_false] at failed
  by_cases start : d.hum.mode = .start
  · exact absurd mode (by rw [modeTest_start start (by decide) (by decide)]; simp)
  · by_cases exhausted : d.hum.mode = .exhausted
    · exact absurd mode (by rw [modeTest_exhausted exhausted (by decide) (by decide)]; simp)
    · have on : d.hum.mode = .normal ∨ d.hum.mode = .holdup := by cases h : d.hum.mode <;> simp_all
      rw [modeTest_running on (by decide) (by decide)] at mode
      simp [need, failed, Request.refusedByStoreFailed] at mode

/-- The trigger of a DECLARE (R5, R6). -/
def Dev.declaration (d : Dev) (p : Port) : TriggerRecord := ⟨.declared p, d.tmb.tick, d.wallNow, d.snapshot⟩

theorem exec_declare {s : State} {p : Port} {tag : Byte} {b : List Byte} (reaches : s.reaches p .declare b) :
    exec (.declare p tag b) s = .next { s with
      dev := ((s.dev.takeFrame p Request.declare.code tag b).takeTrigger (s.dev.declaration p) (some p)).settle } := by
  refine exec_of_serve (r := .declare) reaches ?_
  show Dev.serveDeclare p _ = _
  unfold Dev.serveDeclare
  rw [Dev.takeFrame_eq]
  rfl

section
variable {s : State} {p : Port} {tag : Byte} {b : List Byte}

/-- A DECLARE that is a secondary trigger (R11). -/
theorem exec_declare_secondary (reaches : s.reaches p .declare b) {i : DirSlot} {x : Incident}
    (hi : s.dev.ict.recording = some i) (hx : s.dev.drm.dir[i] = some x) (hk : s.dev.drm.slotOf x.number = some i) :
    ∃ e : Dev, exec (.declare p tag b) s = .next { s with dev := e }
      ∧ s.dev.offers e (.trigger x.number (.declared p) s.dev.tmb.tick s.dev.snapshot .secondary) 0 .internal 0x0001
      ∧ Dev.logsTo { s.dev with
          pif := s.dev.answers p b (Request.declare.says tag .ok 0 (.declared .secondary x.number))
          drm := s.dev.drm.withSecondary i x (s.dev.secondaryCount x) (s.dev.declaration p) } e := by
  refine ⟨_, exec_declare reaches, ?_⟩
  have same := s.dev.takeFrame_eq p Request.declare.code tag b
  generalize hd : s.dev.takeFrame p Request.declare.code tag b = d at same
  have drm : d.drm = s.dev.drm := by rw [same]
  have recording : d.drm.at? d.ict.recording = some x := by rw [same]; exact hi ▸ hx
  have count : d.secondaryCount x = s.dev.secondaryCount x := by rw [same]; rfl
  have taken := Dev.takeTrigger_secondary (d := d) (by rw [same]; exact Dev.running_of_judge reaches.2) recording
    (s.dev.declaration p) (some p)
  have logged := d.triggerEvent_logsTo (s.dev.declaration p) x.number .secondary
  have edrm : (d.triggerEvent (s.dev.declaration p) x.number .secondary).dev.drm = s.dev.drm := by simp [drm]
  have offered := d.triggerEvent_offers (s.dev.declaration p) x.number .secondary
  generalize he : (d.triggerEvent (s.dev.declaration p) x.number .secondary).dev = e at logged edrm offered
  have counted := Dev.countSecondary_eq (d := e) (i := i) (x := x) (by rw [edrm]; exact hk) (by rw [edrm]; exact hx)
    (s.dev.secondaryCount x) (s.dev.declaration p)
  rw [taken, Dev.secondaryOf_eq, he, count, counted, edrm]
  have withDrm := logged.withDrm (s.dev.drm.withSecondary i x (s.dev.secondaryCount x) (s.dev.declaration p))
  constructor
  · have offers : s.dev.offers e (.trigger x.number (.declared p) s.dev.tmb.tick s.dev.snapshot .secondary) 0 .internal
        0x0001 := by rw [same] at offered; exact offered
    exact (offers.later (f := { e with
        drm := s.dev.drm.withSecondary i x (s.dev.secondaryCount x) (s.dev.declaration p) })
      (Dev.flowsTo_of_same rfl rfl rfl rfl rfl rfl rfl rfl rfl) rfl).answered p .ok 0 (.declared .secondary x.number)
  · have answered := withDrm.answered (d := s.dev) (r := .declare) (p := p) (tag := tag) (b := b)
      (by rw [← hd]) (status := .ok) (by decide) 0 (.declared .secondary x.number)
    rw [same] at answered
    exact answered

/-- A DECLARE that joins a pending opening (R12). -/
theorem exec_declare_joins (reaches : s.reaches p .declare b) (off : s.dev.drm.at? s.dev.ict.recording = none)
    {o : Opening} (ho : s.dev.ict.opening = some o) :
    exec (.declare p tag b) s = .next { s with dev := ({ s.dev with
      pif := s.dev.waitsFor p b 0x05 tag
      ict := { s.dev.ict with
        opening := some { o with joined := o.joined ++ [Joined.mk (s.dev.declaration p) (some p)] } } }).settle } := by
  rw [exec_declare reaches, Dev.takeFrame_eq,
    Dev.takeTrigger_joins (o := o) (by exact Dev.running_of_judge reaches.2) (by exact off) (by exact ho)]
  rfl

/-- A DECLARE that becomes the pending opening (R29). -/
theorem exec_declare_waits (reaches : s.reaches p .declare b) (off : s.dev.drm.at? s.dev.ict.recording = none)
    (ho : s.dev.ict.opening = none) (way : s.dev.openingWay ≠ .refused)
    (full : s.dev.drm.capRoom s.dev.openingWay.places = false) :
    exec (.declare p tag b) s = .next { s with dev := ({ s.dev with
      pif := s.dev.waitsFor p b 0x05 tag
      ict := { s.dev.ict with opening := some ⟨s.dev.declaration p, some p, []⟩ }
      drm := { s.dev.drm with captureWaiters := s.dev.drm.captureWaiters ++ [CapWaiter.opening] } }).settle } := by
  rw [exec_declare reaches, Dev.takeFrame_eq, Dev.takeTrigger_waits (by exact Dev.running_of_judge reaches.2)
    (by exact off) (by exact ho) (by exact way) (by exact full)]
  rfl

/-- A DECLARE that is refused (R10). -/
theorem exec_declare_refused (reaches : s.reaches p .declare b) (off : s.dev.drm.at? s.dev.ict.recording = none)
    (ho : s.dev.ict.opening = none) (way : s.dev.openingWay = .refused) :
    ∃ e : Dev, exec (.declare p tag b) s = .next { s with dev := e }
      ∧ Dev.logsTo { s.dev with
          pif := s.dev.answers p b (Request.declare.says tag .ok 0 (.declared .refused 0)) } e
      ∧ s.dev.offers e (.trigger 0 (.declared p) s.dev.tmb.tick s.dev.snapshot .refused) 0 .internal 0x0001
      ∧ e.notes .triggerRefused 0 := by
  refine ⟨_, exec_declare reaches, ?_⟩
  have same := s.dev.takeFrame_eq p Request.declare.code tag b
  generalize hd : s.dev.takeFrame p Request.declare.code tag b = d at same
  have running : d.arc.storeFailed = false := by rw [same]; exact Dev.running_of_judge reaches.2
  have dway : d.openingWay = .refused := by rw [same]; exact way
  have taken := Dev.takeTrigger_opens running (by rw [same]; exact off) (by rw [same]; exact ho)
    (Or.inl (by rw [dway]; rfl)) (s.dev.declaration p) (some p)
  have logged := d.triggerEvent_logsTo (s.dev.declaration p) 0 .refused
  have offered := d.triggerEvent_offers (s.dev.declaration p) 0 .refused
  have refused := Dev.refuseTrigger_eq running (s.dev.declaration p) (some p)
  generalize (d.triggerEvent (s.dev.declaration p) 0 .refused).dev = e at logged offered refused
  rw [taken, dway]
  rw [show d.openBy .refused (s.dev.declaration p) (some p) = _ from refused]
  refine ⟨?_, ?_, (Dev.raise_notes e .triggerRefused 0).answered p .ok 0 (.declared .refused 0)⟩
  · have answered := (Dev.logsTo_trans logged (Dev.raise_logsTo e .triggerRefused 0)).answered (d := s.dev)
      (r := .declare) (p := p) (tag := tag) (b := b) (by rw [← hd]) (status := .ok) (by decide) 0 (.declared .refused 0)
    rw [same] at answered
    exact answered
  · have offers : s.dev.offers e (.trigger 0 (.declared p) s.dev.tmb.tick s.dev.snapshot .refused) 0 .internal
        0x0001 := by rw [same] at offered; exact offered
    exact (offers.later (Dev.raise_flowsTo _ _ _) rfl).answered p .ok 0 (.declared .refused 0)

end

/-- Settles O32: by what ICT does with the trigger (Table 1.7). -/
theorem declareJoinsWaitsOrIsRefused : Obligations.DeclareJoinsWaitsOrIsRefused :=
  ⟨fun _ _ _ _ _ _ reaches hi hx hk => exec_declare_secondary reaches hi hx hk,
    fun _ _ _ _ reaches off => ⟨fun _ ho => exec_declare_joins reaches off ho,
      fun ho way => exec_declare_refused reaches off ho way,
      fun ho way full => exec_declare_waits reaches off ho way full⟩⟩

end Sys2Proof.Machine
end


section
/-! PROOFS. The pins through the tests of the history unit: none of them pins an incident that no zone was pinned for
(R120, R124, R125). -/

namespace Sys2Proof.Machine

/-- Whether an incident's number stands in a pin set or in the deferred pins. -/
def Hiu.pinned (h : Hiu) (n : Nat) : Prop := (∃ k : RingIdx, n ∈ (h.ring[k]).pins) ∨ n ∈ h.deferred

/-- No incident is pinned that was not pinned before. -/
structure Hiu.pinsTo (a b : Hiu) : Prop where
  back : ∀ n, b.pinned n → a.pinned n

theorem Hiu.not_pinned_iff {h : Hiu} {n : Nat} : ¬h.pinned n ↔ (∀ k : RingIdx, n ∉ (h.ring[k]).pins) ∧ n ∉ h.deferred := by
  simp only [Hiu.pinned, not_or, not_exists]

theorem Hiu.pinsTo_rfl (h : Hiu) : h.pinsTo h := ⟨fun _ => id⟩

theorem Hiu.pinsTo_trans {a b c : Hiu} (h : a.pinsTo b) (g : b.pinsTo c) : a.pinsTo c :=
  ⟨fun n hn => h.back n (g.back n hn)⟩

/-- A step of the ring that leaves every pin set and the deferred pins. -/
theorem Hiu.pinsTo_of_same {a b : Hiu} (pins : ∀ k : RingIdx, (b.ring[k]).pins = (a.ring[k]).pins)
    (deferred : b.deferred = a.deferred) : a.pinsTo b := by
  refine ⟨fun n => ?_⟩
  rintro (⟨k, hk⟩ | hn)
  · exact .inl ⟨k, pins k ▸ hk⟩
  · exact .inr (deferred ▸ hn)

theorem Hiu.sameRing.pinsTo {a b : Hiu} (h : a.sameRing b) : a.pinsTo b :=
  Hiu.pinsTo_of_same (fun k => by rw [h.ring]) h.deferred

/-- A zone rewritten with its pins kept. -/
theorem modify_pins {r : Vector RingZone 16} {j k : RingIdx} {f : RingZone → RingZone} (hf : ∀ z, (f z).pins = z.pins) :
    ((modify r j f)[k]).pins = (r[k]).pins := by
  rw [get_modify]
  split
  next same => subst same; rw [hf]
  · rfl

section
variable {d e : Dev}

theorem Dev.prepare_pinsTo (d : Dev) (k : RingIdx) : d.hiu.pinsTo (d.prepare k).hiu :=
  Hiu.pinsTo_of_same (fun _ => modify_pins fun _ => rfl) rfl

theorem Dev.prepTest_pinsTo (d : Dev) : d.hiu.pinsTo d.prepTest.hiu := by
  unfold Dev.prepTest
  split
  · exact d.hiu.pinsTo_rfl
  split
  · exact d.prepare_pinsTo _
  split
  · split
    · exact d.prepare_pinsTo _
    · exact d.hiu.pinsTo_rfl
  · exact d.hiu.pinsTo_rfl

theorem Dev.activate_pinsTo (d : Dev) (k : RingIdx) : d.hiu.pinsTo (d.activate k).hiu := by
  refine ⟨fun n => ?_⟩
  rintro (⟨j, hj⟩ | hn)
  · rw [d.activate_ring] at hj
    split at hj
    · rcases List.mem_append.1 hj with h | h
      · exact .inr h
      · exact .inl ⟨_, h⟩
    · exact .inl ⟨j, hj⟩
  · rw [(d.activate_target k).2.2.1] at hn
    cases hn

theorem Dev.ringAdvance_pinsTo (d : Dev) (z : RingIdx) : d.hiu.pinsTo (d.ringAdvance z).hiu := by
  have full : d.hiu.pinsTo (d.zoneFull z).hiu := Hiu.pinsTo_of_same (fun _ => modify_pins fun _ => rfl) rfl
  have next : (d.zoneFull z).hiu.pinsTo ((d.zoneFull z).succeed z).hiu := by
    unfold Dev.succeed
    split
    · split
      · exact Dev.activate_pinsTo _ _
      · exact Hiu.pinsTo_rfl _
    · exact Hiu.pinsTo_rfl _
  exact Hiu.pinsTo_trans full (Hiu.pinsTo_trans next (Dev.prepTest_pinsTo _))

theorem Dev.pageAdvance_pinsTo (d : Dev) : d.hiu.pinsTo d.pageAdvance.hiu := by
  unfold Dev.pageAdvance
  split
  · exact d.hiu.pinsTo_rfl
  · split
    · exact d.ringAdvance_pinsTo _
    · exact Hiu.pinsTo_of_same (fun _ => rfl) rfl

theorem Dev.moveOnce_pinsTo (h : d.moveOnce = some e) : d.hiu.pinsTo e.hiu := by
  unfold Dev.moveOnce at h
  split at h
  next => cases h
  next x rest _ =>
    split at h
    · split at h
      · cases h
        exact (d.stageHead_sameRing x rest).pinsTo
      · cases h
    next t _ =>
      split at h
      · cases h
      split at h
      · cases h
        exact (d.stageHead_sameRing x rest).pinsTo
      · cases h
        have closed : d.hiu.pinsTo { d.hiu.markTo (d.hiu.lastInPage t.zone) with closed := true } :=
          Hiu.pinsTo_trans (Hiu.sameRing_markTo _ _).pinsTo (Hiu.pinsTo_of_same (fun _ => rfl) rfl)
        refine Hiu.pinsTo_trans closed ?_
        split
        · exact Dev.pageAdvance_pinsTo (d.setHiu fun h => { h.markTo (h.lastInPage t.zone) with closed := true })
        · exact Hiu.pinsTo_rfl _

theorem Dev.moveLoop_pinsTo (n : Nat) : d.hiu.pinsTo (d.moveLoop n).hiu := by
  induction n generalizing d with
  | zero => exact d.hiu.pinsTo_rfl
  | succ n ih =>
    unfold Dev.moveLoop
    split
    next moved => exact Hiu.pinsTo_trans (Dev.moveOnce_pinsTo moved) ih
    · exact d.hiu.pinsTo_rfl

theorem Dev.hiuMove_pinsTo (d : Dev) : d.hiu.pinsTo d.hiuMove.hiu := Dev.moveLoop_pinsTo 256

theorem Dev.awaitTest_pinsTo (d : Dev) : d.hiu.pinsTo d.awaitTest.hiu := by
  unfold Dev.awaitTest
  split
  · exact d.hiu.pinsTo_rfl
  split
  · split
    · exact Hiu.pinsTo_trans (d.activate_pinsTo _)
        (Hiu.pinsTo_trans (Dev.prepTest_pinsTo _) (Dev.hiuMove_pinsTo _))
    · exact d.hiu.pinsTo_rfl
  · exact d.hiu.pinsTo_rfl

theorem Dev.resumeTest_pinsTo (d : Dev) : d.hiu.pinsTo d.resumeTest.hiu := by
  unfold Dev.resumeTest
  split
  · have going : d.hiu.pinsTo (d.setHiu fun h => { h with halted := false }).hiu :=
      Hiu.pinsTo_of_same (fun _ => rfl) rfl
    have gap := (d.setHiu fun h => { h with halted := false }).gapTest_sameRing.pinsTo
    exact Hiu.pinsTo_trans going (Hiu.pinsTo_trans gap
      (Hiu.pinsTo_trans (Dev.hiuMove_pinsTo _) (Dev.awaitTest_pinsTo _)))
  · exact d.hiu.pinsTo_rfl

theorem Dev.offerSeq_pinsTo (d : Dev) (body : HBody) (severity : Nat) (source : Source) (code : Nat) :
    d.hiu.pinsTo (d.offerSeq body severity source code).dev.hiu := by
  unfold Dev.offerSeq
  split
  · exact Hiu.pinsTo_trans (d.takeEntry_sameRing ..).pinsTo (Dev.hiuMove_pinsTo _)
  · exact Hiu.pinsTo_of_same (fun _ => rfl) rfl

theorem Dev.markedEvent_pinsTo (d : Dev) (code severity : Nat) (body : HBody) :
    d.hiu.pinsTo (d.markedEvent code severity body).dev.hiu :=
  Hiu.pinsTo_trans (d.offerSeq_pinsTo ..) (Hiu.sameRing_markTo _ _).pinsTo

theorem Hiu.dropPins_ring (h : Hiu) (n : Nat) (k : RingIdx) :
    (h.dropPins n).ring[k] = { h.ring[k] with pins := (h.ring[k]).pins.filter (· != n) } := by
  simp [Hiu.dropPins]

/-- The number of a released incident leaves every pin set (R125). -/
theorem Hiu.dropPins_not_pinned (h : Hiu) (n : Nat) : ¬(h.dropPins n).pinned n := by
  rw [Hiu.not_pinned_iff]
  refine ⟨fun k => ?_, by simp [Hiu.dropPins]⟩
  rw [h.dropPins_ring]
  simp

theorem Dev.unpin_not_pinned (d : Dev) (n : Nat) : ¬(d.unpin n).hiu.pinned n := fun h =>
  d.hiu.dropPins_not_pinned n ((Hiu.pinsTo_trans (Dev.awaitTest_pinsTo (d.setHiu (·.dropPins n)))
    (Hiu.pinsTo_trans (Dev.prepTest_pinsTo _) (Dev.resumeTest_pinsTo _))).back n h)

theorem Dev.settle_pinsTo (d : Dev) : d.hiu.pinsTo d.settle.hiu :=
  Hiu.pinsTo_of_same (fun k => by rw [d.settle_ring]) (by simp)

end

end Sys2Proof.Machine
end


section
/-! PROOFS. What the release of an incident leaves of each block (R9, R83, R104, R114, R125, R187). -/

namespace Sys2Proof.Machine

/-! ### The pool forgets the incident (R83) -/

theorem SMap.get_map {α : Type} (dflt : α) (f : α → α) (m : SMap α) (hd : f dflt = dflt) (k : Nat) :
    SMap.get dflt (m.map fun e => (e.1, f e.2)) k = f (SMap.get dflt m k) := by
  induction m with
  | nil => exact hd.symm
  | cons e m ih =>
    simp only [List.map_cons, SMap.get]
    split
    · rfl
    · exact ih

/-- A page of a released incident is DEAD. -/
def PageEntry.retire (n : Nat) : PageEntry → PageEntry
  | .live inc stream seq fill => if inc = n then .dead else .live inc stream seq fill
  | y => y

/-- A zone without a released incident. -/
def ZoneEntry.retire (n : Nat) (z : ZoneEntry) : ZoneEntry :=
  { z with
    holders := z.holders.filter (· != n)
    state := if z.state = .full ∧ z.holders.contains n ∧ z.holders.filter (· != n) = [] then .retired else z.state }

theorem Plm.retire_eq (m : Plm) (n : Nat) : m.retire n = { m with
    pages := m.pages.map fun e => (e.1, e.2.retire n)
    zones := m.zones.map fun e => (e.1, e.2.retire n) } := by
  have pages : (fun e : Nat × PageEntry => match e.2 with
      | .live inc _ _ _ => if inc = n then (e.1, PageEntry.dead) else e
      | _ => e) = fun e => (e.1, e.2.retire n) := by
    funext e
    obtain ⟨k, x⟩ := e
    cases x with
    | live inc stream seq fill =>
      simp only [PageEntry.retire]
      split <;> rfl
    | _ => rfl
  unfold Plm.retire
  exact congrArg (fun f : Nat × PageEntry → Nat × PageEntry =>
    { m with pages := m.pages.map f, zones := m.zones.map fun e : Nat × ZoneEntry => (e.1, e.2.retire n) }) pages

theorem Plm.retire_page (m : Plm) (n k : Nat) :
    SMap.get .erased (m.retire n).pages k = (SMap.get .erased m.pages k).retire n := by
  rw [Plm.retire_eq]
  exact SMap.get_map .erased (PageEntry.retire n) m.pages rfl k

theorem Plm.retire_zone (m : Plm) (n z : Nat) : (m.retire n).zone z = (m.zone z).retire n := by
  rw [Plm.retire_eq]
  exact SMap.get_map ZoneEntry.fresh (ZoneEntry.retire n) m.zones rfl z

/-! ### The reads of the incident (R187) -/

/-- A port and, for SVC, its line are as they were. -/
structure Dev.portStands (d e : Dev) (p : Port) : Prop where
  port : e.port p = d.port p
  line : p = .svc → e.pif.svcOut = d.pif.svcOut

section
variable {d e f : Dev} {p q : Port} {n : Nat}

theorem Dev.portStands_of_pif (h : e.pif = d.pif) : d.portStands e p := ⟨by unfold Dev.port; rw [h], fun _ => by rw [h]⟩

theorem Dev.portStands.trans (h : d.portStands e p) (g : e.portStands f p) : d.portStands f p :=
  ⟨g.port.trans h.port, fun hp => (g.line hp).trans (h.line hp)⟩

/-- What a port that stands is answered. -/
theorem Dev.portStands.reply (h : d.portStands e p) (status : Status) (flags : Byte) (body : ReplyBody) :
    (e.reply p status flags body).port p = (d.reply p status flags body).port p := by
  have line : (p = .svc ∧ e.pif.svcOut = none) ↔ (p = .svc ∧ d.pif.svcOut = none) :=
    and_congr_right fun hp => by rw [h.line hp]
  unfold Dev.reply
  rw [h.port]
  split
  · simp only [Dev.port_deliver, h.port, line, if_true]
  · exact h.port

theorem Dev.cursor_setCursor (d : Dev) (p q : Port) (c : Cursor) :
    (d.setCursor p c).cursor q = if p = q then c else d.cursor q := by
  unfold Dev.cursor Dev.setCursor Dev.setRtu
  rw [get_put]
  exact if_congr ⟨Port.idx_inj, congrArg _⟩ rfl rfl

theorem Dev.job_setJob (d : Dev) (p q : Port) (j : Option ReadJob) :
    (d.setJob p j).job q = if p = q then j else d.job q := by
  unfold Dev.job Dev.setJob Dev.setRtu
  rw [get_put]
  exact if_congr ⟨Port.idx_inj, congrArg _⟩ rfl rfl

/-- What a release does behind the cursor of a port. -/
def Dev.goneRead (d : Dev) (n : Nat) (p : Port) : Dev :=
  match d.job p with
  | some j =>
    if j.concerns n ∧ j.granted = false then (d.dropRead p).reply p .gone 0 .empty
    else d.setJob p (some { j with prior := j.prior.markGone n })
  | none => d

theorem Dev.goneFor_eq (d : Dev) (n : Nat) (p : Port) :
    d.goneFor n p = (d.setCursor p ((d.cursor p).markGone n)).goneRead n p := rfl

theorem Dev.goneRead_cursors (d : Dev) (n : Nat) (p : Port) : (d.goneRead n p).rtu.cursors = d.rtu.cursors := by
  unfold Dev.goneRead
  split
  · split
    · rw [(Dev.reply_fields ..).2.2.2.2.2.2.2.2.2.2.2.2.2.1]
      rfl
    · rfl
  · rfl

theorem Dev.goneFor_cursor (d : Dev) (n : Nat) (p q : Port) :
    (d.goneFor n p).cursor q = if p = q then (d.cursor q).markGone n else d.cursor q := by
  have cursors := Dev.goneRead_cursors (d.setCursor p ((d.cursor p).markGone n)) n p
  have same : (d.goneFor n p).cursor q = (d.setCursor p ((d.cursor p).markGone n)).cursor q := by
    rw [Dev.goneFor_eq]
    exact congrArg (fun v : Vector Cursor 6 => v[Port.idx q]) cursors
  rw [same, Dev.cursor_setCursor]
  split
  next h => rw [h]
  · rfl

/-- A port without a read in hand is left as it is, and gets none. -/
theorem Dev.goneFor_stands (h : d.job p = none) (n : Nat) (q : Port) :
    d.portStands (d.goneFor n q) p ∧ (d.goneFor n q).job p = none := by
  have start : d.portStands (d.setCursor q ((d.cursor q).markGone n)) p := Dev.portStands_of_pif rfl
  have none : (d.setCursor q ((d.cursor q).markGone n)).job p = none := h
  rw [Dev.goneFor_eq]
  generalize d.setCursor q ((d.cursor q).markGone n) = e at start none
  by_cases same : q = p
  · subst same
    unfold Dev.goneRead
    rw [none]
    exact ⟨start, none⟩
  · have jobs (j : Option ReadJob) : (e.setJob q j).job p = .none := by rw [Dev.job_setJob, if_neg same, none]
    unfold Dev.goneRead
    split
    · split
      · refine ⟨start.trans (Dev.portStands.trans (e := e.dropRead q) (Dev.portStands_of_pif rfl) ?_), ?_⟩
        · obtain ⟨port, line⟩ := Dev.reply_elsewhere (e.dropRead q) same .gone 0 .empty
          exact ⟨port, line⟩
        · rw [Dev.job, (Dev.reply_fields ..).2.2.2.2.2.2.2.2.2.2.2.2.2.1]
          exact jobs .none
      · exact ⟨start.trans (Dev.portStands_of_pif rfl), jobs _⟩
    · exact ⟨start, none⟩

/-- What a release does for all ports (R187). -/
def Dev.goneAll (d : Dev) (n : Nat) : Dev := allPorts.foldl (fun d p => d.goneFor n p) d

theorem Dev.foldl_goneFor_stands (l : List Port) (h : d.job p = none) (n : Nat) :
    d.portStands (l.foldl (fun d p => d.goneFor n p) d) p ∧ (l.foldl (fun d p => d.goneFor n p) d).job p = none := by
  induction l generalizing d with
  | nil => exact ⟨Dev.portStands_of_pif rfl, h⟩
  | cons q l ih =>
    obtain ⟨stands, none⟩ := Dev.goneFor_stands h n q
    obtain ⟨rest, still⟩ := ih none
    exact ⟨stands.trans rest, still⟩

theorem Dev.goneAll_stands (h : d.job p = none) (n : Nat) : d.portStands (d.goneAll n) p :=
  (Dev.foldl_goneFor_stands allPorts h n).1

/-- A cursor on the incident takes the gone mark, and keeps it. -/
theorem Dev.foldl_goneFor_cursor (l : List Port) {stream offset : Nat} {gone : Bool}
    (h : d.cursor q = .stream n stream offset gone) :
    (l.foldl (fun d p => d.goneFor n p) d).cursor q = .stream n stream offset (gone || q ∈ l) := by
  induction l generalizing d gone with
  | nil => simpa using h
  | cons p l ih =>
    have next : (d.goneFor n p).cursor q = .stream n stream offset (gone || p == q) := by
      rw [Dev.goneFor_cursor, h]
      split
      next same => simp [Cursor.markGone, same]
      next ne => simp [ne]
    rw [List.foldl_cons, ih next, Bool.or_assoc]
    congr 2
    simp [Bool.beq_eq_decide_eq, eq_comm]

theorem Dev.goneAll_cursor {stream offset : Nat} {gone : Bool} (h : d.cursor q = .stream n stream offset gone) :
    (d.goneAll n).cursor q = .stream n stream offset true := by
  have all : q ∈ allPorts := by cases q <;> decide
  rw [Dev.goneAll, Dev.foldl_goneFor_cursor allPorts h, decide_eq_true all, Bool.or_true]

theorem Dev.goneFor_keepsAllBut (d : Dev) (n : Nat) (p : Port) : d.keepsAllBut [.pif, .arc, .rtu] (d.goneFor n p) :=
  fun b hb => by cases b <;> simp [Part.agrees] at hb ⊢

/-- What the reads' end leaves of the arbiter and of all blocks but the ports and RTU. -/
structure Dev.readsEnd (d e : Dev) : Prop where
  keeps : d.keepsAllBut [.pif, .arc, .rtu] e
  op : e.arc.op = d.arc.op
  defects : e.arc.defects = d.arc.defects
  storeFailed : e.arc.storeFailed = d.arc.storeFailed

theorem Dev.readsEnd.trans (h : d.readsEnd e) (g : e.readsEnd f) : d.readsEnd f :=
  ⟨h.keeps.trans g.keeps, g.op.trans h.op, g.defects.trans h.defects, g.storeFailed.trans h.storeFailed⟩

theorem Dev.goneFor_readsEnd (d : Dev) (n : Nat) (p : Port) : d.readsEnd (d.goneFor n p) :=
  ⟨d.goneFor_keepsAllBut n p, by simp, by simp, by simp⟩

theorem Dev.goneAll_readsEnd (d : Dev) (n : Nat) : d.readsEnd (d.goneAll n) := by
  unfold Dev.goneAll
  generalize allPorts = l
  induction l generalizing d with
  | nil => exact ⟨Dev.keepsAllBut_rfl _ _, rfl, rfl, rfl⟩
  | cons p l ih => exact (d.goneFor_readsEnd n p).trans (ih _)

end

/-! ### The release as a whole (R104) -/

/-- The record of an incident dropped from the directory, and its pages from the pool. -/
def Dev.struck (d : Dev) (i : DirSlot) (n : Nat) : Dev :=
  (((d.queueEntry (.release n)).setDrm fun m => { m with dir := put m.dir i none }).showInd).setPlm (·.retire n)

section
variable (d : Dev) (i : DirSlot) (n : Nat)

theorem Dev.struck_drm : (d.struck i n).drm = { d.drm with
    queue := d.drm.queue ++ [.release n], dir := put d.drm.dir i none } := by
  simp only [Dev.struck, Dev.setPlm, Dev.showInd_fields]
  rfl

theorem Dev.struck_plm : (d.struck i n).plm = d.plm.retire n := by
  simp only [Dev.struck, Dev.setPlm, Dev.showInd_fields]
  rfl

theorem Dev.struck_keepsAllBut : d.keepsAllBut [.plm, .drm, .ntu] (d.struck i n) := fun b hb => by
  cases b <;> simp [Part.agrees, Dev.struck, Dev.setPlm, Dev.setDrm] at hb ⊢

theorem Dev.releaseIncident_eq (source : Source) : d.releaseIncident i n source
    = (((d.struck i n).unpin n).goneAll n).event evReleased 5 (f1 (leBytes 4 n ++ leBytes 1 (Source.code source))) := rfl

end

end Sys2Proof.Machine
end


section
/-! PROOFS. The release of an incident by RELEASE (R83, R104, R114, R120, R121, R125, R187, R188). -/

namespace Sys2Proof.Machine

/-! ### The tests of an awaited zone and of ring preparation (R120, R121) -/

section
variable {d : Dev} {k : RingIdx}

/-- A usable ring zone without pins that stands nearest behind the newest (R120). -/
def Hiu.comesNext (h : Hiu) (k : RingIdx) : Prop :=
  ((h.ring[k]).state ≠ .defective ∧ (h.ring[k]).pins = [])
    ∧ ∀ j : RingIdx, (h.ring[j]).state ≠ .defective ∧ (h.ring[j]).pins = [] →
      (k.val + 15 - h.newest.val) % 16 ≤ (j.val + 15 - h.newest.val) % 16

theorem Dev.awaitTest_rests
    (h : d.hiu.target ≠ none ∨ ∀ k, d.hiu.comesNext k → (d.hiu.ring[k]).state ≠ .erased) : d.awaitTest = d := by
  unfold Dev.awaitTest
  split
  · rfl
  next idle =>
    split
    next k found =>
      refine if_neg fun erased => ?_
      rcases h with target | other
      · exact idle (Option.isSome_iff_ne_none.2 target)
      · exact other k ((Hiu.successor_iff _ _).1 found) erased
    · rfl

theorem Dev.activate_usable (usable : (d.hiu.ring[k]).pins = []) :
    d.activate k = ({ d with hiu := { d.hiu with
      ring := put d.hiu.ring k { d.hiu.ring[k] with state := .active, pins := d.hiu.deferred }
      deferred := [], target := some ⟨k, 0, 0⟩, newest := k, closed := false } } : Dev).haltTest := by
  simp only [Dev.activate, Dev.setHiu, modify, usable, List.append_nil]

theorem Dev.awaitTest_takes (idle : d.hiu.target = none) (next : d.hiu.comesNext k)
    (erased : (d.hiu.ring[k]).state = .erased) :
    d.awaitTest = ({ d with hiu := { d.hiu with
      ring := put d.hiu.ring k { d.hiu.ring[k] with state := .active, pins := d.hiu.deferred }
      deferred := [], target := some ⟨k, 0, 0⟩, newest := k, closed := false } } : Dev).haltTest.prepTest.hiuMove := by
  have found := (Hiu.successor_iff d.hiu k).2 next
  unfold Dev.awaitTest
  rw [if_neg (by simp [idle]), found]
  dsimp only
  rw [if_pos erased, Dev.activate_usable next.1.2]

theorem Dev.firstErasing_none (none : ∀ j : RingIdx, (d.hiu.ring[j]).state ≠ .erasing) :
    firstFin 16 (fun j => (d.hiu.ring[j]).state == .erasing) = .none :=
  firstFin_none.2 fun j => by simpa using none j

theorem Dev.prepTest_erasing (idle : d.hiu.prep = none) (erasing : (d.hiu.ring[k]).state = .erasing)
    (least : ∀ j : RingIdx, (d.hiu.ring[j]).state = .erasing → k ≤ j) : d.prepTest = d.prepare k := by
  have first : firstFin 16 (fun j => (d.hiu.ring[j]).state == .erasing) = some k :=
    find?_of_least Fin.val (List.pairwise_lt_finRange 16) (List.mem_finRange k) (beq_iff_eq.2 erasing)
      fun j _ hj => least j (eq_of_beq hj)
  unfold Dev.prepTest
  rw [if_neg (by simp [idle]), first]

theorem Dev.prepTest_successor (idle : d.hiu.prep = none) (none : ∀ j : RingIdx, (d.hiu.ring[j]).state ≠ .erasing)
    (next : d.hiu.comesNext k) (filled : (d.hiu.ring[k]).state = .filled) : d.prepTest = d.prepare k := by
  unfold Dev.prepTest
  rw [if_neg (by simp [idle]), Dev.firstErasing_none none, (Hiu.successor_iff _ _).2 next]
  exact if_pos filled

theorem Dev.prepTest_rests (h : d.hiu.prep ≠ none ∨ ((∀ j : RingIdx, (d.hiu.ring[j]).state ≠ .erasing)
    ∧ ∀ k, d.hiu.comesNext k → (d.hiu.ring[k]).state ≠ .filled)) : d.prepTest = d := by
  by_cases idle : d.hiu.prep = none
  · obtain ⟨none, other⟩ := h.resolve_left (not_not.2 idle)
    unfold Dev.prepTest
    rw [if_neg (by simp [idle]), Dev.firstErasing_none none]
    dsimp only
    split
    next k found => exact if_neg (other k ((Hiu.successor_iff _ _).1 found))
    · rfl
  · exact Dev.prepTest_prep (Option.isSome_iff_ne_none.2 idle)

theorem Dev.prepare_eq (d : Dev) (k : RingIdx) : d.prepare k = { d with
    hiu := { d.hiu with
      prep := some k, ring := put d.hiu.ring k { d.hiu.ring[k] with state := .erasing, range := none } }
    arc := { d.arc with waiting := d.arc.waiting ++ [ArrReq.mk .ringPrep (.erase (ringZone k))] } } := rfl

end

/-! ### What a release leaves -/

section
variable {d : Dev} {i : DirSlot} {n : Nat} {source : Source}

theorem Dev.readsEnd.hiu {d e : Dev} (h : d.readsEnd e) : e.hiu = d.hiu := h.keeps .hiu (by decide)
theorem Dev.readsEnd.tmb {d e : Dev} (h : d.readsEnd e) : e.tmb = d.tmb := h.keeps .tmb (by decide)

/-- The offers of a state are those of any other with its history and its tick. -/
theorem Dev.offers.before {d d' e : Dev} {body : HBody} {severity : Nat} {source : Source} {code : Nat}
    (h : d'.offers e body severity source code) (hiu : d'.hiu = d.hiu) (tmb : d'.tmb = d.tmb) :
    d.offers e body severity source code := by
  simpa only [Dev.offers, hiu, tmb] using h

theorem Dev.releaseIncident_stands {p : Port} (idle : d.job p = none) :
    d.portStands (d.releaseIncident i n source) p := by
  have struck : ((d.struck i n).unpin n).pif = d.pif :=
    (Dev.unpin_frame _ _).1.trans (d.struck_keepsAllBut i n .pif (by decide))
  have job : ((d.struck i n).unpin n).job p = none := by
    have rtu : ((d.struck i n).unpin n).rtu = d.rtu :=
      (Dev.unpin_frame _ _).2.2.2.2.2.2.2.2.2.2.1.trans (d.struck_keepsAllBut i n .rtu (by decide))
    rw [Dev.job, rtu]
    exact idle
  rw [Dev.releaseIncident_eq]
  exact (Dev.portStands_of_pif struck).trans ((Dev.goneAll_stands job n).trans
    (Dev.portStands_of_pif (Dev.event_logsTo ..).pif_eq))

theorem Dev.releaseIncident_drm : (d.releaseIncident i n source).drm = { d.drm with
    queue := d.drm.queue ++ [.release n], dir := put d.drm.dir i none } := by
  rw [Dev.releaseIncident_eq, Dev.event_drm, (Dev.goneAll_readsEnd _ _).keeps .drm (by decide),
    (Dev.unpin_frame _ _).2.2.2.2.2.2.2.2.1, Dev.struck_drm]

theorem Dev.releaseIncident_plm : (d.releaseIncident i n source).plm = d.plm.retire n := by
  rw [Dev.releaseIncident_eq, (Dev.event_logsTo ..).keepsAllBut .plm (by decide),
    (Dev.goneAll_readsEnd _ _).keeps .plm (by decide), (Dev.unpin_frame _ _).2.2.2.2.2.2.2.1, Dev.struck_plm]

theorem Dev.event_pinsTo (d : Dev) (code severity : Nat) (body : HBody) :
    d.hiu.pinsTo (d.event code severity body).hiu := d.offerSeq_pinsTo ..

theorem Dev.releaseIncident_not_pinned : ¬(d.releaseIncident i n source).hiu.pinned n := by
  rw [Dev.releaseIncident_eq]
  intro h
  have before := (Dev.event_pinsTo (((d.struck i n).unpin n).goneAll n) evReleased 5 _).back n h
  rw [(((d.struck i n).unpin n).goneAll_readsEnd n).hiu] at before
  exact Dev.unpin_not_pinned _ n before

theorem Dev.releaseIncident_cursor {q : Port} {stream offset : Nat} {gone : Bool}
    (h : d.cursor q = .stream n stream offset gone) :
    (d.releaseIncident i n source).cursor q = .stream n stream offset true := by
  have rtu : ((d.struck i n).unpin n).rtu = d.rtu :=
    (Dev.unpin_frame _ _).2.2.2.2.2.2.2.2.2.2.1.trans (d.struck_keepsAllBut i n .rtu (by decide))
  have start : ((d.struck i n).unpin n).cursor q = .stream n stream offset gone := by
    rw [Dev.cursor, rtu]
    exact h
  have logged : (d.releaseIncident i n source).rtu = (((d.struck i n).unpin n).goneAll n).rtu := by
    rw [Dev.releaseIncident_eq]
    exact (Dev.event_logsTo ..).keepsAllBut .rtu (by decide)
  rw [Dev.cursor, logged]
  exact Dev.goneAll_cursor start

theorem Dev.releaseIncident_offers : ((d.struck i n).unpin n).offers (d.releaseIncident i n source)
    (f1 (leBytes 4 n ++ leBytes 1 (Source.code source))) 5 .internal 0x000A := by
  rw [Dev.releaseIncident_eq]
  have ends := ((d.struck i n).unpin n).goneAll_readsEnd n
  exact (Dev.offerSeq_offers ..).before ends.hiu ends.tmb

theorem Dev.releaseIncident_keepsAllBut : d.keepsAllBut [.pif, .plm, .arc, .drm, .hiu, .tmb, .ntu, .rtu]
    (d.releaseIncident i n source) := by
  rw [Dev.releaseIncident_eq]
  exact (((d.struck_keepsAllBut i n).mono (by decide)).trans (((Dev.unpin_logsTo _ _).keepsAllBut).mono (by decide))).trans
    (((Dev.goneAll_readsEnd _ _).keeps.mono (by decide)).trans ((Dev.event_logsTo ..).keepsAllBut.mono (by decide)))

/-- Usable ring zones whose pins are of one incident. -/
theorem Hiu.dropPins_unpinnedZones (h : Hiu) (n : Nat) : (h.dropPins n).unpinnedZones
    = ((List.finRange 16).filter fun k : RingIdx =>
      (h.ring[k]).state != .defective && (h.ring[k]).pins.all (· == n)).length := by
  have same (k : RingIdx) : (((h.dropPins n).ring[k]).state != .defective && ((h.dropPins n).ring[k]).pins.isEmpty)
      = ((h.ring[k]).state != .defective && (h.ring[k]).pins.all (· == n)) := by
    rw [h.dropPins_ring]
    congr 1
    rw [Bool.eq_iff_iff]
    simp
  rw [Hiu.unpinnedZones_eq]
  simp only [same]

theorem Hiu.dropPins_mono (h : Hiu) (n : Nat) : h.unpinnedZones ≤ (h.dropPins n).unpinnedZones := by
  refine Hiu.unpinnedZones_mono fun k spare => ?_
  rw [h.dropPins_ring]
  simp only [RingZone.spare, Bool.and_eq_true, List.isEmpty_iff] at spare ⊢
  exact ⟨spare.1, by rw [spare.2]; rfl⟩

/-- The event of a release finds its place where the history loses nothing (R104, R114). -/
theorem Dev.unpin_takes (lost : d.hiu.lost = 0) (takes : d.hiu.canTake = true) (flagged : d.hiu.haltFlagged)
    (stays : d.hiu.target ≠ none ∨ (∀ m ∈ d.hiu.deferred, m = n)
      ∨ 3 ≤ ((List.finRange 16).filter fun k : RingIdx =>
        (d.hiu.ring[k]).state != .defective && (d.hiu.ring[k]).pins.all (· == n)).length) :
    (d.unpin n).hiu.canTake = true ∧ (d.unpin n).hiu.nextSeq = d.hiu.nextSeq := by
  have going : d.hiu.halted = false := ((Hiu.canTake_iff _).1 takes).2.1
  refine Dev.unpin_canTake n lost takes ((flagged going).trans (d.hiu.dropPins_mono n)) ?_
  rw [Hiu.dropPins_unpinnedZones]
  refine stays.imp_right (Or.imp_left fun own => ?_)
  simpa [Hiu.dropPins] using own

end

end Sys2Proof.Machine
end


section
/-! PROOFS. The RELEASE request (R104, R188). -/

namespace Sys2Proof.Machine

section
variable {d : Dev} {p : Port} {tag : Byte} {b : List Byte} {i : DirSlot} {x : Incident}

theorem Dev.serveRelease_found (hi : d.drm.slotOf (field b 0 4) = some i) (hx : d.drm.dir[i] = some x) :
    d.serveRelease p b =
      if x.state ≠ .kept then d.reply p .notKept 0 .empty
      else if x.held ∧ p ≠ .svc then d.reply p .held 0 .empty
      else if d.drm.hasRoom = false then d.reply p .directoryBusy 0 .empty
      else ((d.releaseIncident i (field b 0 4) (.port p)).reply p .ok 0 .empty).settle := by
  have found : d.drm.find (field b 0 4) = some x := (Drm.find_of_slotOf hi).trans hx
  simp only [Dev.serveRelease, hi, found]

theorem Dev.serveRelease_absent (absent : ∀ x ∈ d.drm.records, x.number ≠ field b 0 4) :
    d.serveRelease p b = d.reply p .notFound 0 .empty := by
  simp only [Dev.serveRelease, (Drm.slotOf_none _ _).2 absent]

end

section
variable {s : State} {p : Port} {tag : Byte} {b : List Byte} {i : DirSlot} {x : Incident}

/-- A RELEASE that is refused (R188). -/
theorem exec_release_refused (reaches : s.reaches p .release b) (hi : s.dev.drm.slotOf (field b 0 4) = some i)
    (hx : s.dev.drm.dir[i] = some x) {status : Status} (hs : status ≠ .unknownRequest)
    (h : (if x.state ≠ .kept then some Status.notKept
      else if x.held ∧ p ≠ .svc then some .held
      else if s.dev.drm.hasRoom = false then some .directoryBusy
      else none) = some status) :
    exec (.release p tag b) s = .next (s.onlyAnswers p b (Request.release.says tag status 0 .empty)) := by
  refine exec_onlyAnswers reaches hs ?_
  show Dev.serveRelease p b _ = _
  rw [Dev.serveRelease_found (i := i) (x := x) (by simpa using hi) (by simpa using hx)]
  split_ifs at h with kept held room
  · cases h; rw [if_pos kept]
  · cases h; rw [if_neg kept, if_pos held]
  · cases h; rw [if_neg kept, if_neg held, if_pos (by simpa using room)]

/-- A RELEASE that is taken. -/
theorem exec_release_taken (reaches : s.reaches p .release b) (hi : s.dev.drm.slotOf (field b 0 4) = some i)
    (hx : s.dev.drm.dir[i] = some x) (kept : x.state = .kept) (free : x.held = false ∨ p = .svc)
    (room : s.dev.drm.queue.length < 16) :
    exec (.release p tag b) s = .next { s with
      dev := (((s.dev.takeFrame p Request.release.code tag b).releaseIncident i (field b 0 4) (.port p)).reply p .ok 0
        .empty).settle } := by
  refine exec_of_serve (r := .release) reaches ?_
  show Dev.serveRelease p b _ = _
  have held : ¬(x.held = true ∧ p ≠ .svc) := by
    rintro ⟨held, other⟩
    rcases free with free | free
    · simp [free] at held
    · exact other free
  rw [Dev.serveRelease_found (i := i) (x := x) (by simpa using hi) (by simpa using hx), if_neg (not_not.2 kept),
    if_neg held, if_neg (by simp [(Drm.hasRoom_iff _).2 room])]

end

/-- What the answer and what follows every change leave of a release. -/
theorem Dev.ends_keepsAllBut (d : Dev) (p : Port) (status : Status) (flags : Byte) (body : ReplyBody) :
    d.keepsAllBut [.pif, .arc, .drm, .hiu, .ntu] (d.reply p status flags body).settle := fun b hb => by
  cases b <;> simp [Part.agrees] at hb ⊢

/-- The blocks and the ports after a request of port `p` that releases incident `n` of slot `i`, and answers. -/
structure Dev.releasedBy (d e : Dev) (p : Port) (tag : Byte) (b : List Byte) (i : DirSlot) (n : Nat) : Prop where
  port : d.job p = none → e.port p
    = ({ d with pif := d.answers p b (Request.release.says tag .ok 0 .empty) } : Dev).port p
  drm : e.drm = { d.drm with
    queue := d.drm.queue ++ [.release n], dir := put d.drm.dir i none, writer := e.drm.writer }
  plm : e.plm = d.plm.retire n
  pins : ¬e.hiu.pinned n
  cursor : ∀ q stream offset gone, d.cursor q = .stream n stream offset gone → e.cursor q = .stream n stream offset true
  keeps : d.keepsAllBut [.pif, .plm, .arc, .drm, .hiu, .tmb, .ntu, .rtu] e
  tick : e.tmb.tick = d.tmb.tick
  wall : e.tmb.wall = d.tmb.wall
  defects : e.arc.defects = d.arc.defects
  storeFailed : e.arc.storeFailed = d.arc.storeFailed
  op : e.arc.op = d.arc.op

section
variable (d : Dev) (p : Port) (tag : Byte) (b : List Byte) (i : DirSlot) (n : Nat)

theorem Dev.takeFrame_keepsAllBut : d.keepsAllBut [.pif] (d.takeFrame p Request.release.code tag b) := by
  rw [Dev.takeFrame_eq]
  exact fun b hb => by cases b <;> simp [Part.agrees] at hb ⊢

theorem Dev.releasedBy_release : d.releasedBy (((d.takeFrame p Request.release.code tag b).releaseIncident i n
    (.port p)).reply p .ok 0 .empty).settle p tag b i n := by
  have taken := d.takeFrame_keepsAllBut p tag b
  have answered : (d.takeFrame p Request.release.code tag b).reply p .ok 0 .empty
      = { d.takeFrame p Request.release.code tag b with
        pif := d.answers p b (Request.release.says tag .ok 0 .empty) } := Dev.reply_taken rfl (by decide)
  generalize d.takeFrame p Request.release.code tag b = d' at taken answered
  have ends := (d'.releaseIncident i n (.port p)).ends_keepsAllBut p .ok 0 .empty
  constructor
  case port =>
    intro idle
    have job : d'.job p = none := by rw [Dev.job, taken .rtu (by decide)]; exact idle
    have stands := (Dev.releaseIncident_stands (i := i) (n := n) (source := .port p) job).reply .ok 0 .empty
    rw [Dev.port, (Dev.settle_frame _).1]
    exact stands.trans (by rw [answered]; rfl)
  case drm =>
    have released : ((d'.releaseIncident i n (.port p)).reply p .ok 0 .empty).drm = { d.drm with
        queue := d.drm.queue ++ [.release n], dir := put d.drm.dir i none } := by
      rw [(Dev.reply_fields ..).2.2.2.2.2.2.2.2.1, Dev.releaseIncident_drm, taken .drm (by decide)]
    rw [Dev.settle_drm_writer, released]
  case plm => rw [ends .plm (by decide), Dev.releaseIncident_plm, taken .plm (by decide)]
  case pins =>
    intro pinned
    have before := (Dev.settle_pinsTo _).back n pinned
    rw [(Dev.reply_fields ..).2.2.2.2.2.2.2.2.2.1] at before
    exact Dev.releaseIncident_not_pinned before
  case cursor =>
    intro q stream offset gone hc
    have start : d'.cursor q = .stream n stream offset gone := by rw [Dev.cursor, taken .rtu (by decide)]; exact hc
    rw [Dev.cursor, ends .rtu (by decide)]
    exact Dev.releaseIncident_cursor start
  case keeps => exact (taken.mono (by decide)).trans (Dev.releaseIncident_keepsAllBut.trans (ends.mono (by decide)))
  case tick =>
    rw [ends .tmb (by decide), (Dev.releaseIncident_frame ..).2.2.2.2.2.2.2.2.2.1, taken .tmb (by decide)]
  case wall =>
    rw [ends .tmb (by decide), (Dev.releaseIncident_frame ..).2.2.2.2.2.2.2.2.2.2.1, taken .tmb (by decide)]
  case defects => simp [show d'.arc = d.arc from taken .arc (by decide)]
  case storeFailed => simp [show d'.arc = d.arc from taken .arc (by decide)]
  case op => simp [show d'.arc = d.arc from taken .arc (by decide)]

end

end Sys2Proof.Machine
end


section
/-! PROOFS. The obligation about RELEASE (R83, R104, R114, R120, R121, R125, R187, R188). -/

namespace Sys2Proof.Machine

/-- The event of a RELEASE behind the answer (R104, R114). -/
theorem Dev.release_offers (d : Dev) (p : Port) (i : DirSlot) (n : Nat) :
    ((d.struck i n).unpin n).offers (((d.releaseIncident i n (.port p)).reply p .ok 0 .empty).settle)
      (f1 (leBytes 4 n ++ leBytes 1 (Port.code p))) 5 .internal 0x000A :=
  Dev.releaseIncident_offers.answered p .ok 0 .empty

/-- The pages of a released incident are DEAD. -/
theorem Dev.releasedBy.page {d e : Dev} {p : Port} {tag : Byte} {b : List Byte} {i : DirSlot} {n : Nat}
    (h : d.releasedBy e p tag b i n) (k : Nat) :
    SMap.get .erased e.plm.pages k = match SMap.get .erased d.plm.pages k with
      | .live inc stream seq fill => if inc = n then .dead else .live inc stream seq fill
      | y => y := by
  rw [h.plm, Plm.retire_page]
  rfl

theorem Dev.releasedBy.zone {d e : Dev} {p : Port} {tag : Byte} {b : List Byte} {i : DirSlot} {n : Nat}
    (h : d.releasedBy e p tag b i n) (z : Nat) :
    (e.plm.zone z).holders = (d.plm.zone z).holders.filter (· != n)
      ∧ (e.plm.zone z).nextPage = (d.plm.zone z).nextPage
      ∧ (e.plm.zone z).state = if (d.plm.zone z).state = .full ∧ n ∈ (d.plm.zone z).holders
          ∧ (d.plm.zone z).holders.filter (· != n) = [] then .retired else (d.plm.zone z).state := by
  rw [h.plm, Plm.retire_zone]
  exact ⟨rfl, rfl, by simp only [ZoneEntry.retire, List.contains_iff_mem]⟩

/-- A RELEASE that is taken (R104). -/
theorem release_takes (p : Port) (tag : Byte) (b : List Byte) (s : State) (i : DirSlot) (x : Incident)
    (reaches : s.reaches p .release b) (hi : s.dev.drm.slotOf (field b 0 4) = some i) (hx : s.dev.drm.dir[i] = some x)
    (kept : x.state = .kept) (free : x.held = false ∨ p = .svc) (room : s.dev.drm.queue.length < 16) :
    let n := field b 0 4
    ∃ e : Dev, exec (.release p tag b) s = .next { s with dev := e }
      ∧ s.dev.releasedBy e p tag b i n
      ∧ (∃ v : Dev, s.dev.keepsAllBut [.pif, .plm, .drm, .ntu] v
          ∧ (v.unpin n).offers e (f1 (leBytes 4 n ++ leBytes 1 (Port.code p))) 5 .internal 0x000A)
      ∧ (s.dev.hiu.lost = 0 → s.dev.hiu.canTake = true → s.dev.hiu.haltFlagged →
          (s.dev.hiu.target ≠ none ∨ (∀ m ∈ s.dev.hiu.deferred, m = n)
            ∨ 3 ≤ ((List.finRange 16).filter fun k : RingIdx =>
                (s.dev.hiu.ring[k]).state != .defective && (s.dev.hiu.ring[k]).pins.all (· == n)).length) →
          (⟨f1 (leBytes 4 n ++ leBytes 1 (Port.code p)), 5, .internal, 0x000A, s.dev.hiu.nextSeq, s.dev.tmb.tick⟩
            : HEntry) ∈ e.hiu.unflushed) := by
  intro n
  refine ⟨_, exec_release_taken reaches hi hx kept free room, Dev.releasedBy_release .., ?_⟩
  have taken := s.dev.takeFrame_keepsAllBut p tag b
  have offers := Dev.release_offers (s.dev.takeFrame p Request.release.code tag b) p i n
  generalize s.dev.takeFrame p Request.release.code tag b = d at taken offers ⊢
  have struck := d.struck_keepsAllBut i n
  have hiu : (d.struck i n).hiu = s.dev.hiu := (struck .hiu (by decide)).trans (taken .hiu (by decide))
  have tick : ((d.struck i n).unpin n).tmb.tick = s.dev.tmb.tick := by
    rw [(Dev.unpin_frame _ _).2.2.2.2.2.2.2.2.2.2.2.2.2.1, struck .tmb (by decide), taken .tmb (by decide)]
  refine ⟨⟨d.struck i n, (taken.mono (by decide)).trans (struck.mono (by decide)), offers⟩,
    fun lost takes flagged stays => ?_⟩
  obtain ⟨can, next⟩ := Dev.unpin_takes (d := d.struck i n) (n := n) (hiu ▸ lost) (hiu ▸ takes) (hiu ▸ flagged)
    (by rw [hiu]; exact stays)
  have mem := offers
  rw [Dev.offers, if_pos can, next, hiu, tick] at mem
  exact mem

/-- Settles O25: the refusals in their order, what a release leaves of each block, and the tests behind the pins. -/
theorem releaseFreesTheIncident : Obligations.ReleaseFreesTheIncident := by
  refine ⟨fun p tag b s reaches => ?_, fun p tag b s i x reaches hi hx kept free room => ?_, fun d n => rfl, fun d => ?_⟩
  · intro answered
    refine ⟨fun absent => ?_, fun i x hi hx => ⟨fun other => ?_, fun kept held other => ?_, fun kept free full => ?_⟩⟩
    · exact exec_onlyAnswers reaches (by decide) (Dev.serveRelease_absent (by simpa using absent))
    · exact exec_release_refused reaches hi hx (by decide) (if_pos other)
    · exact exec_release_refused reaches hi hx (by decide) ((if_neg (not_not.2 kept)).trans (if_pos ⟨held, other⟩))
    · have mayGo : ¬(x.held = true ∧ p ≠ .svc) := by
        rintro ⟨held, other⟩
        rcases free with free | free
        · simp [free] at held
        · exact other free
      have noRoom : s.dev.drm.hasRoom = false := by
        rw [← Bool.not_eq_true, Drm.hasRoom_iff]
        omega
      exact exec_release_refused reaches hi hx (by decide)
        ((if_neg (not_not.2 kept)).trans ((if_neg mayGo).trans (if_pos noRoom)))
  · intro n
    obtain ⟨e, ran, left, offered, taken⟩ := release_takes p tag b s i x reaches hi hx kept free room
    obtain ⟨pins, deferred⟩ := Hiu.not_pinned_iff.1 left.pins
    exact ⟨e, ran, left.port, left.drm, left.page, left.zone, pins, deferred, left.cursor, offered, taken, left.keeps,
      left.tick, left.wall, left.defects, left.storeFailed, left.op⟩
  · intro h usable next erases
    exact ⟨fun rests => Dev.awaitTest_rests rests, fun k idle comes erased => Dev.awaitTest_takes idle comes erased,
      fun k idle erasing least => Dev.prepTest_erasing idle erasing least,
      fun k idle none comes filled => Dev.prepTest_successor idle none comes filled,
      fun rests => Dev.prepTest_rests rests⟩

end Sys2Proof.Machine
end


section
/-! PROOFS. What an opening leaves of each block (R5, R7, R8, R18, R19, R123, R124). -/

namespace Sys2Proof.Machine

theorem Dev.raise_keepsAllBut (d : Dev) (c : NoticeCause) (n : Nat) : d.keepsAllBut [.ntu] (d.raise c n) :=
  fun b hb => by cases b <;> first | rfl | simp at hb

/-- The incident of a slot begins to be recorded: ATTN and the deadlines of the window and the limit (R13, R14, R19). -/
def Dev.beginRecording (d : Dev) (i : DirSlot) : Dev :=
  (d.setIct fun x => { x with recording := some i, windowExpired := false, attn := d.attnAtOpening }).deadlines fun x =>
    { x with window := some (d.afterMs d.sst.working.window), limit := some (d.afterMs d.sst.working.limit) }

theorem Dev.beginRecording_keepsAllBut (d : Dev) (i : DirSlot) : d.keepsAllBut [.ict, .tmb] (d.beginRecording i) :=
  fun b hb => by cases b <;> first | rfl | simp at hb

theorem Dev.beginRecording_ict (d : Dev) (i : DirSlot) : (d.beginRecording i).ict = { d.ict with
    recording := some i, windowExpired := false
    attn := #v[d.holds .s0 .capture, d.holds .s1 .capture, d.holds .s2 .capture, d.holds .s3 .capture] } := rfl

theorem Dev.beginRecording_tmb (d : Dev) (i : DirSlot) : (d.beginRecording i).tmb = { d.tmb with
    deadlines := { d.tmb.deadlines with
      window := some (d.tmb.tick + BitVec.ofNat 48 (d.sst.working.window * 1000))
      limit := some (d.tmb.tick + BitVec.ofNat 48 (d.sst.working.limit * 1000)) } } := rfl

section
variable (d : Dev) (i : DirSlot) (t : TriggerRecord)

/-- An opening behind its TRIGGER event. -/
def Dev.openingLogged : Offered := d.triggerEvent t d.drm.nextIncident .opened

/-- An opening behind its pins. -/
def Dev.openingPinned : Dev := ((d.openingLogged t).dev.pinWindow d.drm.nextIncident (d.openingLogged t).seq).1

/-- The window of an opening. -/
def Dev.openingWindow : Window := ((d.openingLogged t).dev.pinWindow d.drm.nextIncident (d.openingLogged t).seq).2

/-- The record of an opening. -/
def Dev.openingRecord : Incident := openRecord d.drm.nextIncident d.drm.epoch t (d.openingWindow t)

/-- The entry of an opening. -/
def Dev.openingEntry : JEntry := .incidentOpen i.val d.drm.nextIncident d.drm.epoch t (d.openingWindow t).first
  (d.openingWindow t).last (d.openingWindow t).shortened

/-- An opening with its record in the directory. -/
def Dev.openingFiled : Dev :=
  (((d.openingPinned t).queueEntry (d.openingEntry i t)).setDrm fun m =>
    { m with dir := put m.dir i (some (d.openingRecord t)), nextIncident := d.drm.nextIncident + 1 }).showInd

/-- An opening before the answer. -/
def Dev.opening : Dev := ((d.openingFiled i t).beginRecording i).raise .incidentOpened d.drm.nextIncident

theorem Dev.openIncident_eq (p : Option Port) :
    d.openIncident i t p = (d.opening i t).answer p .opened d.drm.nextIncident := by
  unfold Dev.openIncident
  rfl

theorem Dev.openingLogged_logsTo : d.logsTo (d.openingLogged t).dev := d.triggerEvent_logsTo ..

theorem Dev.openingPinned_logsTo : d.logsTo (d.openingPinned t) :=
  Dev.logsTo_trans (d.openingLogged_logsTo t) (Dev.pinWindow_logsTo ..)

theorem Dev.openingPinned_drm : (d.openingPinned t).drm = d.drm :=
  (Dev.pinWindow_frame ..).2.2.2.2.2.2.2.2.2.1.trans (Dev.triggerEvent_frame ..).2.2.2.2.2.2.2.2.1

theorem Dev.openingFiled_drm : (d.openingFiled i t).drm = { d.drm with
    dir := put d.drm.dir i (some (d.openingRecord t))
    queue := d.drm.queue ++ [d.openingEntry i t]
    nextIncident := d.drm.nextIncident + 1 } := by
  simp only [Dev.openingFiled, Dev.showInd_fields, Dev.setDrm, Dev.queueEntry, Dev.openingPinned_drm]

theorem Dev.openingFiled_keepsAllBut :
    (d.openingPinned t).keepsAllBut [.drm, .ntu] (d.openingFiled i t) := fun b hb => by
  cases b <;> simp [Part.agrees, Dev.openingFiled, Dev.setDrm] at hb ⊢

theorem Dev.openingFiled_of : d.keepsAllBut [.arc, .drm, .hiu, .tmb, .ntu] (d.openingFiled i t) :=
  (d.openingPinned_logsTo t).keepsAllBut.trans ((d.openingFiled_keepsAllBut i t).mono (by decide))

theorem Dev.opening_of_filed : (d.openingFiled i t).keepsAllBut [.ict, .tmb, .ntu] (d.opening i t) :=
  ((Dev.beginRecording_keepsAllBut _ i).mono (by decide)).trans ((Dev.raise_keepsAllBut _ _ _).mono (by decide))

theorem Dev.opening_keepsAllBut : d.keepsAllBut [.ict, .arc, .drm, .hiu, .tmb, .ntu] (d.opening i t) :=
  ((d.openingFiled_of i t).mono (by decide)).trans ((d.opening_of_filed i t).mono (by decide))

theorem Dev.opening_drm : (d.opening i t).drm = { d.drm with
    dir := put d.drm.dir i (some (d.openingRecord t))
    queue := d.drm.queue ++ [d.openingEntry i t]
    nextIncident := d.drm.nextIncident + 1 } := by
  rw [d.opening_of_filed i t .drm (by decide), Dev.openingFiled_drm]

theorem Dev.opening_hiu : (d.opening i t).hiu = (d.openingPinned t).hiu := by
  rw [d.opening_of_filed i t .hiu (by decide), d.openingFiled_keepsAllBut i t .hiu (by decide)]

theorem Dev.opening_ict : (d.opening i t).ict = { d.ict with
    recording := some i, windowExpired := false
    attn := #v[d.holds .s0 .capture, d.holds .s1 .capture, d.holds .s2 .capture, d.holds .s3 .capture] } := by
  have filed := d.openingFiled_of i t
  have ict : (d.openingFiled i t).ict = d.ict := filed .ict (by decide)
  have rqd : (d.openingFiled i t).rqd = d.rqd := filed .rqd (by decide)
  rw [Dev.opening, (Dev.raise_fields ..).2.2.2.1, Dev.beginRecording_ict]
  simp only [Dev.holds, ict, rqd]

theorem Dev.opening_tmb : (d.opening i t).tmb = { d.tmb with deadlines := { d.tmb.deadlines with
    window := some (d.tmb.tick + BitVec.ofNat 48 (d.sst.working.window * 1000))
    limit := some (d.tmb.tick + BitVec.ofNat 48 (d.sst.working.limit * 1000))
    flush := (d.opening i t).tmb.deadlines.flush } } := by
  have sst := d.openingFiled_of i t .sst (by decide)
  have logged := (d.openingPinned_logsTo t).tmb_eq
  rw [← d.openingFiled_keepsAllBut i t .tmb (by decide)] at logged
  have timed : (d.opening i t).tmb = ((d.openingFiled i t).beginRecording i).tmb :=
    (Dev.raise_logsTo ..).tmb_eq.trans rfl
  rw [timed, Dev.beginRecording_tmb, sst]
  generalize (d.openingFiled i t).tmb = u at logged ⊢
  rw [logged]

theorem Dev.opening_notes : (d.opening i t).notes .incidentOpened (BitVec.ofNat 32 d.drm.nextIncident) :=
  Dev.raise_notes _ _ _

end

/-- The window pins no incident but its own (R124). -/
theorem Hiu.pinZone_pinned {h h' : Hiu} {number n : Nat} {z : WindowZone} (hz : h.pinZone number z = some h')
    (hn : h'.pinned n) : n = number ∨ h.pinned n := by
  have member (l : List Nat) (mem : n ∈ number :: l.filter (· != number)) : n = number ∨ n ∈ l :=
    (List.mem_cons.1 mem).imp_right fun h => (List.mem_filter.1 h).1
  cases z with
  | ring k =>
    simp only [Hiu.pinZone] at hz
    split at hz
    · cases hz
    · cases hz
      rcases hn with ⟨j, hj⟩ | hn
      · rw [get_modify] at hj
        split at hj
        · exact (member _ hj).imp_right fun h => .inl ⟨_, h⟩
        · exact .inr (.inl ⟨j, hj⟩)
      · exact .inr (.inr hn)
  | deferred =>
    simp only [Hiu.pinZone] at hz
    split at hz
    · cases hz
    · cases hz
      rcases hn with ⟨j, hj⟩ | hn
      · exact .inr (.inl ⟨j, hj⟩)
      · exact (member _ hn).imp_right .inr

theorem Hiu.pinAll_pinned (number : Nat) (zs : List WindowZone) (h : Hiu) (reached : Nat) {n : Nat}
    (hn : (Hiu.pinAll number h zs reached).1.pinned n) : n = number ∨ h.pinned n := by
  induction zs generalizing h reached with
  | nil => exact .inr hn
  | cons z zs ih =>
    unfold Hiu.pinAll at hn
    split at hn
    next h' pinned => exact (ih _ _ hn).elim .inl (Hiu.pinZone_pinned pinned)
    · exact .inr hn

theorem Dev.pinWindow_pinned (d : Dev) (number : Nat) (seq : Option Nat) {n : Nat}
    (hn : (d.pinWindow number seq).1.hiu.pinned n) : n = number ∨ d.hiu.pinned n := by
  unfold Dev.pinWindow at hn
  dsimp only at hn
  split at hn
  · exact .inr hn
  · exact Hiu.pinAll_pinned _ _ _ _ ((Dev.haltTest_sameRing _).pinsTo.back n hn)

end Sys2Proof.Machine
end


section
/-! PROOFS. The ways of an opening, and an opening by roll-oldest (R8, R9, R10, R18, R104, Table 1.7). -/

namespace Sys2Proof.Machine

/-! ### The last four rows of Table 1.7 -/

theorem firstFin_before {n : Nat} {p : Fin n → Bool} {i : Fin n} (h : firstFin n p = some i) :
    ∀ j < i, p j = false := by
  obtain ⟨-, a, b, split, before⟩ := List.find?_eq_some_iff_append.1 h
  intro j lower
  have rises : (a ++ i :: b).Pairwise (· < ·) := split ▸ List.pairwise_lt_finRange n
  have mem : j ∈ a ++ i :: b := split ▸ List.mem_finRange j
  obtain ⟨-, tail, -⟩ := List.pairwise_append.1 rises
  rcases List.mem_append.1 mem with mem | mem
  · simpa using before j mem
  · rcases List.mem_cons.1 mem with rfl | mem
    · exact absurd lower (lt_irrefl _)
    · exact absurd ((List.pairwise_cons.1 tail).1 j mem) (lt_asymm lower)

/-- The incident of the lower number of two of which the first may be absent. -/
def lowerNumber (a : Option Incident) (r : Incident) : Option Incident :=
  match a with
  | some x => if r.number < x.number then some r else some x
  | none => some r

theorem foldl_lowerNumber_some (l : List Incident) (a : Incident) : ∃ y, l.foldl lowerNumber (some a) = some y
    ∧ (y = a ∨ y ∈ l) ∧ y.number ≤ a.number ∧ ∀ x ∈ l, y.number ≤ x.number := by
  induction l generalizing a with
  | nil => exact ⟨a, rfl, .inl rfl, le_rfl, by simp⟩
  | cons r l ih =>
    by_cases lower : r.number < a.number
    · obtain ⟨y, found, mem, le, least⟩ := ih r
      have step : lowerNumber (some a) r = some r := if_pos lower
      refine ⟨y, (by rw [List.foldl_cons, step, found]), .inr ?_, le.trans lower.le, ?_⟩
      · exact mem.elim (fun same => same ▸ List.mem_cons_self) (List.mem_cons_of_mem r)
      · exact List.forall_mem_cons.2 ⟨le, least⟩
    · obtain ⟨y, found, mem, le, least⟩ := ih a
      have step : lowerNumber (some a) r = some a := if_neg lower
      refine ⟨y, (by rw [List.foldl_cons, step, found]), mem.imp_right (List.mem_cons_of_mem r), le, ?_⟩
      exact List.forall_mem_cons.2 ⟨le.trans (not_lt.1 lower), least⟩

theorem Drm.rollCandidate_eq (m : Drm) : m.rollCandidate =
    (m.records.filter fun r => r.state == .kept && !r.held).foldl lowerNumber none := by
  unfold Drm.rollCandidate
  congr 1

theorem Drm.mem_rollable {m : Drm} {x : Incident} :
    x ∈ m.records.filter (fun r => r.state == .kept && !r.held) ↔ x ∈ m.records ∧ x.state = .kept ∧ x.held = false := by
  simp

theorem Drm.rollCandidate_none {m : Drm} (none : ∀ x ∈ m.records, x.state ≠ .kept ∨ x.held = true) :
    m.rollCandidate = .none := by
  have empty : m.records.filter (fun r => r.state == .kept && !r.held) = [] := by
    rw [List.eq_nil_iff_forall_not_mem]
    intro x mem
    obtain ⟨rec, kept, free⟩ := Drm.mem_rollable.1 mem
    rcases none x rec with h | h
    · exact h kept
    · simp [free] at h
  rw [Drm.rollCandidate_eq, empty]
  rfl

/-- The KEPT incident of the lowest number that is not held (R9). -/
theorem Drm.rollCandidate_some {m : Drm} {x : Incident} (rec : x ∈ m.records) (kept : x.state = .kept)
    (free : x.held = false) : ∃ y, m.rollCandidate = some y ∧ y ∈ m.records ∧ y.state = .kept ∧ y.held = false
      ∧ y.number ≤ x.number := by
  rw [Drm.rollCandidate_eq]
  have mem := Drm.mem_rollable.2 ⟨rec, kept, free⟩
  have own (y : Incident) := Drm.mem_rollable (m := m) (x := y)
  generalize m.records.filter (fun r => r.state == .kept && !r.held) = l at mem own
  cases l with
  | nil => exact absurd mem (List.not_mem_nil)
  | cons r l =>
    obtain ⟨y, found, from_l, le, least⟩ := foldl_lowerNumber_some l r
    have from_all : y ∈ r :: l := from_l.elim (fun same => same ▸ List.mem_cons_self) (List.mem_cons_of_mem r)
    obtain ⟨rec', kept', free'⟩ := (own y).1 from_all
    exact ⟨y, found, rec', kept', free', (List.mem_cons.1 mem).elim (fun same => same ▸ le) (least x)⟩

section
variable {d : Dev}

theorem Dev.openingWay_exhausted (h : 4294967295 < d.drm.nextIncident) : d.openingWay = .refused := if_pos h

theorem Dev.openingWay_slot (h : d.drm.nextIncident ≤ 4294967295) {i : DirSlot} (free : d.drm.freeSlot = some i) :
    d.openingWay = .slot i := by
  rw [Dev.openingWay, if_neg (not_lt.2 h), free]

theorem Dev.openingWay_off (h : d.drm.nextIncident ≤ 4294967295) (full : d.drm.freeSlot = none)
    (off : d.sst.working.rollOldest ≠ 1) : d.openingWay = .refused := by
  rw [Dev.openingWay, if_neg (not_lt.2 h), full]
  exact if_neg off

section
variable (h : d.drm.nextIncident ≤ 4294967295) (full : d.drm.freeSlot = none) (on : d.sst.working.rollOldest = 1)
include h full on

theorem Dev.openingWay_none (none : ∀ x ∈ d.drm.records, x.state ≠ .kept ∨ x.held = true) : d.openingWay = .refused := by
  rw [Dev.openingWay, if_neg (not_lt.2 h), full]
  dsimp only
  rw [if_pos on, Drm.rollCandidate_none none]

theorem Dev.openingWay_roll {x : Incident} (rec : x ∈ d.drm.records) (kept : x.state = .kept) (free : x.held = false) :
    ∃ (i : DirSlot) (y : Incident), d.openingWay = .roll i y.number ∧ d.drm.dir[i] = some y
      ∧ y ∈ d.drm.records ∧ y.state = .kept ∧ y.held = false ∧ y.number ≤ x.number := by
  obtain ⟨y, found, rec', kept', free', le⟩ := Drm.rollCandidate_some rec kept free
  obtain ⟨j, hj⟩ := (Drm.mem_records _ _).1 rec'
  have some_slot : (firstFin 32 fun i => d.drm.dir[i] == some y) ≠ none := fun none => by
    have off := firstFin_none.1 none j
    rw [hj] at off
    simp at off
  obtain ⟨i, hi⟩ := Option.ne_none_iff_exists'.1 some_slot
  refine ⟨i, y, ?_, eq_of_beq (firstFin_some hi), rec', kept', free', le⟩
  rw [Dev.openingWay, if_neg (not_lt.2 h), full]
  dsimp only
  rw [if_pos on, found]
  dsimp only
  rw [hi]

end

theorem Drm.freeSlot_spec {m : Drm} {i : DirSlot} (h : m.freeSlot = some i) :
    m.dir[i] = none ∧ ∀ j : DirSlot, j < i → m.dir[j] ≠ none :=
  ⟨by simpa using firstFin_some h, fun j lower => by
    simpa [Option.isSome_iff_ne_none] using firstFin_before h j lower⟩

end

/-! ### A DECLARE that opens an incident -/

/-- What an opening by port `p` leaves behind the answer and what follows every change. -/
structure Dev.openedBy (d e : Dev) (i : DirSlot) (t : TriggerRecord) : Prop where
  drm : e.drm = { d.drm with
    dir := put d.drm.dir i (some (d.openingRecord t))
    queue := d.drm.queue ++ [d.openingEntry i t]
    nextIncident := d.drm.nextIncident + 1
    writer := e.drm.writer }
  hiu : e.hiu = { (d.openingPinned t).hiu with writer := e.hiu.writer }
  ict : e.ict = { d.ict with
    recording := some i, windowExpired := false
    attn := #v[d.holds .s0 .capture, d.holds .s1 .capture, d.holds .s2 .capture, d.holds .s3 .capture] }
  tmb : e.tmb = { d.tmb with deadlines := { d.tmb.deadlines with
    window := some (d.tmb.tick + BitVec.ofNat 48 (d.sst.working.window * 1000))
    limit := some (d.tmb.tick + BitVec.ofNat 48 (d.sst.working.limit * 1000))
    flush := e.tmb.deadlines.flush } }
  notes : e.notes .incidentOpened (BitVec.ofNat 32 d.drm.nextIncident)
  keeps : d.keepsAllBut [.pif, .ict, .arc, .drm, .hiu, .tmb, .ntu] e

theorem Dev.settle_hiu_writer_of (d : Dev) : d.settle.hiu = { d.hiu with writer := d.settle.hiu.writer } :=
  congrArg Dev.hiu d.settle_settlesTo

theorem Dev.opening_openedBy (d : Dev) (i : DirSlot) (t : TriggerRecord) (p : Port) (status : Status) (flags : Byte)
    (body : ReplyBody) : d.openedBy (((d.opening i t).reply p status flags body).settle) i t := by
  have ends := (d.opening i t).ends_keepsAllBut p status flags body
  have drm : ((d.opening i t).reply p status flags body).drm = (d.opening i t).drm := by simp
  have hiu : ((d.opening i t).reply p status flags body).hiu = (d.opening i t).hiu := by simp
  constructor
  case drm => rw [Dev.settle_drm_writer, drm, Dev.opening_drm]
  case hiu => rw [Dev.settle_hiu_writer_of, hiu, Dev.opening_hiu]
  case ict => rw [ends .ict (by decide), Dev.opening_ict]
  case tmb => rw [ends .tmb (by decide)]; exact d.opening_tmb i t
  case notes => exact (d.opening_notes i t).answered p status flags body
  case keeps => exact ((d.opening_keepsAllBut i t).mono (by decide)).trans (ends.mono (by decide))

/-- An opening pins no incident but its own. -/
theorem Dev.openedBy.pinned {d e : Dev} {i : DirSlot} {t : TriggerRecord} (h : d.openedBy e i t) {m : Nat}
    (hm : e.hiu.pinned m) : m = d.drm.nextIncident ∨ d.hiu.pinned m := by
  have before : (d.openingPinned t).hiu.pinned m := by
    rw [h.hiu] at hm
    exact hm
  refine (Dev.pinWindow_pinned _ _ _ before).imp_right fun logged => ?_
  exact (d.markedEvent_pinsTo evTrigger 0 (.trigger d.drm.nextIncident t.cause t.tick t.snapshot .opened)).back m logged

theorem exec_declare_opens {s : State} {p : Port} {tag : Byte} {b : List Byte} (reaches : s.reaches p .declare b)
    (off : s.dev.drm.at? s.dev.ict.recording = none) (ho : s.dev.ict.opening = none)
    (room : s.dev.drm.capRoom s.dev.openingWay.places = true) :
    exec (.declare p tag b) s = .next { s with dev :=
      (({ s.dev with pif := s.dev.waitsFor p b 0x05 tag } : Dev).openBy s.dev.openingWay (s.dev.declaration p)
        (some p)).settle } := by
  rw [exec_declare reaches, Dev.takeFrame_eq]
  have same : ({ s.dev with pif := s.dev.waitsFor p b 0x05 tag } : Dev).openingWay = s.dev.openingWay := rfl
  rw [show s.dev.waitsFor p b Request.declare.code tag = s.dev.waitsFor p b 0x05 tag from rfl,
    Dev.takeTrigger_opens (by exact Dev.running_of_judge reaches.2) (by exact off) (by exact ho)
      (.inr (by rw [same]; exact room)), same]

end Sys2Proof.Machine
end


section
/-! PROOFS. The obligation about the ways of an opening (R8, R9, R10, R18, R104). -/

namespace Sys2Proof.Machine

section
variable (d : Dev) (i : DirSlot) (n : Nat) (source : Source)

theorem Dev.releaseIncident_ict : (d.releaseIncident i n source).ict = d.ict :=
  Dev.releaseIncident_keepsAllBut .ict (by decide)

theorem Dev.releaseIncident_holds (p : Port) (r : Right) : (d.releaseIncident i n source).holds p r = d.holds p r := by
  have rqd : (d.releaseIncident i n source).rqd = d.rqd := Dev.releaseIncident_keepsAllBut .rqd (by decide)
  rw [Dev.holds, Dev.holds, rqd]

end

/-- An opening by roll-oldest, with a port's answer (R9). -/
def Dev.rolled (d : Dev) (p : Port) (i : DirSlot) (m : Nat) (t : TriggerRecord) : Dev :=
  (((d.releaseIncident i m .internal).opening i t).reply p .ok 0 (.declared .opened d.drm.nextIncident)).settle

theorem Dev.openBy_roll (d : Dev) (p : Port) (i : DirSlot) (m : Nat) (t : TriggerRecord) :
    (d.openBy (.roll i m) t (some p)).settle = d.rolled p i m t := by
  have next : (d.releaseIncident i m .internal).drm.nextIncident = d.drm.nextIncident := by rw [Dev.releaseIncident_drm]
  have opens := (d.releaseIncident i m .internal).openIncident_eq i t (some p)
  rw [next] at opens
  exact congrArg Dev.settle opens

section
variable (d : Dev) (p : Port) (i : DirSlot) (m : Nat) (t : TriggerRecord)

theorem Dev.rolled_openedBy : (d.releaseIncident i m .internal).openedBy (d.rolled p i m t) i t :=
  Dev.opening_openedBy ..

theorem Dev.rolled_port (idle : d.job p = none) :
    (d.rolled p i m t).port p = (d.reply p .ok 0 (.declared .opened d.drm.nextIncident)).port p := by
  have released := Dev.releaseIncident_stands (i := i) (n := m) (source := .internal) idle
  have opened : (d.releaseIncident i m .internal).portStands ((d.releaseIncident i m .internal).opening i t) p :=
    Dev.portStands_of_pif ((d.releaseIncident i m .internal).opening_keepsAllBut i t .pif (by decide))
  rw [Dev.port, Dev.rolled, (Dev.settle_frame _).1]
  exact (released.trans opened).reply ..

theorem Dev.rolled_drm : (d.rolled p i m t).drm = { d.drm with
    dir := put d.drm.dir i (some ((d.releaseIncident i m .internal).openingRecord t))
    queue := d.drm.queue ++ [.release m, (d.releaseIncident i m .internal).openingEntry i t]
    nextIncident := d.drm.nextIncident + 1
    writer := (d.rolled p i m t).drm.writer } := by
  have drm := (d.rolled_openedBy p i m t).drm
  rw [Dev.releaseIncident_drm] at drm
  refine drm.trans ?_
  simp only [List.append_assoc, List.cons_append, List.nil_append, put_put]

theorem Dev.rolled_ict : (d.rolled p i m t).ict = { d.ict with
    recording := some i, windowExpired := false
    attn := #v[d.holds .s0 .capture, d.holds .s1 .capture, d.holds .s2 .capture, d.holds .s3 .capture] } := by
  have ict := (d.rolled_openedBy p i m t).ict
  simp only [Dev.releaseIncident_ict, Dev.releaseIncident_holds] at ict
  exact ict

theorem Dev.rolled_plm : (d.rolled p i m t).plm = d.plm.retire m := by
  rw [(d.rolled_openedBy p i m t).keeps .plm (by decide), Dev.releaseIncident_plm]

theorem Dev.rolled_pins (other : m ≠ d.drm.nextIncident) : ¬(d.rolled p i m t).hiu.pinned m := fun pinned => by
  rcases (d.rolled_openedBy p i m t).pinned pinned with same | before
  · rw [Dev.releaseIncident_drm] at same
    exact other same
  · exact Dev.releaseIncident_not_pinned before

theorem Dev.rolled_cursor {q : Port} {stream offset : Nat} {gone : Bool} (h : d.cursor q = .stream m stream offset gone) :
    (d.rolled p i m t).cursor q = .stream m stream offset true := by
  rw [Dev.cursor, (d.rolled_openedBy p i m t).keeps .rtu (by decide)]
  exact Dev.releaseIncident_cursor h

theorem Dev.rolled_notes : (d.rolled p i m t).notes .incidentOpened (BitVec.ofNat 32 d.drm.nextIncident) := by
  have notes := (d.rolled_openedBy p i m t).notes
  rw [Dev.releaseIncident_drm] at notes
  exact notes

theorem Dev.rolled_keepsAllBut : d.keepsAllBut [.pif, .ict, .plm, .arc, .drm, .hiu, .tmb, .ntu, .rtu]
    (d.rolled p i m t) :=
  (Dev.releaseIncident_keepsAllBut.mono (by decide)).trans ((d.rolled_openedBy p i m t).keeps.mono (by decide))

end

/-- The window of an opening, by the number it takes. -/
theorem Dev.openingWindow_eq {d : Dev} {n : Nat} (h : d.drm.nextIncident = n) (t : TriggerRecord) :
    d.openingWindow t = ((d.triggerEvent t n .opened).dev.pinWindow n (d.triggerEvent t n .opened).seq).2 := by
  subst h
  rfl

/-- The directory behind an opening by roll-oldest (R9). -/
theorem Dev.rolled_directory {d : Dev} {p : Port} {i : DirSlot} {m : Nat} {t : TriggerRecord} {w : Window}
    (hw : (d.releaseIncident i m .internal).openingWindow t = w) :
    (d.rolled p i m t).drm = { d.drm with
      dir := put d.drm.dir i (some (openRecord d.drm.nextIncident d.drm.epoch t w))
      queue := d.drm.queue ++
        [.release m, .incidentOpen i.val d.drm.nextIncident d.drm.epoch t w.first w.last w.shortened]
      nextIncident := d.drm.nextIncident + 1
      writer := (d.rolled p i m t).drm.writer } := by
  have next : (d.releaseIncident i m .internal).drm.nextIncident = d.drm.nextIncident := by rw [Dev.releaseIncident_drm]
  have epoch : (d.releaseIncident i m .internal).drm.epoch = d.drm.epoch := by rw [Dev.releaseIncident_drm]
  have filed := d.rolled_drm p i m t
  rw [Dev.openingRecord, Dev.openingEntry, hw, next, epoch] at filed
  exact filed

/-- The zones without a released incident. -/
theorem Plm.retire_zone_spec (m : Plm) (n z : Nat) :
    ((m.retire n).zone z).holders = (m.zone z).holders.filter (· != n)
      ∧ ((m.retire n).zone z).state = if (m.zone z).state = .full ∧ n ∈ (m.zone z).holders
          ∧ (m.zone z).holders.filter (· != n) = [] then .retired else (m.zone z).state := by
  rw [Plm.retire_zone]
  exact ⟨rfl, by simp only [ZoneEntry.retire, List.contains_iff_mem]⟩


/-- What a DECLARE by roll-oldest leaves, by the state `d` in which its port waits (R9). -/
theorem Dev.rolled_spec {d : Dev} (p : Port) (i : DirSlot) (m : Nat) (t : TriggerRecord) {n : Nat}
    (hn : d.drm.nextIncident = n) {w : Window} (hw : (d.releaseIncident i m .internal).openingWindow t = w) :
    (d.job p = none → (d.rolled p i m t).port p = (d.reply p .ok 0 (.declared .opened n)).port p)
    ∧ (d.rolled p i m t).drm = { d.drm with
        dir := put d.drm.dir i (some
          { state := .recording, number := n, epoch := d.drm.epoch, primary := t, secondary := [], overflow := 0
            streams := [], windowFirst := w.first, windowLast := w.last, shortened := w.shortened
            completeness := none, held := false, retrieved := false })
        queue := d.drm.queue ++ [.release m, .incidentOpen i.val n d.drm.epoch t w.first w.last w.shortened]
        nextIncident := n + 1
        writer := (d.rolled p i m t).drm.writer }
    ∧ (d.rolled p i m t).ict = { d.ict with
        recording := some i, windowExpired := false
        attn := #v[d.holds .s0 .capture, d.holds .s1 .capture, d.holds .s2 .capture, d.holds .s3 .capture] }
    ∧ (∀ k, SMap.get .erased (d.rolled p i m t).plm.pages k = (SMap.get .erased d.plm.pages k).retire m)
    ∧ (∀ z, ((d.rolled p i m t).plm.zone z).holders = (d.plm.zone z).holders.filter (· != m)
        ∧ ((d.rolled p i m t).plm.zone z).state = if (d.plm.zone z).state = .full ∧ m ∈ (d.plm.zone z).holders
            ∧ (d.plm.zone z).holders.filter (· != m) = [] then .retired else (d.plm.zone z).state)
    ∧ (m ≠ n → (∀ k : RingIdx, m ∉ ((d.rolled p i m t).hiu.ring[k]).pins) ∧ m ∉ (d.rolled p i m t).hiu.deferred)
    ∧ (∀ q stream offset gone, d.cursor q = .stream m stream offset gone →
        (d.rolled p i m t).cursor q = .stream m stream offset true)
    ∧ (d.rolled p i m t).notes .incidentOpened (BitVec.ofNat 32 n)
    ∧ d.keepsAllBut [.pif, .ict, .plm, .arc, .drm, .hiu, .tmb, .ntu, .rtu] (d.rolled p i m t) := by
  subst hn
  refine ⟨d.rolled_port p i m t, Dev.rolled_directory hw, d.rolled_ict p i m t, fun k => ?_, fun z => ?_, fun other => ?_,
    fun q stream offset gone hq => d.rolled_cursor p i m t hq, d.rolled_notes p i m t, d.rolled_keepsAllBut p i m t⟩
  · rw [Dev.rolled_plm, Plm.retire_page]
  · rw [Dev.rolled_plm]
    exact Plm.retire_zone_spec _ m z
  · exact Hiu.not_pinned_iff.1 (d.rolled_pins p i m t other)

/-- A DECLARE by roll-oldest (R9). -/
theorem exec_declare_rolls {s : State} {p : Port} {tag : Byte} {b : List Byte} {i : DirSlot} {m : Nat}
    (reaches : s.reaches p .declare b) (off : s.dev.drm.at? s.dev.ict.recording = none) (ho : s.dev.ict.opening = none)
    (way : s.dev.openingWay = .roll i m) (empty : s.dev.drm.captureWaiters = [])
    (room : s.dev.drm.queue.length + 2 ≤ 80) {d : Dev} (hd : d = { s.dev with pif := s.dev.waitsFor p b 0x05 tag }) :
    exec (.declare p tag b) s = .next { s with dev := d.rolled p i m (s.dev.declaration p) } := by
  have places : s.dev.drm.capRoom s.dev.openingWay.places = true := by
    rw [way]
    simpa [Drm.capRoom, empty, OpeningWay.places, Config.queueDepth] using room
  rw [exec_declare_opens reaches off ho places, way, ← hd, Dev.openBy_roll]

/-- The port of a DECLARE that waits and is answered. -/
theorem Dev.declare_answered (d : Dev) (p : Port) (tag : Byte) (b : List Byte) (body : ReplyBody) :
    ({ d with pif := d.waitsFor p b 0x05 tag } : Dev).reply p .ok 0 body
      = { d with pif := d.answers p b (Request.declare.says tag .ok 0 body) } := by
  have answered := Dev.reply_taken (d := d) (e := d.takeFrame p Request.declare.code tag b) (p := p) (r := .declare)
    (tag := tag) (b := b) rfl (status := .ok) (flags := 0) (body := body) (by decide)
  rw [Dev.takeFrame_eq] at answered
  exact answered

/-- Settles O33: the rows of Table 1.7 one by one, then the release and the opening of a DECLARE by roll-oldest. -/
theorem openingsGoByTheTable : Obligations.OpeningsGoByTheTable := by
  refine ⟨fun d => ⟨fun h => Dev.openingWay_exhausted h, fun h => ⟨fun i free => ?_, fun full off => ?_, fun full on => ?_⟩⟩,
    fun p tag b s i m reaches off ho way empty room => ?_⟩
  · exact ⟨Dev.openingWay_slot h free, Drm.freeSlot_spec free⟩
  · exact Dev.openingWay_off h full off
  · exact ⟨fun none => Dev.openingWay_none h full on none,
      fun x rec kept free => Dev.openingWay_roll h full on rec kept free⟩
  · have answered := s.dev.declare_answered p tag b (.declared .opened s.dev.drm.nextIncident)
    have taken : s.dev.keepsAllBut [.pif, .ict, .plm, .arc, .drm, .hiu, .tmb, .ntu, .rtu]
        { s.dev with pif := s.dev.waitsFor p b 0x05 tag } := fun c hc => by
      cases c <;> first | rfl | simp at hc
    have epoch : ({ s.dev with pif := s.dev.waitsFor p b 0x05 tag } : Dev).drm = s.dev.drm := rfl
    have rest : ({ s.dev with pif := s.dev.waitsFor p b 0x05 tag } : Dev).ict = s.dev.ict
      ∧ ({ s.dev with pif := s.dev.waitsFor p b 0x05 tag } : Dev).rqd = s.dev.rqd
      ∧ ({ s.dev with pif := s.dev.waitsFor p b 0x05 tag } : Dev).plm = s.dev.plm
      ∧ ({ s.dev with pif := s.dev.waitsFor p b 0x05 tag } : Dev).rtu = s.dev.rtu := ⟨rfl, rfl, rfl, rfl⟩
    intro n t
    have hn : s.dev.drm.nextIncident = n := rfl
    have ht : s.dev.declaration p = t := rfl
    clear_value n t
    generalize hd : ({ s.dev with pif := s.dev.waitsFor p b 0x05 tag } : Dev) = d at answered taken epoch rest ⊢
    intro released logged w
    obtain ⟨ict, rqd, plm, rtu⟩ := rest
    have next : (d.releaseIncident i m .internal).drm.nextIncident = n := by rw [Dev.releaseIncident_drm, epoch, ← hn]
    have ran := exec_declare_rolls (tag := tag) reaches off ho way empty room hd.symm
    rw [ht] at ran
    rw [hn] at answered
    have window : (d.releaseIncident i m .internal).openingWindow t = w := Dev.openingWindow_eq next t
    clear_value w
    obtain ⟨port, drm, moved, page, zone, pins, cursor, notes, keeps⟩ := Dev.rolled_spec (d := d) p i m t (n := n)
      (by rw [epoch, hn]) window
    rw [epoch] at drm
    simp only [ict, Dev.holds, rqd] at moved
    rw [plm] at page zone
    refine ⟨d.rolled p i m t, ran, ?_, ?_, ?_, ?_, ?_, ?_, ?_, ?_, ?_⟩
    · intro idle
      rw [← answered]
      exact port (by rw [Dev.job, rtu]; exact idle)
    · exact drm
    · exact moved
    · exact fun k => (page k).trans rfl
    · exact zone
    · exact pins
    · intro q stream offset gone hq
      refine cursor q stream offset gone ?_
      rw [Dev.cursor, rtu]
      exact hq
    · exact notes
    · exact taken.trans keeps

end Sys2Proof.Machine
end


section
/-! PROOFS. The history window of an incident and its pins (R123, R124). -/

namespace Sys2Proof.Machine

/-! ### The pin limit -/

theorem Hiu.ring_toList (h : Hiu) : h.ring.toList = (List.finRange 16).map fun k : RingIdx => h.ring[k] := by
  apply List.ext_getElem <;> simp

theorem Hiu.pinCount_eq (h : Hiu) : h.pinCount
    = ((List.finRange 16).countP fun k : RingIdx => !(h.ring[k]).pins.isEmpty)
      + (if h.deferred.isEmpty then 0 else 1) := by
  unfold Hiu.pinCount
  rw [h.ring_toList, List.filter_map, List.length_map, List.countP_eq_length_filter]
  rfl

/-- A count rises by one at most where one place changes. -/
theorem countP_le_succ_of_one {n : Nat} {p q : Fin n → Bool} (k : Fin n) (same : ∀ j, j ≠ k → q j = true → p j = true) :
    (List.finRange n).countP q ≤ (List.finRange n).countP p + 1 := by
  have sub : (List.finRange n).filter q ⊆ k :: (List.finRange n).filter p := fun j hj => by
    have hq : q j = true := (List.mem_filter.1 hj).2
    by_cases h : j = k
    · exact h ▸ List.mem_cons_self
    · exact List.mem_cons_of_mem _ (List.mem_filter.2 ⟨List.mem_finRange j, same j h hq⟩)
  have le := (((List.nodup_finRange n).filter q).subperm sub).length_le
  simpa [List.countP_eq_length_filter] using le

section
variable {h h' : Hiu} {n : Nat} {k : RingIdx}

/-- What the pinning of one zone leaves (R124). -/
structure Hiu.pinsZone (h h' : Hiu) (n : Nat) (z : WindowZone) : Prop where
  rest : h' = { h with ring := h'.ring, deferred := h'.deferred }
  zone : ∀ k : RingIdx, (h'.ring[k]).state = (h.ring[k]).state ∧ (h'.ring[k]).range = (h.ring[k]).range
    ∧ (h'.ring[k]).pins = if z = .ring k then n :: (h.ring[k]).pins.filter (· != n) else (h.ring[k]).pins
  deferred : h'.deferred = if z = .deferred then n :: h.deferred.filter (· != n) else h.deferred

theorem Hiu.pinZone_pinsZone {z : WindowZone} (hz : h.pinZone n z = some h') : h.pinsZone h' n z := by
  cases z with
  | ring j =>
    simp only [Hiu.pinZone] at hz
    split at hz
    · cases hz
    · cases hz
      refine ⟨rfl, fun k => ?_, (if_neg nofun).symm⟩
      rw [get_modify]
      by_cases same : j = k
      · subst same
        simp
      · simp [same]
  | deferred =>
    simp only [Hiu.pinZone] at hz
    split at hz
    · cases hz
    · cases hz
      exact ⟨rfl, fun k => ⟨rfl, rfl, (if_neg nofun).symm⟩, (if_pos rfl).symm⟩

/-- Whether a zone is pinned already. -/
def Hiu.zonePins (h : Hiu) : WindowZone → List Nat
  | .ring k => (h.ring[k]).pins
  | .deferred => h.deferred

theorem Hiu.pinZone_eq_none {z : WindowZone} (hz : h.pinZone n z = none) : h.zonePins z = [] ∧ 12 ≤ h.pinCount := by
  cases z <;> simpa [Hiu.pinZone, Hiu.zonePins, Config.pinLimit] using hz

theorem Hiu.pinZone_room {z : WindowZone} (hz : h.pinZone n z = some h') : h.zonePins z ≠ [] ∨ h.pinCount < 12 := by
  by_contra off
  obtain ⟨empty, full⟩ := not_or.1 off
  have none : h.pinZone n z = none := by
    cases z <;> simp_all [Hiu.pinZone, Hiu.zonePins, Config.pinLimit]
  simp [none] at hz

/-- The count of pinned zones rises by one where the zone was not pinned. -/
theorem Hiu.pinsZone.count {z : WindowZone} (hz : h.pinsZone h' n z) :
    h'.pinCount ≤ h.pinCount + (if h.zonePins z = [] then 1 else 0) := by
  rw [h.pinCount_eq, h'.pinCount_eq, hz.deferred]
  cases z with
  | deferred =>
    have ring (k : RingIdx) : (h'.ring[k]).pins = (h.ring[k]).pins := (hz.zone k).2.2.trans (if_neg nofun)
    simp only [ring, if_true, Hiu.zonePins, List.isEmpty_cons, Bool.false_eq_true, if_false]
    by_cases hd : h.deferred = [] <;> simp [hd]
  | ring j =>
    have other (k : RingIdx) (ne : k ≠ j) : (h'.ring[k]).pins = (h.ring[k]).pins :=
      (hz.zone k).2.2.trans (if_neg fun e => ne (WindowZone.ring.inj e).symm)
    simp only [reduceCtorEq, if_false]
    by_cases empty : (h.ring[j]).pins = []
    · have le := countP_le_succ_of_one (p := fun k : RingIdx => !(h.ring[k]).pins.isEmpty)
        (q := fun k : RingIdx => !(h'.ring[k]).pins.isEmpty) j fun k ne hk => by rw [← other k ne]; exact hk
      rw [show h.zonePins (.ring j) = [] from empty, if_pos rfl]
      omega
    · have le : (List.finRange 16).countP (fun k : RingIdx => !(h'.ring[k]).pins.isEmpty)
          ≤ (List.finRange 16).countP (fun k : RingIdx => !(h.ring[k]).pins.isEmpty) :=
        List.countP_mono_left fun k _ hk => by
          by_cases same : k = j
          · subst same
            simpa using empty
          · rw [← other k same]
            exact hk
      omega

end

end Sys2Proof.Machine
end


section
/-! PROOFS. The pinning of a window's zones, one after another (R123, R124). -/

namespace Sys2Proof.Machine

section
variable {h h' : Hiu} {n : Nat} {z : WindowZone}

theorem Hiu.pinsZone.zoneFirst (hz : h.pinsZone h' n z) (w : WindowZone) : h'.zoneFirst w = h.zoneFirst w := by
  have staged : h'.oldestStaged = h.oldestStaged := by rw [hz.rest]; rfl
  cases w with
  | ring k => simp only [Hiu.zoneFirst, (hz.zone k).2.1, staged]
  | deferred => exact congrArg (Option.getD · 0) staged

theorem mem_pinned (l : List Nat) (x : Nat) : x ∈ n :: l.filter (· != n) ↔ x = n ∨ x ∈ l := by
  by_cases same : x = n <;> simp [same]

theorem Hiu.pinsZone.mem (hz : h.pinsZone h' n z) (w : WindowZone) (x : Nat) :
    x ∈ h'.zonePins w ↔ (z = w ∧ x = n) ∨ x ∈ h.zonePins w := by
  cases w with
  | ring k =>
    rw [Hiu.zonePins, (hz.zone k).2.2]
    split
    next same => simp only [mem_pinned, same, true_and, Hiu.zonePins]
    next other => simp only [other, false_and, false_or, Hiu.zonePins]
  | deferred =>
    rw [Hiu.zonePins, hz.deferred]
    split
    next same => simp only [mem_pinned, same, true_and, Hiu.zonePins]
    next other => simp only [other, false_and, false_or, Hiu.zonePins]

theorem Hiu.pinsZone.other (hz : h.pinsZone h' n z) {w : WindowZone} (ne : z ≠ w) : h'.zonePins w = h.zonePins w := by
  cases w with
  | ring k => exact (hz.zone k).2.2.trans (if_neg ne)
  | deferred => exact hz.deferred.trans (if_neg ne)

end

/-- What the pinning of the zones `done` leaves, where the limit kept the zones `left` from it (R124). -/
structure Hiu.pinsAll (h h' : Hiu) (n : Nat) (done left : List WindowZone) : Prop where
  rest : h' = { h with ring := h'.ring, deferred := h'.deferred }
  zone : ∀ k : RingIdx, (h'.ring[k]).state = (h.ring[k]).state ∧ (h'.ring[k]).range = (h.ring[k]).range
  pinned : ∀ w ∈ done, ∀ x, x ∈ h'.zonePins w ↔ x = n ∨ x ∈ h.zonePins w
  other : ∀ w, w ∉ done → h'.zonePins w = h.zonePins w
  limit : h.pinCount ≤ 12 → h'.pinCount ≤ 12
  stopped : ∀ z l, left = z :: l → 12 ≤ h'.pinCount ∧ h'.zonePins z = []

/-- The first number of the zone pinned last, where the limit left zones unpinned (R124). -/
def Hiu.pinCut (h : Hiu) (done left : List WindowZone) (reached : Nat) : Option Nat :=
  if left = [] then none else some ((done.getLast?.map h.zoneFirst).getD reached)

theorem Hiu.pinAll_spec (n : Nat) (zs : List WindowZone) (h : Hiu) (reached : Nat) : ∃ done left, zs = done ++ left
    ∧ h.pinsAll (Hiu.pinAll n h zs reached).1 n done left
    ∧ (Hiu.pinAll n h zs reached).2 = h.pinCut done left reached := by
  induction zs generalizing h reached with
  | nil => exact ⟨[], [], rfl, ⟨rfl, fun _ => ⟨rfl, rfl⟩, (by simp), fun _ _ => rfl, id, (by simp)⟩, rfl⟩
  | cons z zs ih =>
    unfold Hiu.pinAll
    split
    next h' pins =>
      have one := Hiu.pinZone_pinsZone pins
      obtain ⟨done, left, split, all, cut⟩ := ih h' (h'.zoneFirst z)
      refine ⟨z :: done, left, congrArg (z :: ·) split, ⟨?_, fun k => ?_, fun w hw x => ?_, fun w hw => ?_, fun le => ?_,
        all.stopped⟩, cut.trans ?_⟩
      · rw [all.rest, one.rest]
      · exact ⟨(all.zone k).1.trans (one.zone k).1, (all.zone k).2.trans (one.zone k).2.1⟩
      · by_cases later : w ∈ done
        · rw [all.pinned w later, one.mem]
          tauto
        · have same : z = w := ((List.mem_cons.1 hw).resolve_right later).symm
          rw [all.other w later, one.mem]
          tauto
      · obtain ⟨ne, rest⟩ := not_or.1 (List.mem_cons.not.1 hw)
        exact (all.other w rest).trans (one.other (Ne.symm ne))
      · refine all.limit ?_
        have count := one.count
        rcases Hiu.pinZone_room pins with already | room
        · rw [if_neg already] at count
          omega
        · split at count <;> omega
      · have first : (fun w => h'.zoneFirst w) = h.zoneFirst := funext one.zoneFirst
        unfold Hiu.pinCut
        rw [show h'.zoneFirst = h.zoneFirst from first]
        congr 2
        cases done with
        | nil => simp
        | cons w l => simp [List.getLast?_cons_cons, List.getLast?_cons]
    next none =>
      obtain ⟨empty, full⟩ := Hiu.pinZone_eq_none none
      refine ⟨[], z :: zs, rfl, ⟨rfl, fun _ => ⟨rfl, rfl⟩, (by simp), fun _ _ => rfl, id, fun w l e => ?_⟩, ?_⟩
      · cases e
        exact ⟨full, empty⟩
      · rfl

/-- The first number that a window may reach (R123). -/
def Hiu.windowFirst (h : Hiu) (width last : Nat) : Nat :=
  match h.oldest with
  | some o => if o ≤ last then max (last - width) o else last
  | none => last

theorem Dev.pinWindow_empty {d : Dev} {n : Nat} {seq : Option Nat} (h : seq.getD (d.hiu.nextSeq - 1) = 0) :
    d.pinWindow n seq = (d, ⟨1, 0, true⟩) := by
  unfold Dev.pinWindow
  exact if_pos h

theorem Dev.pinWindow_eq {d : Dev} {n : Nat} {seq : Option Nat} {last : Nat} (hl : seq.getD (d.hiu.nextSeq - 1) = last)
    (h : last ≠ 0) {width first : Nat} (hw : d.sst.working.historyWindow = width)
    (hf : d.hiu.windowFirst width last = first) {pinned : Hiu} {cut : Option Nat}
    (hp : Hiu.pinAll n d.hiu (d.hiu.windowZones first last) last = (pinned, cut)) :
    d.pinWindow n seq = (({ d with hiu := pinned } : Dev).haltTest,
      ⟨cut.getD first, last, seq.isNone || cut.isSome || d.hiu.windowSize (cut.getD first) last < width + 1⟩) := by
  subst hl hw hf
  obtain ⟨rfl, rfl⟩ : (Hiu.pinAll n d.hiu (d.hiu.windowZones (d.hiu.windowFirst d.sst.working.historyWindow
      (seq.getD (d.hiu.nextSeq - 1))) (seq.getD (d.hiu.nextSeq - 1))) (seq.getD (d.hiu.nextSeq - 1))).1 = pinned
      ∧ (Hiu.pinAll n d.hiu (d.hiu.windowZones (d.hiu.windowFirst d.sst.working.historyWindow
      (seq.getD (d.hiu.nextSeq - 1))) (seq.getD (d.hiu.nextSeq - 1))) (seq.getD (d.hiu.nextSeq - 1))).2 = cut := by
    rw [hp]
    exact ⟨rfl, rfl⟩
  unfold Dev.pinWindow
  exact if_neg h

/-- The last number of a window is the TRIGGER entry's, or that of the last entry taken (R123). -/
theorem Dev.pinWindow_last (d : Dev) (n : Nat) (seq : Option Nat) :
    (d.pinWindow n seq).2.last = seq.getD (d.hiu.nextSeq - 1) := by
  by_cases h : seq.getD (d.hiu.nextSeq - 1) = 0
  · rw [Dev.pinWindow_empty h, h]
  · rw [Dev.pinWindow_eq rfl h rfl rfl rfl]

end Sys2Proof.Machine
end


section
/-! PROOFS. Where a window's entries stand, and how many it holds (R119, R123, R124). -/

namespace Sys2Proof.Machine

section
variable (h : Hiu) (first last : Nat)

/-- A window reaches entries that are not yet programmed. -/
def Hiu.unwritten : Prop := ∃ x ∈ h.unflushed, first ≤ x.seq ∧ x.seq ≤ last

/-- The ring zones that hold stored entries of a window, from the newest back (R123). -/
def Hiu.holding : List RingIdx :=
  (ringAfter h.newest).reverse.filter fun k => (h.ring[k]).range.any fun r => first ≤ r.2 && r.1 ≤ last

theorem Hiu.unwritten_iff : ((h.staging ++ h.intake).any fun e => first ≤ e.seq && e.seq ≤ last) = true
    ↔ h.unwritten first last := by
  simp only [Hiu.unwritten, Hiu.unflushed, List.any_eq_true, Bool.and_eq_true, decide_eq_true_eq]

theorem Hiu.mem_holding (k : RingIdx) :
    k ∈ h.holding first last ↔ ∃ x, (h.ring[k]).range = some x ∧ first ≤ x.2 ∧ x.1 ≤ last := by
  rw [Hiu.holding, List.mem_filter, List.mem_reverse]
  simp only [mem_ringAfter, true_and, Option.any_eq_true, Bool.and_eq_true, decide_eq_true_eq]

theorem Hiu.holding_pairwise : (h.holding first last).Pairwise
    (fun j k => (h.newest.val + 16 - j.val) % 16 < (h.newest.val + 16 - k.val) % 16) :=
  (ringAfter_reverse_pairwise h.newest).filter _

variable {h first last}

theorem Hiu.windowZones_written (w : ¬h.unwritten first last) :
    h.windowZones first last = (h.holding first last).map .ring := by
  have off : ((h.staging ++ h.intake).any fun e => first ≤ e.seq && e.seq ≤ last) = false := by
    rw [← Bool.not_eq_true, h.unwritten_iff]
    exact w
  unfold Hiu.windowZones Hiu.holding
  simp only [off, Bool.false_eq_true, if_false]
  split <;> rfl

theorem Hiu.windowZones_target (w : h.unwritten first last) {t : WritePage} (ht : h.target = some t) :
    h.windowZones first last = .ring t.zone :: ((h.holding first last).filter (· != t.zone)).map .ring := by
  unfold Hiu.windowZones Hiu.holding
  simp only [(h.unwritten_iff first last).2 w, ht, if_true]

theorem Hiu.windowZones_deferred (w : h.unwritten first last) (ht : h.target = none) :
    h.windowZones first last = .deferred :: (h.holding first last).map .ring := by
  unfold Hiu.windowZones Hiu.holding
  simp only [(h.unwritten_iff first last).2 w, ht, if_true]

theorem WindowZone.mem_map_ring {k : RingIdx} {l : List RingIdx} : WindowZone.ring k ∈ l.map WindowZone.ring ↔ k ∈ l := by
  simp

theorem Hiu.ring_mem_windowZones (k : RingIdx) : WindowZone.ring k ∈ h.windowZones first last ↔
    (∃ x, (h.ring[k]).range = some x ∧ first ≤ x.2 ∧ x.1 ≤ last)
      ∨ (h.unwritten first last ∧ ∃ t, h.target = some t ∧ t.zone = k) := by
  rw [← h.mem_holding]
  by_cases w : h.unwritten first last
  · cases ht : h.target with
    | none =>
      rw [Hiu.windowZones_deferred w ht]
      simp
    | some t =>
      rw [Hiu.windowZones_target w ht]
      by_cases same : t.zone = k
      · simp [same, w]
      · simp [same, Ne.symm same]
  · rw [Hiu.windowZones_written w]
    simp [w]

theorem Hiu.deferred_mem_windowZones : WindowZone.deferred ∈ h.windowZones first last ↔
    h.unwritten first last ∧ h.target = none := by
  by_cases w : h.unwritten first last
  · cases ht : h.target with
    | none =>
      rw [Hiu.windowZones_deferred w ht]
      simp [w]
    | some t =>
      rw [Hiu.windowZones_target w ht]
      simp
  · rw [Hiu.windowZones_written w]
    simp [w]

theorem Hiu.windowZones_order : ∃ l : List RingIdx,
    l.Pairwise (fun j k => (h.newest.val + 16 - j.val) % 16 < (h.newest.val + 16 - k.val) % 16)
      ∧ (¬h.unwritten first last → h.windowZones first last = l.map .ring)
      ∧ (∀ t, h.unwritten first last → h.target = some t →
          t.zone ∉ l ∧ h.windowZones first last = .ring t.zone :: l.map .ring)
      ∧ (h.unwritten first last → h.target = none → h.windowZones first last = .deferred :: l.map .ring) := by
  by_cases aimed : h.unwritten first last ∧ ∃ t, h.target = some t
  · obtain ⟨w, t, ht⟩ := aimed
    refine ⟨(h.holding first last).filter (· != t.zone), (h.holding_pairwise first last).filter _, fun off => absurd w off,
      fun u _ hu => ?_, fun _ none => absurd (ht.symm.trans none) nofun⟩
    cases Option.some.inj (ht.symm.trans hu)
    exact ⟨by simp, Hiu.windowZones_target w ht⟩
  · exact ⟨h.holding first last, h.holding_pairwise first last, Hiu.windowZones_written,
      fun t w ht => absurd ⟨w, t, ht⟩ aimed, Hiu.windowZones_deferred⟩

theorem Hiu.mem_ring_toList {z : RingZone} : z ∈ h.ring.toList ↔ ∃ k : RingIdx, h.ring[k] = z := by
  rw [h.ring_toList, List.mem_map]
  simp only [List.mem_finRange, true_and]

variable (h first last)

/-- The numbers that a window counts (R123). -/
theorem Hiu.windowSize_eq : ∃ l : List Nat, h.windowSize first last = l.length ∧ l.Nodup
    ∧ ∀ n, n ∈ l ↔ first ≤ n ∧ n ≤ last
      ∧ ((∃ (k : RingIdx) (x : Nat × Nat), (h.ring[k]).range = some x ∧ x.1 ≤ n ∧ n ≤ x.2)
        ∨ ∃ x ∈ h.unflushed, x.seq = n) := by
  refine ⟨(List.range' first (last + 1 - first)).filter h.holdsSeq, rfl, (List.nodup_range' ..).filter _, fun n => ?_⟩
  have stored : (∃ z ∈ h.ring.toList, ∃ r, z.range = some r ∧ r.1 ≤ n ∧ n ≤ r.2)
      ↔ ∃ (k : RingIdx) (x : Nat × Nat), (h.ring[k]).range = some x ∧ x.1 ≤ n ∧ n ≤ x.2 := by
    constructor
    · rintro ⟨z, mem, r, hr⟩
      obtain ⟨k, rfl⟩ := Hiu.mem_ring_toList.1 mem
      exact ⟨k, r, hr⟩
    · rintro ⟨k, x, hx⟩
      exact ⟨_, Hiu.mem_ring_toList.2 ⟨k, rfl⟩, x, hx⟩
  have bounds : n ∈ List.range' first (last + 1 - first) ↔ first ≤ n ∧ n ≤ last := by
    rw [List.mem_range'_1]
    omega
  rw [List.mem_filter, bounds, h.holdsSeq_iff, stored, and_assoc]

end

/-! ### The oldest entry (R119, R123) -/

/-- The lesser of a number and one that may be absent. -/
def lesser (a : Option Nat) (n : Nat) : Option Nat := some (min n (a.getD n))

theorem foldl_lesser_some (l : List Nat) (a : Nat) : ∃ o, l.foldl lesser (some a) = some o ∧ (o = a ∨ o ∈ l) ∧ o ≤ a
    ∧ ∀ n ∈ l, o ≤ n := by
  induction l generalizing a with
  | nil => exact ⟨a, rfl, .inl rfl, le_rfl, by simp⟩
  | cons n l ih =>
    obtain ⟨o, found, mem, le, least⟩ := ih (min n a)
    refine ⟨o, found, ?_, le.trans (min_le_right _ _), List.forall_mem_cons.2 ⟨le.trans (min_le_left _ _), least⟩⟩
    rcases mem with same | mem
    · rcases min_choice n a with h | h
      · exact .inr (same.trans h ▸ List.mem_cons_self)
      · exact .inl (same.trans h)
    · exact .inr (List.mem_cons_of_mem _ mem)

/-- The least of a list of numbers, which is absent for the empty list alone. -/
theorem foldl_lesser (l : List Nat) : (l.foldl lesser none = none ↔ l = [])
    ∧ ∀ o, l.foldl lesser none = some o → o ∈ l ∧ ∀ n ∈ l, o ≤ n := by
  cases l with
  | nil => exact ⟨by simp, by simp⟩
  | cons n l =>
    have start : (n :: l).foldl lesser none = l.foldl lesser (some n) := by
      rw [List.foldl_cons, lesser, Option.getD_none, min_self]
    obtain ⟨o, found, mem, le, least⟩ := foldl_lesser_some l n
    rw [start, found]
    refine ⟨by simp, fun p hp => ?_⟩
    cases hp
    exact ⟨List.mem_cons.2 mem, List.forall_mem_cons.2 ⟨le, least⟩⟩

section
variable (h : Hiu)

theorem Hiu.oldestStored_eq :
    h.oldestStored = (h.ring.toList.filterMap fun z => z.range.map (·.1)).foldl lesser none := rfl

theorem Hiu.mem_firsts (n : Nat) : n ∈ h.ring.toList.filterMap (fun z => z.range.map (·.1))
    ↔ ∃ (k : RingIdx) (x : Nat × Nat), (h.ring[k]).range = some x ∧ x.1 = n := by
  simp only [List.mem_filterMap, Option.map_eq_some_iff]
  constructor
  · rintro ⟨z, mem, x, hx⟩
    obtain ⟨k, rfl⟩ := Hiu.mem_ring_toList.1 mem
    exact ⟨k, x, hx⟩
  · rintro ⟨k, x, hx⟩
    exact ⟨_, Hiu.mem_ring_toList.2 ⟨k, rfl⟩, x, hx⟩

theorem Hiu.oldestStored_none : h.oldestStored = none ↔ ∀ k : RingIdx, (h.ring[k]).range = none := by
  rw [h.oldestStored_eq, (foldl_lesser _).1, List.eq_nil_iff_forall_not_mem]
  constructor
  · intro none k
    by_contra stands
    obtain ⟨x, hx⟩ := Option.ne_none_iff_exists'.1 stands
    exact none x.1 ((h.mem_firsts x.1).2 ⟨k, x, hx, rfl⟩)
  · intro none n mem
    obtain ⟨k, x, hx, -⟩ := (h.mem_firsts n).1 mem
    exact absurd (hx.symm.trans (none k)) nofun

theorem Hiu.oldestStored_some {o : Nat} (ho : h.oldestStored = some o) :
    (∃ (k : RingIdx) (x : Nat × Nat), (h.ring[k]).range = some x ∧ x.1 = o)
      ∧ ∀ (k : RingIdx) (x : Nat × Nat), (h.ring[k]).range = some x → o ≤ x.1 := by
  rw [h.oldestStored_eq] at ho
  obtain ⟨mem, least⟩ := (foldl_lesser _).2 o ho
  exact ⟨(h.mem_firsts o).1 mem, fun k x hx => least _ ((h.mem_firsts x.1).2 ⟨k, x, hx, rfl⟩)⟩

theorem Hiu.oldestStaged_eq : h.oldestStaged = h.unflushed.head?.map (·.seq) := rfl

theorem Hiu.oldestStaged_none : h.oldestStaged = none ↔ h.unflushed = [] := by
  rw [h.oldestStaged_eq, Option.map_eq_none_iff, List.head?_eq_none_iff]

theorem Hiu.oldestStaged_some {o : Nat} : h.oldestStaged = some o ↔ ∃ x l, h.unflushed = x :: l ∧ x.seq = o := by
  rw [h.oldestStaged_eq, Option.map_eq_some_iff]
  simp only [List.head?_eq_some_iff]
  exact ⟨fun ⟨x, ⟨l, hl⟩, hx⟩ => ⟨x, l, hl, hx⟩, fun ⟨x, l, hl, hx⟩ => ⟨x, ⟨l, hl⟩, hx⟩⟩

theorem Hiu.oldest_none : h.oldest = none ↔ h.unflushed = [] ∧ ∀ k : RingIdx, (h.ring[k]).range = none := by
  rw [← h.oldestStaged_none, ← h.oldestStored_none, Hiu.oldest]
  cases h.oldestStored <;> cases h.oldestStaged <;> simp

theorem Hiu.oldest_some {o : Nat} (ho : h.oldest = some o) :
    (∀ (k : RingIdx) (x : Nat × Nat), (h.ring[k]).range = some x → o ≤ x.1)
      ∧ (∀ x l, h.unflushed = x :: l → o ≤ x.seq)
      ∧ ((∃ (k : RingIdx) (x : Nat × Nat), (h.ring[k]).range = some x ∧ x.1 = o)
          ∨ ∃ x l, h.unflushed = x :: l ∧ x.seq = o) := by
  have staged (x : HEntry) (l : List HEntry) (e : h.unflushed = x :: l) : h.oldestStaged = some x.seq :=
    h.oldestStaged_some.2 ⟨x, l, e, rfl⟩
  unfold Hiu.oldest at ho
  split at ho
  next a b stored hb =>
    obtain ⟨attained, least⟩ := h.oldestStored_some stored
    have oldest : o = min a b := (Option.some.inj ho).symm
    refine ⟨fun k x hx => ?_, fun x l e => ?_, ?_⟩
    · exact oldest.le.trans ((min_le_left _ _).trans (least k x hx))
    · exact oldest.le.trans ((min_le_right _ _).trans (Option.some.inj (hb.symm.trans (staged x l e))).le)
    · rcases min_choice a b with hm | hm
      · exact .inl (oldest.trans hm ▸ attained)
      · exact .inr (oldest.trans hm ▸ h.oldestStaged_some.1 hb)
  next a stored none =>
    obtain ⟨attained, least⟩ := h.oldestStored_some stored
    cases ho
    exact ⟨least, fun x l e => absurd ((staged x l e).symm.trans none) nofun, .inl attained⟩
  next stored =>
    refine ⟨fun k x hx => ?_, fun x l e => ?_, .inr (h.oldestStaged_some.1 ho)⟩
    · exact absurd (hx.symm.trans (h.oldestStored_none.1 stored k)) nofun
    · exact (Option.some.inj (ho.symm.trans (staged x l e))).le

end

end Sys2Proof.Machine
end


section
/-! PROOFS. A DECLARE that opens an incident in a FREE slot (R4, R5, R7, R8, R18, R19, R122 to R124). -/

namespace Sys2Proof.Machine

/-! ### The window and its pins -/

theorem Hiu.windowFirst_spec (h : Hiu) (width last : Nat) :
    (∀ o, h.oldest = some o → o ≤ last → h.windowFirst width last = max (last - width) o)
      ∧ (∀ o, h.oldest = some o → last < o → h.windowFirst width last = last)
      ∧ (h.oldest = none → h.windowFirst width last = last) := by
  refine ⟨fun o ho le => ?_, fun o ho lt => ?_, fun none => ?_⟩
  · rw [Hiu.windowFirst, ho]
    exact if_pos le
  · rw [Hiu.windowFirst, ho]
    exact if_neg (not_le.2 lt)
  · rw [Hiu.windowFirst, none]

theorem Hiu.zoneFirst_ring (h : Hiu) (k : RingIdx) : h.zoneFirst (.ring k) = match (h.ring[k]).range with
    | some x => x.1
    | none => ((h.unflushed.head?).map (·.seq)).getD 0 := by
  show (match (h.ring[k]).range with
    | some r => r.1
    | none => h.oldestStaged.getD 0) = _
  split <;> rfl

section
variable {h h' : Hiu} {n : Nat} {done left : List WindowZone}

theorem Hiu.pinsAll.ring (all : h.pinsAll h' n done left) (k : RingIdx) :
    (h'.ring[k]).state = (h.ring[k]).state ∧ (h'.ring[k]).range = (h.ring[k]).range
      ∧ (WindowZone.ring k ∈ done → ∀ x, x ∈ (h'.ring[k]).pins ↔ x = n ∨ x ∈ (h.ring[k]).pins)
      ∧ (WindowZone.ring k ∉ done → (h'.ring[k]).pins = (h.ring[k]).pins) :=
  ⟨(all.zone k).1, (all.zone k).2, all.pinned (.ring k), all.other (.ring k)⟩

theorem Hiu.pinsAll.stop (all : h.pinsAll h' n done left) (z : WindowZone) (l : List WindowZone) (e : left = z :: l) :
    12 ≤ h'.pinCount ∧ (∀ k, z = .ring k → (h'.ring[k]).pins = []) ∧ (z = .deferred → h'.deferred = []) := by
  obtain ⟨full, empty⟩ := all.stopped z l e
  exact ⟨full, fun k same => by subst same; exact empty, fun same => by subst same; exact empty⟩

end

theorem Hiu.pinCut_getD (h : Hiu) (done left : List WindowZone) (reached first : Nat) :
    (h.pinCut done left reached).getD first
      = if left = [] then first else (done.getLast?.map h.zoneFirst).getD reached := by
  unfold Hiu.pinCut
  split <;> rfl

theorem Hiu.pinCut_isSome (h : Hiu) (done left : List WindowZone) (reached : Nat) :
    (h.pinCut done left reached).isSome = true ↔ left ≠ [] := by
  unfold Hiu.pinCut
  split
  next e => simp [e]
  next e => simp [e]

/-- The window of an incident (R123, R124). -/
theorem Dev.pinWindow_spec {d : Dev} {n : Nat} {seq : Option Nat} {last : Nat}
    (hl : seq.getD (d.hiu.nextSeq - 1) = last) (h : last ≠ 0) : ∃ (done left : List WindowZone) (pinned : Hiu),
      d.hiu.windowZones (d.hiu.windowFirst d.sst.working.historyWindow last) last = done ++ left
      ∧ d.hiu.pinsAll pinned n done left
      ∧ d.pinWindow n seq = (({ d with hiu := pinned } : Dev).haltTest,
        ⟨(d.hiu.pinCut done left last).getD (d.hiu.windowFirst d.sst.working.historyWindow last), last,
          seq.isNone || (d.hiu.pinCut done left last).isSome
            || d.hiu.windowSize ((d.hiu.pinCut done left last).getD
              (d.hiu.windowFirst d.sst.working.historyWindow last)) last < d.sst.working.historyWindow + 1⟩) := by
  obtain ⟨done, left, split, all, cut⟩ := Hiu.pinAll_spec n
    (d.hiu.windowZones (d.hiu.windowFirst d.sst.working.historyWindow last) last) d.hiu last
  exact ⟨done, left, _, split, all, Dev.pinWindow_eq hl h rfl rfl (Prod.ext rfl cut)⟩

/-! ### The opening -/

section
variable (d : Dev)

theorem Dev.triggerEvent_seq (t : TriggerRecord) (n : Nat) (x : Disposition) :
    (d.triggerEvent t n x).seq = if d.hiu.canTake then some d.hiu.nextSeq else none := by
  show (d.offerSeq (.trigger n t.cause t.tick t.snapshot x) 0 .internal evTrigger).seq = _
  unfold Dev.offerSeq
  split <;> rfl

/-- The last number of an opening's window. -/
theorem Dev.openingWindow_last (t : TriggerRecord) :
    (d.openingWindow t).last = if d.hiu.canTake then d.hiu.nextSeq else d.hiu.nextSeq - 1 := by
  rw [Dev.openingWindow, Dev.pinWindow_last, Dev.openingLogged, Dev.triggerEvent_seq]
  split
  · rfl
  next lost =>
    have stays : (d.triggerEvent t d.drm.nextIncident .opened).dev.hiu.nextSeq = d.hiu.nextSeq := by
      rw [Dev.triggerEvent_hiu, Dev.offerSeq_lost (Bool.eq_false_iff.2 lost)]
      rfl
    rw [Option.getD_none, stays]

/-- The TRIGGER entry of an opening stands behind the pins. -/
theorem Dev.openingPinned_entry (t : TriggerRecord) (h : d.hiu.canTake = true) :
    (⟨.trigger d.drm.nextIncident t.cause t.tick t.snapshot .opened, 0, .internal, evTrigger, d.hiu.nextSeq, d.tmb.tick⟩
      : HEntry) ∈ (d.openingPinned t).hiu.unflushed := by
  have offered := d.triggerEvent_offers t d.drm.nextIncident .opened
  rw [Dev.offers, if_pos h] at offered
  exact (Dev.pinWindow_flowsTo ..).entries.subset offered

end

/-- What a DECLARE that opens an incident leaves, by the state `d` in which its port waits. -/
theorem Dev.opened_spec {d : Dev} (p : Port) (i : DirSlot) (t : TriggerRecord) {n : Nat} (hn : d.drm.nextIncident = n)
    {seq : Option Nat} (hs : seq = if d.hiu.canTake then some d.hiu.nextSeq else none) {logged : Dev}
    (hl : (d.triggerEvent t n .opened).dev = logged) {pinned : Dev} {w : Window}
    (hw : logged.pinWindow n seq = (pinned, w)) {e : Dev}
    (he : e = ((d.opening i t).reply p .ok 0 (.declared .opened n)).settle) :
    e.pif = (d.reply p .ok 0 (.declared .opened n)).pif
    ∧ w.last = (if d.hiu.canTake then d.hiu.nextSeq else d.hiu.nextSeq - 1)
    ∧ e.drm = { d.drm with
        dir := put d.drm.dir i (some (openRecord n d.drm.epoch t w))
        queue := d.drm.queue ++ [.incidentOpen i.val n d.drm.epoch t w.first w.last w.shortened]
        nextIncident := n + 1
        writer := e.drm.writer }
    ∧ e.hiu = { pinned.hiu with writer := e.hiu.writer }
    ∧ d.openedBy e i t
    ∧ (d.hiu.canTake = true → (⟨.trigger n t.cause t.tick t.snapshot .opened, 0, .internal, 0x0001, d.hiu.nextSeq,
        d.tmb.tick⟩ : HEntry) ∈ e.hiu.unflushed) := by
  subst hn hl he
  have same : d.openingWindow t = w ∧ d.openingPinned t = pinned := by
    have seqs := d.triggerEvent_seq t d.drm.nextIncident .opened
    rw [← hs] at seqs
    unfold Dev.openingWindow Dev.openingPinned Dev.openingLogged
    rw [seqs, hw]
    exact ⟨rfl, rfl⟩
  obtain ⟨window, pins⟩ := same
  have opened := d.opening_openedBy i t p .ok 0 (.declared .opened d.drm.nextIncident)
  have pif : (((d.opening i t).reply p .ok 0 (.declared .opened d.drm.nextIncident)).settle).pif
      = (d.reply p .ok 0 (.declared .opened d.drm.nextIncident)).pif := by
    rw [(Dev.settle_frame _).1]
    exact Dev.reply_congr (d.opening_keepsAllBut i t .pif (by decide)) ..
  generalize ((d.opening i t).reply p .ok 0 (.declared .opened d.drm.nextIncident)).settle = e at opened pif ⊢
  refine ⟨pif, window ▸ d.openingWindow_last t, ?_, ?_, opened, fun can => ?_⟩
  · have drm := opened.drm
    rw [Dev.openingRecord, Dev.openingEntry, window] at drm
    exact drm
  · rw [← pins]
    exact opened.hiu
  · have mem := d.openingPinned_entry t can
    have unflushed : e.hiu.unflushed = (d.openingPinned t).hiu.unflushed := by
      rw [opened.hiu]
      rfl
    rw [unflushed]
    exact mem

theorem exec_declare_slot {s : State} {p : Port} {tag : Byte} {b : List Byte} {i : DirSlot}
    (reaches : s.reaches p .declare b) (off : s.dev.drm.at? s.dev.ict.recording = none) (ho : s.dev.ict.opening = none)
    (number : s.dev.drm.nextIncident ≤ 4294967295) (free : s.dev.drm.freeSlot = some i)
    (empty : s.dev.drm.captureWaiters = []) (room : s.dev.drm.queue.length < 80) {d : Dev}
    (hd : d = { s.dev with pif := s.dev.waitsFor p b 0x05 tag }) :
    exec (.declare p tag b) s = .next { s with dev :=
      ((d.opening i (s.dev.declaration p)).reply p .ok 0 (.declared .opened s.dev.drm.nextIncident)).settle } := by
  have way := Dev.openingWay_slot number free
  have places : s.dev.drm.capRoom s.dev.openingWay.places = true := by
    rw [way]
    exact Drm.capRoom_iff.2 ⟨empty, room⟩
  have next : d.drm.nextIncident = s.dev.drm.nextIncident := by rw [hd]
  rw [exec_declare_opens reaches off ho places, way, ← hd]
  show Host.Outcome.next { s with dev := (d.openIncident i (s.dev.declaration p) (some p)).settle } = _
  rw [Dev.openIncident_eq, next]
  rfl

/-- The obligation's first part: a DECLARE that opens in a FREE slot. -/
theorem declare_opens (p : Port) (tag : Byte) (b : List Byte) (s : State) (i : DirSlot)
    (reaches : s.reaches p .declare b) (off : s.dev.drm.at? s.dev.ict.recording = none) (ho : s.dev.ict.opening = none)
    (number : s.dev.drm.nextIncident ≤ 4294967295) (free : s.dev.drm.freeSlot = some i)
    (empty : s.dev.drm.captureWaiters = []) (room : s.dev.drm.queue.length < 80) {d : Dev}
    (hd : d = { s.dev with pif := s.dev.waitsFor p b 0x05 tag }) {n : Nat} (hn : s.dev.drm.nextIncident = n)
    {t : TriggerRecord} (ht : s.dev.declaration p = t) {seq : Option Nat}
    (hs : seq = if s.dev.hiu.canTake then some s.dev.hiu.nextSeq else none) {pinned : Dev} {w : Window}
    (hw : (d.triggerEvent t n .opened).dev.pinWindow n seq = (pinned, w)) :
    ∃ e : Dev, exec (.declare p tag b) s = .next { s with dev := e }
      ∧ e.pif = s.dev.answers p b (Request.declare.says tag .ok 0 (.declared .opened n))
      ∧ w.last = (if s.dev.hiu.canTake then s.dev.hiu.nextSeq else s.dev.hiu.nextSeq - 1)
      ∧ e.drm = { s.dev.drm with
           dir := put s.dev.drm.dir i (some
             { state := .recording, number := n, epoch := s.dev.drm.epoch, primary := t, secondary := [], overflow := 0
               streams := [], windowFirst := w.first, windowLast := w.last, shortened := w.shortened
               completeness := none, held := false, retrieved := false })
           queue := s.dev.drm.queue ++ [.incidentOpen i.val n s.dev.drm.epoch t w.first w.last w.shortened]
           nextIncident := n + 1
           writer := e.drm.writer }
      ∧ e.hiu = { pinned.hiu with writer := e.hiu.writer }
      ∧ e.ict = { s.dev.ict with
          recording := some i, windowExpired := false
          attn := #v[s.dev.holds .s0 .capture, s.dev.holds .s1 .capture, s.dev.holds .s2 .capture,
            s.dev.holds .s3 .capture] }
      ∧ e.tmb = { s.dev.tmb with deadlines := { s.dev.tmb.deadlines with
          window := some (s.dev.tmb.tick + BitVec.ofNat 48 (s.dev.sst.working.window * 1000))
          limit := some (s.dev.tmb.tick + BitVec.ofNat 48 (s.dev.sst.working.limit * 1000))
          flush := e.tmb.deadlines.flush } }
      ∧ (s.dev.hiu.canTake = true →
          (⟨.trigger n (.declared p) t.tick t.snapshot .opened, 0, .internal, 0x0001, s.dev.hiu.nextSeq, t.tick⟩
            : HEntry) ∈ e.hiu.unflushed)
      ∧ e.notes .incidentOpened (BitVec.ofNat 32 n)
      ∧ s.dev.keepsAllBut [.pif, .ict, .arc, .drm, .hiu, .tmb, .ntu] e := by
  have ran := exec_declare_slot (tag := tag) reaches off ho number free empty room hd
  rw [ht, hn] at ran
  have answered := s.dev.declare_answered p tag b (.declared .opened n)
  have cause : t.cause = .declared p ∧ t.tick = s.dev.tmb.tick := by rw [← ht]; exact ⟨rfl, rfl⟩
  have blocks : d.hiu = s.dev.hiu ∧ d.drm = s.dev.drm ∧ d.ict = s.dev.ict ∧ d.tmb = s.dev.tmb ∧ d.sst = s.dev.sst
      ∧ d.rqd = s.dev.rqd := by rw [hd]; exact ⟨rfl, rfl, rfl, rfl, rfl, rfl⟩
  have taken : s.dev.keepsAllBut [.pif, .ict, .arc, .drm, .hiu, .tmb, .ntu] d := by
    rw [hd]
    exact fun c hc => by cases c <;> first | rfl | simp at hc
  rw [← hd] at answered
  obtain ⟨hiu, drm, ict, tmb, sst, rqd⟩ := blocks
  obtain ⟨pif, last, filed, history, opened, entry⟩ := Dev.opened_spec (d := d) p i t (n := n) (by rw [drm, hn])
    (seq := seq) (by rw [hs, hiu]) rfl hw rfl
  generalize ((d.opening i t).reply p .ok 0 (.declared .opened n)).settle = e at ran pif filed history opened entry
  have moved := opened.ict
  have timed := opened.tmb
  simp only [ict, Dev.holds, rqd] at moved
  rw [tmb, sst] at timed
  rw [drm] at filed
  rw [hiu] at last entry
  refine ⟨e, ran, ?_, last, filed, history, moved, timed, fun can => ?_, ?_, taken.trans opened.keeps⟩
  · rw [pif, answered]
  · have mem := entry can
    rw [cause.1, tmb, ← cause.2] at mem
    exact mem
  · have notes := opened.notes
    rw [drm, hn] at notes
    exact notes

/-- Settles O31: the opening, the window that `Dev.pinWindow` makes, and what the window counts. -/
theorem declareOpensAnIncident : Obligations.DeclareOpensAnIncident := by
  refine ⟨fun p tag b s i reaches off ho number free empty room => ?_, fun d n seq => ?_, fun h first last => ?_⟩
  · intro n t logged seq pinned w
    exact declare_opens p tag b s i reaches off ho number free empty room rfl rfl rfl rfl (Prod.ext rfl rfl)
  · intro h last width e w
    refine ⟨fun zero => ?_, fun some => ?_⟩
    · have empty := Dev.pinWindow_empty (d := d) (n := n) (seq := seq) zero
      exact ⟨congrArg Prod.fst empty, congrArg Prod.snd empty⟩
    · obtain ⟨done, left, pinned, split, all, made⟩ := Dev.pinWindow_spec (d := d) (n := n) (seq := seq) rfl some
      obtain ⟨reached, beyond, none⟩ := d.hiu.windowFirst_spec width last
      refine ⟨_, done, left, pinned, reached, beyond, none, split, congrArg Prod.fst made, all.rest, all.ring,
        all.pinned .deferred, all.other .deferred, all.limit, all.stop, ?_, ?_, ?_⟩
      · exact congrArg (fun x => x.2.last) made
      · exact (congrArg (fun x => x.2.first) made).trans (Hiu.pinCut_getD ..)
      · have first : w.first = _ := congrArg (fun x => x.2.first) made
        have shortened : w.shortened = _ := congrArg (fun x => x.2.shortened) made
        dsimp only at first shortened
        rw [first, shortened, Bool.or_eq_true, Bool.or_eq_true, Option.isNone_iff_eq_none, Hiu.pinCut_isSome,
          decide_eq_true_eq, or_assoc]
  · intro unwritten
    refine ⟨h.windowSize_eq first last, fun k => Hiu.ring_mem_windowZones k, Hiu.deferred_mem_windowZones,
      Hiu.windowZones_order, h.oldest_none, fun o ho => h.oldest_some ho, fun k => h.zoneFirst_ring k⟩

end Sys2Proof.Machine
end


section
/-! PROOFS. A page of the history ring read back, entry by entry (R186, R197, Tables 13.11 and 13.12). -/

namespace Sys2Proof.Machine

/-! ### The entry at the head of some bytes -/

/-- The fields of an entry fit its layout. -/
def HEntry.fits (e : HEntry) : Prop := e.severity < 8 ∧ e.code < 65536 ∧ fits32 e.seq

/-- An entry before its CRC. -/
def HEntry.head (e : HEntry) : List Byte :=
  leBytes 1 (HBody.format e.body + 8 * e.severity) ++ leBytes 1 (Source.code e.source + 8 * (HBody.size e.body / 8))
    ++ leBytes 2 e.code ++ leBytes 4 e.seq ++ leBytes 6 e.tick.toNat ++ HBody.bytes e.body

section
variable (e : HEntry) (more : List Byte)

theorem HEntry.bytes_eq : e.bytes = e.head ++ crcBytes e.head := rfl

theorem HBody.length_bytes (x : HBody) : (HBody.bytes x).length + 16 = HBody.size x := by
  cases x <;> simp [HBody.bytes, HBody.size]

theorem HBody.size_mem (x : HBody) : HBody.size x = 16 ∨ HBody.size x = 24 ∨ HBody.size x = 32 ∨ HBody.size x = 40 := by
  cases x <;> simp [HBody.size]

theorem HEntry.length_head : e.head.length + 2 = e.size := by
  have body := HBody.length_bytes e.body
  simp [HEntry.head, HEntry.size]
  omega

theorem HEntry.length_bytes : e.bytes.length = e.size := by
  rw [HEntry.bytes_eq, List.length_append, length_crcBytes, e.length_head]

theorem HEntry.le_size : 16 ≤ e.size := by
  rcases HBody.size_mem e.body with h | h | h | h <;> rw [HEntry.size, h] <;> decide

theorem HEntry.entryLength_bytes : entryLength (e.bytes ++ more) = e.size := by
  have source := Source.code_lt e.source
  have second : byte (e.bytes ++ more) 1 = (Source.code e.source + 8 * (HBody.size e.body / 8)) % 256 := by
    simp [HEntry.bytes_eq, HEntry.head, List.append_assoc]
  rw [entryLength, second, HEntry.size]
  rcases HBody.size_mem e.body with h | h | h | h <;> rw [h] <;> omega

theorem HEntry.seq_bytes (h : e.fits) : field (e.bytes ++ more) 4 4 = e.seq := by
  obtain ⟨-, -, small⟩ := h
  have number : field (e.bytes ++ more) 4 4 = e.seq % 256 ^ 4 := by
    simp [HEntry.bytes_eq, HEntry.head, List.append_assoc]
  exact number.trans (Nat.mod_eq_of_lt (by simpa [fits32] using small))

theorem HBody.format_lt (x : HBody) : HBody.format x < 7 := by cases x <;> simp [HBody.format]

theorem HEntry.first_bytes (h : e.fits) : (e.bytes ++ more).getD 0 erasedByte ≠ erasedByte := by
  have format := HBody.format_lt e.body
  have first : (e.bytes ++ more).getD 0 erasedByte = BitVec.ofNat 8 (HBody.format e.body + 8 * e.severity) := by
    simp [HEntry.bytes_eq, HEntry.head, leBytes]
  rw [first]
  intro same
  have value := congrArg BitVec.toNat same
  have severity := h.1
  rw [BitVec.toNat_ofNat, Nat.mod_eq_of_lt (by omega)] at value
  have erased : erasedByte.toNat = 255 := rfl
  omega

theorem HEntry.lengthFits_bytes : lengthFits (e.bytes ++ more) = true := by
  unfold lengthFits
  rw [e.entryLength_bytes, List.length_append, e.length_bytes]
  rcases HBody.size_mem e.body with h | h | h | h <;> simp [HEntry.size, h]

theorem HEntry.entryGood_bytes : entryGood (e.bytes ++ more) = true := by
  have start : e.size - 2 = e.head.length := by rw [← e.length_head, Nat.add_sub_cancel]
  have whole : e.bytes ++ more = e.head ++ (crcBytes e.head ++ more) := by rw [HEntry.bytes_eq, List.append_assoc]
  unfold entryGood
  rw [e.lengthFits_bytes, e.entryLength_bytes, start, whole, slice_append, List.take_left,
    List.take_left' (length_crcBytes _)]
  simp

theorem HEntry.take_bytes : (e.bytes ++ more).take e.size = e.bytes := List.take_left' e.length_bytes

theorem HEntry.drop_bytes : (e.bytes ++ more).drop e.size = more := List.drop_left' e.length_bytes

end

/-- Bytes with a length in range that begin no erased place and whose CRC does not match (R186). -/
def damagedEntry (b : List Byte) : Prop :=
  b.length ∈ [16, 24, 32, 40] ∧ b.getD 0 0xFF ≠ 0xFF ∧ entryLength b = b.length
    ∧ slice b (b.length - 2) 2 ≠ crcBytes (b.take (b.length - 2))

section
variable {b : List Byte} (h : damagedEntry b) (more : List Byte)
include h

theorem damagedEntry.length_mem : b.length = 16 ∨ b.length = 24 ∨ b.length = 32 ∨ b.length = 40 := by
  simpa using h.1

theorem damagedEntry.pos : 16 ≤ b.length := by
  rcases h.length_mem with h | h | h | h <;> omega

theorem damagedEntry.first : (b ++ more).getD 0 erasedByte ≠ erasedByte := by
  have pos := h.pos
  rw [List.getD_append _ _ _ _ (by omega)]
  exact h.2.1

theorem damagedEntry.entryLength : entryLength (b ++ more) = b.length := by
  have pos := h.pos
  have second : byte (b ++ more) 1 = byte b 1 := by
    unfold byte
    rw [List.getD_append _ _ _ _ (by omega)]
  rw [Machine.entryLength, second]
  exact h.2.2.1

theorem damagedEntry.lengthFits : lengthFits (b ++ more) = true := by
  unfold Machine.lengthFits
  rw [h.entryLength, List.length_append]
  rcases h.length_mem with h | h | h | h <;> simp [h]

theorem damagedEntry.not_good : entryGood (b ++ more) = false := by
  have pos := h.pos
  have tail : slice (b ++ more) (b.length - 2) 2 = slice b (b.length - 2) 2 := by
    unfold slice
    rw [List.drop_append_of_le_length (by omega), List.take_append_of_le_length (by simp; omega)]
  unfold entryGood
  rw [h.lengthFits, h.entryLength, tail, List.take_append_of_le_length (by omega)]
  simpa using h.2.2.2

end

/-! ### One round of the walk -/

section
variable (limit fuel : Nat) (h : HistoryRead)

theorem walkPage_rest {rest : List Byte} (erased : rest.getD 0 erasedByte = erasedByte) :
    walkPage limit fuel h rest = ⟨h, false⟩ := by
  cases fuel with
  | zero => rfl
  | succ n => exact if_pos erased

theorem walkPage_damaged {b : List Byte} (bad : damagedEntry b) (more : List Byte) :
    walkPage limit (fuel + 1) h (b ++ more) = walkPage limit fuel h.omit more := by
  rw [walkPage, if_neg (bad.first more), if_neg (by simp [bad.not_good more]), if_pos (bad.lengthFits more),
    bad.entryLength, List.drop_left]

theorem walkPage_broken {rest : List Byte} (first : rest.getD 0 erasedByte ≠ erasedByte) (off : lengthFits rest = false) :
    walkPage limit (fuel + 1) h rest = ⟨h.omit, false⟩ := by
  have notGood : entryGood rest = false := by simp [entryGood, off]
  rw [walkPage, if_neg first, if_neg (by simp [notGood]), if_neg (by simp [off])]

variable {limit} {e : HEntry} (good : e.fits) (more : List Byte)
include good

theorem walkPage_passes (out : ¬(h.wanted ≤ e.seq ∧ e.seq ≤ limit)) :
    walkPage limit (fuel + 1) h (e.bytes ++ more) = walkPage limit fuel h more := by
  have out' : e.seq < h.wanted ∨ limit < e.seq := by omega
  rw [walkPage, if_neg (e.first_bytes more good), if_pos (e.entryGood_bytes more)]
  dsimp only
  rw [e.seq_bytes more good, if_pos out', e.entryLength_bytes, e.drop_bytes]

theorem walkPage_takes (inside : h.wanted ≤ e.seq ∧ e.seq ≤ limit) :
    walkPage limit (fuel + 1) h (e.bytes ++ more) =
      if h.entries.length + e.size ≤ 512 then
        if (h.add e.seq e.bytes).isFull then ⟨h.add e.seq e.bytes, true⟩
        else walkPage limit fuel (h.add e.seq e.bytes) more
      else ⟨h, true⟩ := by
  have inside' : ¬(e.seq < h.wanted ∨ limit < e.seq) := by omega
  rw [walkPage, if_neg (e.first_bytes more good), if_pos (e.entryGood_bytes more)]
  dsimp only
  rw [e.seq_bytes more good, if_neg inside', e.entryLength_bytes, e.drop_bytes, e.take_bytes]

end

end Sys2Proof.Machine
end


section
/-! PROOFS. The walk of a page of entries and damaged entries (R186). -/

namespace Sys2Proof.Machine

/-- An entry, or the bytes of a damaged one. -/
abbrev PageItem := HEntry ⊕ List Byte

/-- The bytes of an item of a page. -/
def PageItem.bytes (x : PageItem) : List Byte := x.elim HEntry.bytes id

/-- A good entry whose fields fit, or a damaged one. -/
def PageItem.sound : PageItem → Prop
  | .inl e => e.fits
  | .inr b => damagedEntry b

/-- The lowest number wanted behind some entries that a walk has taken. -/
def HistoryRead.wantedBehind (h : HistoryRead) (l : List HEntry) : Nat := (l.getLast?.map (·.seq + 1)).getD h.wanted

/-- The entries taken, with one more looked at (R186). -/
def HistoryRead.pick (h : HistoryRead) (limit : Nat) (l : List HEntry) (e : HEntry) : List HEntry :=
  if h.wantedBehind l ≤ e.seq ∧ e.seq ≤ limit then l ++ [e] else l

/-- The walk's read behind one item that does not fill the reply. -/
def HistoryRead.look (limit : Nat) (g : HistoryRead) : PageItem → HistoryRead
  | .inl e => if g.wanted ≤ e.seq ∧ e.seq ≤ limit then g.add e.seq e.bytes else g
  | .inr _ => g.omit

/-- The walk's read `g` has taken the entries `l` behind those of `h`, and omitted `k` more. -/
structure HistoryRead.gathers (h g : HistoryRead) (l : List HEntry) (k : Nat) : Prop where
  entries : g.entries = h.entries ++ l.flatMap HEntry.bytes
  omitted : g.omitted = h.omitted + k
  first : g.firstSeq = h.firstSeq.or (l.head?.map (·.seq))
  last : g.lastSeq = (l.getLast?.map (·.seq)).or h.lastSeq
  found : ∃ new, g = { h with found := h.found ++ new } ∧ ∀ x ∈ new, x.zone = h.zone ∧ x.zoneFirst = h.zoneFirst

section
variable {h g : HistoryRead} {l : List HEntry} {k : Nat}

theorem HistoryRead.gathers_rfl (h : HistoryRead) : h.gathers h [] 0 :=
  ⟨by simp, by simp, by simp, by simp, [], by simp, by simp⟩

theorem HistoryRead.gathers.wanted (c : h.gathers g l k) : g.wanted = h.wantedBehind l := by
  obtain ⟨new, same, -⟩ := c.found
  have start : g.start = h.start := by rw [same]
  unfold HistoryRead.wantedBehind HistoryRead.wanted
  rw [c.last, start]
  cases l.getLast? <;> rfl

/-- Something met in the zone that is read. -/
theorem HistoryRead.gathers.meets (c : h.gathers g l k) (seq : Option Nat) (bs : List Byte) :
    ∃ new, g.meets seq bs = { h with found := h.found ++ new }
      ∧ ∀ x ∈ new, x.zone = h.zone ∧ x.zoneFirst = h.zoneFirst := by
  obtain ⟨new, same, zone⟩ := c.found
  refine ⟨new ++ [⟨h.zone, h.zoneFirst, seq, bs⟩], ?_, fun x mem => ?_⟩
  · rw [same, HistoryRead.meets, List.append_assoc]
  · rcases List.mem_append.1 mem with mem | mem
    · exact zone x mem
    · rw [List.mem_singleton.1 mem]
      exact ⟨rfl, rfl⟩

theorem HistoryRead.gathers.add (c : h.gathers g l k) (e : HEntry) :
    h.gathers (g.add e.seq e.bytes) (l ++ [e]) k := by
  obtain ⟨entries, omitted, first, last, -, -, -⟩ := g.add_reply e.seq e.bytes
  refine ⟨?_, omitted.trans c.omitted, ?_, ?_, c.meets _ _⟩
  · rw [entries, c.entries, List.append_assoc, List.flatMap_append, List.flatMap_singleton]
  · rw [first, c.first]
    cases l <;> cases h.firstSeq <;> rfl
  · rw [last, List.getLast?_append]
    rfl

theorem HistoryRead.gathers.omit (c : h.gathers g l k) : h.gathers g.omit l (k + 1) := by
  obtain ⟨entries, omitted, first, last, -, -, -⟩ := g.omit_reply
  exact ⟨entries.trans c.entries, by rw [omitted, c.omitted, Nat.add_assoc], first.trans c.first, last.trans c.last,
    c.meets _ _⟩

theorem HistoryRead.gathers.look (c : h.gathers g l k) (limit : Nat) (x : PageItem) : h.gathers (g.look limit x)
    ((x.getLeft?.map (h.pick limit l)).getD l) (k + (x.getRight?.elim 0 fun _ => 1)) := by
  cases x with
  | inl e =>
    simp only [HistoryRead.look, Sum.getLeft?_inl, Sum.getRight?_inl, Option.map_some, Option.getD_some,
      HistoryRead.pick, Option.elim_none, Nat.add_zero, c.wanted]
    split
    · exact c.add e
    · exact c
  | inr b => exact c.omit

theorem HistoryRead.gathers.looks (c : h.gathers g l k) (limit : Nat) (items : List PageItem) :
    h.gathers (items.foldl (HistoryRead.look limit) g) ((items.filterMap Sum.getLeft?).foldl (h.pick limit) l)
      (k + (items.filterMap Sum.getRight?).length) := by
  induction items generalizing g l k with
  | nil => exact c
  | cons x items ih =>
    have next := ih (c.look limit x)
    cases x with
    | inl e => exact next
    | inr b =>
      have count : k + 1 + (items.filterMap Sum.getRight?).length
          = k + ((Sum.inr b :: items : List PageItem).filterMap Sum.getRight?).length := by
        rw [show (Sum.inr b :: items : List PageItem).filterMap Sum.getRight? = b :: items.filterMap Sum.getRight? from rfl,
          List.length_cons]
        omega
      rw [← count]
      exact next

theorem HistoryRead.gathers.length (c : h.gathers g l k) : g.entries.length = h.entries.length + entriesSize l := by
  have size : (l.flatMap HEntry.bytes).length = entriesSize l := by
    rw [List.length_flatMap, entriesSize]
    exact congrArg List.sum (List.map_congr_left fun e _ => e.length_bytes)
  rw [c.entries, List.length_append, size]

end

section
variable {limit : Nat} {g : HistoryRead} {e : HEntry}

theorem HistoryRead.look_takes (inside : g.wanted ≤ e.seq ∧ e.seq ≤ limit) :
    g.look limit (.inl e) = g.add e.seq e.bytes := if_pos inside

theorem HistoryRead.look_passes (out : ¬(g.wanted ≤ e.seq ∧ e.seq ≤ limit)) : g.look limit (.inl e) = g := if_neg out

end

/-- The bytes gathered do not become fewer. -/
theorem HistoryRead.look_le (limit : Nat) (g : HistoryRead) (x : PageItem) :
    g.entries.length ≤ (g.look limit x).entries.length := by
  cases x with
  | inl e =>
    by_cases inside : g.wanted ≤ e.seq ∧ e.seq ≤ limit
    · rw [HistoryRead.look_takes inside, (g.add_reply e.seq e.bytes).1, List.length_append]
      exact Nat.le_add_right _ _
    · rw [HistoryRead.look_passes inside]
  | inr b => exact (congrArg List.length g.omit_reply.1).ge

theorem HistoryRead.looks_le (limit : Nat) (items : List PageItem) (g : HistoryRead) :
    g.entries.length ≤ (items.foldl (HistoryRead.look limit) g).entries.length := by
  induction items generalizing g with
  | nil => exact le_rfl
  | cons x items ih => exact (g.look_le limit x).trans (ih _)

/-- The walk of items that leave room for one entry more. -/
theorem walkPage_items (limit : Nat) (items : List PageItem) (fuel : Nat) (g : HistoryRead) (rest : List Byte)
    (sound : ∀ x ∈ items, x.sound) (room : (items.foldl (HistoryRead.look limit) g).entries.length + 16 ≤ 512) :
    walkPage limit (items.length + fuel) g (items.flatMap PageItem.bytes ++ rest)
      = walkPage limit fuel (items.foldl (HistoryRead.look limit) g) rest := by
  induction items generalizing g with
  | nil => simp
  | cons x items ih =>
    obtain ⟨first, others⟩ := List.forall_mem_cons.1 sound
    have next := ih (g.look limit x) others room
    have step : walkPage limit (items.length + fuel + 1) g (x.bytes ++ (items.flatMap PageItem.bytes ++ rest))
        = walkPage limit (items.length + fuel) (g.look limit x) (items.flatMap PageItem.bytes ++ rest) := by
      cases x with
      | inr b => exact walkPage_damaged limit _ g first _
      | inl e =>
        have le := HistoryRead.looks_le limit items (g.look limit (.inl e))
        have room' : (items.foldl (HistoryRead.look limit) (g.look limit (.inl e))).entries.length + 16 ≤ 512 := room
        by_cases inside : g.wanted ≤ e.seq ∧ e.seq ≤ limit
        · rw [HistoryRead.look_takes inside] at le room' ⊢
          have bytes : (g.add e.seq e.bytes).entries.length = g.entries.length + e.size := by
            rw [(g.add_reply e.seq e.bytes).1, List.length_append, e.length_bytes]
          have notFull : (g.add e.seq e.bytes).isFull = false := by
            rw [← Bool.not_eq_true, HistoryRead.isFull_iff]
            omega
          exact (walkPage_takes _ g first _ inside).trans
            ((if_pos (by omega)).trans (if_neg (by simp [notFull])))
        · rw [HistoryRead.look_passes inside]
          exact walkPage_passes _ g first _ inside
    rw [List.length_cons, List.flatMap_cons, List.append_assoc, List.foldl_cons, Nat.succ_add]
    exact step.trans next

theorem PageItem.le_length {x : PageItem} (sound : x.sound) : 16 ≤ x.bytes.length := by
  cases x with
  | inl e => exact e.le_size.trans e.length_bytes.ge
  | inr b => exact damagedEntry.pos sound

theorem PageItem.length_le {items : List PageItem} (sound : ∀ x ∈ items, x.sound) :
    16 * items.length ≤ (items.flatMap PageItem.bytes).length := by
  induction items with
  | nil => simp
  | cons x items ih =>
    obtain ⟨first, others⟩ := List.forall_mem_cons.1 sound
    have one := PageItem.le_length first
    have rest := ih others
    rw [List.flatMap_cons, List.length_append, List.length_cons]
    omega

end Sys2Proof.Machine
end


section
/-! PROOFS. The obligation about pages of the history ring (R186, R197). -/

namespace Sys2Proof.Machine

theorem erased_first {rest : List Byte} (h : ∀ b ∈ rest, b = 0xFF) : rest.getD 0 erasedByte = erasedByte := by
  cases rest with
  | nil => rfl
  | cons b l => exact h b List.mem_cons_self

/-- A page of entries that are all wanted. -/
theorem walkPage_entries (limit : Nat) (l : List HEntry) (fuel : Nat) (h : HistoryRead) (rest : List Byte)
    (enough : l.length ≤ fuel) (good : ∀ e ∈ l, e.fits ∧ h.wanted ≤ e.seq ∧ e.seq ≤ limit)
    (rises : (l.map (·.seq)).Pairwise (· < ·)) (room : h.entries.length + entriesSize l ≤ 512)
    (erased : ∀ b ∈ rest, b = 0xFF) :
    ((walkPage limit fuel h (l.flatMap HEntry.bytes ++ rest)).full = true
        ↔ l ≠ [] ∧ 512 < h.entries.length + entriesSize l + 16)
      ∧ (walkPage limit fuel h (l.flatMap HEntry.bytes ++ rest)).read.entries = h.entries ++ l.flatMap HEntry.bytes
      ∧ (walkPage limit fuel h (l.flatMap HEntry.bytes ++ rest)).read.omitted = h.omitted := by
  induction l generalizing fuel h with
  | nil =>
    rw [List.flatMap_nil, List.nil_append, walkPage_rest limit fuel h (erased_first erased)]
    simp
  | cons e l ih =>
    obtain ⟨⟨fits, inside⟩, others⟩ := List.forall_mem_cons.1 good
    obtain ⟨above, rises'⟩ := List.pairwise_cons.1 (show (e.seq :: l.map (·.seq)).Pairwise (· < ·) from rises)
    have sum : entriesSize (e :: l) = e.size + entriesSize l := by simp [entriesSize]
    obtain ⟨entries, omitted, -, -, wanted, -, -⟩ := h.add_reply e.seq e.bytes
    have length : (h.add e.seq e.bytes).entries.length = h.entries.length + e.size := by
      rw [entries, List.length_append, e.length_bytes]
    rw [sum] at room ⊢
    cases fuel with
    | zero => exact absurd enough (Nat.not_succ_le_zero _)
    | succ fuel =>
      rw [List.flatMap_cons, List.append_assoc, walkPage_takes _ h fits _ inside, if_pos (by omega)]
      have filled := (h.add e.seq e.bytes).isFull_iff
      rw [length] at filled
      by_cases full : (h.add e.seq e.bytes).isFull = true
      · have last : l = [] := by
          cases l with
          | nil => rfl
          | cons x l =>
            have more : entriesSize (x :: l) = x.size + entriesSize l := by simp [entriesSize]
            have le := x.le_size
            have beyond := filled.1 full
            omega
        subst last
        have beyond := filled.1 full
        rw [if_pos full]
        refine ⟨iff_of_true rfl ⟨by simp, by omega⟩, ?_, omitted⟩
        simp [entries]
      · rw [if_neg full]
        have next := ih fuel (h.add e.seq e.bytes) (by simpa using enough) (fun x mem => ?_) rises' (by omega)
        · obtain ⟨ends, gathered, lost⟩ := next
          refine ⟨ends.trans ?_, gathered.trans ?_, lost.trans omitted⟩
          · have under : ¬512 < h.entries.length + e.size + 16 := fun beyond => full (filled.2 beyond)
            cases l with
            | nil => simpa [entriesSize] using under
            | cons x l => simp [e.length_bytes, Nat.add_assoc]
          · rw [entries, List.append_assoc]
        · obtain ⟨xfits, -, le⟩ := others x mem
          exact ⟨xfits, by rw [wanted]; exact above _ (List.mem_map_of_mem mem), le⟩

theorem entriesSize_ge (l : List HEntry) : 16 * l.length ≤ entriesSize l := by
  induction l with
  | nil => simp
  | cons e l ih =>
    have le := e.le_size
    have sum : entriesSize (e :: l) = e.size + entriesSize l := by simp [entriesSize]
    rw [sum, List.length_cons]
    omega

/-- How a walk that has gathered some entries stands. -/
theorem HistoryRead.gathers.ends {h g : HistoryRead} {l : List HEntry} {k : Nat} (c : h.gathers g l k) {w : PageWalk}
    {full : Bool} (hw : w = ⟨g, full⟩) :
    w.full = full ∧ w.read.entries = h.entries ++ l.flatMap HEntry.bytes ∧ w.read.omitted = h.omitted + k
      ∧ w.read.firstSeq = h.firstSeq.or (l.head?.map (·.seq))
      ∧ w.read.lastSeq = (l.getLast?.map (·.seq)).or h.lastSeq
      ∧ ∃ new, w.read = { h with found := h.found ++ new }
        ∧ ∀ x ∈ new, x.zone = h.zone ∧ x.zoneFirst = h.zoneFirst := by
  subst hw
  exact ⟨rfl, c.entries, c.omitted, c.first, c.last, c.found⟩

theorem lengthFits_iff (b : List Byte) : lengthFits b = true ↔ entryLength b ∈ [16, 24, 32, 40] ∧ entryLength b ≤ b.length := by
  simp [lengthFits, or_assoc]

/-- Settles O14: by the rounds of the walk, along the items of the page. -/
theorem historyPagesReadBack : Obligations.HistoryPagesReadBack := by
  constructor
  · intro l limit h rest good rises room erased
    have few := entriesSize_ge l
    exact walkPage_entries limit l 64 h rest (by omega)
      (fun e mem => ⟨⟨(good e mem).1, (good e mem).2.1, (good e mem).2.2.1⟩, (good e mem).2.2.2⟩) rises room erased
  · intro items limit h rest length bytes good damaged wanted taken used page ends lost goods bads small room
    have sound : ∀ x ∈ items, PageItem.sound x := fun x mem => by
      cases x with
      | inl e => exact goods e mem
      | inr b => exact bads b mem
    have c : h.gathers (items.foldl (HistoryRead.look limit) h) taken lost := by
      have looked := h.gathers_rfl.looks limit items
      rw [Nat.zero_add] at looked
      exact looked
    generalize hg : items.foldl (HistoryRead.look limit) h = g at c
    have gathered : g.entries.length = used := c.length
    have whole : page.length = (items.flatMap PageItem.bytes).length + rest.length := List.length_append
    have few := PageItem.length_le sound
    have walked (fuel : Nat) (enough : items.length + fuel = 64) :
        walkPage limit 64 h page = walkPage limit fuel g rest := by
      have go := walkPage_items limit items fuel h rest sound (by rw [hg]; omega)
      rw [enough, hg] at go
      exact go
    have behind (some : 0 < rest.length) : walkPage limit 64 h page
        = walkPage limit (63 - items.length + 1) g rest := walked _ (by omega)
    refine ⟨fun erased => ?_, fun first off => ?_, fun e more he fits above le => ?_⟩
    · exact c.ends ((walked (64 - items.length) (by omega)).trans (walkPage_rest limit _ g (erased_first erased)))
    · have some : 0 < rest.length := by
        cases rest with
        | nil => exact absurd rfl first
        | cons b l => exact Nat.succ_pos _
      have broken : lengthFits rest = false := by
        rw [← Bool.not_eq_true, lengthFits_iff]
        exact off
      exact c.omit.ends ((behind some).trans (walkPage_broken limit _ g first broken))
    · have inside : g.wanted ≤ e.seq ∧ e.seq ≤ limit := ⟨by rw [c.wanted]; exact above, le⟩
      have size := e.le_size
      have some : 0 < rest.length := by
        rw [he, List.length_append, e.length_bytes]
        omega
      have step := behind some
      rw [he, walkPage_takes _ g fits more inside, gathered] at step
      have length' : (g.add e.seq e.bytes).entries.length = used + e.size := by
        rw [(g.add_reply e.seq e.bytes).1, List.length_append, e.length_bytes, gathered]
      refine ⟨fun beyond => ?_, fun fit full => ?_⟩
      · exact c.ends (step.trans (if_neg (by omega)))
      · have filled : (g.add e.seq e.bytes).isFull = true := by
          rw [HistoryRead.isFull_iff, length']
          exact full
        exact (c.add e).ends (step.trans ((if_pos fit).trans (if_pos filled)))

end Sys2Proof.Machine
end


section
/-! PROOFS. Where the bytes of an APPEND go (R31 to R33, R37). -/

namespace Sys2Proof.Machine

/-- The slot `i` holds `y` and the staging memory is `stb`; nothing else is changed. -/
structure Dev.stagesTo (d e : Dev) (i : StreamIdx) (y : StreamBody) (stb : Stb) : Prop where
  rest : e = { d with cpm := e.cpm, stb := stb }
  slot : e.body i = some y
  others : ∀ j, j ≠ i → e.body j = d.body j
  gen : ∀ j : StreamIdx, (e.cpm.slots[j]).gen = (d.cpm.slots[j]).gen

section
variable {d e f : Dev} {i : StreamIdx} {x y z : StreamBody} {s t : Stb}

theorem Dev.stagesTo.trans (h : d.stagesTo e i y s) (g : e.stagesTo f i z t) : d.stagesTo f i z t := by
  refine ⟨?_, g.slot, fun j ne => (g.others j ne).trans (h.others j ne), fun j => (g.gen j).trans (h.gen j)⟩
  have last := g.rest
  rw [h.rest] at last
  exact last

theorem Dev.stagesTo.stb (h : d.stagesTo e i y s) : e.stb = s := by rw [h.rest]

theorem Dev.modBody_gen (d : Dev) (i : StreamIdx) (g : StreamBody → StreamBody) (j : StreamIdx) :
    ((d.modBody i g).cpm.slots[j]).gen = (d.cpm.slots[j]).gen := by
  unfold Dev.modBody
  show ((modify d.cpm.slots i _)[j]).gen = _
  rw [get_modify]
  split
  next same => subst same; rfl
  · rfl

theorem Dev.modBody_stagesTo (taken : d.body i = some x) (g : StreamBody → StreamBody) :
    d.stagesTo (d.modBody i g) i (g x) d.stb :=
  ⟨rfl, by rw [Dev.body_modBody, if_pos rfl, taken]; rfl, fun j ne => by rw [Dev.body_modBody, if_neg ne.symm],
    d.modBody_gen i g⟩

theorem Dev.setStb_stagesTo (taken : d.body i = some x) (g : Stb → Stb) : d.stagesTo (d.setStb g) i x (g d.stb) :=
  ⟨rfl, taken, fun _ _ => rfl, fun _ => rfl⟩

theorem Dev.queueFill_stagesTo (taken : d.body i = some x) {b : Block} (fill : x.fill = some b) :
    d.stagesTo (d.queueFill i) i { x with fill := none, queued := x.queued + 1 }
      { d.stb with queue := joinQueue d.stb.queue b } := by
  have queues : d.queueFill i = (d.setStb fun s => { s with queue := joinQueue s.queue b }).modBody i fun b =>
      { b with fill := none, queued := b.queued + 1 } := by
    unfold Dev.queueFill
    rw [taken]
    simp only [Option.bind_some, fill]
  rw [queues]
  exact (Dev.setStb_stagesTo taken _).trans (Dev.modBody_stagesTo (by exact taken) _)

theorem Dev.joinIfFull_stagesTo (taken : d.body i = some x) {b : Block} (fill : x.fill = some b)
    (full : b.data.length = 1024) : d.stagesTo (d.joinIfFull i) i { x with fill := none, queued := x.queued + 1 }
      { d.stb with queue := joinQueue d.stb.queue b } := by
  have joins : d.joinIfFull i = d.queueFill i := by
    unfold Dev.joinIfFull
    rw [taken]
    exact if_pos (by simp [fill, full, Config.blockSize])
  rw [joins]
  exact Dev.queueFill_stagesTo taken fill

theorem Dev.joinIfFull_stays (taken : d.body i = some x) {b : Block} (fill : x.fill = some b)
    (short : b.data.length ≠ 1024) : d.joinIfFull i = d := by
  unfold Dev.joinIfFull
  rw [taken]
  exact if_neg (by simp [fill, short, Config.blockSize])

/-- The fill block that a stream of slot `i` takes (R31). -/
def Dev.freshBlock (d : Dev) (i : StreamIdx) (x : StreamBody) (id : Nat) (bytes : List Byte) : Block :=
  ⟨id, i, (d.cpm.slots[i]).gen, x.incident, x.stream, x.cls, x.nextSeq, bytes⟩

theorem Dev.takeBlock_stagesTo (taken : d.body i = some x) {id : Nat} {rest : List Nat} (free : d.stb.free = id :: rest)
    (data : List Byte) : d.stagesTo (d.takeBlock i data) i
      { x with fill := some (d.freshBlock i x id data), nextSeq := x.nextSeq + 1 } { d.stb with free := rest } := by
  have takes : d.takeBlock i data = (d.setStb fun s => { s with free := rest }).modBody i fun x' =>
      { x' with fill := some (d.freshBlock i x id data), nextSeq := x.nextSeq + 1 } := by
    unfold Dev.takeBlock
    rw [free, taken]
    rfl
  rw [takes]
  exact (Dev.setStb_stagesTo taken _).trans (Dev.modBody_stagesTo (by exact taken) _)

/-! ### The four ways of the bytes (R31, R32) -/

section
variable {data : List Byte} (taken : d.body i = some x)
include taken

theorem Dev.writeBytes_fresh (none : x.fill = none) {id : Nat} {rest : List Nat} (free : d.stb.free = id :: rest)
    (small : data.length < 1024) : d.stagesTo (d.writeBytes i data) i
      { x with fill := some (d.freshBlock i x id data), nextSeq := x.nextSeq + 1 } { d.stb with free := rest } := by
  have takes := Dev.takeBlock_stagesTo taken free data
  have writes : d.writeBytes i data = (d.takeBlock i data).joinIfFull i := by
    unfold Dev.writeBytes
    rw [taken]
    simp only [Option.bind_some, none]
  rw [writes, Dev.joinIfFull_stays takes.slot rfl (by simp only [Dev.freshBlock]; omega)]
  exact takes

variable {b : Block} (fill : x.fill = some b)
include fill

/-- The fill block with the bytes that fit. -/
theorem Dev.writeBytes_eq : d.writeBytes i data =
    (if 1024 - b.data.length < data.length then
      ((d.modBody i fun x => { x with fill := some { b with data := b.data ++ data.take (1024 - b.data.length) } }).joinIfFull
        i).takeBlock i (data.drop (1024 - b.data.length))
    else (d.modBody i fun x =>
      { x with fill := some { b with data := b.data ++ data.take (1024 - b.data.length) } }).joinIfFull i) := by
  unfold Dev.writeBytes
  rw [taken]
  simp only [Option.bind_some, fill, Config.blockSize]

theorem Dev.writeBytes_within (small : b.data.length + data.length < 1024) : d.stagesTo (d.writeBytes i data) i
    { x with fill := some { b with data := b.data ++ data } } d.stb := by
  have all : data.take (1024 - b.data.length) = data := List.take_of_length_le (by omega)
  have grows := Dev.modBody_stagesTo taken fun x => { x with fill := some { b with data := b.data ++ data } }
  rw [Dev.writeBytes_eq taken fill, if_neg (by omega), all,
    Dev.joinIfFull_stays grows.slot rfl (by simp only [List.length_append]; omega)]
  exact grows

theorem Dev.writeBytes_fills (full : b.data.length + data.length = 1024) : d.stagesTo (d.writeBytes i data) i
    { x with fill := none, queued := x.queued + 1 }
    { d.stb with queue := joinQueue d.stb.queue { b with data := b.data ++ data } } := by
  have all : data.take (1024 - b.data.length) = data := List.take_of_length_le (by omega)
  have grows := Dev.modBody_stagesTo taken fun x => { x with fill := some { b with data := b.data ++ data } }
  have joins := Dev.joinIfFull_stagesTo grows.slot rfl (by simp only [List.length_append]; omega)
  rw [Dev.writeBytes_eq taken fill, if_neg (by omega), all]
  exact grows.trans joins

theorem Dev.writeBytes_beyond (le : b.data.length ≤ 1024) (more : 1024 < b.data.length + data.length) {id : Nat}
    {rest : List Nat} (free : d.stb.free = id :: rest) : d.stagesTo (d.writeBytes i data) i
    { x with
      queued := x.queued + 1, nextSeq := x.nextSeq + 1
      fill := some (d.freshBlock i x id (data.drop (1024 - b.data.length))) }
    { d.stb with
      free := rest
      queue := joinQueue d.stb.queue { b with data := b.data ++ data.take (1024 - b.data.length) } } := by
  have grows := Dev.modBody_stagesTo taken fun x =>
    { x with fill := some { b with data := b.data ++ data.take (1024 - b.data.length) } }
  have joins := Dev.joinIfFull_stagesTo grows.slot rfl (by simp only [List.length_append, List.length_take]; omega)
  have both := grows.trans joins
  have takes := Dev.takeBlock_stagesTo both.slot (by rw [both.stb]; exact free) (data.drop (1024 - b.data.length))
  rw [Dev.writeBytes_eq taken fill, if_pos (by omega)]
  have fresh := both.trans takes
  rw [both.stb, Dev.freshBlock, both.gen] at fresh
  exact fresh

end

end

end Sys2Proof.Machine
end


section
/-! PROOFS. An APPEND that is accepted (R25, R31, R32, R37, R38, R44, R47). -/

namespace Sys2Proof.Machine

section
variable {d : Dev} {i : StreamIdx} {x : StreamBody}

/-- The bytes are staged: the stream holds a block, and every block staged anew is its own. -/
structure Dev.wrote (d e : Dev) (i : StreamIdx) (x y : StreamBody) (s : Stb) : Prop where
  stages : d.stagesTo e i y s
  same : y = { x with fill := y.fill, queued := y.queued, nextSeq := y.nextSeq }
  holds : y.fill ≠ none ∨ y.queued ≠ 0
  filling : ∀ g, y.fill = some g → g.slot = i ∨ ∃ b, x.fill = some b ∧ g.slot = b.slot
  queue : ∀ g ∈ s.queue, g ∈ d.stb.queue ∨ ∃ b, x.fill = some b ∧ g.slot = b.slot

theorem joinQueue_own {q : List Block} {b c : Block} (same : c.slot = b.slot) (fill : x.fill = some b) :
    ∀ g ∈ joinQueue q c, g ∈ q ∨ ∃ b, x.fill = some b ∧ g.slot = b.slot := fun g mem => by
  rcases mem_joinQueue.1 mem with rfl | mem
  · exact .inr ⟨b, fill, same⟩
  · exact .inl mem

/-- A fill block past its size is left behind for a fresh one. -/
theorem Dev.writeBytes_past {data : List Byte} (taken : d.body i = some x) {b : Block} (fill : x.fill = some b)
    (past : 1024 < b.data.length) (some_data : data ≠ []) {id : Nat} {rest : List Nat} (free : d.stb.free = id :: rest) :
    d.stagesTo (d.writeBytes i data) i
      { x with fill := some (d.freshBlock i x id data), nextSeq := x.nextSeq + 1 } { d.stb with free := rest } := by
  have noRoom : 1024 - b.data.length = 0 := by omega
  have positive : 0 < data.length := List.length_pos_iff.2 some_data
  have grows := Dev.modBody_stagesTo taken fun x => { x with fill := some { b with data := b.data ++ [] } }
  have takes := Dev.takeBlock_stagesTo grows.slot (by rw [grows.stb]; exact free) data
  rw [Dev.writeBytes_eq taken fill, noRoom, if_pos positive, List.take_zero, List.drop_zero,
    Dev.joinIfFull_stays grows.slot rfl (by simp only [List.append_nil]; omega)]
  have fresh := grows.trans takes
  rw [grows.stb, Dev.freshBlock, grows.gen] at fresh
  exact fresh

theorem Dev.writeBytes_wrote {data : List Byte} (taken : d.body i = some x) (some_data : data ≠ [])
    (small : data.length < 1024) (free : x.needsBlock data.length = true → d.stb.free ≠ []) :
    ∃ y s, d.wrote (d.writeBytes i data) i x y s := by
  have positive : 0 < data.length := List.length_pos_iff.2 some_data
  cases fill : x.fill with
  | none =>
    obtain ⟨id, rest, free⟩ := List.exists_cons_of_ne_nil (free (by simp [StreamBody.needsBlock, fill]))
    refine ⟨_, _, Dev.writeBytes_fresh taken fill free small, rfl, .inl nofun, fun g h => .inl ?_, fun g mem => .inl mem⟩
    cases h
    rfl
  | some b =>
    rcases Nat.lt_trichotomy (b.data.length + data.length) 1024 with within | full | more
    · refine ⟨_, _, Dev.writeBytes_within taken fill within, rfl, .inl nofun, fun g h => .inr ⟨b, fill, ?_⟩,
        fun g mem => .inl mem⟩
      cases h
      rfl
    · exact ⟨_, _, Dev.writeBytes_fills taken fill full, rfl, .inr (Nat.succ_ne_zero _), nofun, joinQueue_own (b := b) rfl fill⟩
    · have needs : x.needsBlock data.length = true := by
        simp only [StreamBody.needsBlock, fill, Config.blockSize, decide_eq_true_eq]
        omega
      obtain ⟨id, rest, free⟩ := List.exists_cons_of_ne_nil (free needs)
      by_cases le : b.data.length ≤ 1024
      · refine ⟨_, _, Dev.writeBytes_beyond taken fill le more free, rfl, .inl nofun, fun g h => .inl ?_,
          joinQueue_own (b := b) rfl fill⟩
        cases h
        rfl
      · refine ⟨_, _, Dev.writeBytes_past taken fill (by omega) some_data free, rfl, .inl nofun, fun g h => .inl ?_,
          fun g mem => .inl mem⟩
        cases h
        rfl

/-! ### The count and the record -/

/-- The state with the bytes staged, the count taken and the record rewritten (R25, R37). -/
def Dev.counts (d : Dev) (i : StreamIdx) (n : Nat) : Dev :=
  (d.modBody i fun x => { x with accepted := x.accepted + n }).syncRecord i

theorem Dev.acceptAppend_eq (d : Dev) (p : Port) (i : StreamIdx) (final : Bool) (data : List Byte) {y : StreamBody}
    (taken : ((d.writeBytes i data).counts i data.length).body i = some y) :
    d.acceptAppend p i final data =
      if y.ends final then
        (((((((d.writeBytes i data).counts i data.length).modBody i fun x =>
          { x with short := x.declared.any (x.accepted < ·) }).leaveOpen i .ended).reply p .ok 0
            (.appended y.accepted true)).closeRun.cmeTest).tryRelease i).settle
      else ((((d.writeBytes i data).counts i data.length).reply p .ok 0 (.appended y.accepted false)).cmeTest).settle := by
  unfold Dev.counts at taken ⊢
  simp only [Dev.acceptAppend, taken]

/-- What the counting leaves. -/
structure Dev.counted (d e : Dev) (i : StreamIdx) (x : StreamBody) (n : Nat) : Prop where
  keeps : d.keepsAllBut [.cpm, .drm] e
  slot : e.body i = some { x with accepted := x.accepted + n }
  others : ∀ j, j ≠ i → e.body j = d.body j
  record : d.recordTakes e x { x with accepted := x.accepted + n }.counted
  slotOf : ∀ m, e.drm.slotOf m = d.drm.slotOf m

theorem Dev.counts_counted (taken : d.body i = some x) (n : Nat) : d.counted (d.counts i n) i x n := by
  have grows := Dev.modBody_stagesTo taken fun x => { x with accepted := x.accepted + n }
  have cpm : (d.counts i n).cpm = (d.modBody i fun x => { x with accepted := x.accepted + n }).cpm := by simp [Dev.counts]
  constructor
  case keeps =>
    intro b hb
    cases b <;> simp [Part.agrees, Dev.counts] at hb ⊢
  case slot => rw [Dev.body_of_cpm cpm, grows.slot]
  case others => exact fun j ne => (Dev.body_of_cpm cpm j).trans (grows.others j ne)
  case record =>
    have synced := Dev.syncRecord_recordTakes grows.slot
    have same : d.keepsStreams (d.modBody i fun x => { x with accepted := x.accepted + n }) :=
      Dev.keepsStreams_of_dir rfl
    exact Dev.recordTakes_after (x := x) same synced
  case slotOf =>
    intro m
    unfold Dev.counts Dev.syncRecord
    split
    · rw [Dev.modIncident_slotOf]
      rfl
    · rfl

end

/-! ### CME behind the blocks of one stream -/

section
variable {d : Dev} {i : StreamIdx} {x : StreamBody}

/-- CME leaves the stream whose blocks alone wait, or cuts it for want of a page (R44, R71). -/
theorem Dev.cmeTest_ownBlocks (taken : d.body i = some x)
    (own : d.cme.state = .idle → d.commits = true → ∀ g ∈ d.stb.queue, g.slot = i) :
    (d.cmeTest.cpm = d.cpm ∧ d.keepsStreams d.cmeTest) ∨ d.cmeTest = d.cutDiscard i .storeFull := by
  by_cases idle : d.cme.state = .idle
  · by_cases quiet : d.cmeQuiet
    · obtain ⟨drm, cpm⟩ := Dev.cmeTest_quiet idle quiet
      exact .inl ⟨cpm, Dev.keepsStreams_of_dir (congrArg Drm.dir drm)⟩
    · obtain ⟨waits, runs⟩ := not_or.1 quiet
      obtain ⟨shut, noPage⟩ := not_or.1 runs
      have commits : d.commits = true := Bool.not_eq_false _ ▸ shut
      exact .inr (Dev.cmeTest_cutsOwn idle commits waits (own idle commits) (not_not.1 noPage) taken)
  · rw [Dev.cmeTest_busy idle]
    exact .inl ⟨rfl, fun _ => rfl⟩

/-- A stream goes on with its record, or is released with the end kind `k`. -/
def Dev.goesOrEnds (d e : Dev) (i : StreamIdx) (x : StreamBody) (k : PendingEnd) : Prop :=
  (e.body i ≠ none → d.recordTakes e x id) ∧ (e.body i = none → d.recordTakes e x (x.closed k))

theorem Dev.goesOrEnds.of_keeps {e : Dev} {k : PendingEnd} (taken : d.body i = some x) (cpm : e.cpm = d.cpm)
    (keeps : d.keepsStreams e) : d.goesOrEnds e i x k :=
  ⟨fun _ => Dev.recordTakes_id keeps x, fun gone => absurd ((Dev.body_of_cpm cpm i).trans taken |>.symm.trans gone) nofun⟩

theorem Dev.cutDiscard_goesOrEnds (taken : d.body i = some x) (r : Reason) :
    d.goesOrEnds (d.cutDiscard i r) i x (cutEnding r x.ending) := by
  rcases Dev.cutDiscard_recordTakes taken r with ⟨gone, closed⟩ | ⟨left, kept⟩
  · exact ⟨fun some => absurd gone some, fun _ => closed⟩
  · exact ⟨fun _ => kept, fun none => absurd none left⟩

theorem Dev.tryRelease_free (free : d.body i = none) : (d.tryRelease i).body i = none ∧ d.keepsStreams (d.tryRelease i) := by
  refine ⟨?_, ?_⟩
  · cases h : (d.tryRelease i).body i with
    | none => rfl
    | some y =>
      obtain ⟨x, hx, -⟩ := (d.tryRelease_streamsTo i).stays i y h
      exact absurd (free.symm.trans hx) nofun
  · rcases d.releaseKeeping_cases i with stays | waits | ⟨x, k, hx, -, -⟩
    · rw [Dev.tryRelease, stays]
      exact d.closeRun_keepsStreams
    · rw [Dev.tryRelease, waits]
      exact Dev.keepsStreams_trans (d.waitCapture_keepsStreams _) (Dev.closeRun_keepsStreams _)
    · exact absurd (free.symm.trans hx) nofun

end

end Sys2Proof.Machine
end


section
/-! PROOFS. What follows an APPEND in its own step (R25, R38, R44, R47). -/

namespace Sys2Proof.Machine

section
variable {d e f : Dev} {i : StreamIdx} {x z : StreamBody} {k : PendingEnd}

theorem Dev.goesOrEnds.later (h : d.goesOrEnds e i x k) (body : f.body i = e.body i) (keeps : e.keepsStreams f) :
    d.goesOrEnds f i x k :=
  ⟨fun some => Dev.recordTakes_then (h.1 (body ▸ some)) keeps, fun none => Dev.recordTakes_then (h.2 (body ▸ none)) keeps⟩

/-- A stream that has an end kind goes on or is released with it (R47). -/
theorem Dev.tryRelease_goesOrEnds (taken : d.body i = some z) (ends : z.ending = some k) :
    d.goesOrEnds (d.tryRelease i) i z k := by
  have waits (h : z.drained = none ∨ d.drm.capRoom 1 = false) : d.goesOrEnds (d.tryRelease i) i z k := by
    obtain ⟨stands, records⟩ := Dev.tryRelease_waits taken h
    exact ⟨fun _ => records, fun gone => absurd (stands.symm.trans gone) nofun⟩
  cases drained : z.drained with
  | none => exact waits (.inl drained)
  | some k' =>
    cases room : d.drm.capRoom 1 with
    | false => exact waits (.inr room)
    | true =>
      obtain rfl : k = k' := Option.some.inj (ends.symm.trans (StreamBody.drained_iff.1 drained).1)
      obtain ⟨gone, records⟩ := Dev.tryRelease_releases taken drained room
      exact ⟨fun some => absurd gone some, fun _ => records⟩

theorem Dev.cutDiscard_slotOf (taken : d.body i = some x) (r : Reason) (n : Nat) :
    (d.cutDiscard i r).drm.slotOf n = d.drm.slotOf n := by
  rw [Dev.cutDiscard_taken taken, Dev.tryRelease_slotOf, Dev.keepsStreams_slotOf (Dev.closeRun_keepsStreams _),
    (Dev.reportCut_frame _ _ _).2.2.2.2.2.2.2.2.1]
  rfl

/-- A cut and a second try of the release (R44, R47). -/
theorem Dev.cutDiscard_released (taken : d.body i = some x) (r : Reason) :
    d.goesOrEnds ((d.cutDiscard i r).tryRelease i) i x (cutEnding r x.ending) := by
  have cut := Dev.cutDiscard_goesOrEnds taken r
  cases left : (d.cutDiscard i r).body i with
  | none =>
    obtain ⟨gone, keeps⟩ := Dev.tryRelease_free left
    exact cut.later (gone.trans left.symm) keeps
  | some w =>
    obtain ⟨n, same⟩ : ∃ n, w = { x with ending := some (cutEnding r x.ending), fill := none, queued := n } := by
      rcases Dev.cutDiscard_takes taken r with ⟨n, stands⟩ | ⟨gone, -⟩
      · exact ⟨n, Option.some.inj (left.symm.trans stands)⟩
      · exact absurd (left.symm.trans gone) nofun
    subst same
    have first : d.recordTakes (d.cutDiscard i r) x id := cut.1 (left ▸ nofun)
    obtain ⟨stays, ends⟩ := Dev.tryRelease_goesOrEnds left rfl
    have slots := Dev.cutDiscard_slotOf taken r x.incident
    exact ⟨fun some => Dev.recordTakes_trans (f := id) (fun _ => rfl) slots first (stays some),
      fun none => Dev.recordTakes_trans (f := id) (fun _ => rfl) slots first (ends none)⟩

end

/-! ### An APPEND that ends its stream -/

/-- What follows the last bytes of a stream (R38, R47). -/
def Dev.appendEnded (d : Dev) (i : StreamIdx) : Dev := ((d.closeRun.cmeTest).tryRelease i).settle

section
variable {d : Dev} {i : StreamIdx} {z : StreamBody}

theorem Dev.appendEnded_goesOrEnds (taken : d.body i = some z) (ends : z.ending = some .ended) (holds : z.queued ≠ 0)
    (own : d.cme.state = .idle → d.commits = true → ∀ g ∈ d.stb.queue, g.slot = i) :
    d.goesOrEnds (d.appendEnded i) i z (.truncated .storeFull) := by
  have closed : d.closeRun.body i = some z := (Dev.body_closeRun d i).trans taken
  have commits : d.closeRun.commits = d.commits := by simp [Dev.commits]
  have ran : d.closeRun.goesOrEnds (d.closeRun.cmeTest.tryRelease i) i z (.truncated .storeFull) := by
    rcases Dev.cmeTest_ownBlocks closed (by simpa [commits] using own) with ⟨cpm, keeps⟩ | cuts
    · have stands : d.closeRun.cmeTest.body i = some z := (Dev.body_of_cpm cpm i).trans closed
      obtain ⟨still, records⟩ := Dev.tryRelease_waits stands (.inl (StreamBody.drained_none_iff.2 (.inr (.inr holds))))
      exact ⟨fun _ => Dev.recordTakes_after keeps records, fun gone => absurd (still.symm.trans gone) nofun⟩
    · have released := Dev.cutDiscard_released closed .storeFull
      rw [cuts]
      rw [ends] at released
      exact released
  have settled := ran.later (Dev.body_settle _ i) (Dev.settle_keepsStreams _)
  exact ⟨fun some => Dev.recordTakes_after d.closeRun_keepsStreams (settled.1 some),
    fun none => Dev.recordTakes_after d.closeRun_keepsStreams (settled.2 none)⟩

/-- While CME takes no block the stream keeps its slot. -/
theorem Dev.appendEnded_stays (taken : d.body i = some z) (holds : z.queued ≠ 0)
    (rests : d.cme.state ≠ .idle ∨ d.commits = false) :
    (d.appendEnded i).body i = some z ∧ ∀ j, j ≠ i → (d.appendEnded i).body j = d.body j := by
  have stays : d.closeRun.cmeTest = d.closeRun := by
    rcases rests with busy | shut
    · exact Dev.cmeTest_busy (by simpa using busy)
    · exact Dev.cmeTest_shut (by simpa [Dev.commits] using shut)
  have closed : d.closeRun.body i = some z := (Dev.body_closeRun d i).trans taken
  unfold Dev.appendEnded
  rw [stays]
  exact ⟨(Dev.body_settle _ i).trans (Dev.tryRelease_holds closed holds), fun j ne =>
    (Dev.body_settle _ j).trans ((Dev.body_tryRelease_ne ne).trans (Dev.body_closeRun d j))⟩

theorem Dev.appendEnded_frame (d : Dev) (i : StreamIdx) : (d.appendEnded i).pif = d.pif
    ∧ d.keepsAllBut [.ict, .cpm, .stb, .cme, .plm, .arc, .drm, .hiu, .tmb, .ntu] (d.appendEnded i)
    ∧ (d.appendEnded i).tmb.tick = d.tmb.tick ∧ (d.appendEnded i).tmb.wall = d.tmb.wall := by
  refine ⟨by simp [Dev.appendEnded], fun b hb => ?_, by simp [Dev.appendEnded], by simp [Dev.appendEnded]⟩
  cases b <;> simp [Part.agrees, Dev.appendEnded] at hb ⊢

/-! ### An APPEND that leaves its stream OPEN -/

theorem Dev.appendOpen_goesOrEnds (taken : d.body i = some z) (isOpen : z.ending = none)
    (own : d.cme.state = .idle → d.commits = true → ∀ g ∈ d.stb.queue, g.slot = i) :
    d.goesOrEnds d.cmeTest.settle i z (.truncated .storeFull) := by
  have ran : d.goesOrEnds d.cmeTest i z (.truncated .storeFull) := by
    rcases Dev.cmeTest_ownBlocks taken own with ⟨cpm, keeps⟩ | cuts
    · exact Dev.goesOrEnds.of_keeps taken cpm keeps
    · have cut := Dev.cutDiscard_goesOrEnds taken .storeFull
      rw [cuts]
      rw [isOpen] at cut
      exact cut
  exact ran.later (Dev.body_settle _ i) (Dev.settle_keepsStreams _)

theorem Dev.appendOpen_stays (rests : d.cme.state ≠ .idle ∨ d.commits = false) (j : StreamIdx) :
    d.cmeTest.settle.body j = d.body j ∧ d.cmeTest.settle.stb = d.stb := by
  have stays : d.cmeTest = d := rests.elim Dev.cmeTest_busy Dev.cmeTest_shut
  rw [stays]
  exact ⟨Dev.body_settle d j, (Dev.settle_frame d).2.2.2.2.2.1⟩

theorem Dev.appendOpen_frame (d : Dev) : d.cmeTest.settle.pif = d.pif
    ∧ d.keepsAllBut [.ict, .cpm, .stb, .cme, .plm, .arc, .drm, .hiu, .tmb, .ntu] d.cmeTest.settle
    ∧ d.cmeTest.settle.tmb.tick = d.tmb.tick ∧ d.cmeTest.settle.tmb.wall = d.tmb.wall := by
  refine ⟨by simp, fun b hb => ?_, by simp, by simp⟩
  cases b <;> simp [Part.agrees] at hb ⊢

end

end Sys2Proof.Machine
end


section
/-! PROOFS. The outcome of an APPEND (R25, R37, R38, R44, R47). -/

namespace Sys2Proof.Machine

section
variable {d e f : Dev} {i : StreamIdx} {x y z : StreamBody} {k : PendingEnd}

theorem Dev.recordTakes_congr {g h : StreamRec → StreamRec} (incident : y.incident = x.incident) (stream : y.stream = x.stream)
    (same : ∀ v, g v = h v) (t : d.recordTakes e y g) : d.recordTakes e x h := by
  obtain rfl : g = h := funext same
  unfold Dev.recordTakes at t ⊢
  rw [incident, stream] at t
  exact t

/-- What an APPEND leaves of the part by its end, with the count `n` of the stream. -/
structure Dev.appended (d e : Dev) (p : Port) (i : StreamIdx) (x : StreamBody) (n : Nat) (ends short : Bool) : Prop where
  pif : e.pif = (d.reply p .ok 0 (.appended n ends)).pif
  keeps : d.keepsAllBut [.pif, .ict, .cpm, .stb, .cme, .plm, .arc, .drm, .hiu, .tmb, .ntu] e
  tick : e.tmb.tick = d.tmb.tick
  wall : e.tmb.wall = d.tmb.wall
  others : d.cme.state ≠ .idle → ∀ j, j ≠ i → e.body j = d.body j
  slot : d.cme.state ≠ .idle ∨ d.commits = false → ∃ y, e.body i = some y ∧ y.accepted = n
    ∧ y.ending = (if ends then some .ended else none) ∧ y.short = short ∧ y.committed = x.committed ∧ y.pages = x.pages
    ∧ (ends = true → y.fill = none)
  stays : d.commitQuiet ∨ d.commits = false → e.body i ≠ none → d.recordTakes e x { x with accepted := n }.counted
  gone : d.commitQuiet ∨ d.commits = false → e.body i = none →
    d.recordTakes e x ({ x with accepted := n, short := short }.closed (.truncated .storeFull))

/-- The state `f` with the bytes staged and counted, from `d`: the stream of slot `i` is `z`. -/
structure Dev.stagedFor (d f : Dev) (i : StreamIdx) (x z : StreamBody) (n : Nat) : Prop where
  keeps : d.keepsAllBut [.pif, .cpm, .stb, .drm] f
  slot : f.body i = some z
  others : ∀ j, j ≠ i → f.body j = d.body j
  counts : z = { x with accepted := n, ending := z.ending, fill := z.fill, queued := z.queued, nextSeq := z.nextSeq, short := z.short }
  record : d.recordTakes f x { x with accepted := n }.counted
  slotOf : f.drm.slotOf x.incident = d.drm.slotOf x.incident
  own : d.commitQuiet → d.cme.state = .idle → ∀ g ∈ f.stb.queue, g.slot = i

theorem Dev.stagedFor.cme {n : Nat} (h : d.stagedFor f i x z n) : f.cme = d.cme := h.keeps .cme (by decide)

theorem Dev.stagedFor.commits {n : Nat} (h : d.stagedFor f i x z n) : f.commits = d.commits := by
  have hum : f.hum = d.hum := h.keeps .hum (by decide)
  rw [Dev.commits, Dev.commits, hum]

/-- Blocks of other streams are met by CME neither while it rests nor where they are absent. -/
theorem Dev.stagedFor.ownBlocks {n : Nat} (h : d.stagedFor f i x z n) (quiet : d.commitQuiet ∨ d.commits = false)
    (idle : f.cme.state = .idle) (commits : f.commits = true) : ∀ g ∈ f.stb.queue, g.slot = i := by
  rw [h.cme] at idle
  rw [h.commits] at commits
  rcases quiet with quiet | shut
  · exact h.own quiet idle
  · exact absurd (commits.symm.trans shut) nofun

theorem Dev.stagedFor.records {n : Nat} {short : Bool} (h : d.stagedFor f i x z n) (hs : z.short = short)
    (g : f.goesOrEnds e i z k) : (e.body i ≠ none → d.recordTakes e x { x with accepted := n }.counted)
      ∧ (e.body i = none → d.recordTakes e x ({ x with accepted := n, short := short }.closed k)) := by
  have incident : z.incident = x.incident := by rw [h.counts]
  have stream : z.stream = x.stream := by rw [h.counts]
  refine ⟨fun some => ?_, fun none => ?_⟩
  · have kept : f.recordTakes e x id := Dev.recordTakes_congr incident stream (fun _ => rfl) (g.1 some)
    exact Dev.recordTakes_trans (f := { x with accepted := n }.counted) (fun _ => rfl) h.slotOf h.record kept
  · have closed : f.recordTakes e x ({ x with accepted := n, short := short }.closed k) := by
      refine Dev.recordTakes_congr incident stream (fun v => ?_) (g.2 none)
      rw [← hs, h.counts]
      rfl
    exact Dev.recordTakes_trans (f := { x with accepted := n }.counted) (fun _ => rfl) h.slotOf h.record closed

/-! ### The bytes staged and counted -/

theorem Dev.stagesTo.keepsAllBut {s : Stb} (h : d.stagesTo e i y s) : d.keepsAllBut [.cpm, .stb] e := fun b hb => by
  rw [h.rest]
  cases b <;> simp [Part.agrees] at hb ⊢

theorem Dev.wrote.stagedFor {data : List Byte} {s : Stb} (w : d.wrote (d.writeBytes i data) i x y s)
    (taken : d.body i = some x) : d.stagedFor ((d.writeBytes i data).counts i data.length) i x
      { y with accepted := x.accepted + data.length } (x.accepted + data.length) := by
  have accepted : y.accepted = x.accepted := by rw [w.same]
  have c := Dev.counts_counted w.stages.slot data.length
  have drm : (d.writeBytes i data).drm = d.drm := w.stages.keepsAllBut .drm (by decide)
  rw [← accepted]
  constructor
  case keeps => exact (w.stages.keepsAllBut.mono (by decide)).trans (c.keeps.mono (by decide))
  case slot => exact c.slot
  case others => exact fun j ne => (c.others j ne).trans (w.stages.others j ne)
  case counts => rw [w.same]
  case record =>
    have same : d.keepsStreams (d.writeBytes i data) := Dev.keepsStreams_of_dir (by rw [drm])
    refine Dev.recordTakes_congr (y := y) (by rw [w.same]) (by rw [w.same]) (fun v => ?_)
      (Dev.recordTakes_after same c.record)
    rw [w.same]
    rfl
  case slotOf => rw [c.slotOf, drm]
  case own =>
    intro quiet idle g mem
    obtain ⟨empty, own⟩ := quiet.resolve_left (not_not.2 idle)
    rw [c.keeps .stb (by decide), w.stages.stb] at mem
    rcases w.queue g mem with old | ⟨b, fill, same⟩
    · rw [empty] at old
      exact absurd old List.not_mem_nil
    · exact same.trans (own i x b taken fill)

end

section
variable {d : Dev} {i : StreamIdx} {x z : StreamBody} {n : Nat}

/-- An APPEND by its end `e` behind the answer. -/
theorem Dev.stagedFor.appended {e f : Dev} {p : Port} {ends : Bool} (h : d.stagedFor f i x z n) (pif : f.pif = d.pif)
    (ending : z.ending = if ends then some .ended else none) (empty : ends = true → z.fill = none)
    (frame : e.pif = (f.reply p .ok 0 (.appended n ends)).pif
      ∧ (f.reply p .ok 0 (.appended n ends)).keepsAllBut [.ict, .cpm, .stb, .cme, .plm, .arc, .drm, .hiu, .tmb, .ntu] e
      ∧ e.tmb.tick = (f.reply p .ok 0 (.appended n ends)).tmb.tick
      ∧ e.tmb.wall = (f.reply p .ok 0 (.appended n ends)).tmb.wall)
    (still : (f.cme.state ≠ .idle ∨ f.commits = false) → e.body i = some z ∧ ∀ j, j ≠ i → e.body j = f.body j)
    (outcome : (f.cme.state = .idle → f.commits = true → ∀ g ∈ f.stb.queue, g.slot = i) →
      f.goesOrEnds e i z (.truncated .storeFull)) : d.appended e p i x n ends z.short := by
  obtain ⟨pifs, keeps, tick, wall⟩ := frame
  have kept : f.keepsAllBut [.pif] (f.reply p .ok 0 (.appended n ends)) := fun b hb => by
    cases b <;> simp [Part.agrees] at hb ⊢
  have rests (r : d.cme.state ≠ .idle ∨ d.commits = false) : f.cme.state ≠ .idle ∨ f.commits = false := by
    rw [h.cme, h.commits]
    exact r
  have records (quiet : d.commitQuiet ∨ d.commits = false) := h.records rfl (outcome (h.ownBlocks quiet))
  constructor
  case pif => exact pifs.trans (Dev.reply_congr pif ..)
  case keeps => exact (h.keeps.mono (by decide)).trans ((kept.mono (by decide)).trans (keeps.mono (by decide)))
  case tick => rw [tick, kept .tmb (by decide), h.keeps .tmb (by decide)]
  case wall => rw [wall, kept .tmb (by decide), h.keeps .tmb (by decide)]
  case others => exact fun busy j ne => ((still (rests (.inl busy))).2 j ne).trans (h.others j ne)
  case slot =>
    intro r
    refine ⟨z, (still (rests r)).1, ?_, ending, rfl, ?_, ?_, empty⟩ <;> rw [h.counts]
  case stays => exact fun quiet => (records quiet).1
  case gone => exact fun quiet => (records quiet).2

/-- The answer to an APPEND leaves what follows it to act on. -/
theorem Dev.replied_same (f : Dev) (p : Port) (body : ReplyBody) : (f.reply p .ok 0 body).cpm = f.cpm
    ∧ (f.reply p .ok 0 body).stb = f.stb ∧ (f.reply p .ok 0 body).cme = f.cme
    ∧ (f.reply p .ok 0 body).commits = f.commits ∧ f.keepsStreams (f.reply p .ok 0 body) :=
  ⟨by simp, by simp, by simp, by simp [Dev.commits], Dev.keepsStreams_of_dir (by simp)⟩

theorem Dev.goesOrEnds.before {e f g : Dev} {k : PendingEnd} (h : g.goesOrEnds e i z k) (same : f.keepsStreams g) :
    f.goesOrEnds e i z k :=
  ⟨fun some => Dev.recordTakes_after same (h.1 some), fun none => Dev.recordTakes_after same (h.2 none)⟩

/-- A stream that stays OPEN. -/
theorem Dev.stagedFor.appendOpen {f : Dev} (h : d.stagedFor f i x z n) (pif : f.pif = d.pif) (isOpen : z.ending = none)
    (p : Port) : d.appended ((f.reply p .ok 0 (.appended n false)).cmeTest.settle) p i x n false z.short := by
  obtain ⟨cpm, stb, cme, commits, same⟩ := f.replied_same p (.appended n false)
  have slot := (Dev.body_of_cpm cpm i).trans h.slot
  refine h.appended pif isOpen nofun (Dev.appendOpen_frame _) (fun rests => ?_) fun own => ?_
  · rw [← cme, ← commits] at rests
    exact ⟨(Dev.appendOpen_stays rests i).1.trans slot, fun j _ =>
      (Dev.appendOpen_stays rests j).1.trans (Dev.body_of_cpm cpm j)⟩
  · rw [← cme, ← commits, ← stb] at own
    exact (Dev.appendOpen_goesOrEnds slot isOpen own).before same

/-- A stream that ends. -/
theorem Dev.stagedFor.appendEnds {f : Dev} (h : d.stagedFor f i x z n) (pif : f.pif = d.pif)
    (ends : z.ending = some .ended) (holds : z.queued ≠ 0) (empty : z.fill = none) (p : Port) :
    d.appended ((f.reply p .ok 0 (.appended n true)).appendEnded i) p i x n true z.short := by
  obtain ⟨cpm, stb, cme, commits, same⟩ := f.replied_same p (.appended n true)
  have slot := (Dev.body_of_cpm cpm i).trans h.slot
  refine h.appended pif ends (fun _ => empty) (Dev.appendEnded_frame _ i) (fun rests => ?_) fun own => ?_
  · rw [← cme, ← commits] at rests
    obtain ⟨stands, others⟩ := Dev.appendEnded_stays slot holds rests
    exact ⟨stands, fun j ne => (others j ne).trans (Dev.body_of_cpm cpm j)⟩
  · rw [← cme, ← commits, ← stb] at own
    exact (Dev.appendEnded_goesOrEnds slot ends holds own).before same

end

end Sys2Proof.Machine
end


section
/-! PROOFS. An APPEND that passes Table 2.4 (R25, R31 to R33, R37, R38, R44, R47). -/

namespace Sys2Proof.Machine

section
variable {d e f : Dev} {i : StreamIdx} {x y w z : StreamBody} {n : Nat}

/-- The short flag at the end of a stream (R38). -/
def StreamBody.markedShort (w : StreamBody) : StreamBody := { w with short := w.declared.any (w.accepted < ·) }

/-- The stream that holds a block leaves OPEN with the block on the queue (R38). -/
theorem Dev.stagedFor.leaves (h : d.stagedFor f i x w n) (own : d.commitQuiet → d.cme.state = .idle → ∀ g, w.fill = some g → g.slot = i) :
    d.stagedFor ((f.modBody i StreamBody.markedShort).leaveOpen i .ended) i x (w.markedShort.left .ended) n := by
  have shorts := Dev.modBody_stagesTo h.slot StreamBody.markedShort
  have frame := Dev.leaveOpen_frame (f.modBody i StreamBody.markedShort) i .ended
  have bodies := Dev.body_leaveOpen shorts.slot .ended
  have drm : ((f.modBody i StreamBody.markedShort).leaveOpen i .ended).drm = f.drm := by simp
  constructor
  case keeps =>
    refine h.keeps.trans fun b hb => ?_
    cases b <;> simp [Part.agrees] at hb ⊢
  case slot => exact (bodies i).trans (if_pos rfl)
  case others => exact fun j ne => ((bodies j).trans (if_neg ne.symm)).trans ((shorts.others j ne).trans (h.others j ne))
  case counts =>
    have counts := h.counts
    rw [StreamBody.left, StreamBody.markedShort]
    rw [counts]
  case record => exact Dev.recordTakes_then h.record (Dev.keepsStreams_of_dir (by rw [drm]))
  case slotOf => rw [drm, h.slotOf]
  case own =>
    intro quiet idle g mem
    cases fill : w.fill with
    | none =>
      rw [Dev.leaveOpen_queue_of_none shorts.slot fill] at mem
      exact h.own quiet idle g mem
    | some b =>
      rw [Dev.leaveOpen_queue_of_fill shorts.slot (f := b) fill] at mem
      rcases mem_joinQueue.1 mem with rfl | mem
      · exact own quiet idle g fill
      · exact h.own quiet idle g mem

theorem StreamBody.left_queued {k : PendingEnd} (h : w.fill ≠ none ∨ w.queued ≠ 0) : (w.left k).queued ≠ 0 := by
  unfold StreamBody.left
  dsimp only
  split
  next none => exact h.resolve_left (not_not.2 none)
  next => exact Nat.succ_ne_zero _

/-- The outcome of an APPEND whose bytes find their place (R25, R37, R38, R44, R47). -/
theorem Dev.acceptAppend_appended {data : List Byte} {s : Stb} {p : Port} {final : Bool}
    (taken : d.body i = some x) (isOpen : x.ending = none) (w : d.wrote (d.writeBytes i data) i x y s) :
    d.appended (d.acceptAppend p i final data) p i x (x.accepted + data.length)
      (final || x.declared == some (x.accepted + data.length))
      (if (final || x.declared == some (x.accepted + data.length)) = true then
        x.declared.any (x.accepted + data.length < ·) else x.short) := by
  have staged := w.stagedFor taken
  have same := w.same
  have pif : ((d.writeBytes i data).counts i data.length).pif = d.pif := by
    rw [(Dev.counts_counted w.stages.slot _).keeps .pif (by decide), w.stages.keepsAllBut .pif (by decide)]
  have declared : y.declared = x.declared := by rw [same]
  have ends : StreamBody.ends { y with accepted := x.accepted + data.length } final
      = (final || x.declared == some (x.accepted + data.length)) := by
    rw [StreamBody.ends, declared]
  rw [Dev.acceptAppend_eq d p i final data staged.slot, ends]
  split
  next e =>
    rw [e]
    have leaves := staged.leaves fun quiet idle g fill => by
      obtain ⟨-, own⟩ := quiet.resolve_left (not_not.2 idle)
      rcases w.filling g fill with at_i | ⟨b, fills, at_b⟩
      · exact at_i
      · exact at_b.trans (own i x b taken fills)
    have outcome := leaves.appendEnds (by simp [pif]) rfl (StreamBody.left_queued w.holds) rfl p
    have short : ((StreamBody.markedShort { y with accepted := x.accepted + data.length }).left .ended).short
        = x.declared.any (x.accepted + data.length < ·) := by
      rw [← declared]
      rfl
    rw [short] at outcome
    exact outcome
  next stays =>
    rw [Bool.not_eq_true] at stays
    rw [stays]
    have outcome := staged.appendOpen pif (by rw [same]; exact isOpen) p
    have short : ({ y with accepted := x.accepted + data.length } : StreamBody).short = x.short := by rw [same]
    rw [short] at outcome
    exact outcome

/-! ### The request -/

/-- An APPEND that passes Table 2.4 finds what it takes (R31, R35). -/
structure Dev.mayAppend (d : Dev) (i : StreamIdx) (x : StreamBody) (data : List Byte) : Prop where
  taken : d.body i = some x
  isOpen : x.ending = none
  some_data : data ≠ []
  small : data.length < 1024
  free : x.needsBlock data.length = true → d.stb.free ≠ []

theorem Dev.appendTest_free {final : Bool} (h : d.appendTest x final n = none) (needs : x.needsBlock n = true) :
    d.stb.free ≠ [] := by
  intro empty
  rw [Dev.appendTest] at h
  split at h
  · cases h
  split at h
  · cases h
  split at h
  · cases h
  next full =>
    simp only [needs, Dev.mayTake, empty, List.length_nil] at full
    split at full <;> simp at full

end

section
variable {s : State} {p : Port} {tag : Byte} {b : List Byte} {i : StreamIdx} {x : StreamBody}
  (reaches : s.reaches p .append b) (handle : s.dev.handleTest p b = .ok (i, x))
  (passes : s.dev.appendTest x (byte b 2 == 1) (b.length - 3) = none)
include reaches handle passes

theorem mayAppend_of_passes : s.dev.mayAppend i x (b.drop 3) := by
  obtain ⟨taken, isOpen⟩ := Dev.handleTest_ok_iff handle
  have length := (judge_none_iff.1 reaches.2).1
  simp only [lengthOk, Config.maxData, Bool.and_eq_true, decide_eq_true_eq] at length
  have long : (b.drop 3).length = b.length - 3 := List.length_drop
  refine ⟨taken, isOpen, fun empty => ?_, by omega, fun needs => ?_⟩
  · rw [empty, List.length_nil] at long
    omega
  · exact Dev.appendTest_free passes (long ▸ needs)

theorem exec_append : exec (.append p tag b) s = .next { s with
    dev := (s.dev.takeFrame p Request.append.code tag b).acceptAppend p i (byte b 2 == 1) (b.drop 3) } := by
  refine exec_of_serve reaches ?_
  show Dev.serveAppend p b _ = _
  simp only [Dev.serveAppend, Dev.handleTest_takeFrame, handle, (final_of_judge reaches.2).2, Dev.appendTest_takeFrame,
    passes]

end

end Sys2Proof.Machine
end


section
/-! PROOFS. O36: where the bytes of an APPEND go (R25, R31 to R33, R37, R38, R44, R47). -/

namespace Sys2Proof.Machine

section
variable {d : Dev} {i : StreamIdx} {x y : StreamBody} {s : Stb} {p : Port} {data : List Byte}

/-- An APPEND that does not end its stream, while CME is at work: the bytes and the count, nothing of CME's. -/
theorem Dev.acceptAppend_busy (w : d.stagesTo (d.writeBytes i data) i y s)
    (same : y = { x with fill := y.fill, queued := y.queued, nextSeq := y.nextSeq })
    (more : x.declared ≠ some (x.accepted + data.length)) (busy : d.cme.state ≠ .idle) :
    (d.acceptAppend p i false data).body i = some { y with accepted := x.accepted + data.length }
      ∧ (d.acceptAppend p i false data).stb = s := by
  have accepted : y.accepted = x.accepted := by rw [same]
  have declared : y.declared = x.declared := by rw [same]
  have c := Dev.counts_counted w.slot data.length
  have cme : ((d.writeBytes i data).counts i data.length).cme = d.cme :=
    (c.keeps .cme (by decide)).trans (w.keepsAllBut .cme (by decide))
  have goesOn : StreamBody.ends { y with accepted := y.accepted + data.length } false = false := by
    rw [StreamBody.ends, declared, accepted, Bool.false_or]
    exact beq_eq_false_iff_ne.2 more
  rw [Dev.acceptAppend_eq d p i false data c.slot, goesOn, if_neg nofun]
  obtain ⟨cpm, stb, works, -, -⟩ := ((d.writeBytes i data).counts i data.length).replied_same p
    (.appended (y.accepted + data.length) false)
  obtain ⟨body, kept⟩ := Dev.appendOpen_stays (.inl (by rw [works, cme]; exact busy)) i
  refine ⟨(body.trans (Dev.body_of_cpm cpm i)).trans ?_, (kept.trans stb).trans ?_⟩
  · rw [c.slot, accepted]
  · exact (c.keeps .stb (by decide)).trans w.stb

end

/-- Settles O36: the bytes into the fill block and a fresh one, the count and the record; then the end of the stream
and CME behind the answer. -/
theorem appendStagesItsBytes : Obligations.AppendStagesItsBytes := by
  constructor
  · intro p tag b s i x reaches handle passes n ends short takes
    obtain ⟨taken, isOpen, some_data, small, free⟩ := mayAppend_of_passes reaches handle passes
    have length : (b.drop 3).length = b.length - 3 := List.length_drop
    have frame := Dev.takeFrame_eq s.dev p Request.append.code tag b
    obtain ⟨y, stb, wrote⟩ := Dev.writeBytes_wrote (d := s.dev.takeFrame p Request.append.code tag b) (i := i)
      (by rw [frame]; exact taken) some_data small (by rw [frame]; exact free)
    have outcome := Dev.acceptAppend_appended (p := p) (final := byte b 2 == 1) (by rw [frame]; exact taken) isOpen wrote
    rw [length] at outcome
    have runs := exec_append (tag := tag) reaches handle passes
    generalize (s.dev.takeFrame p Request.append.code tag b).acceptAppend p i (byte b 2 == 1) (b.drop 3) = e at outcome runs
    obtain ⟨pif, keeps, tick, wall, others, slot, stays, gone⟩ := outcome
    have kept : s.dev.keepsAllBut [.pif] (s.dev.takeFrame p Request.append.code tag b) := fun k hk => by
      cases k <;> simp [Part.agrees] at hk ⊢
    have shut : ¬takes → s.dev.commits = false := fun h => Bool.eq_false_iff.2 (h ∘ Dev.commits_iff.1)
    refine ⟨e, runs, ?_⟩
    rw [frame] at tick wall others slot stays gone
    refine ⟨?_, (kept.mono (by decide)).trans keeps, tick, wall, others, fun busy => ?_, fun rests => ?_,
      fun quiet => stays (.inl quiet), fun quiet => gone (.inl quiet)⟩
    · rw [pif, Dev.reply_taken (d := s.dev) (r := .append) (b := b) rfl (by decide)]
    · obtain ⟨y, hy, accepted, ending, hs, committed, pages, empty⟩ := slot (.inl busy)
      exact ⟨y, hy, accepted, ending, hs, committed, pages, empty⟩
    · have rests := rests.imp id shut
      obtain ⟨y, hy, -⟩ := slot rests
      exact stays (rests.imp .inl id) (hy ▸ nofun)
  · intro p tag b s i x reaches handle hb passes more busy data n fresh
    have final : (byte b 2 == 1) = false := by rw [hb]; rfl
    have passes : s.dev.appendTest x (byte b 2 == 1) (b.length - 3) = none := final ▸ passes
    obtain ⟨taken, isOpen, some_data, small, free⟩ := mayAppend_of_passes reaches handle passes
    have length : data.length = b.length - 3 := List.length_drop
    have frame := Dev.takeFrame_eq s.dev p Request.append.code tag b
    have takenT : (s.dev.takeFrame p Request.append.code tag b).body i = some x := by rw [frame]; exact taken
    have stb : (s.dev.takeFrame p Request.append.code tag b).stb = s.dev.stb := by rw [frame]
    have newBlock (id : Nat) (bytes : List Byte) :
        (s.dev.takeFrame p Request.append.code tag b).freshBlock i x id bytes = fresh id bytes := by
      rw [frame]
      rfl
    have places {y : StreamBody} {q : Stb}
        (w : (s.dev.takeFrame p Request.append.code tag b).stagesTo
          ((s.dev.takeFrame p Request.append.code tag b).writeBytes i data) i y q)
        (same : y = { x with fill := y.fill, queued := y.queued, nextSeq := y.nextSeq }) :=
      Dev.acceptAppend_busy (p := p) w same (by rw [length]; exact more) (by rw [frame]; exact busy)
    refine ⟨_, exec_append reaches handle passes, fun f fill room => ?_, fun f fill full => ?_,
      fun f id rest fill le beyond free => ?_, fun id rest none free => ?_⟩ <;> rw [final]
    · have w := places (Dev.writeBytes_within takenT fill room) rfl
      rw [stb] at w
      exact w
    · have w := places (Dev.writeBytes_fills takenT fill full) rfl
      rw [stb] at w
      exact w
    · have w := places (Dev.writeBytes_beyond takenT fill le beyond (stb ▸ free)) rfl
      rw [stb, newBlock] at w
      obtain ⟨body, stb⟩ := w
      exact ⟨body, by rw [stb], by rw [stb]⟩
    · have w := places (Dev.writeBytes_fresh takenT none (stb ▸ free) small) rfl
      rw [stb, newBlock] at w
      exact w

end Sys2Proof.Machine
end


section
/-! PROOFS. The latched triggers and the order in which they are taken (R21, R138). -/

namespace Sys2Proof.Machine

/-- One full latch is taken before another: by its tick stamp, of equal ones by its place. -/
def latchBefore (k : Fin 5) (t : TriggerRecord) (j : Fin 5) (u : TriggerRecord) : Prop :=
  t.tick < u.tick ∨ (t.tick = u.tick ∧ k ≤ j)

section
variable {l : Vector (Option TriggerRecord) 5}

/-- One step of the search for the earliest latch. -/
def earlier (l : Vector (Option TriggerRecord) 5) (a : Option (Fin 5 × TriggerRecord)) (i : Fin 5) :
    Option (Fin 5 × TriggerRecord) :=
  match l[i], a with
  | some t, some (j, u) => if t.tick < u.tick then some (i, t) else some (j, u)
  | some t, none => some (i, t)
  | none, a => a

/-- The earliest latch among some. -/
def earliestAmong (l : Vector (Option TriggerRecord) 5) (is : List (Fin 5)) (a : Option (Fin 5 × TriggerRecord)) : Prop :=
  match a with
  | none => ∀ i ∈ is, l[i] = none
  | some (k, t) => k ∈ is ∧ l[k] = some t ∧ ∀ j ∈ is, ∀ u, l[j] = some u → latchBefore k t j u

theorem earlier_earliest {is : List (Fin 5)} {i : Fin 5} {a : Option (Fin 5 × TriggerRecord)}
    (h : earliestAmong l is a) (behind : ∀ j ∈ is, j < i) : earliestAmong l (is ++ [i]) (earlier l a i) := by
  have last {j : Fin 5} (mem : j ∈ is ++ [i]) : j ∈ is ∨ j = i := by simpa using mem
  have self {t u : TriggerRecord} (ht : l[i] = some t) (hu : l[i] = some u) : latchBefore i t i u := by
    obtain rfl := Option.some.inj (ht.symm.trans hu)
    exact .inr ⟨rfl, le_rfl⟩
  unfold earlier
  cases full : l[i] with
  | none =>
    cases a with
    | none => exact fun j mem => (last mem).elim (h j) fun same => same ▸ full
    | some kt =>
      obtain ⟨mem, stands, least⟩ := h
      refine ⟨List.mem_append_left _ mem, stands, fun j mem u hu => (last mem).elim (fun old => least j old u hu) ?_⟩
      rintro rfl
      exact absurd (full.symm.trans hu) nofun
  | some t =>
    cases a with
    | none =>
      refine ⟨by simp, full, fun j mem u hu => (last mem).elim (fun old => absurd ((h j old).symm.trans hu) nofun) ?_⟩
      rintro rfl
      exact self full hu
    | some kt =>
      obtain ⟨k, v⟩ := kt
      obtain ⟨mem, stands, least⟩ := h
      dsimp only
      split
      next before =>
        refine ⟨by simp, full, fun j mem u hu => (last mem).elim (fun old => .inl ?_) ?_⟩
        · rcases least j old u hu with lt | ⟨same, -⟩
          · exact BitVec.lt_trans before lt
          · exact same ▸ before
        · rintro rfl
          exact self full hu
      next notBefore =>
        refine ⟨List.mem_append_left _ mem, stands, fun j mem' u hu => (last mem').elim (fun old => least j old u hu) ?_⟩
        rintro rfl
        obtain rfl := Option.some.inj (full.symm.trans hu)
        by_cases same : v.tick = t.tick
        · exact .inr ⟨same, (behind k mem).le⟩
        · exact .inl (BitVec.lt_of_le_ne (BitVec.not_lt.1 notBefore) same)

theorem earliestLatch_spec (l : Vector (Option TriggerRecord) 5) : earliestAmong l (List.finRange 5) (earliestLatch l) := by
  have walk (is : List (Fin 5)) (sorted : is.Pairwise (· < ·)) : earliestAmong l is (is.foldl (earlier l) none) := by
    induction is using List.reverseRecOn with
    | nil => exact fun _ mem => absurd mem List.not_mem_nil
    | append_singleton is i ih =>
      obtain ⟨front, -, behind⟩ := List.pairwise_append.1 sorted
      rw [List.foldl_append]
      exact earlier_earliest (ih front) fun j mem => behind j mem i List.mem_cons_self
  have search : earliestLatch l = (List.finRange 5).foldl (earlier l) none := rfl
  rw [search]
  exact walk _ (List.sortedLT_finRange 5).pairwise

theorem earliestLatch_none (h : ∀ k : Fin 5, l[k] = none) : earliestLatch l = none := by
  cases found : earliestLatch l with
  | none => rfl
  | some kt =>
    have spec := earliestLatch_spec l
    rw [found] at spec
    exact absurd ((h kt.1).symm.trans spec.2.1) nofun

theorem latchBefore_antisymm {k j : Fin 5} {t u : TriggerRecord} (h : latchBefore k t j u) (g : latchBefore j u k t) :
    k = j := by
  rcases h with lt | ⟨same, le⟩ <;> rcases g with lt' | ⟨same', le'⟩
  · exact absurd lt' (BitVec.lt_asymm lt)
  · exact absurd (same' ▸ lt) (BitVec.lt_irrefl _)
  · exact absurd (same ▸ lt') (BitVec.lt_irrefl _)
  · exact le_antisymm le le'

theorem earliestLatch_of_least {k : Fin 5} {t : TriggerRecord} (full : l[k] = some t)
    (least : ∀ (j : Fin 5) (u : TriggerRecord), l[j] = some u → latchBefore k t j u) : earliestLatch l = some (k, t) := by
  have spec := earliestLatch_spec l
  cases found : earliestLatch l with
  | none =>
    rw [found] at spec
    exact absurd ((spec k (List.mem_finRange k)).symm.trans full) nofun
  | some ju =>
    rw [found] at spec
    obtain ⟨-, stands, first⟩ := spec
    obtain rfl := latchBefore_antisymm (first k (List.mem_finRange k) t full) (least ju.1 ju.2 stands)
    obtain rfl := Option.some.inj (full.symm.trans stands)
    rfl

end

/-! ### The latches are emptied -/

/-- The state with a latch emptied. -/
abbrev Dev.unlatched (d : Dev) (k : Fin 5) : Dev := { d with tru := { d.tru with latches := put d.tru.latches k none } }

section
variable {d : Dev}

theorem Dev.emptyLatches_none (h : ∀ k : Fin 5, d.tru.latches[k] = none) (n : Nat) : Dev.emptyLatches n d = d := by
  cases n with
  | zero => rfl
  | succ n => simp only [Dev.emptyLatches, earliestLatch_none h]

theorem Dev.emptyLatches_takes {k : Fin 5} {t : TriggerRecord} (h : earliestLatch d.tru.latches = some (k, t)) (n : Nat) :
    Dev.emptyLatches (n + 1) d = Dev.emptyLatches n ((d.unlatched k).takeTrigger t none) := by
  simp only [Dev.emptyLatches, h]

/-- The latches that hold a trigger. -/
def Dev.fullLatches (d : Dev) : Finset (Fin 5) := {k | d.tru.latches[k] ≠ none}

theorem Dev.fullLatches_unlatched (d : Dev) (k : Fin 5) : (d.unlatched k).fullLatches = d.fullLatches.erase k := by
  ext j
  simp only [Dev.fullLatches, Finset.mem_erase, Finset.mem_filter_univ, get_put]
  by_cases same : k = j
  · simp [same]
  · simp [same, Ne.symm same]

/-- As many steps as there are full latches empty them. -/
theorem Dev.emptyLatches_empties (n : Nat) (d : Dev) (few : d.fullLatches.card ≤ n) (k : Fin 5) :
    (Dev.emptyLatches n d).tru.latches[k] = none := by
  induction n generalizing d with
  | zero =>
    have empty := Finset.card_eq_zero.1 (Nat.le_zero.1 few)
    by_contra full
    exact absurd (Finset.mem_filter_univ k |>.2 full) (empty ▸ Finset.notMem_empty k)
  | succ n ih =>
    cases found : earliestLatch d.tru.latches with
    | none =>
      have spec := earliestLatch_spec d.tru.latches
      rw [found] at spec
      rw [Dev.emptyLatches_none fun j => spec j (List.mem_finRange j)]
      exact spec k (List.mem_finRange k)
    | some jt =>
      obtain ⟨j, t⟩ := jt
      have spec := earliestLatch_spec d.tru.latches
      rw [found] at spec
      have mem : j ∈ d.fullLatches := (Finset.mem_filter_univ j).2 (spec.2.1 ▸ nofun)
      rw [Dev.emptyLatches_takes found]
      refine ih _ ?_
      have same : ((d.unlatched j).takeTrigger t none).fullLatches = d.fullLatches.erase j := by
        rw [← d.fullLatches_unlatched j]
        simp [Dev.fullLatches]
      rw [same, Finset.card_erase_of_mem mem]
      omega

theorem Dev.emptyLatches_all (d : Dev) (k : Fin 5) : (Dev.emptyLatches 5 d).tru.latches[k] = none :=
  Dev.emptyLatches_empties 5 d ((Finset.card_le_univ _).trans (by simp)) k

end

end Sys2Proof.Machine
end


section
/-! PROOFS. What a trigger leaves of reads, ports, streams and deadlines (R4, R7 to R12, R187). -/

namespace Sys2Proof.Machine

/-! ### Reads that come to wait -/

/-- No read of a port comes to wait. -/
structure Dev.readsTo (d e : Dev) : Prop where
  waiting : ∀ r ∈ e.arc.waiting, ∀ q, r.who = .rtu q → r ∈ d.arc.waiting

section
variable {d e f : Dev}

theorem Dev.readsTo_of_same (h : e.arc.waiting = d.arc.waiting) : d.readsTo e := ⟨fun _ mem _ _ => h ▸ mem⟩

theorem Dev.readsTo.trans (h : d.readsTo e) (g : e.readsTo f) : d.readsTo f :=
  ⟨fun r mem q who => h.waiting r (g.waiting r mem q who) q who⟩

theorem Dev.asksTo.reads (h : d.asksTo e) : d.readsTo e := ⟨fun r mem q who => by
  obtain ⟨l, hl, own⟩ := h.waiting
  rw [hl] at mem
  exact (List.mem_append.1 mem).resolve_right fun new => own r new q who⟩

theorem Dev.withdraw_readsTo (d : Dev) (who : Requester) : d.readsTo (d.withdraw who) :=
  ⟨fun _ mem _ _ => (List.mem_filter.1 mem).1⟩

/-- A read that does not wait does not come to wait. -/
theorem Dev.readsTo.none (h : d.readsTo e) {q : Port} (off : d.arc.waits (.rtu q) = false) :
    e.arc.waits (.rtu q) = false := by
  unfold Arc.waits at off ⊢
  rw [List.any_eq_false] at off ⊢
  exact fun r mem same => off r (h.waiting r mem q (beq_iff_eq.1 same)) same

/-! ### The history's own requests -/

theorem Dev.hiuMove_asksTo (d : Dev) : d.asksTo d.hiuMove := d.moveLoop_asksTo 256

theorem Dev.gapTest_asksTo (d : Dev) : d.asksTo d.gapTest := Dev.asksTo_of_same (by simp)

theorem Dev.activate_asksTo (d : Dev) (k : RingIdx) : d.asksTo (d.activate k) :=
  (Dev.haltTest_asksTo _).after rfl

theorem Dev.awaitTest_asksTo (d : Dev) : d.asksTo d.awaitTest := by
  unfold Dev.awaitTest
  split
  · exact d.asksTo_rfl
  split
  · split
    · exact (d.activate_asksTo _).trans ((Dev.prepTest_asksTo _).trans (Dev.hiuMove_asksTo _))
    · exact d.asksTo_rfl
  · exact d.asksTo_rfl

theorem Dev.resumeTest_asksTo (d : Dev) : d.asksTo d.resumeTest := by
  unfold Dev.resumeTest
  split
  · exact ((Dev.gapTest_asksTo _).trans ((Dev.hiuMove_asksTo _).trans (Dev.awaitTest_asksTo _))).after (by simp [Dev.setHiu])
  · exact d.asksTo_rfl

theorem Dev.unpin_asksTo (d : Dev) (n : Nat) : d.asksTo (d.unpin n) :=
  ((Dev.awaitTest_asksTo _).trans ((Dev.prepTest_asksTo _).trans (Dev.resumeTest_asksTo _))).after rfl

theorem Dev.pinWindow_asksTo (d : Dev) (n : Nat) (t : Option Nat) : d.asksTo (d.pinWindow n t).1 := by
  unfold Dev.pinWindow
  dsimp only
  split
  · exact d.asksTo_rfl
  · exact (Dev.haltTest_asksTo _).after rfl

theorem Dev.markedEvent_asksTo (d : Dev) (code severity : Nat) (body : HBody) :
    d.asksTo (d.markedEvent code severity body).dev := by
  exact (d.offerSeq_asksTo body severity .internal code).trans (Dev.asksTo_of_same rfl)

/-! ### What a trigger that no port waits for leaves -/

/-- The streams, the deadlines of the supply and the ports without a read stand; no read comes to wait. -/
structure Dev.triggersTo (d e : Dev) : Prop where
  cpm : e.cpm = d.cpm
  stb : e.stb = d.stb
  recharge : e.tmb.deadlines.recharge = d.tmb.deadlines.recharge
  holdup : e.tmb.deadlines.holdup = d.tmb.deadlines.holdup
  reads : d.readsTo e
  grows : d.drm.growsTo e.drm
  stands : ∀ q, d.job q = none → d.portStands e q ∧ e.job q = none

theorem Dev.triggersTo.trans (h : d.triggersTo e) (g : e.triggersTo f) : d.triggersTo f where
  cpm := g.cpm.trans h.cpm
  stb := g.stb.trans h.stb
  recharge := g.recharge.trans h.recharge
  holdup := g.holdup.trans h.holdup
  reads := h.reads.trans g.reads
  grows := h.grows.trans g.grows
  stands q none :=
    have ⟨first, still⟩ := h.stands q none
    have ⟨rest, last⟩ := g.stands q still
    ⟨first.trans rest, last⟩

/-- What leaves the ports, the reads in hand and the streams. -/
theorem Dev.triggersTo_of_keeps (keeps : d.keepsAllBut [.ict, .plm, .arc, .drm, .hiu, .tmb, .ntu] e)
    (recharge : e.tmb.deadlines.recharge = d.tmb.deadlines.recharge)
    (holdup : e.tmb.deadlines.holdup = d.tmb.deadlines.holdup) (reads : d.readsTo e) (grows : d.drm.growsTo e.drm) :
    d.triggersTo e where
  cpm := keeps .cpm (by decide)
  stb := keeps .stb (by decide)
  recharge := recharge
  holdup := holdup
  reads := reads
  grows := grows
  stands q none :=
    have rtu : e.rtu = d.rtu := keeps .rtu (by decide)
    ⟨Dev.portStands_of_pif (keeps .pif (by decide)), by rw [Dev.job, rtu]; exact none⟩

theorem Dev.triggersTo_of_logsTo (h : d.logsTo e) (asks : d.asksTo e) : d.triggersTo e := by
  have grows : d.drm.growsTo e.drm := by
    rw [h]
    exact Drm.growsTo_of_eq rfl rfl
  exact Dev.triggersTo_of_keeps (h.keepsAllBut.mono (by decide)) (by rw [h.tmb_eq]) (by rw [h.tmb_eq]) asks.reads grows

/-- What changes the directory alone, and what shows it. -/
theorem Dev.triggersTo_of_drm (keeps : d.keepsAllBut [.ict, .plm, .drm, .ntu] e) (grows : d.drm.growsTo e.drm) :
    d.triggersTo e := by
  have arc : e.arc = d.arc := keeps .arc (by decide)
  have tmb : e.tmb = d.tmb := keeps .tmb (by decide)
  exact Dev.triggersTo_of_keeps (keeps.mono (by decide)) (by rw [tmb]) (by rw [tmb])
    (Dev.readsTo_of_same (by rw [arc])) grows

theorem Dev.triggersTo_rfl (d : Dev) : d.triggersTo d :=
  Dev.triggersTo_of_drm (Dev.keepsAllBut_rfl _ d) (Drm.growsTo_rfl _)

theorem Dev.raise_triggersTo (d : Dev) (c : NoticeCause) (n : Nat) : d.triggersTo (d.raise c n) :=
  Dev.triggersTo_of_drm ((d.raise_keepsAllBut c n).mono (by decide)) (by simpa using Drm.growsTo_rfl _)

theorem Dev.event_triggersTo (d : Dev) (code severity : Nat) (body : HBody) : d.triggersTo (d.event code severity body) :=
  Dev.triggersTo_of_logsTo (d.event_logsTo ..) (d.event_asksTo ..)

theorem Dev.triggerEvent_triggersTo (d : Dev) (t : TriggerRecord) (n : Nat) (x : Disposition) :
    d.triggersTo (d.triggerEvent t n x).dev :=
  Dev.triggersTo_of_logsTo (d.triggerEvent_logsTo ..) (d.markedEvent_asksTo ..)

end

/-! ### The release of roll-oldest (R9, R187) -/

section
variable (d : Dev)

theorem Dev.goneRead_reads (n : Nat) (p : Port) : d.readsTo (d.goneRead n p) := by
  unfold Dev.goneRead
  split
  · split
    · exact (d.withdraw_readsTo (.rtu p)).trans (Dev.readsTo_of_same (by simp [Dev.dropRead, Dev.setJob, Dev.setRtu]))
    · exact Dev.readsTo_of_same rfl
  · exact Dev.readsTo_of_same rfl

theorem Dev.goneFor_triggersTo (n : Nat) (p : Port) : d.triggersTo (d.goneFor n p) := by
  have keeps := d.goneFor_keepsAllBut n p
  have tmb : (d.goneFor n p).tmb = d.tmb := keeps .tmb (by decide)
  have drm : (d.goneFor n p).drm = d.drm := keeps .drm (by decide)
  exact ⟨keeps .cpm (by decide), keeps .stb (by decide), by rw [tmb], by rw [tmb],
    (Dev.readsTo_of_same (d := d) (e := d.setCursor p ((d.cursor p).markGone n)) rfl).trans (Dev.goneRead_reads _ n p), drm ▸ Drm.growsTo_rfl _,
    fun q none => Dev.goneFor_stands none n p⟩

theorem Dev.goneAll_triggersTo (n : Nat) : d.triggersTo (d.goneAll n) := by
  unfold Dev.goneAll
  generalize allPorts = l
  induction l generalizing d with
  | nil => exact d.triggersTo_rfl
  | cons p l ih => exact (d.goneFor_triggersTo n p).trans (ih _)

theorem Dev.struck_triggersTo (i : DirSlot) (n : Nat) : d.triggersTo (d.struck i n) :=
  Dev.triggersTo_of_drm ((d.struck_keepsAllBut i n).mono (by decide))
    (d.struck_drm i n ▸ Drm.growsTo_of_queue (List.prefix_append ..) rfl)

theorem Dev.releaseIncident_triggersTo (i : DirSlot) (n : Nat) (source : Source) :
    d.triggersTo (d.releaseIncident i n source) := by
  rw [Dev.releaseIncident_eq]
  exact (d.struck_triggersTo i n).trans ((Dev.triggersTo_of_logsTo (Dev.unpin_logsTo _ n) (Dev.unpin_asksTo _ n)).trans
    ((Dev.goneAll_triggersTo _ n).trans (Dev.event_triggersTo ..)))

/-! ### The opening (R8) -/

theorem Dev.opening_triggersTo (i : DirSlot) (t : TriggerRecord) : d.triggersTo (d.opening i t) := by
  have pinned : d.triggersTo (d.openingPinned t) := (d.triggerEvent_triggersTo ..).trans
    (Dev.triggersTo_of_logsTo (Dev.pinWindow_logsTo ..) (Dev.pinWindow_asksTo ..))
  have filed : (d.openingPinned t).triggersTo (d.openingFiled i t) := by
    refine Dev.triggersTo_of_drm ((d.openingFiled_keepsAllBut i t).mono (by decide)) ?_
    rw [Dev.openingFiled_drm, d.openingPinned_drm]
    exact Drm.growsTo_of_queue (List.prefix_append ..) rfl
  have begins (e : Dev) : e.triggersTo (e.beginRecording i) := by
    have keeps := e.beginRecording_keepsAllBut i
    have drm : (e.beginRecording i).drm = e.drm := keeps .drm (by decide)
    have arc : (e.beginRecording i).arc = e.arc := keeps .arc (by decide)
    exact Dev.triggersTo_of_keeps (keeps.mono (by decide)) (by rw [e.beginRecording_tmb]) (by rw [e.beginRecording_tmb])
      (Dev.readsTo_of_same (by rw [arc])) (drm ▸ Drm.growsTo_rfl _)
  exact pinned.trans (filed.trans ((begins _).trans (Dev.raise_triggersTo _ _ _)))

theorem Dev.openIncident_triggersTo (i : DirSlot) (t : TriggerRecord) : d.triggersTo (d.openIncident i t none) := by
  rw [Dev.openIncident_eq]
  exact d.opening_triggersTo i t

theorem Dev.refuseTrigger_triggersTo (t : TriggerRecord) : d.triggersTo (d.refuseTrigger t none) := by
  refine (d.triggerEvent_triggersTo t 0 .refused).trans ?_
  unfold Dev.refuseTrigger
  dsimp only [Dev.answer, Dev.replyTo]
  split
  · exact Dev.triggersTo_rfl _
  · exact Dev.raise_triggersTo _ _ _

theorem Dev.openBy_triggersTo (w : OpeningWay) (t : TriggerRecord) : d.triggersTo (d.openBy w t none) := by
  cases w with
  | slot s => exact d.openIncident_triggersTo s t
  | roll s number => exact (d.releaseIncident_triggersTo s number .internal).trans (Dev.openIncident_triggersTo _ s t)
  | refused => exact d.refuseTrigger_triggersTo t

/-! ### The other ways of Table 1.7 -/

theorem Dev.addWaiter_triggersTo {w : CapWaiter} (own : ∀ p, w.opensFor p = false) : d.triggersTo (d.addWaiter w) :=
  Dev.triggersTo_of_drm (fun b hb => by cases b <;> simp at hb <;> rfl) (d.addWaiter_grows own)

theorem Dev.modIncident_triggersTo (n : Nat) (f : Incident → Incident) : d.triggersTo (d.modIncident n f) :=
  Dev.triggersTo_of_drm (fun b hb => by cases b <;> simp [Part.agrees] at hb ⊢) (Drm.growsTo_of_eq (by simp) (by simp))

theorem Dev.countSecondary_triggersTo (number n : Nat) (t : TriggerRecord) :
    d.triggersTo (d.countSecondary number n t) := by
  have queues : d.triggersTo (d.queueEntry (.triggerAdd number t.cause t.tick)) :=
    Dev.triggersTo_of_drm (fun b hb => by cases b <;> simp at hb <;> rfl) (d.queueEntry_grows _)
  unfold Dev.countSecondary
  split
  · split
    · exact queues.trans (Dev.modIncident_triggersTo _ _ _)
    · exact d.addWaiter_triggersTo fun _ => rfl
  · exact d.modIncident_triggersTo _ _

theorem Dev.secondaryOf_triggersTo (number n : Nat) (t : TriggerRecord) :
    d.triggersTo (d.secondaryOf number n t none) := by
  rw [Dev.secondaryOf_eq]
  exact (d.triggerEvent_triggersTo ..).trans (Dev.countSecondary_triggersTo _ number n t)

theorem Dev.takeTrigger_triggersTo (t : TriggerRecord) : d.triggersTo (d.takeTrigger t none) := by
  have setsIct (f : Ict → Ict) : d.triggersTo (d.setIct f) :=
    Dev.triggersTo_of_drm (fun b hb => by cases b <;> simp at hb <;> rfl) (Drm.growsTo_rfl _)
  unfold Dev.takeTrigger
  split
  · exact d.refuseTrigger_triggersTo t
  split
  · exact d.secondaryOf_triggersTo ..
  · exact setsIct _
  · dsimp only
    split
    · exact d.openBy_triggersTo _ t
    · exact (setsIct _).trans (Dev.addWaiter_triggersTo _ fun _ => rfl)

/-- Without roll-oldest a trigger leaves the reads. -/
theorem Dev.takeTrigger_rtu (off : d.sst.working.rollOldest ≠ 1) (t : TriggerRecord) : (d.takeTrigger t none).rtu = d.rtu := by
  have way : ∀ s n, d.openingWay ≠ .roll s n := by
    intro s n
    unfold Dev.openingWay
    split
    · nofun
    · split
      · nofun
      · nofun
  have opens (i : DirSlot) : (d.openIncident i t none).rtu = d.rtu := by
    rw [Dev.openIncident_eq]
    exact d.opening_keepsAllBut i t .rtu (by decide)
  have refuses : (d.refuseTrigger t none).rtu = d.rtu := by
    simp
  unfold Dev.takeTrigger
  split
  · exact refuses
  split
  · simp [Dev.secondaryTrigger]
  · rfl
  · dsimp only
    split
    · cases h : d.openingWay with
      | slot s => exact opens s
      | roll s n => exact absurd h (way s n)
      | refused => exact refuses
    · rfl

end

end Sys2Proof.Machine
end


section
/-! PROOFS. What a power return does (R21, R137 to R139, R193). -/

namespace Sys2Proof.Machine

/-! ### Without an incident that records or closes -/

/-- No incident is RECORDING and none is CLOSING. -/
structure Dev.noCapture (d : Dev) : Prop where
  recording : d.ict.recording = none
  closing : d.ict.closing = none

section
variable {d e : Dev}

theorem Dev.noCapture.of_ict (h : d.noCapture) (ict : e.ict = d.ict) : e.noCapture :=
  ⟨ict ▸ h.recording, ict ▸ h.closing⟩

theorem Dev.noCapture.tryPass (h : d.noCapture) : d.tryPass = d := by
  rcases d.tryPass_cases with stays | ⟨k, r, passes, -⟩
  · exact stays
  · exact absurd (h.recording.symm.trans (Dev.passes_iff.1 passes).2.2.1) nofun

theorem Dev.noCapture.tryKeep (h : d.noCapture) : d.tryKeep = d := by
  refine Dev.tryKeep_stays ?_
  cases keeps : d.keepable with
  | none => rfl
  | some kr => exact absurd (h.closing.symm.trans (Dev.keepable_iff (k := kr.1) (r := kr.2).1 keeps).1) nofun

theorem Dev.noCapture.closeRun (h : d.noCapture) : d.closeRun = d := by
  unfold Dev.closeRun
  rw [h.tryPass, h.tryKeep, h.tryPass, h.tryKeep]

theorem Dev.noCapture.tryRelease (h : d.noCapture) (i : StreamIdx) : (d.tryRelease i).noCapture := by
  have released : (d.releaseKeeping i).noCapture := by
    rcases d.releaseKeeping_cases i with stays | waits | ⟨x, k, -, -, releases⟩
    · rw [stays]
      exact h
    · rw [waits]
      unfold Dev.waitCapture
      split
      · exact h
      · exact h.of_ict rfl
    · have slot : (d.releaseSlot i x k).noCapture := h.of_ict (by simp)
      rw [releases, slot.tryKeep]
      exact slot
  rw [Dev.tryRelease, released.closeRun]
  exact released

theorem Dev.noCapture.cutDiscard (h : d.noCapture) (i : StreamIdx) (r : Reason) : (d.cutDiscard i r).noCapture := by
  unfold Dev.cutDiscard
  split
  next b _ =>
    dsimp only
    refine Dev.noCapture.tryRelease ?_ i
    rw [Dev.noCapture.closeRun (h.of_ict (by simp))]
    exact h.of_ict (by simp)
  · exact h

theorem Dev.noCapture.cmeOnce (h : d.noCapture) : d.cmeOnce.noCapture := by
  unfold Dev.cmeOnce
  split
  · exact h
  · split
    next given =>
      obtain ⟨-, -, -, ict, -⟩ := Dev.givePage_frame given
      exact h.of_ict (by simpa [Dev.setStb] using ict)
    · exact h.cutDiscard ..

theorem Dev.noCapture.cmeLoop (n : Nat) (h : d.noCapture) : (Dev.cmeLoop n d).noCapture := by
  induction n generalizing d with
  | zero => exact h
  | succ n ih =>
    unfold Dev.cmeLoop
    split
    · exact ih h.cmeOnce
    · exact h

theorem Dev.noCapture.cmeTest (h : d.noCapture) : d.cmeTest.noCapture := h.cmeLoop _

end

/-! ### The supply's return -/

section
variable (d : Dev)

/-- The supply is normal again, the hold-up deadline cancelled and the recharge begun (R137, R139). -/
def Dev.recharged : Dev :=
  ((d.setHum fun h => { h with mode := .normal, closing := none }).deadlines fun t => { t with holdup := none }).armRecharge

/-- A power return up to its event (R137). -/
def Dev.returned : Dev := d.recharged.cmeTest.event evPowerReturn 4 (f1 d.recharged.cmeTest.creditBytes)

theorem Dev.powerReturn_holdup (h : d.hum.mode = .holdup) : d.powerReturn = d.returned := by
  have notExhausted : (d.hum.mode == .exhausted) = false := by rw [h]; rfl
  unfold Dev.powerReturn
  rw [notExhausted]
  rfl

theorem Dev.powerReturn_exhausted (h : d.hum.mode = .exhausted) : d.powerReturn = Dev.emptyLatches 5 d.returned.returnTests := by
  have exhausted : (d.hum.mode == .exhausted) = true := by rw [h]; rfl
  unfold Dev.powerReturn
  rw [exhausted]
  rfl

/-- The credits after the return (R139). -/
def Dev.rechargedCredits : Nat := if d.sst.working.recharge = 0 then d.sst.working.credits else d.hum.credits

/-- The recharge deadline after the return (R139). -/
def Dev.rechargedDeadline : Option Tick :=
  if d.sst.working.recharge = 0 then none else some (d.tmb.tick + BitVec.ofNat 48 (d.sst.working.recharge * 1000))

/-- The supply is normal again and the hold-up deadline cancelled (R137). -/
def Dev.suppliedAgain : Dev :=
  (d.setHum fun h => { h with mode := .normal, closing := none }).deadlines fun t => { t with holdup := none }

theorem Dev.recharged_now (zero : d.sst.working.recharge = 0) : d.recharged = d.suppliedAgain.rechargeNow := if_pos zero

theorem Dev.recharged_later (some : d.sst.working.recharge ≠ 0) : d.recharged = d.suppliedAgain.deadlines fun t =>
    { t with recharge := .some (d.afterMs d.sst.working.recharge) } := if_neg some

theorem Dev.recharged_hum : d.recharged.hum = ⟨.normal, d.rechargedCredits, none⟩ := by
  unfold Dev.rechargedCredits
  by_cases zero : d.sst.working.recharge = 0
  · rw [d.recharged_now zero, if_pos zero]
    rfl
  · rw [d.recharged_later zero, if_neg zero]
    rfl

theorem Dev.recharged_deadlines : d.recharged.tmb.deadlines.holdup = none
    ∧ d.recharged.tmb.deadlines.recharge = d.rechargedDeadline := by
  unfold Dev.rechargedDeadline
  by_cases zero : d.sst.working.recharge = 0
  · rw [d.recharged_now zero, if_pos zero]
    exact ⟨rfl, rfl⟩
  · rw [d.recharged_later zero, if_neg zero]
    exact ⟨rfl, rfl⟩

theorem Dev.recharged_keepsAllBut : d.keepsAllBut [.hum, .tmb] d.recharged := fun b hb => by
  cases b <;> simp [Part.agrees, Dev.recharged, Dev.setHum, Dev.deadlines] at hb ⊢

theorem Dev.cmeTest_keepsAllBut :
    d.keepsAllBut [.ict, .cpm, .stb, .cme, .plm, .arc, .drm, .hiu, .tmb, .ntu] d.cmeTest := fun b hb => by
  cases b <;> simp [Part.agrees] at hb ⊢

theorem Dev.returned_of_recharged :
    d.recharged.keepsAllBut [.ict, .cpm, .stb, .cme, .plm, .arc, .drm, .hiu, .tmb, .ntu] d.returned :=
  d.recharged.cmeTest_keepsAllBut.trans ((Dev.event_logsTo ..).keepsAllBut.mono (by decide))

theorem Dev.returned_keepsAllBut :
    d.keepsAllBut [.ict, .cpm, .stb, .cme, .plm, .arc, .drm, .hiu, .hum, .tmb, .ntu] d.returned :=
  (d.recharged_keepsAllBut.mono (by decide)).trans (d.returned_of_recharged.mono (by decide))

theorem Dev.returned_hum : d.returned.hum = ⟨.normal, d.rechargedCredits, none⟩ :=
  (d.returned_of_recharged .hum (by decide)).trans d.recharged_hum

theorem Dev.returned_capturesTo : d.recharged.capturesTo d.returned :=
  (Dev.cmeTest_capturesTo _).trans (Dev.capturesTo_of_logsTo (Dev.event_logsTo ..))

theorem Dev.capturesTo.recharge {d e : Dev} (h : d.capturesTo e) :
    e.tmb.deadlines.recharge = d.tmb.deadlines.recharge := by rw [h.tmb]

theorem Dev.returned_deadlines : d.returned.tmb.deadlines.holdup = none
    ∧ d.returned.tmb.deadlines.recharge = d.rechargedDeadline ∧ d.returned.tmb.tick = d.tmb.tick := by
  obtain ⟨holdup, recharge⟩ := d.recharged_deadlines
  have captures := d.returned_capturesTo
  exact ⟨captures.holdup.trans holdup, captures.recharge.trans recharge,
    (congrArg Tmb.tick captures.tmb).trans (by simp [Dev.recharged, Dev.setHum, Dev.deadlines])⟩

theorem Dev.returned_noCapture (h : d.noCapture) : d.returned.noCapture := by
  have recharged : d.recharged.noCapture := h.of_ict (d.recharged_keepsAllBut .ict (by decide))
  exact recharged.cmeTest.of_ict (by simp [Dev.returned])

theorem Dev.returned_recording (h : d.ict.recording ≠ none) (open_ : d.ict.windowExpired = false) :
    d.returned.ict.recording ≠ none := by
  have ict : d.recharged.ict = d.ict := d.recharged_keepsAllBut .ict (by decide)
  rcases d.returned_capturesTo.record with ⟨same, -⟩ | ⟨expired, -⟩
  · rw [same, ict]
    exact h
  · rw [ict, open_] at expired
    exact absurd expired nofun

/-! ### The tests of R137 and R138 -/

/-- The tests up to the load. -/
def Dev.loadTested : Dev :=
  (d.onlyIf d.compactionReady Dev.startCompaction).onlyIf
    (d.onlyIf d.compactionReady Dev.startCompaction).reclaimReady Dev.startReclaim

theorem Dev.returnTests_eq : d.returnTests = d.loadTested.onlyIf d.loadTested.loadReady Dev.load := rfl

theorem Dev.loadTested_frame : d.loadTested.tru = d.tru ∧ d.loadTested.ict = d.ict ∧ d.loadTested.hum = d.hum
    ∧ d.loadTested.tmb = d.tmb ∧ d.loadTested.sst = d.sst ∧ d.loadTested.rcs = d.rcs := by
  unfold Dev.loadTested
  cases d.compactionReady <;> cases Dev.reclaimReady _ <;> simp

theorem Dev.load_frame' : d.load.tru = d.tru ∧ d.load.tmb.tick = d.tmb.tick ∧ d.load.rcs = d.rcs
    ∧ d.load.tmb.deadlines.holdup = d.tmb.deadlines.holdup ∧ d.load.tmb.deadlines.recharge = d.tmb.deadlines.recharge
    ∧ d.load.hum = d.loaded.hum := by
  have h := d.load_logsTo
  unfold Dev.logsTo at h
  rw [h]
  exact ⟨rfl, rfl, rfl, rfl, rfl, rfl⟩

open Classical in
/-- The credits behind the tests: those of the settings where they load (R139, R193). -/
theorem Dev.returnTests_hum (mode : d.hum.mode = .normal) : d.returnTests.hum = { d.hum with
    credits := if d.sst.loadDue = true ∧ d.noCapture then
        (if d.tmb.deadlines.recharge = none then d.sst.pending.credits else min d.hum.credits d.sst.pending.credits)
      else d.hum.credits } := by
  obtain ⟨-, ict, hum, tmb, sst, -⟩ := d.loadTested_frame
  have ready : d.loadTested.loadReady = true ↔ d.sst.loadDue = true ∧ d.noCapture := by
    rw [Dev.loadReady_iff, ict, hum, sst]
    exact ⟨fun ⟨due, _, recording, closing⟩ => ⟨due, recording, closing⟩,
      fun ⟨due, recording, closing⟩ => ⟨due, mode, recording, closing⟩⟩
  rw [Dev.returnTests_eq]
  by_cases due : d.sst.loadDue = true ∧ d.noCapture
  · rw [ready.2 due, Dev.onlyIf_true, d.loadTested.load_frame'.2.2.2.2.2, if_pos due, Dev.loaded, hum, tmb, sst]
  · rw [Bool.eq_false_iff.2 (due ∘ ready.1), Dev.onlyIf_false, if_neg due, hum]

theorem Dev.returnTests_frame' : d.returnTests.tru = d.tru ∧ d.returnTests.tmb.tick = d.tmb.tick
    ∧ d.returnTests.rcs = d.rcs ∧ d.returnTests.tmb.deadlines.holdup = d.tmb.deadlines.holdup
    ∧ d.returnTests.tmb.deadlines.recharge = d.tmb.deadlines.recharge := by
  obtain ⟨tru, -, -, tmb, -, rcs⟩ := d.loadTested_frame
  rw [Dev.returnTests_eq]
  cases d.loadTested.loadReady with
  | false => rw [Dev.onlyIf_false, tru, tmb, rcs]; exact ⟨rfl, rfl, rfl, rfl, rfl⟩
  | true =>
    obtain ⟨tru', tick, rcs', holdup, recharge, -⟩ := d.loadTested.load_frame'
    rw [Dev.onlyIf_true, tru', tick, rcs', holdup, recharge, tru, tmb, rcs]
    exact ⟨rfl, rfl, rfl, rfl, rfl⟩

theorem Dev.emptyLatches_deadlines (n : Nat) (d : Dev) :
    (Dev.emptyLatches n d).tmb.deadlines.holdup = d.tmb.deadlines.holdup
      ∧ (Dev.emptyLatches n d).tmb.deadlines.recharge = d.tmb.deadlines.recharge := by
  induction n generalizing d with
  | zero => exact ⟨rfl, rfl⟩
  | succ n ih =>
    unfold Dev.emptyLatches
    split
    next i t _ =>
      obtain ⟨holdup, recharge⟩ := ih ((d.unlatched i).takeTrigger t none)
      have taken := (d.unlatched i).takeTrigger_triggersTo t
      exact ⟨holdup.trans taken.holdup, recharge.trans taken.recharge⟩
    · exact ⟨rfl, rfl⟩

end

/-- What the return does in the two modes. -/
theorem Dev.powerReturn_spec {d : Dev} (mode : d.hum.mode = .holdup ∨ d.hum.mode = .exhausted) :
    d.powerReturn.hum.mode = .normal ∧ d.powerReturn.hum.closing = none ∧ d.powerReturn.tmb.deadlines.holdup = none
      ∧ d.powerReturn.tmb.deadlines.recharge = d.rechargedDeadline := by
  obtain ⟨holdup, recharge, -⟩ := d.returned_deadlines
  have hum := d.returned_hum
  rcases mode with held | exhausted
  · rw [d.powerReturn_holdup held, hum]
    exact ⟨rfl, rfl, holdup, recharge⟩
  · obtain ⟨holdup', recharge'⟩ := Dev.emptyLatches_deadlines 5 d.returned.returnTests
    obtain ⟨-, -, -, holdup'', recharge''⟩ := d.returned.returnTests_frame'
    have tests := d.returned.returnTests_hum (by rw [hum])
    have same : (Dev.emptyLatches 5 d.returned.returnTests).hum = d.returned.returnTests.hum := by simp
    rw [d.powerReturn_exhausted exhausted, same, tests, hum]
    exact ⟨rfl, rfl, (holdup'.trans holdup'').trans holdup, (recharge'.trans recharge'').trans recharge⟩

open Classical in
theorem Dev.powerReturn_credits {d : Dev} (exhausted : d.hum.mode = .exhausted) : d.powerReturn.hum.credits =
    if d.sst.loadDue = true ∧ d.returned.noCapture then
      (if d.rechargedDeadline = none then d.sst.pending.credits else min d.rechargedCredits d.sst.pending.credits)
    else d.rechargedCredits := by
  have hum := d.returned_hum
  have sst : d.returned.sst = d.sst := d.returned_keepsAllBut .sst (by decide)
  have tests := d.returned.returnTests_hum (by rw [hum])
  have same : (Dev.emptyLatches 5 d.returned.returnTests).hum = d.returned.returnTests.hum := by simp
  rw [d.powerReturn_exhausted exhausted, same, tests, hum, sst, d.returned_deadlines.2.1]

end Sys2Proof.Machine
end


section
/-! PROOFS. The reads that a warning withdraws, and what the closing phase leaves of them (R65, R134, R181). -/

namespace Sys2Proof.Machine

section
variable {d e f : Dev} {p q : Port}

/-- A port, its line, its cursor and its read in hand stand. -/
structure Dev.readStands (d e : Dev) (q : Port) : Prop where
  port : d.portStands e q
  job : e.job q = d.job q
  cursor : e.cursor q = d.cursor q
  waits : e.arc.waits (.rtu q) = d.arc.waits (.rtu q)

theorem Dev.readStands_rfl (d : Dev) (q : Port) : d.readStands d q := ⟨Dev.portStands_of_pif rfl, rfl, rfl, rfl⟩

theorem Dev.readStands.trans (h : d.readStands e q) (g : e.readStands f q) : d.readStands f q :=
  ⟨h.port.trans g.port, g.job.trans h.job, g.cursor.trans h.cursor, g.waits.trans h.waits⟩

theorem Dev.readStands_of_same (pif : e.pif = d.pif) (rtu : e.rtu = d.rtu)
    (waits : e.arc.waits (.rtu q) = d.arc.waits (.rtu q)) : d.readStands e q :=
  ⟨Dev.portStands_of_pif pif, by rw [Dev.job, rtu]; rfl, by rw [Dev.cursor, rtu]; rfl, waits⟩

theorem Dev.asksTo.waits (h : d.asksTo e) (q : Port) : e.arc.waits (.rtu q) = d.arc.waits (.rtu q) := by
  obtain ⟨l, hl, own⟩ := h.waiting
  have new : l.any (·.who == .rtu q) = false := List.any_eq_false.2 fun r mem same => own r mem q (beq_iff_eq.1 same)
  rw [Arc.waits, hl, List.any_append, new, Bool.or_false]
  rfl

/-! ### One read -/

theorem Dev.withdrawRead_rests (h : d.job p = none ∨ d.arc.waits (.rtu p) = false) : d.withdrawRead p = d := by
  unfold Dev.withdrawRead
  split
  next j job =>
    refine if_neg fun waits => ?_
    rcases h with none | off
    · exact absurd (job.symm.trans none) nofun
    · exact absurd (waits.symm.trans off) nofun
  · rfl

theorem Dev.withdrawRead_answers {j : ReadJob} (job : d.job p = some j) (waits : d.arc.waits (.rtu p) = true) :
    d.withdrawRead p = ((d.dropRead p).setCursor p j.prior).reply p .power 0 .empty := by
  simp only [Dev.withdrawRead, job, waits, if_true]

theorem Dev.withdraw_waits (d : Dev) (who other : Requester) :
    (d.withdraw who).arc.waits other = if who = other then false else d.arc.waits other := by
  unfold Arc.waits Dev.withdraw
  rw [List.any_filter]
  split
  next same =>
    subst same
    simp
  next ne =>
    refine congrArg (fun g : ArrReq → Bool => d.arc.waiting.any g) (funext fun r => ?_)
    by_cases is : r.who = other
    · simp [is, Ne.symm ne]
    · simp [is]

theorem Dev.withdrawRead_other (ne : p ≠ q) : d.readStands (d.withdrawRead p) q := by
  by_cases h : d.job p = none ∨ d.arc.waits (.rtu p) = false
  · rw [Dev.withdrawRead_rests h]
    exact d.readStands_rfl q
  · obtain ⟨some, waits⟩ := not_or.1 h
    obtain ⟨j, job⟩ := Option.ne_none_iff_exists'.1 some
    rw [Dev.withdrawRead_answers job (Bool.eq_true_of_not_eq_false waits)]
    have dropped : d.readStands ((d.dropRead p).setCursor p j.prior) q := by
      refine ⟨Dev.portStands_of_pif rfl, ?_, ?_, ?_⟩
      · exact (Dev.job_setJob (d.withdraw (.rtu p)) p q none).trans (if_neg ne)
      · exact (Dev.cursor_setCursor (d.dropRead p) p q j.prior).trans (if_neg ne)
      · exact (d.withdraw_waits (.rtu p) (.rtu q)).trans (if_neg fun same => ne (Requester.rtu.inj same))
    generalize (d.dropRead p).setCursor p j.prior = e at dropped ⊢
    obtain ⟨port, line⟩ := Dev.reply_elsewhere e ne .power 0 .empty
    exact dropped.trans ⟨⟨port, line⟩, by simp [Dev.job], by simp [Dev.cursor], by simp⟩

/-- A waiting read is withdrawn and answered, its cursor as before the request. -/
theorem Dev.withdrawRead_self {j : ReadJob} (job : d.job q = some j) (waits : d.arc.waits (.rtu q) = true) :
    (d.withdrawRead q).job q = none ∧ (d.withdrawRead q).port q = (d.reply q .power 0 .empty).port q
      ∧ (d.withdrawRead q).cursor q = j.prior ∧ (d.withdrawRead q).arc.waits (.rtu q) = false := by
  rw [Dev.withdrawRead_answers job waits]
  have noJob : ((d.dropRead q).setCursor q j.prior).job q = none :=
    (Dev.job_setJob (d.withdraw (.rtu q)) q q none).trans (if_pos rfl)
  have cursor : ((d.dropRead q).setCursor q j.prior).cursor q = j.prior :=
    (Dev.cursor_setCursor (d.dropRead q) q q j.prior).trans (if_pos rfl)
  have off : ((d.dropRead q).setCursor q j.prior).arc.waits (.rtu q) = false :=
    (d.withdraw_waits (.rtu q) (.rtu q)).trans (if_pos rfl)
  have stands : d.portStands ((d.dropRead q).setCursor q j.prior) q := Dev.portStands_of_pif rfl
  generalize (d.dropRead q).setCursor q j.prior = e at noJob cursor off stands ⊢
  exact ⟨by simpa [Dev.job] using noJob, stands.reply .power 0 .empty, by simpa [Dev.cursor] using cursor,
    by simpa using off⟩

/-! ### All of them -/

/-- The reads of some ports are withdrawn. -/
def Dev.withdrawReads (d : Dev) (l : List Port) : Dev := l.foldl Dev.withdrawRead d

/-- A port without a read in hand is left. -/
theorem Dev.withdrawReads_stands (l : List Port) {d : Dev} (none : d.job q = none) : d.readStands (d.withdrawReads l) q := by
  induction l generalizing d with
  | nil => exact d.readStands_rfl q
  | cons p l ih =>
    have first : d.readStands (d.withdrawRead p) q := by
      by_cases same : p = q
      · subst same
        rw [Dev.withdrawRead_rests (.inl none)]
        exact d.readStands_rfl _
      · exact Dev.withdrawRead_other same
    exact first.trans (ih (first.job.trans none))

theorem Dev.withdrawReads_answers {j : ReadJob} (l : List Port) {d : Dev} (mem : q ∈ l) (job : d.job q = some j)
    (waits : d.arc.waits (.rtu q) = true) : (d.withdrawReads l).job q = none
      ∧ (d.withdrawReads l).port q = (d.reply q .power 0 .empty).port q ∧ (d.withdrawReads l).cursor q = j.prior
      ∧ (d.withdrawReads l).arc.waits (.rtu q) = false := by
  induction l generalizing d with
  | nil => exact absurd mem List.not_mem_nil
  | cons p l ih =>
    by_cases same : p = q
    · subst same
      obtain ⟨none, answered, cursor, off⟩ := Dev.withdrawRead_self job waits
      have rest := Dev.withdrawReads_stands l none
      exact ⟨rest.job.trans none, rest.port.port.trans answered, rest.cursor.trans cursor, rest.waits.trans off⟩
    · have first := Dev.withdrawRead_other (d := d) same
      obtain ⟨none, answered, cursor, off⟩ := ih ((List.mem_cons.1 mem).resolve_left (Ne.symm same))
        (first.job.trans job) (first.waits.trans waits)
      exact ⟨none, answered.trans (first.port.reply .power 0 .empty), cursor, off⟩

theorem Dev.withdrawRead_readsTo (d : Dev) (p : Port) : d.readsTo (d.withdrawRead p) := by
  by_cases h : d.job p = none ∨ d.arc.waits (.rtu p) = false
  · rw [Dev.withdrawRead_rests h]
    exact Dev.readsTo_of_same rfl
  · obtain ⟨some, waits⟩ := not_or.1 h
    obtain ⟨j, job⟩ := Option.ne_none_iff_exists'.1 some
    rw [Dev.withdrawRead_answers job (Bool.eq_true_of_not_eq_false waits)]
    exact (d.withdraw_readsTo (.rtu p)).trans (Dev.readsTo_of_same (by simp [Dev.dropRead, Dev.setJob, Dev.setRtu, Dev.setCursor]))

theorem Dev.withdrawReads_readsTo (l : List Port) (d : Dev) : d.readsTo (d.withdrawReads l) := by
  induction l generalizing d with
  | nil => exact Dev.readsTo_of_same rfl
  | cons p l ih => exact (d.withdrawRead_readsTo p).trans (ih _)

/-- No read in hand waits then. -/
theorem Dev.withdrawReads_off {j : ReadJob} (l : List Port) {d : Dev} (mem : q ∈ l) (job : d.job q = some j) :
    (d.withdrawReads l).arc.waits (.rtu q) = false := by
  cases waits : d.arc.waits (.rtu q) with
  | true => exact (Dev.withdrawReads_answers l mem job waits).2.2.2
  | false => exact (Dev.withdrawReads_readsTo l d).none waits

theorem Dev.withdrawReads_keeps (l : List Port) (d : Dev) : d.keepsAllBut [.pif, .arc, .rtu] (d.withdrawReads l)
    ∧ (d.withdrawReads l).arc.storeFailed = d.arc.storeFailed := by
  have one (d : Dev) (p : Port) : d.keepsAllBut [.pif, .arc, .rtu] (d.withdrawRead p) := fun b hb => by
    cases b <;> simp [Part.agrees] at hb ⊢
  induction l generalizing d with
  | nil => exact ⟨d.keepsAllBut_rfl _, rfl⟩
  | cons p l ih =>
    obtain ⟨keeps, failed⟩ := ih (d.withdrawRead p)
    exact ⟨(one d p).trans keeps, failed.trans (by simp)⟩

theorem Dev.withdrawReads_flowsTo (l : List Port) (d : Dev) : d.flowsTo (d.withdrawReads l) :=
  Dev.flowsTo_foldl _ Dev.withdrawRead_flowsTo l d

/-! ### The closing phase -/

theorem Dev.foldl_readsTo {α : Type} {g : Dev → α → Dev} (step : ∀ (d : Dev) a, d.readsTo (g d a)) :
    ∀ (l : List α) (d : Dev), d.readsTo (l.foldl g d)
  | [], _ => Dev.readsTo_of_same rfl
  | a :: l, d => (step d a).trans (Dev.foldl_readsTo step l _)

theorem Dev.cmeClosing_readsTo (d : Dev) : d.readsTo d.cmeClosing := by
  unfold Dev.cmeClosing
  split
  · refine (d.withdraw_readsTo .commit).trans ?_
    dsimp only
    split
    · exact Dev.readsTo_of_same (by simp [Dev.setCme, Dev.setPlm])
    · exact Dev.readsTo_of_same (by simp [Dev.setCme])
  · exact (d.withdraw_readsTo .voidMark).trans (Dev.readsTo_of_same (by simp [Dev.setCme, Dev.setPlm]))
  · exact Dev.readsTo_of_same rfl
  · exact Dev.readsTo_of_same rfl
  · exact Dev.readsTo_of_same rfl

theorem Dev.cutClosing_asksTo (d : Dev) (i : StreamIdx) : d.asksTo (d.cutClosing i) := by
  unfold Dev.cutClosing
  split
  · exact (Dev.reportCut_asksTo _ _ _).after (by simp)
  · exact d.asksTo_rfl

theorem Dev.releaseKeeping_asksTo (d : Dev) (i : StreamIdx) : d.asksTo (d.releaseKeeping i) := by
  rcases d.releaseKeeping_cases i with stays | waits | ⟨x, k, -, -, releases⟩
  · rw [stays]
    exact d.asksTo_rfl
  · rw [waits]
    exact d.waitCapture_asksTo _
  · rw [releases]
    exact (Dev.tryKeep_asksTo _).after (by simp)

theorem Dev.closing_readsTo (d : Dev) (c : ClosingCause) : d.readsTo (d.beginClosing c) := by
  have start : d.readsTo (d.closingStart c) := by
    have arms : d.readsTo ((d.setHum fun h => { h with closing := some c }).deadlines fun t => { t with holdup := none }) :=
      Dev.readsTo_of_same rfl
    refine arms.trans ((Dev.cmeClosing_readsTo _).trans (Dev.readsTo_of_same ?_))
    simp [Dev.closingStart]
  rw [Dev.beginClosing_eq]
  exact start.trans ((Dev.foldl_readsTo (fun e i => (e.cutClosing_asksTo i).reads) _ _).trans
    ((Dev.foldl_readsTo (g := Dev.discardBlocks) (fun e i => Dev.readsTo_of_same (by simp)) _ _).trans
      ((Dev.foldl_readsTo (fun e i => (e.releaseKeeping_asksTo i).reads) _ _).trans
        ((Dev.closeRun_asksTo _).reads.trans (Dev.markedEvent_asksTo _ _ _ _).reads))))

/-- A stream that has its end keeps it through the beginning of the closing phase. -/
theorem Dev.takesEnd.closing {d : Dev} {i : StreamIdx} {x : StreamBody} {k : PendingEnd} (h : d.takesEnd i x k)
    (c : ClosingCause) : (d.beginClosing c).takesEnd i x k := by
  rcases h with ⟨n, stands⟩ | ⟨gone, mem⟩
  · exact Dev.closing_takes c stands
  · exact .inr ⟨Dev.closing_free c gone, (d.closing_grows c).queue.subset mem⟩

end

end Sys2Proof.Machine
end


section
/-! PROOFS. What the endings of streams leave of an incident's triggers (R11, R15, R16, R47). -/

namespace Sys2Proof.Machine

/-- The number of an incident, its secondary triggers and its overflow count. -/
def Incident.triggers (x : Incident) : Nat × List (Cause × Tick) × Nat := (x.number, x.secondary, x.overflow)

/-- The triggers that each incident has recorded, and those that wait to be, stand. -/
structure Dev.keepsTriggers (d e : Dev) : Prop where
  dir : ∀ k : DirSlot, (e.drm.dir[k]).map Incident.triggers = (d.drm.dir[k]).map Incident.triggers
  adds : ∀ n, e.drm.captureWaiters.filter (CapWaiter.addsTo n) = d.drm.captureWaiters.filter (CapWaiter.addsTo n)

section
variable {d e f : Dev}

theorem Dev.keepsTriggers_of_same (dir : e.drm.dir = d.drm.dir) (waiters : e.drm.captureWaiters = d.drm.captureWaiters) :
    d.keepsTriggers e := ⟨fun k => by rw [dir], fun n => by rw [waiters]⟩

theorem Dev.keepsTriggers_of_drm (h : e.drm = d.drm) : d.keepsTriggers e :=
  Dev.keepsTriggers_of_same (by rw [h]) (by rw [h])

theorem Dev.keepsTriggers_rfl (d : Dev) : d.keepsTriggers d := Dev.keepsTriggers_of_drm rfl

theorem Dev.keepsTriggers.trans (h : d.keepsTriggers e) (g : e.keepsTriggers f) : d.keepsTriggers f :=
  ⟨fun k => (g.dir k).trans (h.dir k), fun n => (g.adds n).trans (h.adds n)⟩

/-- A record rewritten in its slot. -/
theorem Dev.keepsTriggers_of_modify {i : DirSlot} {g : Incident → Incident} (keeps : ∀ r, (g r).triggers = r.triggers)
    (dir : e.drm.dir = modify d.drm.dir i (Option.map g)) (waiters : e.drm.captureWaiters = d.drm.captureWaiters) :
    d.keepsTriggers e := by
  refine ⟨fun k => ?_, fun n => by rw [waiters]⟩
  rw [dir, get_modify]
  split
  · cases d.drm.dir[k] <;> simp [keeps]
  · rfl

theorem Dev.modIncident_keepsTriggers (d : Dev) (n : Nat) {g : Incident → Incident}
    (keeps : ∀ r, (g r).triggers = r.triggers) : d.keepsTriggers (d.modIncident n g) := by
  unfold Dev.modIncident
  split
  · exact Dev.keepsTriggers_of_modify keeps rfl rfl
  · exact d.keepsTriggers_rfl

theorem Dev.waitCapture_keepsTriggers (d : Dev) {w : CapWaiter} (own : ∀ n, w.addsTo n = false) :
    d.keepsTriggers (d.waitCapture w) := by
  unfold Dev.waitCapture
  split
  · exact d.keepsTriggers_rfl
  · refine ⟨fun _ => rfl, fun n => ?_⟩
    have waits : (d.addWaiter w).drm.captureWaiters = d.drm.captureWaiters ++ [w] := rfl
    rw [waits, List.filter_append, List.filter_singleton, own n]
    exact List.append_nil _

/-- The incident of a slot with its triggers. -/
theorem Dev.keepsTriggers.record (h : d.keepsTriggers e) {i : DirSlot} {x : Incident} (hx : d.drm.dir[i] = some x) :
    ∃ y, e.drm.dir[i] = some y ∧ y.number = x.number ∧ y.secondary = x.secondary ∧ y.overflow = x.overflow := by
  have same := h.dir i
  rw [hx] at same
  obtain ⟨y, hy, triggers⟩ := Option.map_eq_some_iff.1 same
  exact ⟨y, hy, congrArg (·.1) triggers, congrArg (·.2.1) triggers, congrArg (·.2.2) triggers⟩

theorem Dev.keepsTriggers.slotOf (h : d.keepsTriggers e) (n : Nat) : e.drm.slotOf n = d.drm.slotOf n := by
  unfold Drm.slotOf
  congr 1
  funext k
  have same := congrArg (Option.any fun r : Nat × List (Cause × Tick) × Nat => r.1 == n) (h.dir k)
  simpa [Option.any_map, Incident.triggers] using same

/-- The count of secondary triggers. -/
theorem Dev.keepsTriggers.secondaryCount (h : d.keepsTriggers e) {x y : Incident} (number : y.number = x.number)
    (secondary : y.secondary = x.secondary) : e.secondaryCount y = d.secondaryCount x := by
  unfold Dev.secondaryCount
  rw [number, secondary, h.adds]

/-! ### The operations -/

variable (d)

theorem Dev.tryPass_keepsTriggers : d.keepsTriggers d.tryPass := by
  rcases d.tryPass_cases with stays | ⟨k, r, -, passes⟩
  · rw [stays]
    exact d.keepsTriggers_rfl
  · rw [passes]
    exact Dev.keepsTriggers_of_modify (i := k) (g := fun r => { r with state := .closing }) (fun _ => rfl)
      (by rw [Dev.passed_drm]) (by rw [Dev.passed_drm])

theorem Dev.tryKeep_keepsTriggers : d.keepsTriggers d.tryKeep := by
  rcases d.tryKeep_cases with stays | waits | ⟨k, r, -, keeps⟩
  · rw [stays]
    exact d.keepsTriggers_rfl
  · rw [waits]
    exact d.waitCapture_keepsTriggers fun _ => rfl
  · rw [keeps]
    exact Dev.keepsTriggers_of_modify (i := k)
      (g := fun r' => { r' with state := .kept, completeness := some r.closeCompleteness }) (fun _ => rfl)
      (by rw [Dev.keep_drm]) (by rw [Dev.keep_drm])

theorem Dev.closeRun_keepsTriggers : d.keepsTriggers d.closeRun :=
  d.tryPass_keepsTriggers.trans ((Dev.tryKeep_keepsTriggers _).trans
    ((Dev.tryPass_keepsTriggers _).trans (Dev.tryKeep_keepsTriggers _)))

theorem Dev.releaseSlot_keepsTriggers (i : StreamIdx) (x : StreamBody) (k : PendingEnd) :
    d.keepsTriggers (d.releaseSlot i x k) := by
  have queues : d.keepsTriggers (d.queueEntry (.streamEnd x.incident x.stream k.kind k.reason x.short x.accepted
    x.committed x.pages)) := Dev.keepsTriggers_of_same rfl rfl
  have ends := Dev.modIncident_keepsTriggers (d.queueEntry (.streamEnd x.incident x.stream k.kind k.reason x.short
    x.accepted x.committed x.pages)) x.incident (g := (·.modStream x.stream fun r =>
      { r with accepted := x.accepted, committed := x.committed, pages := x.pages, endKind := k.kind
               reason := k.reason, short := x.short })) fun _ => rfl
  exact (queues.trans ends).trans (Dev.keepsTriggers_of_drm rfl)

theorem Dev.releaseKeeping_keepsTriggers (i : StreamIdx) : d.keepsTriggers (d.releaseKeeping i) := by
  rcases d.releaseKeeping_cases i with stays | waits | ⟨x, k, -, -, releases⟩
  · rw [stays]
    exact d.keepsTriggers_rfl
  · rw [waits]
    exact d.waitCapture_keepsTriggers fun _ => rfl
  · rw [releases]
    exact (d.releaseSlot_keepsTriggers i x k).trans (Dev.tryKeep_keepsTriggers _)

theorem Dev.tryRelease_keepsTriggers (i : StreamIdx) : d.keepsTriggers (d.tryRelease i) :=
  (d.releaseKeeping_keepsTriggers i).trans (Dev.closeRun_keepsTriggers _)

theorem Dev.cutDiscard_keepsTriggers (i : StreamIdx) (r : Reason) : d.keepsTriggers (d.cutDiscard i r) := by
  unfold Dev.cutDiscard
  split
  · exact Dev.keepsTriggers.trans (Dev.keepsTriggers_of_drm (by simp))
      ((Dev.closeRun_keepsTriggers _).trans (Dev.tryRelease_keepsTriggers _ i))
  · exact d.keepsTriggers_rfl

theorem Dev.cmeOnce_keepsTriggers : d.keepsTriggers d.cmeOnce := by
  unfold Dev.cmeOnce
  split
  · exact d.keepsTriggers_rfl
  · split
    next given =>
      obtain ⟨-, -, -, -, -, -, -, -, drm, -⟩ := Dev.givePage_frame given
      exact Dev.keepsTriggers_of_drm (by simpa [Dev.setStb] using drm)
    · exact d.cutDiscard_keepsTriggers ..

theorem Dev.cmeLoop_keepsTriggers : ∀ (n : Nat) (d : Dev), d.keepsTriggers (Dev.cmeLoop n d)
  | 0, d => d.keepsTriggers_rfl
  | n + 1, d => by
    unfold Dev.cmeLoop
    split
    · exact d.cmeOnce_keepsTriggers.trans (Dev.cmeLoop_keepsTriggers n _)
    · exact d.keepsTriggers_rfl

theorem Dev.endStream_keepsTriggers (i : StreamIdx) (k : PendingEnd) : d.keepsTriggers (d.endStream i k) := by
  by_cases isOpen : ∃ x, d.body i = some x ∧ x.ending = none
  · obtain ⟨x, taken, isOpen⟩ := isOpen
    rw [Dev.endStream_open taken isOpen]
    exact Dev.keepsTriggers.trans (Dev.keepsTriggers_of_drm ((Dev.reportEnd_frame _ x k).2.2.2.1.trans (by simp)))
      ((Dev.closeRun_keepsTriggers _).trans ((Dev.cmeLoop_keepsTriggers _ _).trans (Dev.tryRelease_keepsTriggers _ i)))
  · rw [Dev.endStream_not_open fun x taken ends => isOpen ⟨x, taken, ends⟩]
    exact d.keepsTriggers_rfl

theorem Dev.foldl_keepsTriggers {α : Type} {g : Dev → α → Dev} (step : ∀ (d : Dev) a, d.keepsTriggers (g d a)) :
    ∀ (l : List α) (d : Dev), d.keepsTriggers (l.foldl g d)
  | [], d => d.keepsTriggers_rfl
  | a :: l, d => (step d a).trans (Dev.foldl_keepsTriggers step l _)

theorem Dev.endAll_keepsTriggers (slots : List StreamIdx) (k : PendingEnd) : d.keepsTriggers (d.endAll slots k) :=
  Dev.foldl_keepsTriggers (fun e i => e.endStream_keepsTriggers i k) slots d

theorem Dev.cutClosing_keepsTriggers (i : StreamIdx) : d.keepsTriggers (d.cutClosing i) := by
  unfold Dev.cutClosing
  split
  · exact Dev.keepsTriggers_of_drm (by simp)
  · exact d.keepsTriggers_rfl

theorem Dev.markedEvent_keepsTriggers (code severity : Nat) (body : HBody) :
    d.keepsTriggers (d.markedEvent code severity body).dev := Dev.keepsTriggers_of_same (by simp) (by simp)

theorem Dev.closing_keepsTriggers (c : ClosingCause) : d.keepsTriggers (d.beginClosing c) := by
  have start : d.keepsTriggers (d.closingStart c) := Dev.keepsTriggers_of_drm (d.closingStart_frame c).2.2.2.1
  rw [Dev.beginClosing_eq]
  exact start.trans ((Dev.foldl_keepsTriggers Dev.cutClosing_keepsTriggers _ _).trans
    ((Dev.foldl_keepsTriggers (g := Dev.discardBlocks) (fun e i => Dev.keepsTriggers_of_drm (by simp)) _ _).trans
      ((Dev.foldl_keepsTriggers Dev.releaseKeeping_keepsTriggers _ _).trans
        ((Dev.closeRun_keepsTriggers _).trans (Dev.markedEvent_keepsTriggers _ _ _ _)))))

end

/-! ### A secondary trigger of the RECORDING incident (R11, R95) -/

section
variable {d : Dev} {i : DirSlot} {x : Incident}

/-- What the incident's secondary trigger leaves of the directory. -/
theorem Dev.takeTrigger_counts (running : d.arc.storeFailed = false) (recording : d.ict.recording = some i)
    (hx : d.drm.dir[i] = some x) (hk : d.drm.slotOf x.number = some i) (t : TriggerRecord) :
    (d.secondaryCount x < 4 → JEntry.triggerAdd x.number t.cause t.tick ∈ (d.takeTrigger t none).drm.queue
      ∨ CapWaiter.triggerAdd x.number t.cause t.tick ∈ (d.takeTrigger t none).drm.captureWaiters)
    ∧ (4 ≤ d.secondaryCount x → ∃ y, (d.takeTrigger t none).drm.dir[i] = some y ∧ y.overflow = min 255 (x.overflow + 1)) := by
  have at_i : d.drm.at? d.ict.recording = some x := by rw [recording]; exact hx
  have same : (d.triggerEvent t x.number .secondary).dev.drm = d.drm := by simp
  have drm : (d.takeTrigger t none).drm = d.drm.withSecondary i x (d.secondaryCount x) t := by
    rw [Dev.takeTrigger_secondary running at_i, Dev.secondaryOf_eq,
      Dev.countSecondary_eq (by rw [same]; exact hk) (by rw [same]; exact hx), same]
    rfl
  rw [drm]
  unfold Drm.withSecondary
  refine ⟨fun few => ?_, fun many => ?_⟩
  · rw [if_pos few]
    split
    · exact .inl (List.mem_append_right _ List.mem_cons_self)
    · exact .inr (List.mem_append_right _ List.mem_cons_self)
  · rw [if_neg (not_lt.2 many)]
    exact ⟨_, (get_put ..).trans (if_pos rfl), rfl⟩

end

end Sys2Proof.Machine
end


section
/-! PROOFS. O44: the entry to HOLDUP, part by part (R42, R65, R129 to R134, R181). -/

namespace Sys2Proof.Machine

section
variable {d e : Dev}

theorem Dev.logsTo.grows (h : d.logsTo e) : d.drm.growsTo e.drm := by
  rw [h]
  exact Drm.growsTo_of_eq rfl rfl

theorem Dev.logsTo.keepsTriggers (h : d.logsTo e) : d.keepsTriggers e := by
  rw [h]
  exact Dev.keepsTriggers_of_same rfl rfl

theorem Dev.logsTo.storeFailed (h : d.logsTo e) : e.arc.storeFailed = d.arc.storeFailed := by rw [h]

theorem Dev.raise_asksTo (d : Dev) (c : NoticeCause) (n : Nat) : d.asksTo (d.raise c n) := Dev.asksTo_of_same rfl

theorem Dev.endAll_storeFailed (k : PendingEnd) (slots : List StreamIdx) (d : Dev) :
    (d.endAll slots k).arc.storeFailed = d.arc.storeFailed := by
  induction slots generalizing d with
  | nil => rfl
  | cons i slots ih => exact (ih (d.endStream i k)).trans (by simp)

end

section
variable (d : Dev)

/-- HOLDUP begins: the recharge deadline cancelled, the hold-up deadline armed (R129, R139). -/
def Dev.warnStart : Dev :=
  (d.deadlines fun t => { t with recharge := none, holdup := some (d.afterMs d.sst.working.holdupDeadline) }).setHum
    fun h => { h with closing := none, mode := .holdup }

/-- The streams of class 2 and 3 have ended (R42). -/
def Dev.warnCut : Dev := d.warnStart.endAll (d.warnStart.openSlots (2 ≤ ·.cls)) (.truncated .power)

/-- The waiting reads are withdrawn (R65). -/
def Dev.warnRead : Dev := d.warnCut.withdrawReads allPorts

/-- The warning is recorded and notified (R129). -/
def Dev.warned : Dev :=
  (d.warnRead.markedEvent evPowerWarn 1 (f1 d.warnRead.creditBytes)).dev.raise .powerWarn
    (d.warnRead.markedEvent evPowerWarn 1 (f1 d.warnRead.creditBytes)).dev.hum.credits

/-- The trigger POWER of this tick (R131). -/
def Dev.powerTrigger : TriggerRecord := ⟨.power, d.tmb.tick, d.wallNow, d.snapshot⟩

/-- The trigger is taken, where the settings ask for it (R131). -/
def Dev.warnTaken : Dev :=
  if d.sst.working.powerTrigger = 1 then d.warned.takeTrigger d.powerTrigger none else d.warned

/-! ### Up to the warning -/

theorem Dev.warnStart_keeps : d.keepsAllBut [.hum, .tmb] d.warnStart := fun b hb => by
  cases b <;> simp at hb <;> rfl

theorem Dev.warnCut_keeps :
    d.warnStart.keepsAllBut [.ict, .cpm, .stb, .cme, .plm, .arc, .drm, .hiu, .tmb, .ntu] d.warnCut :=
  Dev.endAll_keepsAllBut _ _

theorem Dev.warned_logsTo : d.warnRead.logsTo d.warned :=
  Dev.logsTo_trans (Dev.markedEvent_logsTo ..) (Dev.raise_logsTo ..)

theorem Dev.warned_of_cut : d.warnCut.keepsAllBut [.pif, .arc, .drm, .hiu, .tmb, .ntu, .rtu] d.warned :=
  ((Dev.withdrawReads_keeps allPorts d.warnCut).1.mono (by decide)).trans (d.warned_logsTo.keepsAllBut.mono (by decide))

theorem Dev.warned_keeps :
    d.keepsAllBut [.pif, .ict, .cpm, .stb, .cme, .plm, .arc, .drm, .hiu, .hum, .tmb, .ntu, .rtu] d.warned :=
  (d.warnStart_keeps.mono (by decide)).trans ((d.warnCut_keeps.mono (by decide)).trans (d.warned_of_cut.mono (by decide)))

theorem Dev.warned_hum : d.warned.hum = ⟨.holdup, d.hum.credits, none⟩ :=
  (d.warned_of_cut .hum (by decide)).trans ((d.warnCut_keeps .hum (by decide)).trans rfl)

theorem Dev.warned_sst : d.warned.sst = d.sst := d.warned_keeps .sst (by decide)

theorem Dev.warnRead_same : d.warnRead.ict = d.warnCut.ict ∧ d.warnRead.tmb = d.warnCut.tmb ∧ d.warnRead.drm = d.warnCut.drm
    ∧ d.warnRead.cpm = d.warnCut.cpm ∧ d.warnRead.stb = d.warnCut.stb :=
  have keeps := (Dev.withdrawReads_keeps allPorts d.warnCut).1
  ⟨keeps .ict (by decide), keeps .tmb (by decide), keeps .drm (by decide), keeps .cpm (by decide), keeps .stb (by decide)⟩

theorem Dev.warned_capturesTo : d.warnStart.capturesTo d.warned := by
  obtain ⟨ict, tmb, -⟩ := d.warnRead_same
  exact (Dev.endAll_capturesTo _ d.warnStart).trans
    ((Dev.capturesTo_of_eq (d := d.warnCut) ict tmb).trans (Dev.capturesTo_of_logsTo d.warned_logsTo))

theorem Dev.warned_deadlines : d.warned.tmb.deadlines.recharge = none
    ∧ d.warned.tmb.deadlines.holdup = some (d.tmb.tick + BitVec.ofNat 48 (d.sst.working.holdupDeadline * 1000))
    ∧ d.warned.tmb.tick = d.tmb.tick :=
  have captures := d.warned_capturesTo
  ⟨captures.recharge.trans rfl, captures.holdup.trans rfl, (congrArg Tmb.tick captures.tmb).trans rfl⟩

theorem Dev.warned_storeFailed : d.warned.arc.storeFailed = d.arc.storeFailed := by
  rw [d.warned_logsTo.storeFailed, Dev.warnRead, (Dev.withdrawReads_keeps allPorts d.warnCut).2, Dev.warnCut,
    Dev.endAll_storeFailed]
  rfl

/-- The recording stands while its window is open (R14, R15). -/
theorem Dev.warned_recording (isOpen : d.ict.windowExpired = false) : d.warned.ict.recording = d.ict.recording := by
  rcases d.warned_capturesTo.record with ⟨same, -⟩ | ⟨expired, -⟩
  · exact same
  · exact absurd (isOpen.symm.trans expired) nofun

theorem Dev.warned_grows : d.warnCut.drm.growsTo d.warned.drm := by
  rw [← d.warnRead_same.2.2.1]
  exact d.warned_logsTo.grows

theorem Dev.warned_streamsTo : d.warnCut.streamsTo d.warned :=
  Dev.streamsTo_of_cpm d.warned_grows (d.warned_of_cut .cpm (by decide))

theorem Dev.warned_flowsTo : d.warnCut.flowsTo d.warned :=
  (Dev.withdrawReads_flowsTo allPorts d.warnCut).trans ((Dev.markedEvent_flowsTo ..).trans (Dev.raise_flowsTo ..))

theorem Dev.warned_triggers : d.keepsTriggers d.warned := by
  have read : d.warnCut.keepsTriggers d.warnRead := Dev.keepsTriggers_of_drm d.warnRead_same.2.2.1
  have cut : d.warnStart.keepsTriggers d.warnCut := Dev.endAll_keepsTriggers ..
  exact (Dev.keepsTriggers_of_drm (d := d) (e := d.warnStart) rfl).trans (cut.trans (read.trans d.warned_logsTo.keepsTriggers))

theorem Dev.warned_asksTo : d.warnRead.asksTo d.warned :=
  (Dev.markedEvent_asksTo ..).trans (Dev.raise_asksTo _ _ _)

theorem Dev.warned_told : d.warned.notifies .powerWarn := Dev.raise_notifies _ _ _

/-- No stream of class 2 or 3 is OPEN. -/
theorem Dev.warned_ended {i : StreamIdx} {x : StreamBody} (taken : d.warned.body i = some x) (cls : 2 ≤ x.cls) :
    x.ending ≠ none :=
  Dev.endStreams_ended (d := d.warnStart) (p := (2 ≤ ·.cls)) (fun y z passes => by rw [passes.same]) d.warned_streamsTo taken
    (decide_eq_true cls)

/-! ### The reads -/

variable {d}

theorem Dev.warnCut_readStands (q : Port) : d.readStands d.warnCut q :=
  Dev.readStands_of_same (d := d) (d.warnCut_keeps .pif (by decide)) (d.warnCut_keeps .rtu (by decide))
    ((Dev.endAll_asksTo (d.warnStart.openSlots (2 ≤ ·.cls)) d.warnStart).waits q)

theorem allPorts_all (q : Port) : q ∈ allPorts := by cases q <;> decide

theorem Dev.warned_off {q : Port} {j : ReadJob} (job : d.job q = some j) : d.warned.arc.waits (.rtu q) = false := by
  have stands := d.warnCut_readStands q
  refine d.warned_asksTo.reads.none ?_
  rw [Dev.warnRead]
  exact Dev.withdrawReads_off allPorts (allPorts_all q) (stands.job.trans job)

theorem Dev.warned_answers {q : Port} {j : ReadJob} (job : d.job q = some j) (waits : d.arc.waits (.rtu q) = true) :
    d.warned.job q = none ∧ d.warned.port q = (d.reply q .power 0 .empty).port q ∧ d.warned.cursor q = j.prior := by
  have stands := d.warnCut_readStands q
  have answers : d.warnRead.job q = none ∧ d.warnRead.port q = (d.warnCut.reply q .power 0 .empty).port q
      ∧ d.warnRead.cursor q = j.prior ∧ d.warnRead.arc.waits (.rtu q) = false := by
    rw [Dev.warnRead]
    exact Dev.withdrawReads_answers allPorts (allPorts_all q) (stands.job.trans job) (stands.waits.trans waits)
  obtain ⟨none, answered, cursor, -⟩ := answers
  have pif : d.warned.pif = d.warnRead.pif := d.warned_logsTo.pif_eq
  have rtu : d.warned.rtu = d.warnRead.rtu := d.warned_logsTo.keepsAllBut .rtu (by decide)
  refine ⟨?_, ?_, ?_⟩
  · rw [Dev.job, rtu]
    exact none
  · rw [Dev.port, pif]
    exact answered.trans (stands.port.reply .power 0 .empty)
  · rw [Dev.cursor, rtu]
    exact cursor

end

end Sys2Proof.Machine
end


section
/-! PROOFS. O44: the entry to HOLDUP as a whole, and the power return (R21, R42, R46, R65, R129 to R139, R181, R193). -/

namespace Sys2Proof.Machine

section
variable (d : Dev)

/-- The entry to HOLDUP up to the test of the reserve (R130). -/
def Dev.warnTested : Dev := d.warnTaken.reserveTest

/-- What follows a warning (R130, R131). -/
def Dev.warnEnds (d : Dev) (t : TriggerRecord) : Dev :=
  (if d.sst.working.powerTrigger = 1 then d.takeTrigger t none else d).reserveTest.exhaustTest

theorem Dev.enterHoldup_eq : d.enterHoldup = d.warnTested.exhaustTest := by
  have asked : d.enterHoldup = d.warned.warnEnds (d.warnStart.triggerNow .power) := by
    unfold Dev.enterHoldup Dev.warnEnds Dev.warned Dev.warnRead Dev.withdrawReads Dev.warnCut Dev.endAll Dev.endStreams
      Dev.warnStart
    with_reducible rfl
  have now : d.warnStart.triggerNow .power = d.powerTrigger := rfl
  rw [asked, now, Dev.warnEnds, d.warned_sst, Dev.warnTested, Dev.warnTaken]

theorem Dev.warnTaken_triggersTo : d.warned.triggersTo d.warnTaken := by
  unfold Dev.warnTaken
  split
  · exact Dev.takeTrigger_triggersTo _ _
  · exact Dev.triggersTo_rfl _

theorem Dev.warnTaken_flowsTo : d.warned.flowsTo d.warnTaken := by
  unfold Dev.warnTaken
  split
  · exact Dev.takeTrigger_flowsTo _ _ _
  · exact Dev.flowsTo_rfl _

theorem Dev.takeTrigger_keepsAllBut (d : Dev) (t : TriggerRecord) :
    d.keepsAllBut [.pif, .ict, .plm, .arc, .drm, .hiu, .tmb, .ntu, .rtu] (d.takeTrigger t none) := fun b hb => by
  cases b <;> simp [Part.agrees] at hb ⊢

theorem Dev.warnTaken_keeps :
    d.warned.keepsAllBut [.pif, .ict, .plm, .arc, .drm, .hiu, .tmb, .ntu, .rtu] d.warnTaken := by
  unfold Dev.warnTaken
  split
  · exact Dev.takeTrigger_keepsAllBut _ _
  · exact Dev.keepsAllBut_rfl _ _

theorem Dev.warnTaken_hum : d.warnTaken.hum = ⟨.holdup, d.hum.credits, none⟩ :=
  (d.warnTaken_keeps .hum (by decide)).trans d.warned_hum

theorem Dev.warnTaken_sst : d.warnTaken.sst = d.sst := (d.warnTaken_keeps .sst (by decide)).trans d.warned_sst

theorem Dev.warnTaken_rtu (off : d.sst.working.powerTrigger ≠ 1 ∨ d.sst.working.rollOldest ≠ 1) :
    d.warnTaken.rtu = d.warned.rtu := by
  unfold Dev.warnTaken
  split
  next on => exact Dev.takeTrigger_rtu _ (by rw [d.warned_sst]; exact off.resolve_left (not_not.2 on)) _
  · rfl

theorem Dev.warnTested_closes (few : d.hum.credits ≤ d.sst.working.reserve) :
    d.warnTested = d.warnTaken.beginClosing .reserve := by
  refine if_pos ⟨?_, ?_⟩
  · rw [d.warnTaken_hum]
    rfl
  · rw [d.warnTaken_hum, d.warnTaken_sst]
    exact few

theorem Dev.warnTested_rests (many : d.sst.working.reserve < d.hum.credits) : d.warnTested = d.warnTaken := by
  refine if_neg fun h => ?_
  rw [d.warnTaken_hum, d.warnTaken_sst] at h
  exact absurd h.2 (not_le.2 many)

theorem Dev.warnTested_hum : d.warnTested.hum =
    ⟨.holdup, d.hum.credits, if d.hum.credits ≤ d.sst.working.reserve then some .reserve else none⟩ := by
  by_cases few : d.hum.credits ≤ d.sst.working.reserve
  · rw [d.warnTested_closes few, Dev.closing_hum, d.warnTaken_hum, if_pos few]
  · rw [d.warnTested_rests (not_le.1 few), d.warnTaken_hum, if_neg few]

theorem Dev.enterHoldup_hum : d.enterHoldup.hum = ⟨if d.hum.credits = 0 then .exhausted else .holdup, d.hum.credits,
    if d.hum.credits ≤ d.sst.working.reserve then some .reserve else none⟩ := by
  rw [d.enterHoldup_eq, Dev.exhaustTest_hum (by rw [d.warnTested_hum]), d.warnTested_hum]

/-- But for the mode the last test leaves the part. -/
theorem Dev.enterHoldup_keeps : d.warnTested.keepsAllBut [.hum] d.enterHoldup := fun b hb => by
  rw [d.enterHoldup_eq, Dev.exhaustTest_eq]
  cases b <;> simp at hb <;> rfl

theorem Dev.enterHoldup_body (i : StreamIdx) : d.enterHoldup.body i = d.warnTested.body i :=
  Dev.body_of_cpm (d.enterHoldup_keeps .cpm (by decide)) i

theorem Dev.warnTested_flowsTo : d.warnTaken.flowsTo d.warnTested := Dev.reserveTest_flowsTo _

theorem Dev.enterHoldup_of_warned : d.warned.flowsTo d.enterHoldup := by
  rw [d.enterHoldup_eq]
  exact d.warnTaken_flowsTo.trans (d.warnTested_flowsTo.trans (Dev.exhaustTest_flowsTo _))

theorem Dev.enterHoldup_of_cut : d.warnCut.flowsTo d.enterHoldup := d.warned_flowsTo.trans d.enterHoldup_of_warned

/-! ### The deadlines and the reads -/

theorem Dev.enterHoldup_deadlines : d.enterHoldup.tmb.deadlines.recharge = none
    ∧ d.enterHoldup.tmb.deadlines.holdup = (if d.hum.credits ≤ d.sst.working.reserve then none
        else some (d.tmb.tick + BitVec.ofNat 48 (d.sst.working.holdupDeadline * 1000))) := by
  have tmb : d.enterHoldup.tmb = d.warnTested.tmb := d.enterHoldup_keeps .tmb (by decide)
  obtain ⟨recharge, holdup, -⟩ := d.warned_deadlines
  have taken := d.warnTaken_triggersTo
  rw [tmb]
  by_cases few : d.hum.credits ≤ d.sst.working.reserve
  · obtain ⟨cancelled, stands⟩ := Dev.closing_deadlines .reserve d.warnTaken
    rw [d.warnTested_closes few, if_pos few]
    exact ⟨stands.trans (taken.recharge.trans recharge), cancelled⟩
  · rw [d.warnTested_rests (not_le.1 few), if_neg few]
    exact ⟨taken.recharge.trans recharge, taken.holdup.trans holdup⟩

theorem Dev.warnTested_readsTo : d.warnTaken.readsTo d.warnTested := by
  unfold Dev.warnTested Dev.reserveTest
  split
  · exact Dev.closing_readsTo _ _
  · exact Dev.readsTo_of_same rfl

theorem Dev.warnTested_ports : d.warnTested.pif = d.warnTaken.pif ∧ d.warnTested.rtu = d.warnTaken.rtu := by
  unfold Dev.warnTested Dev.reserveTest
  split <;> simp

variable {d}

theorem Dev.enterHoldup_off {q : Port} {j : ReadJob} (job : d.job q = some j) : d.enterHoldup.arc.waits (.rtu q) = false := by
  have arc : d.enterHoldup.arc = d.warnTested.arc := d.enterHoldup_keeps .arc (by decide)
  rw [arc]
  exact (d.warnTaken_triggersTo.reads.trans d.warnTested_readsTo).none (Dev.warned_off job)

theorem Dev.enterHoldup_answers {q : Port} {j : ReadJob} (job : d.job q = some j) (waits : d.arc.waits (.rtu q) = true) :
    d.enterHoldup.job q = none ∧ d.enterHoldup.port q = (d.reply q .power 0 .empty).port q
      ∧ (d.sst.working.powerTrigger ≠ 1 ∨ d.sst.working.rollOldest ≠ 1 → d.enterHoldup.cursor q = j.prior) := by
  obtain ⟨none, answered, cursor⟩ := Dev.warned_answers job waits
  obtain ⟨stands, still⟩ := d.warnTaken_triggersTo.stands q none
  have pif : d.enterHoldup.pif = d.warnTaken.pif := (d.enterHoldup_keeps .pif (by decide)).trans d.warnTested_ports.1
  have rtu : d.enterHoldup.rtu = d.warnTaken.rtu := (d.enterHoldup_keeps .rtu (by decide)).trans d.warnTested_ports.2
  refine ⟨?_, ?_, fun off => ?_⟩
  · rw [Dev.job, rtu]
    exact still
  · rw [Dev.port, pif]
    exact stands.port.trans answered
  · rw [Dev.cursor, rtu, d.warnTaken_rtu off]
    exact cursor

/-! ### The streams -/

theorem Dev.enterHoldup_ended {i : StreamIdx} {x : StreamBody} (taken : d.enterHoldup.body i = some x) (cls : 2 ≤ x.cls) :
    x.ending ≠ none := by
  rw [d.enterHoldup_body] at taken
  by_cases few : d.hum.credits ≤ d.sst.working.reserve
  · rw [d.warnTested_closes few] at taken
    exact (Dev.closing_ended .reserve taken).1
  · rw [d.warnTested_rests (not_le.1 few), Dev.body_of_cpm d.warnTaken_triggersTo.cpm] at taken
    exact d.warned_ended taken cls

theorem Dev.warnTaken_streamsTo : d.warnCut.streamsTo d.warnTaken :=
  d.warned_streamsTo.trans (Dev.streamsTo_of_cpm d.warnTaken_triggersTo.grows d.warnTaken_triggersTo.cpm)

/-- While the closing phase does not begin, the streams stand as the warning left them. -/
theorem Dev.enterHoldup_rests (many : d.sst.working.reserve < d.hum.credits) (i : StreamIdx) :
    d.enterHoldup.body i = d.warnCut.body i := by
  rw [d.enterHoldup_body, d.warnTested_rests many, Dev.body_of_cpm d.warnTaken_triggersTo.cpm]
  exact Dev.body_of_cpm (d.warned_of_cut .cpm (by decide)) i

theorem Dev.enterHoldup_takes {i : StreamIdx} {x : StreamBody} (h : d.warnCut.takesEnd i x (.truncated .power)) :
    d.enterHoldup.takesEnd i x (.truncated .power) := by
  have taken := h.later d.warnTaken_streamsTo (by decide)
  have tested : d.warnTested.takesEnd i x (.truncated .power) := by
    by_cases few : d.hum.credits ≤ d.sst.working.reserve
    · rw [d.warnTested_closes few]
      exact taken.closing .reserve
    · rw [d.warnTested_rests (not_le.1 few)]
      exact taken
  have drm : d.enterHoldup.drm = d.warnTested.drm := d.enterHoldup_keeps .drm (by decide)
  unfold Dev.takesEnd
  rw [d.enterHoldup_body, drm]
  exact tested

theorem Dev.mem_warnSlots {i : StreamIdx} {x : StreamBody} (taken : d.body i = some x) (isOpen : x.ending = none)
    (cls : 2 ≤ x.cls) : i ∈ d.warnStart.openSlots (2 ≤ ·.cls) :=
  Dev.mem_openSlots.2 ⟨x, taken, isOpen, decide_eq_true cls⟩

theorem Dev.warnCut_others (calm : d.warnStart.calm) {i : StreamIdx} {x : StreamBody} (taken : d.body i = some x)
    (other : x.ending ≠ none ∨ x.cls < 2) : d.warnCut.body i = some x := by
  refine ((Dev.endAll_calm (d.warnStart.openSlots (2 ≤ ·.cls)) calm).1 i fun mem => ?_).trans taken
  obtain ⟨y, hy, isOpen, cls⟩ := Dev.mem_openSlots.1 mem
  obtain rfl := Option.some.inj (taken.symm.trans hy)
  exact other.elim (fun ended => ended isOpen) fun low => absurd (of_decide_eq_true cls) (not_le.2 low)

theorem Dev.enterHoldup_endsBy (busy : d.cme.state ≠ .idle) (many : d.sst.working.reserve < d.hum.credits) {i : StreamIdx}
    {x : StreamBody} (taken : d.body i = some x) (isOpen : x.ending = none) (cls : 2 ≤ x.cls) :
    d.enterHoldup.endsBy i x (.truncated .power) := by
  have ends : d.warnCut.endsBy i x (.truncated .power) :=
    Dev.endAll_endsBy (d := d.warnStart) busy (Dev.openSlots_nodup ..) (Dev.mem_warnSlots taken isOpen cls) taken isOpen
  have stb : d.enterHoldup.stb = d.warnCut.stb := by
    have tested : d.enterHoldup.stb = d.warnTested.stb := d.enterHoldup_keeps .stb (by decide)
    rw [tested, d.warnTested_rests many, d.warnTaken_triggersTo.stb]
    exact d.warned_of_cut .stb (by decide)
  have drm : d.enterHoldup.drm = d.warnTaken.drm := by
    have tested : d.enterHoldup.drm = d.warnTested.drm := d.enterHoldup_keeps .drm (by decide)
    rw [tested, d.warnTested_rests many]
  refine ends.later (Dev.enterHoldup_rests many i) (by rw [stb]; exact List.Subset.refl _) ?_
  rw [drm]
  exact d.warned_grows.trans d.warnTaken_triggersTo.grows

/-! ### The trigger -/

theorem Dev.enterHoldup_secondary {i : DirSlot} {x : Incident} (asked : d.sst.working.powerTrigger = 1)
    (running : d.arc.storeFailed = false) (isOpen : d.ict.windowExpired = false) (recording : d.ict.recording = some i)
    (hx : d.drm.dir[i] = some x) (hk : d.drm.slotOf x.number = some i) :
    (d.secondaryCount x < 4 → JEntry.triggerAdd x.number .power d.tmb.tick ∈ d.enterHoldup.drm.queue
      ∨ CapWaiter.triggerAdd x.number .power d.tmb.tick ∈ d.enterHoldup.drm.captureWaiters)
    ∧ (4 ≤ d.secondaryCount x → ∃ y, d.enterHoldup.drm.dir[i] = some y ∧ y.overflow = min 255 (x.overflow + 1)) := by
  obtain ⟨z, hz, number, secondary, overflow⟩ := d.warned_triggers.record hx
  have count := d.warned_triggers.secondaryCount number secondary
  obtain ⟨adds, overflows⟩ := Dev.takeTrigger_counts (d := d.warned) (d.warned_storeFailed.trans running)
    ((d.warned_recording isOpen).trans recording) hz ((d.warned_triggers.slotOf _).trans (number ▸ hk)) d.powerTrigger
  have taken : d.warnTaken = d.warned.takeTrigger d.powerTrigger none := if_pos asked
  have tested : d.warnTaken.keepsTriggers d.warnTested ∧ d.warnTaken.drm.growsTo d.warnTested.drm := by
    unfold Dev.warnTested Dev.reserveTest
    split
    · exact ⟨Dev.closing_keepsTriggers _ _, Dev.closing_grows _ _⟩
    · exact ⟨Dev.keepsTriggers_rfl _, Drm.growsTo_rfl _⟩
  obtain ⟨keeps, grows⟩ := tested
  have drm : d.enterHoldup.drm = d.warnTested.drm := d.enterHoldup_keeps .drm (by decide)
  rw [← taken, count] at adds overflows
  rw [number] at adds
  rw [overflow] at overflows
  rw [drm]
  refine ⟨fun few => (adds few).imp (fun mem => grows.queue.subset mem) fun mem => grows.mem_waiters mem, fun many => ?_⟩
  obtain ⟨y, hy, next⟩ := overflows many
  obtain ⟨w, hw, -, -, same⟩ := keeps.record hy
  exact ⟨w, hw, same.trans next⟩

theorem Dev.enterHoldup_keepsAllBut (d : Dev) :
    d.keepsAllBut [.pif, .ict, .cpm, .stb, .cme, .plm, .arc, .drm, .hiu, .hum, .tmb, .ntu, .rtu] d.enterHoldup := by
  have tested : d.warnTaken.keepsAllBut
      [.pif, .ict, .cpm, .stb, .cme, .plm, .arc, .drm, .hiu, .hum, .tmb, .ntu, .rtu] d.warnTested := by
    unfold Dev.warnTested Dev.reserveTest
    split
    · exact (Dev.beginClosing_keepsAllBut _ _).mono (by decide)
    · exact Dev.keepsAllBut_rfl _ _
  exact d.warned_keeps.trans ((d.warnTaken_keeps.mono (by decide)).trans (tested.trans (d.enterHoldup_keeps.mono (by decide))))

end

end Sys2Proof.Machine
end


section
/-! PROOFS. O44: the warning and the power return (R21, R42, R46, R65, R129 to R139, R181, R193). -/

namespace Sys2Proof.Machine

section
variable {d : Dev}

/-- The last statement on a warning names its states: the state before the trigger. -/
theorem Dev.enterHoldup_stages (d : Dev) : ∃ a : Dev,
    d.enterHoldup = ((if d.sst.working.powerTrigger = 1 then a.takeTrigger d.powerTrigger none else a).reserveTest).exhaustTest
      ∧ a.hum = ⟨.holdup, d.hum.credits, none⟩ ∧ a.tmb.tick = d.tmb.tick ∧ a.tmb.deadlines.recharge = none
      ∧ (∀ i x, a.body i = some x → 2 ≤ x.cls → x.ending ≠ none)
      ∧ a.arc.storeFailed = d.arc.storeFailed ∧ a.ict.opening = d.ict.opening
      ∧ (d.ict.windowExpired = false → a.ict.recording = d.ict.recording)
      ∧ d.keepsAllBut [.pif, .ict, .cpm, .stb, .cme, .plm, .arc, .drm, .hiu, .hum, .tmb, .ntu, .rtu] a := by
  obtain ⟨recharge, -, tick⟩ := d.warned_deadlines
  refine ⟨d.warned, ?_, d.warned_hum, tick, recharge, fun i x taken cls => d.warned_ended taken cls,
    d.warned_storeFailed, d.warned_capturesTo.opening, d.warned_recording, d.warned_keeps⟩
  rw [d.enterHoldup_eq, Dev.warnTested, Dev.warnTaken]

theorem Dev.enterHoldup_cuts (quiet : d.commitQuiet) {i : StreamIdx} {x : StreamBody} (taken : d.body i = some x)
    (isOpen : x.ending = none) (cls : 2 ≤ x.cls) :
    d.enterHoldup.takesEnd i x (.truncated .power) ∧ d.enterHoldup.reportsCut x .power := by
  have calm : d.warnStart.calm := Dev.calm_of_quiet (d := d.warnStart) quiet
  have mem := Dev.mem_warnSlots taken isOpen cls
  exact ⟨Dev.enterHoldup_takes (Dev.endAll_takes (d := d.warnStart) (by decide) calm (Dev.openSlots_nodup ..) mem taken isOpen),
    (Dev.endAll_reports (d := d.warnStart) calm (Dev.openSlots_nodup ..) mem taken isOpen).later d.enterHoldup_of_cut⟩

theorem Dev.enterHoldup_records {i : StreamIdx} {x : StreamBody} (taken : d.body i = some x) (isOpen : x.ending = none)
    (cls : 2 ≤ x.cls) (first : ∀ j y, j < i → d.body j = some y → y.ending = none → y.cls < 2) :
    d.records d.enterHoldup (cutBody x .power) 2 evStreamCut := by
  obtain ⟨rest, slots⟩ := Dev.openSlots_first (d := d.warnStart) (p := (2 ≤ ·.cls)) taken isOpen (decide_eq_true cls)
    fun j y before hy isOpen => decide_eq_false (not_le.2 (first j y before hy isOpen))
  have cut : d.warnStart.records d.warnCut (cutBody x .power) 2 evStreamCut := by
    rw [Dev.warnCut, slots]
    exact Dev.endAll_records rest taken isOpen
  exact (cut.later d.enterHoldup_of_cut).before (d := d) rfl rfl

/-- The credits behind a return from EXHAUSTED (R139, R193). -/
theorem Dev.powerReturn_loads (exhausted : d.hum.mode = .exhausted) :
    ((d.sst.loadDue = false ∨ (d.ict.recording ≠ none ∧ d.ict.windowExpired = false)) →
        d.powerReturn.hum.credits = d.rechargedCredits)
    ∧ (d.sst.loadDue = true → d.ict.recording = none → d.ict.closing = none →
        d.powerReturn.hum.credits = if d.sst.working.recharge = 0 then d.sst.pending.credits
          else min d.hum.credits d.sst.pending.credits) := by
  rw [Dev.powerReturn_credits exhausted]
  refine ⟨fun stays => if_neg ?_, fun due recording closing => ?_⟩
  · rintro ⟨due, free⟩
    rcases stays with off | ⟨recording, isOpen⟩
    · exact absurd (due.symm.trans off) nofun
    · exact d.returned_recording recording isOpen free.recording
  · rw [if_pos ⟨due, d.returned_noCapture ⟨recording, closing⟩⟩, Dev.rechargedDeadline, Dev.rechargedCredits]
    by_cases zero : d.sst.working.recharge = 0
    · simp only [zero, if_true]
    · simp only [zero, if_false, reduceCtorEq]

end

/-- Settles O44: the states of the entry to HOLDUP one by one, the return up to the latches, and the latches by their
stamps. -/
theorem warningAndPowerReturn : Obligations.WarningAndPowerReturn := by
  refine ⟨fun d _ => ?_, fun d mode => ?_, fun d n => ⟨fun none => Dev.emptyLatches_none none n, fun k t full least => ?_⟩⟩
  · obtain ⟨recharge, holdup⟩ := d.enterHoldup_deadlines
    have hum := d.enterHoldup_hum
    exact ⟨by rw [hum], by rw [hum], by rw [hum], recharge, holdup, fun i x taken cls => Dev.enterHoldup_ended taken cls,
      fun q j job => Dev.enterHoldup_off job, d.enterHoldup_of_warned.notices.notifies d.warned_told,
      fun quiet i x taken isOpen cls => Dev.enterHoldup_cuts quiet taken isOpen cls,
      fun quiet many i x taken other => (Dev.enterHoldup_rests many i).trans
        (Dev.warnCut_others (Dev.calm_of_quiet (d := d.warnStart) quiet) taken other),
      fun busy many i x taken isOpen cls => Dev.enterHoldup_endsBy busy many taken isOpen cls,
      fun i x taken isOpen cls first => Dev.enterHoldup_records taken isOpen cls first,
      fun q j job waits => Dev.enterHoldup_answers job waits, d.enterHoldup_stages,
      fun i x asked running isOpen recording hx hk => Dev.enterHoldup_secondary asked running isOpen recording hx hk,
      d.enterHoldup_keepsAllBut⟩
  · obtain ⟨normal, closing, holdup, recharge⟩ := Dev.powerReturn_spec mode
    refine ⟨normal, closing, holdup, recharge, fun held => ?_, fun exhausted => ?_, fun exhausted => ?_,
      fun exhausted => Dev.powerReturn_loads exhausted⟩
    · rw [d.powerReturn_holdup held]
      exact ⟨by rw [d.returned_hum]; rfl, d.returned_keepsAllBut⟩
    · have rcs : d.returned.rcs = d.rcs := d.returned_keepsAllBut .rcs (by decide)
      obtain ⟨-, -, rcs', -⟩ := d.returned.returnTests_frame'
      rw [d.powerReturn_exhausted exhausted]
      refine ⟨?_, Dev.emptyLatches_all _⟩
      rw [(Dev.emptyLatches_frame _ 5).2.2.2.2.2.2.1, rcs', rcs]
    · have tru : d.returned.tru = d.tru := d.returned_keepsAllBut .tru (by decide)
      obtain ⟨tru', tick, -⟩ := d.returned.returnTests_frame'
      refine ⟨d.returned.returnTests, d.powerReturn_exhausted exhausted, ?_, by rw [tru', tru], tick.trans d.returned_deadlines.2.2⟩
      rw [d.returned.returnTests_hum (by rw [d.returned_hum]), d.returned_hum]
  · exact Dev.emptyLatches_takes (earliestLatch_of_least full least) n

end Sys2Proof.Machine
end


section
/-! PROOFS. The triggers that joined an opening (R11, R12, R95). -/

namespace Sys2Proof.Machine

/-- The places for which joined triggers find no waiter ahead. -/
def Drm.freePlaces (m : Drm) : Nat := if m.captureWaiters = [] then 80 - m.queue.length else 0

/-- The incident with the joined triggers: `n` of the four secondary ones are there already, `room` find a place. -/
def Incident.withJoined (x : Incident) (js : List Joined) (n room : Nat) : Incident :=
  { x with
    secondary := x.secondary ++ ((js.take (4 - n)).take room).map fun j => (j.trigger.cause, j.trigger.tick)
    overflow := min 255 (x.overflow + (js.length - (4 - n))) }

/-- The directory behind the joined triggers. -/
def Drm.withJoined (m : Drm) (i : DirSlot) (x : Incident) (js : List Joined) (n : Nat) : Drm :=
  { m with
    dir := put m.dir i (some (x.withJoined js n m.freePlaces))
    queue := m.queue ++ ((js.take (4 - n)).take m.freePlaces).map fun j =>
      JEntry.triggerAdd x.number j.trigger.cause j.trigger.tick
    captureWaiters := m.captureWaiters ++ ((js.take (4 - n)).drop m.freePlaces).map fun j =>
      CapWaiter.triggerAdd x.number j.trigger.cause j.trigger.tick }

section
variable {m : Drm} {i : DirSlot} {x : Incident} {n : Nat} {j : Joined} {js : List Joined}

theorem Drm.withJoined_nil (hx : m.dir[i] = some x) (low : x.overflow ≤ 255) (n : Nat) : m.withJoined i x [] n = m := by
  have same : x.withJoined [] n m.freePlaces = x := by
    simp [Incident.withJoined, Nat.min_eq_right low]
  rw [Drm.withJoined, same, put_get_eq hx]
  simp

/-- A trigger that finds a place. -/
theorem Drm.withJoined_room (few : n < 4) (idle : m.captureWaiters = []) (room : m.queue.length < 80) :
    (m.withSecondary i x n j.trigger).withJoined i
      { x with secondary := x.secondary ++ [(j.trigger.cause, j.trigger.tick)] } js (n + 1) = m.withJoined i x (j :: js) n := by
  have places : m.freePlaces = (80 - (m.queue.length + 1)) + 1 := by
    rw [Drm.freePlaces, if_pos idle]
    omega
  have four : 4 - n = (4 - (n + 1)) + 1 := by omega
  have next : (m.withSecondary i x n j.trigger).freePlaces = 80 - (m.queue.length + 1) := by
    simp [Drm.freePlaces, Drm.withSecondary, few, idle, room]
  unfold Drm.withJoined
  rw [next, places]
  simp only [Drm.withSecondary, few, idle, room, and_self, if_true, put_put, Incident.withJoined, four,
    List.take_succ_cons, List.drop_succ_cons, List.map_cons, List.append_assoc, List.singleton_append, List.length_cons,
    Nat.add_sub_add_right]

/-- A trigger that waits. -/
theorem Drm.withJoined_waits (few : n < 4)
    (full : ¬(m.captureWaiters = [] ∧ m.queue.length < 80)) :
    (m.withSecondary i x n j.trigger).withJoined i x js (n + 1) = m.withJoined i x (j :: js) n := by
  have places : m.freePlaces = 0 := by
    unfold Drm.freePlaces
    split
    next idle =>
      have long : ¬m.queue.length < 80 := fun short => full ⟨idle, short⟩
      omega
    · rfl
  have four : 4 - n = (4 - (n + 1)) + 1 := by omega
  have next : (m.withSecondary i x n j.trigger).freePlaces = 0 := by
    simp [Drm.freePlaces, Drm.withSecondary, few, full]
  unfold Drm.withJoined
  rw [next, places]
  simp only [Drm.withSecondary, few, full, if_true, if_false, Incident.withJoined, four, List.take_succ_cons, List.take_zero,
    List.drop_zero, List.map_cons, List.map_nil, List.append_nil, List.append_assoc, List.singleton_append,
    List.length_cons, Nat.add_sub_add_right]

/-- A trigger beyond the four. -/
theorem Drm.withJoined_more (many : ¬n < 4) :
    (m.withSecondary i x n j.trigger).withJoined i { x with overflow := min 255 (x.overflow + 1) } js (n + 1)
      = m.withJoined i x (j :: js) n := by
  have four : 4 - n = 0 := by omega
  have four' : 4 - (n + 1) = 0 := by omega
  have next : (m.withSecondary i x n j.trigger).freePlaces = m.freePlaces := by
    simp [Drm.freePlaces, Drm.withSecondary, many]
  have count : min 255 (min 255 (x.overflow + 1) + js.length) = min 255 (x.overflow + (js.length + 1)) := by omega
  unfold Drm.withJoined
  rw [next]
  simp only [Drm.withSecondary, many, if_false, Incident.withJoined, four, four', put_put, List.take_zero, List.take_nil,
    List.drop_nil, List.map_nil, List.append_nil, List.length_cons, Nat.sub_zero, count]

end

/-! ### The triggers one after another -/

section
variable {d : Dev} {i : DirSlot} {x : Incident} {n : Nat}

theorem Dev.secondaryOf_drm (hk : d.drm.slotOf x.number = some i) (hx : d.drm.dir[i] = some x) (n : Nat)
    (t : TriggerRecord) (p : Option Port) : (d.secondaryOf x.number n t p).drm = d.drm.withSecondary i x n t := by
  have same : (d.triggerEvent t x.number .secondary).dev.drm = d.drm := by simp
  have answered (e : Dev) : (e.answer p .secondary x.number).drm = e.drm := by simp [Dev.answer]
  rw [Dev.secondaryOf_eq, answered, Dev.countSecondary_eq (by rw [same]; exact hk) (by rw [same]; exact hx), same]

/-- The incident's record behind a secondary trigger. -/
theorem Drm.withSecondary_record {m : Drm} (hk : m.slotOf x.number = some i) (hx : m.dir[i] = some x)
    (low : x.overflow ≤ 255) (js : List Joined) (n : Nat) (j : Joined) :
    ∃ y : Incident, y.number = x.number ∧ y.overflow ≤ 255
      ∧ (m.withSecondary i x n j.trigger).slotOf x.number = some i
      ∧ (m.withSecondary i x n j.trigger).dir[i] = some y
      ∧ (m.withSecondary i x n j.trigger).withJoined i y js (n + 1) = m.withJoined i x (j :: js) n := by
  have stands {y : Incident} (number : y.number = x.number) :
      ({ m with dir := put m.dir i (some y) } : Drm).slotOf x.number = some i :=
    (Drm.slotOf_put hx number x.number).trans hk
  by_cases few : n < 4
  · by_cases room : m.captureWaiters = [] ∧ m.queue.length < 80
    · have added : m.withSecondary i x n j.trigger = { m with
          queue := m.queue ++ [.triggerAdd x.number j.trigger.cause j.trigger.tick]
          dir := put m.dir i (some { x with secondary := x.secondary ++ [(j.trigger.cause, j.trigger.tick)] }) } := by
        rw [Drm.withSecondary, if_pos few, if_pos room]
      have same := Drm.withJoined_room (m := m) (i := i) (x := x) (j := j) (js := js) few room.1 room.2
      refine ⟨{ x with secondary := x.secondary ++ [(j.trigger.cause, j.trigger.tick)] }, rfl, low, ?_, ?_, same⟩ <;>
        rw [added]
      · exact stands (y := { x with secondary := x.secondary ++ [(j.trigger.cause, j.trigger.tick)] }) rfl
      · exact get_put_same ..
    · have waits : m.withSecondary i x n j.trigger = { m with
          captureWaiters := m.captureWaiters ++ [.triggerAdd x.number j.trigger.cause j.trigger.tick] } := by
        rw [Drm.withSecondary, if_pos few, if_neg room]
      refine ⟨x, rfl, low, ?_, ?_, Drm.withJoined_waits few room⟩ <;> rw [waits]
      · exact hk
      · exact hx
  · have counted : m.withSecondary i x n j.trigger = { m with
        dir := put m.dir i (some { x with overflow := min 255 (x.overflow + 1) }) } := by
      rw [Drm.withSecondary, if_neg few]
    refine ⟨{ x with overflow := min 255 (x.overflow + 1) }, rfl, Nat.min_le_left .., ?_, ?_,
      Drm.withJoined_more few⟩ <;> rw [counted]
    · exact stands (y := { x with overflow := min 255 (x.overflow + 1) }) rfl
    · exact get_put_same ..

theorem Dev.joinedSecondary_drm (js : List Joined) (n : Nat) (d : Dev) (x : Incident)
    (hk : d.drm.slotOf x.number = some i) (hx : d.drm.dir[i] = some x) (low : x.overflow ≤ 255) :
    (Dev.joinedSecondary x.number d js n).drm = d.drm.withJoined i x js n := by
  induction js generalizing d x n with
  | nil => exact (Drm.withJoined_nil hx low n).symm
  | cons j js ih =>
    obtain ⟨y, number, low', hk', hy, joined⟩ := Drm.withSecondary_record hk hx low js n j
    have drm := Dev.secondaryOf_drm hk hx n j.trigger j.port
    rw [← number] at hk'
    have rest := ih (n + 1) (d.secondaryOf x.number n j.trigger j.port) y (by rw [drm]; exact hk') (by rw [drm]; exact hy) low'
    rw [number, drm, joined] at rest
    exact rest

/-! ### What else they leave -/

/-- The state behind joined triggers differs from the one before in the directory, the history and the answers. -/
structure Dev.joinsTo (d e : Dev) : Prop where
  keeps : d.keepsAllBut [.pif, .arc, .drm, .hiu, .tmb, .ntu] e
  window : e.tmb.deadlines.window = d.tmb.deadlines.window
  limit : e.tmb.deadlines.limit = d.tmb.deadlines.limit
  notice : Dev.noticeStays .incidentOpened d e

theorem Dev.joinsTo.trans {d e f : Dev} (h : d.joinsTo e) (g : e.joinsTo f) : d.joinsTo f :=
  ⟨h.keeps.trans g.keeps, g.window.trans h.window, g.limit.trans h.limit, h.notice.trans g.notice⟩

theorem Dev.countSecondary_keeps (d : Dev) (number n : Nat) (t : TriggerRecord) :
    d.keepsAllBut [.drm] (d.countSecondary number n t) := fun b hb => by
  unfold Dev.countSecondary Dev.addSecondary Dev.addWaiter
  split
  · split
    · cases b <;> simp [Part.agrees] at hb ⊢
    · cases b <;> simp at hb <;> rfl
  · cases b <;> simp [Part.agrees] at hb ⊢

theorem Dev.countSecondary_joinsTo (d : Dev) (number n : Nat) (t : TriggerRecord) :
    d.joinsTo (d.countSecondary number n t) := by
  have keeps := d.countSecondary_keeps number n t
  have tmb : (d.countSecondary number n t).tmb = d.tmb := keeps .tmb (by decide)
  have ntu : (d.countSecondary number n t).ntu = d.ntu := keeps .ntu (by decide)
  exact ⟨keeps.mono (by decide), by rw [tmb], by rw [tmb], Dev.noticeStays_of_same (by rw [ntu]) (by rw [ntu])⟩

theorem Dev.secondaryOf_joinsTo (d : Dev) (number n : Nat) (t : TriggerRecord) (p : Option Port) :
    d.joinsTo (d.secondaryOf number n t p) := by
  have logs := d.triggerEvent_logsTo t number .secondary
  have offered : Dev.noticeStays .incidentOpened d
      (d.offerSeq (.trigger number t.cause t.tick t.snapshot .secondary) 0 .internal evTrigger).dev :=
    Dev.offerSeq_stays (by decide) (by decide) ..
  have logged : d.joinsTo (d.triggerEvent t number .secondary).dev :=
    ⟨logs.keepsAllBut.mono (by decide), by rw [logs.tmb_eq], by rw [logs.tmb_eq],
      offered.trans (Dev.noticeStays_of_same rfl rfl)⟩
  have answers (e : Dev) : e.joinsTo (e.answer p .secondary number) :=
    ⟨fun b hb => by cases b <;> simp [Part.agrees, Dev.answer] at hb ⊢, by simp [Dev.answer], by simp [Dev.answer],
      Dev.noticeStays_of_same (by simp [Dev.answer]) (by simp [Dev.answer])⟩
  rw [Dev.secondaryOf_eq]
  exact logged.trans ((Dev.countSecondary_joinsTo ..).trans (answers _))

theorem Dev.joinedSecondary_joinsTo (number : Nat) (js : List Joined) (n : Nat) (d : Dev) :
    d.joinsTo (Dev.joinedSecondary number d js n) := by
  induction js generalizing d n with
  | nil => exact ⟨d.keepsAllBut_rfl _, rfl, rfl, Dev.noticeStays_rfl d⟩
  | cons j js ih => exact (d.secondaryOf_joinsTo number n j.trigger j.port).trans (ih (n + 1) _)

theorem Dev.replyTo_congr {d e : Dev} (h : d.pif = e.pif) (p : Option Port) (status : Status) (flags : Byte)
    (body : ReplyBody) : (d.replyTo p status flags body).pif = (e.replyTo p status flags body).pif := by
  cases p with
  | none => exact h
  | some p => exact Dev.reply_congr h ..

/-- The answers go out in the order of the joined triggers. -/
theorem Dev.joinedSecondary_pif (number : Nat) (js : List Joined) (n : Nat) (d e : Dev) (same : d.pif = e.pif) :
    (Dev.joinedSecondary number d js n).pif
      = (js.foldl (fun e j => e.replyTo j.port .ok 0 (.declared .secondary number)) e).pif := by
  induction js generalizing d e n with
  | nil => exact same
  | cons j js ih =>
    refine ih (n + 1) _ _ ?_
    have before : ((d.triggerEvent j.trigger number .secondary).dev.countSecondary number n j.trigger).pif = e.pif := by
      refine Eq.trans ?_ same
      exact ((Dev.countSecondary_keeps _ _ _ _) .pif (by decide)).trans (by simp)
    rw [Dev.secondaryOf_eq]
    exact Dev.replyTo_congr before ..

end

end Sys2Proof.Machine
end


section
/-! PROOFS. The pending opening is served (R8, R9, R11, R12, R19, R95). -/

namespace Sys2Proof.Machine

/-- A new number stands where it is put. -/
theorem Drm.slotOf_put_new {m : Drm} {x : Incident} (new : ∀ y ∈ m.records, y.number ≠ x.number) (i : DirSlot) {n : Drm}
    (dir : n.dir = put m.dir i (some x)) : n.slotOf x.number = some i := by
  have absent (k : DirSlot) : (m.dir[k]).any (·.number == x.number) = false :=
    firstFin_none.1 ((m.slotOf_none x.number).2 new) k
  cases found : n.slotOf x.number with
  | none =>
    have atSlot := firstFin_none.1 found i
    rw [dir, get_put, if_pos rfl] at atSlot
    simp at atSlot
  | some k =>
    have holds := firstFin_some found
    rw [dir, get_put] at holds
    split at holds
    next same => rw [same]
    next => exact absurd ((absent k).symm.trans holds) nofun

section
variable {base : Dev} {i : DirSlot} {t : TriggerRecord} {p : Option Port} {js : List Joined}

/-- An opening with the triggers that joined it. -/
def Dev.openingJoined (base : Dev) (i : DirSlot) (t : TriggerRecord) (p : Option Port) (js : List Joined) : Dev :=
  Dev.joinedSecondary base.drm.nextIncident (base.openIncident i t p) js 0

theorem Dev.answer_keeps (d : Dev) (p : Option Port) (x : Disposition) (n : Nat) : d.keepsAllBut [.pif] (d.answer p x n) :=
  fun b hb => by cases b <;> simp [Part.agrees, Dev.answer] at hb ⊢

theorem Dev.openIncident_keeps : (base.opening i t).keepsAllBut [.pif] (base.openIncident i t p) := by
  rw [Dev.openIncident_eq]
  exact Dev.answer_keeps _ _ _ _

/-- The joined triggers behind the opening. -/
theorem Dev.openingJoined_drm (new : ∀ x ∈ base.drm.records, x.number ≠ base.drm.nextIncident) :
    (base.openingJoined i t p js).drm = (base.opening i t).drm.withJoined i (base.openingRecord t) js 0 := by
  have drm : (base.openIncident i t p).drm = (base.opening i t).drm := Dev.openIncident_keeps .drm (by decide)
  have dir : (base.opening i t).drm.dir = put base.drm.dir i (some (base.openingRecord t)) := by rw [Dev.opening_drm]
  have hk : (base.opening i t).drm.slotOf (base.openingRecord t).number = some i :=
    Drm.slotOf_put_new (x := base.openingRecord t) new i dir
  have hx : (base.opening i t).drm.dir[i] = some (base.openingRecord t) := by rw [dir]; exact get_put_same ..
  rw [← drm] at hk hx ⊢
  exact Dev.joinedSecondary_drm js 0 _ _ hk hx (Nat.zero_le _)

theorem Dev.opening_freePlaces (rest : List CapWaiter) (waiters : base.drm.captureWaiters = rest) :
    (base.opening i t).drm.freePlaces = if rest = [] then 79 - base.drm.queue.length else 0 := by
  rw [Drm.freePlaces, Dev.opening_drm, ← waiters]
  simp only [List.length_append, List.length_singleton]
  refine if_congr Iff.rfl ?_ rfl
  omega

/-- The record of an opening with the triggers that joined it (R8, R11). -/
theorem Dev.openingRecord_withJoined (base : Dev) (t : TriggerRecord) (js : List Joined) (room : Nat) :
    (base.openingRecord t).withJoined js 0 room =
      { state := .recording, number := base.drm.nextIncident, epoch := base.drm.epoch, primary := t
        secondary := ((js.take 4).take room).map fun x => (x.trigger.cause, x.trigger.tick)
        overflow := min 255 (js.length - 4), streams := [], windowFirst := (base.openingWindow t).first
        windowLast := (base.openingWindow t).last, shortened := (base.openingWindow t).shortened, completeness := none
        held := false, retrieved := false } := by
  simp [Incident.withJoined, Dev.openingRecord, openRecord]

/-- The outcome of an opening with the triggers that joined it. -/
structure Dev.opensJoined (base r : Dev) (i : DirSlot) (t : TriggerRecord) (p : Option Port) (js : List Joined) : Prop where
  ict : r.ict = (base.opening i t).ict
  window : r.tmb.deadlines.window = some (base.tmb.tick + BitVec.ofNat 48 (base.sst.working.window * 1000))
  limit : r.tmb.deadlines.limit = some (base.tmb.tick + BitVec.ofNat 48 (base.sst.working.limit * 1000))
  pif : r.pif = (js.foldl (fun e x => e.replyTo x.port .ok 0 (.declared .secondary base.drm.nextIncident))
    (base.replyTo p .ok 0 (.declared .opened base.drm.nextIncident))).pif
  notice : r.noticed .incidentOpened base.drm.nextIncident
  keeps : base.keepsAllBut [.pif, .ict, .arc, .drm, .hiu, .tmb, .ntu] r

theorem Dev.openingJoined_opens (base : Dev) (i : DirSlot) (t : TriggerRecord) (p : Option Port) (js : List Joined) :
    base.opensJoined (base.openingJoined i t p js) i t p js := by
  have joins := Dev.joinedSecondary_joinsTo base.drm.nextIncident js 0 (base.openIncident i t p)
  have opened := Dev.openIncident_keeps (base := base) (i := i) (t := t) (p := p)
  have tmb : (base.openIncident i t p).tmb = (base.opening i t).tmb := opened .tmb (by decide)
  have ntu : (base.openIncident i t p).ntu = (base.opening i t).ntu := opened .ntu (by decide)
  have kept := base.opening_keepsAllBut i t
  constructor
  case ict => exact (joins.keeps .ict (by decide)).trans (opened .ict (by decide))
  case window =>
    refine joins.window.trans ?_
    rw [tmb, Dev.opening_tmb]
  case limit =>
    refine joins.limit.trans ?_
    rw [tmb, Dev.opening_tmb]
  case pif =>
    refine Dev.joinedSecondary_pif _ js 0 _ _ ?_
    rw [Dev.openIncident_eq]
    exact Dev.replyTo_congr (kept .pif (by decide)) ..
  case notice =>
    refine joins.notice.told _ ?_
    have told : (base.opening i t).noticed .incidentOpened base.drm.nextIncident := Dev.raise_noticed _ _ _
    unfold Dev.noticed at told ⊢
    rw [ntu]
    exact told
  case keeps =>
    exact (kept.mono (by decide)).trans ((opened.mono (by decide)).trans (joins.keeps.mono (by decide)))

end

/-! ### The judgement -/

section
variable {d : Dev} {o : Opening}

/-- The pending opening out of ICT's hands. -/
abbrev Dev.judged (d : Dev) : Dev := d.setIct fun c => { c with opening := none }

theorem Dev.serveOpening_refused (h : d.arc.storeFailed = true ∨ d.judged.openingWay = .refused) :
    d.serveOpening o = o.joined.foldl (fun e x => e.takeTrigger x.trigger x.port) (d.judged.refuseTrigger o.trigger o.port) := by
  have way : (if d.judged.arc.storeFailed then .refused else d.judged.openingWay) = .refused := by
    rcases h with failed | refused
    · exact if_pos failed
    · rw [refused]
      exact ite_self _
  unfold Dev.serveOpening
  exact if_pos way

theorem Dev.serveOpening_opens (running : d.arc.storeFailed = false) (way : d.judged.openingWay ≠ .refused) :
    d.serveOpening o = Dev.joinedSecondary d.drm.nextIncident (d.judged.openBy d.judged.openingWay o.trigger o.port)
      o.joined 0 := by
  have stands : (if d.judged.arc.storeFailed then .refused else d.judged.openingWay) = d.judged.openingWay :=
    if_neg (by simp [Dev.setIct, running])
  unfold Dev.serveOpening
  dsimp only
  rw [stands, if_neg way]
  rfl

/-- The state from which an opening takes effect: behind the release of roll-oldest. -/
theorem Dev.serveOpening_from {base : Dev} {i : DirSlot} (running : d.arc.storeFailed = false)
    (way : (d.judged.openingWay = .slot i ∧ base = d.judged)
      ∨ ∃ m, d.judged.openingWay = .roll i m ∧ base = d.judged.releaseIncident i m .internal) :
    d.serveOpening o = base.openingJoined i o.trigger o.port o.joined
      ∧ base.drm.nextIncident = d.drm.nextIncident ∧ base.drm.epoch = d.drm.epoch
      ∧ base.drm.captureWaiters = d.drm.captureWaiters ∧ base.ict = d.judged.ict ∧ base.tmb.tick = d.tmb.tick
      ∧ base.sst = d.sst := by
  rcases way with ⟨slot, same⟩ | ⟨m, roll, same⟩ <;> rw [same]
  · refine ⟨?_, rfl, rfl, rfl, rfl, rfl, rfl⟩
    rw [Dev.serveOpening_opens running (by rw [slot]; nofun), slot]
    rfl
  · have drm := d.judged.releaseIncident_drm (i := i) (n := m) (source := .internal)
    have keeps := d.judged.releaseIncident_keepsAllBut (i := i) (n := m) (source := .internal)
    have next : (d.judged.releaseIncident i m .internal).drm.nextIncident = d.drm.nextIncident := by rw [drm]; rfl
    refine ⟨?_, next, by rw [drm]; rfl, by rw [drm]; rfl, keeps .ict (by decide), ?_, keeps .sst (by decide)⟩
    · rw [Dev.serveOpening_opens running (by rw [roll]; nofun), roll, Dev.openingJoined, next]
      rfl
    · simp

end

end Sys2Proof.Machine
end


section
/-! PROOFS. O57: waiters served (R9, R11, R12, R16, R25, R29, R47, R67, R85, R86, R94, R95). -/

namespace Sys2Proof.Machine

section
variable {d : Dev}

/-! ### The places a waiter needs -/

theorem Dev.waiterNeeds_eq (d : Dev) (w : CapWaiter) : d.waiterNeeds w =
    if w = .opening ∧ d.arc.storeFailed = false then max 1 d.openingWay.places else 1 := by
  cases w with
  | opening => cases failed : d.arc.storeFailed <;> simp [Dev.waiterNeeds, failed]
  | _ => rfl

theorem Dev.waiterNeeds_pos (d : Dev) (w : CapWaiter) : 1 ≤ d.waiterNeeds w := by
  rw [Dev.waiterNeeds_eq]
  split
  · exact Nat.le_max_left ..
  · exact Nat.le_refl 1

theorem Dev.waiterReady_of {w : CapWaiter} {rest : List CapWaiter} (front : d.drm.captureWaiters = w :: rest) :
    d.waiterReady = if d.drm.queue.length + d.waiterNeeds w ≤ 80 then some (w, rest) else none := by
  have needs := d.waiterNeeds_pos w
  have places : d.waiterNeeds w ≤ d.drm.places ↔ d.drm.queue.length + d.waiterNeeds w ≤ 80 := by
    rw [Drm.places, Config.queueDepth]
    omega
  simp only [Dev.waiterReady, front, places]

/-! ### What each does with its place -/

/-- An answer behind a change. -/
theorem Dev.reply_after {d e : Dev} (h : e.pif = d.pif) (p : Port) (status : Status) (flags : Byte) (body : ReplyBody) :
    e.reply p status flags body = { e with pif := (d.reply p status flags body).pif } := by
  rw [Dev.reply_eq, Dev.reply_congr h]

theorem Dev.openStreamNow_refused {cls : Nat} {status : Status} (h : d.openStreamTest cls = some status) (p : Port)
    (label : BitVec 64) (declared : Option Nat) : d.openStreamNow p cls label declared = d.reply p status 0 .empty := by
  simp only [Dev.openStreamNow, h]

theorem Dev.openStreamNow_takes {cls : Nat} {i : StreamIdx} {k : DirSlot} {x : Incident}
    (h : d.openStreamTest cls = none) (free : d.freeStreamSlot = some i) (recording : d.ict.recording = some k)
    (hx : d.drm.dir[k] = some x) (hk : d.drm.slotOf x.number = some k) (p : Port) (label : BitVec 64)
    (declared : Option Nat) : d.openStreamNow p cls label declared = ({ d with
        pif := (d.reply p .ok 0 (.opened i ((d.cpm.slots[i]).gen + 1) x.number x.streams.length)).pif
        cpm := { d.cpm with slots := put d.cpm.slots i ⟨(d.cpm.slots[i]).gen + 1,
          some (newBody x.number x.streams.length p cls declared)⟩ }
        ict := d.ict.attnClear p
        drm := { d.drm with
          queue := d.drm.queue ++ [JEntry.streamOpen x.number x.streams.length (.port p) cls label declared]
          dir := put d.drm.dir k (some { x with
            streams := x.streams ++ [newStream x.streams.length p cls label declared] }) } } : Dev).settle := by
  have at_k : d.drm.at? d.ict.recording = some x := by rw [recording]; exact hx
  simp only [Dev.openStreamNow, h, free, at_k]
  rw [Dev.takeStream_eq hk hx]
  refine congrArg Dev.settle (Dev.reply_after (d := d) ?_ ..)
  rfl

theorem Dev.serveStreamEnd_stays {i : StreamIdx}
    (h : ∀ x, d.body i = some x → x.ending = none ∨ x.fill ≠ none ∨ x.queued ≠ 0) :
    d.serveWaiter (.streamEnd i) = d := by
  unfold Dev.serveWaiter
  dsimp only
  split
  next x taken => rw [StreamBody.drained_none_iff.2 (h x taken)]
  · rfl

theorem Dev.serveStreamEnd_releases {i : StreamIdx} {x : StreamBody} {e : PendingEnd} (taken : d.body i = some x)
    (drained : x.drained = some e) : d.serveWaiter (.streamEnd i) = (d.releaseSlot i x e).closeRun := by
  simp only [Dev.serveWaiter, taken, drained]

theorem Dev.serveIncidentClose_stays (h : d.keepable = none) : d.serveWaiter .incidentClose = d := by
  simp only [Dev.serveWaiter, h]

theorem Dev.serveIncidentClose_keeps {i : DirSlot} {x : Incident} (h : d.keepable = some (i, x)) :
    d.serveWaiter .incidentClose = (d.keep i x).closeRun := by
  simp only [Dev.serveWaiter, h]

/-- The release of a waiting slot (R25, R47). -/
theorem Dev.releaseSlot_served {i : StreamIdx} {x : StreamBody} (e : PendingEnd) :
    ((d.releaseSlot i x e).closeRun.body i = none
      ∧ ∀ j, j ≠ i → (d.releaseSlot i x e).closeRun.body j = d.body j)
    ∧ (∃ l, (d.releaseSlot i x e).closeRun.drm.queue = d.drm.queue ++ x.endEntry e :: l)
    ∧ d.recordTakes (d.releaseSlot i x e).closeRun x (x.closed e)
    ∧ d.keepsAllBut [.ict, .cpm, .arc, .drm, .hiu, .tmb, .ntu] (d.releaseSlot i x e).closeRun := by
  have bodies (j : StreamIdx) := (Dev.body_closeRun (d.releaseSlot i x e) j).trans (Dev.body_releaseSlot d i j x e)
  have slot : d.keepsAllBut [.cpm, .drm] (d.releaseSlot i x e) := fun b hb => by
    cases b <;> simp [Part.agrees, Dev.releaseSlot] at hb ⊢
  exact ⟨⟨(bodies i).trans (if_pos rfl), fun j ne => (bodies j).trans (if_neg ne.symm)⟩,
    (Dev.closeRun_grows _).behind (d.releaseSlot_queue i x e),
    Dev.recordTakes_then (d.releaseSlot_recordTakes i x e) (Dev.closeRun_keepsStreams _),
    (slot.mono (by decide)).trans ((Dev.closeRun_keepsAllBut _).mono (by decide))⟩

theorem Dev.keep_keepsAllBut (d : Dev) (i : DirSlot) (x : Incident) :
    d.keepsAllBut [.ict, .arc, .drm, .hiu, .tmb, .ntu] (d.keep i x) := fun b hb => by
  cases b <;> simp [Part.agrees] at hb ⊢

/-- The close of an incident that waited (R16). -/
theorem Dev.keep_served {i : DirSlot} {x : Incident} (stands : d.drm.dir[i] = some x) (notRecording : d.ict.recording ≠ some i) :
    (d.keep i x).closeRun.ict.closing ≠ some i
    ∧ (d.keep i x).closeRun.drm.dir[i] = some { x with state := .kept, completeness := some x.closeCompleteness }
    ∧ (∃ l, (d.keep i x).closeRun.drm.queue
        = d.drm.queue ++ JEntry.incidentClose x.number (some x.closeCompleteness) x.overflow :: l)
    ∧ (d.keep i x).closeRun.notifies .incidentKept
    ∧ d.keepsAllBut [.ict, .arc, .drm, .hiu, .tmb, .ntu] (d.keep i x).closeRun := by
  have done : (d.keep i x).closed i := by
    rw [Dev.closed, Dev.keep_ict]
    exact ⟨notRecording, nofun⟩
  obtain ⟨closed, dir⟩ := done.closeRun
  exact ⟨closed.2, dir.trans (Dev.keep_dir_self stands x), (Dev.closeRun_grows _).behind (by rw [Dev.keep_drm]),
    (Dev.closeRun_flowsTo _).notices.notifies (d.keep_notifies i x),
    (d.keep_keepsAllBut i x).trans (Dev.closeRun_keepsAllBut _)⟩

end

/-! ### The commands -/

theorem Dev.serveFront_eq {d : Dev} {w : CapWaiter} {rest : List CapWaiter} (front : d.drm.captureWaiters = w :: rest) :
    d.serveFront = if d.drm.queue.length + d.waiterNeeds w ≤ 80 then
      ((d.setDrm fun m => { m with captureWaiters := rest }).serveWaiter w).settle else d := by
  unfold Dev.serveFront
  rw [Dev.waiterReady_of front]
  by_cases room : d.drm.queue.length + d.waiterNeeds w ≤ 80
  · simp only [if_pos room]
  · simp only [if_neg room]

theorem Dev.acceptFront_eq {d : Dev} {e : JEntry} {rest : List JEntry} (front : d.drm.maintWaiters = e :: rest) :
    d.acceptFront = if d.drm.queue.length < 16 then
      ((d.setDrm fun m => { m with maintWaiters := rest }).acceptMaint e).settle else d := by
  have room : d.drm.hasRoom = true ↔ d.drm.queue.length < 16 := by simp [Drm.hasRoom, Config.housekeepingDepth]
  unfold Dev.acceptFront
  rw [front]
  simp only [room]

theorem exec_captureWaiterServed {s : State} (hpower : s.powered = true) :
    exec .captureWaiterServed s = .next { s with dev := s.dev.serveFront } :=
  State.act_of_powered hpower Dev.serveFront

theorem exec_maintenanceWaiterAccepted {s : State} (hpower : s.powered = true) :
    exec .maintenanceWaiterAccepted s = .next { s with dev := s.dev.acceptFront } :=
  State.act_of_powered hpower Dev.acceptFront

end Sys2Proof.Machine
end


section
/-! PROOFS. O57: each waiter served (R9, R11, R12, R16, R25, R29, R47, R67, R85, R86, R94, R95). -/

namespace Sys2Proof.Machine

section
variable {s : State} {rest : List CapWaiter}

/-- The state with the front capture waiter taken from the list. -/
abbrev State.unwaited (s : State) (rest : List CapWaiter) : Dev :=
  { s.dev with drm := { s.dev.drm with captureWaiters := rest } }

/-- A waiting OPEN_STREAM that a condition of Table 2.3 refuses now. -/
theorem serveOpenStream_refused (s : State) (rest : List CapWaiter) {p : Port} {cls : Nat} {label : BitVec 64}
    {declared : Option Nat} {st : Status} (h : s.dev.openStreamTest cls = some st) :
    (s.unwaited rest).serveWaiter (.openStream p cls label declared) = (s.unwaited rest).reply p st 0 .empty :=
  Dev.openStreamNow_refused (d := s.unwaited rest) h p label declared

/-- A waiting slot released (R25, R47). -/
theorem serveStreamEnd_spec (s : State) (rest : List CapWaiter) (i : StreamIdx) :
    ((∀ x, s.dev.body i = some x → x.ending = none ∨ x.fill ≠ none ∨ x.queued ≠ 0) →
        (s.unwaited rest).serveWaiter (.streamEnd i) = s.unwaited rest)
    ∧ (∀ x e, s.dev.body i = some x → x.ending = some e → x.fill = none → x.queued = 0 →
        let r := (s.unwaited rest).serveWaiter (.streamEnd i)
        r.body i = none ∧ (∀ j, j ≠ i → r.body j = s.dev.body j)
        ∧ (∃ l, r.drm.queue = s.dev.drm.queue
            ++ JEntry.streamEnd x.incident x.stream e.kind e.reason x.short x.accepted x.committed x.pages :: l)
        ∧ s.dev.recordTakes r x (x.closed e)
        ∧ (s.unwaited rest).keepsAllBut [.ict, .cpm, .arc, .drm, .hiu, .tmb, .ntu] r) := by
  refine ⟨fun h => Dev.serveStreamEnd_stays (d := s.unwaited rest) h, fun x e taken ending fill queued => ?_⟩
  intro r
  have drained : x.drained = some e := StreamBody.drained_iff.2 ⟨ending, fill, queued⟩
  have served : r = ((s.unwaited rest).releaseSlot i x e).closeRun :=
    Dev.serveStreamEnd_releases (d := s.unwaited rest) taken drained
  clear_value r
  subst served
  obtain ⟨⟨gone, others⟩, queue, records, keeps⟩ := Dev.releaseSlot_served (d := s.unwaited rest) (i := i) (x := x) e
  exact ⟨gone, others, queue, records, keeps⟩

/-- A waiting close (R16). -/
theorem serveIncidentClose_spec {i : DirSlot} {x : Incident} (closing : s.dev.ict.closing = some i)
    (stands : s.dev.drm.dir[i] = some x) (notRecording : s.dev.ict.recording ≠ some i) (rest : List CapWaiter) :
    ((∃ j y, s.dev.body j = some y ∧ y.incident = x.number) →
        (s.unwaited rest).serveWaiter .incidentClose = s.unwaited rest)
    ∧ ((∀ j y, s.dev.body j = some y → y.incident ≠ x.number) →
        let c : Completeness := if x.streams = [] then .noData
          else if ∀ y ∈ x.streams, y.endKind = .ended then .full else .partly
        let r := (s.unwaited rest).serveWaiter .incidentClose
        r.ict.closing ≠ some i ∧ r.drm.dir[i] = some { x with state := .kept, completeness := some c }
        ∧ (∃ l, r.drm.queue = s.dev.drm.queue ++ JEntry.incidentClose x.number (some c) x.overflow :: l)
        ∧ (∀ l ∈ [r.ntu.management, r.ntu.service], ∃ n ∈ l, n.cause = .incidentKept)
        ∧ (s.unwaited rest).keepsAllBut [.ict, .arc, .drm, .hiu, .tmb, .ntu] r) := by
  refine ⟨fun ⟨j, y, taken, same⟩ => Dev.serveIncidentClose_stays (d := s.unwaited rest) ?_, fun free => ?_⟩
  · cases hk : (s.unwaited rest).keepable with
    | none => rfl
    | some kr =>
      obtain ⟨at_, dir, none⟩ := Dev.keepable_iff (k := kr.1) (r := kr.2).1 hk
      obtain rfl := Option.some.inj (closing.symm.trans at_)
      obtain number := Option.some.inj (stands.symm.trans dir)
      exact absurd (number ▸ same) (none j y taken)
  · intro c r
    have hc : x.closeCompleteness = c := x.closeCompleteness_eq
    have keepable : (s.unwaited rest).keepable = some (i, x) := Dev.keepable_iff.2 ⟨closing, stands, free⟩
    have served : r = ((s.unwaited rest).keep i x).closeRun := Dev.serveIncidentClose_keeps keepable
    clear_value r c
    subst hc
    subst served
    exact Dev.keep_served (d := s.unwaited rest) stands notRecording

/-- The pending opening takes effect (R8, R9, R11, R12). -/
theorem serveOpening_spec {o : Opening} (opening : s.dev.ict.opening = some o) (running : s.dev.arc.storeFailed = false)
    {i : DirSlot} {base : Dev} (way : (s.dev.openingWay = .slot i ∧ base = (s.unwaited rest).judged)
      ∨ ∃ m, s.dev.openingWay = .roll i m ∧ base = (s.unwaited rest).judged.releaseIncident i m .internal)
    (new : ∀ x ∈ base.drm.records, x.number ≠ s.dev.drm.nextIncident) :
    let n := s.dev.drm.nextIncident
    let logged := base.triggerEvent o.trigger n .opened
    let v := (logged.dev.pinWindow n logged.seq).2
    let four := o.joined.take 4
    let room := if rest = [] then 79 - base.drm.queue.length else 0
    let r := (s.unwaited rest).serveWaiter .opening
    r.drm.dir = put base.drm.dir i (some
      { state := .recording, number := n, epoch := s.dev.drm.epoch, primary := o.trigger
        secondary := (four.take room).map fun x => (x.trigger.cause, x.trigger.tick)
        overflow := min 255 (o.joined.length - 4), streams := [], windowFirst := v.first
        windowLast := v.last, shortened := v.shortened, completeness := none, held := false
        retrieved := false })
    ∧ r.drm.queue = base.drm.queue
        ++ JEntry.incidentOpen i.val n s.dev.drm.epoch o.trigger v.first v.last v.shortened
          :: (four.take room).map (fun x => JEntry.triggerAdd n x.trigger.cause x.trigger.tick)
    ∧ r.drm.captureWaiters = rest ++ (four.drop room).map (fun x => CapWaiter.triggerAdd n x.trigger.cause x.trigger.tick)
    ∧ r.drm.nextIncident = n + 1
    ∧ r.ict.opening = none ∧ r.ict.recording = some i ∧ r.ict.windowExpired = false
    ∧ r.tmb.deadlines.window = some (s.dev.tmb.tick + BitVec.ofNat 48 (s.dev.sst.working.window * 1000))
    ∧ r.tmb.deadlines.limit = some (s.dev.tmb.tick + BitVec.ofNat 48 (s.dev.sst.working.limit * 1000))
    ∧ r.pif = (o.joined.foldl (fun e x => e.replyTo x.port .ok 0 (.declared .secondary n))
        (base.replyTo o.port .ok 0 (.declared .opened n))).pif
    ∧ (∀ l ∈ [r.ntu.management, r.ntu.service], ∃ x ∈ l, x.cause = .incidentOpened ∧ x.detail = BitVec.ofNat 32 n)
    ∧ base.keepsAllBut [.pif, .ict, .arc, .drm, .hiu, .tmb, .ntu] r := by
  intro n logged v four room r
  obtain ⟨serves, next, epoch, waiters, ict, tick, sst⟩ :=
    Dev.serveOpening_from (d := s.unwaited rest) (o := o) (base := base) (i := i) running way
  have opens := base.openingJoined_opens i o.trigger o.port o.joined
  have served : r = base.openingJoined i o.trigger o.port o.joined := by
    refine Eq.trans ?_ serves
    show (match s.dev.ict.opening with | some o => _ | none => _) = _
    rw [opening]
  have next : base.drm.nextIncident = n := next
  have drm := Dev.openingJoined_drm (base := base) (i := i) (t := o.trigger) (p := o.port) (js := o.joined)
    (by rw [next]; exact new)
  have hv : base.openingWindow o.trigger = v := by
    rw [Dev.openingWindow, Dev.openingLogged, next]
  have hroom : (base.opening i o.trigger).drm.freePlaces = room := Dev.opening_freePlaces rest waiters
  clear_value v room r
  subst served
  obtain ⟨ictJoined, window, limit, pif, notice, keeps⟩ := opens
  have number : (base.openingRecord o.trigger).number = n := next
  rw [Drm.withJoined, hroom, Dev.openingRecord_withJoined, number, next, hv, Dev.opening_drm, Dev.openingEntry, hv, next,
    put_put, List.append_assoc, List.singleton_append, epoch, waiters] at drm
  rw [Dev.opening_ict, ict] at ictJoined
  rw [tick, sst] at window limit
  rw [next] at pif notice
  refine ⟨?_, ?_, ?_, ?_, ?_, ?_, ?_, window, limit, pif, notice, keeps⟩
  · rw [drm]
  · rw [drm]
  · rw [drm]
  · rw [drm]
  · rw [ictJoined]
    rfl
  · rw [ictJoined]
  · rw [ictJoined]

end

end Sys2Proof.Machine
end


section
/-! PROOFS. O57: the waiters in their order (R94, R95). -/

namespace Sys2Proof.Machine

section
variable {s : State}

/-- A waiting TRIGGER_ADD (R12). -/
theorem serveTriggerAdd_spec {n : Nat} {i : DirSlot} {x : Incident} (hk : s.dev.drm.slotOf n = some i)
    (hx : s.dev.drm.dir[i] = some x) (rest : List CapWaiter) (c : Cause) (t : Tick) :
    (s.unwaited rest).serveWaiter (.triggerAdd n c t) = { s.unwaited rest with drm := { (s.unwaited rest).drm with
      queue := s.dev.drm.queue ++ [JEntry.triggerAdd n c t]
      dir := put s.dev.drm.dir i (some { x with secondary := x.secondary ++ [(c, t)] }) } } := by
  have number : x.number = n := by simpa [hx] using firstFin_some hk
  subst number
  exact Dev.addSecondary_eq (d := s.unwaited rest) hk hx c t

/-- A waiting OPEN_STREAM, judged by Table 2.3 (R24, R27 to R29). -/
theorem serveOpenStream_spec (s : State) (rest : List CapWaiter) (p : Port) (cls : Nat) (label : BitVec 64)
    (declared : Option Nat) :
    let d := s.unwaited rest
    let r := d.serveWaiter (.openStream p cls label declared)
    let power : Prop := ¬s.dev.mayOpen cls
    let refused (st : Status) : Prop := r = d.reply p st 0 .empty
    (power → refused .power)
    ∧ (¬power → s.dev.drm.at? s.dev.ict.recording = none → refused .noIncident)
    ∧ (∀ x, ¬power → s.dev.drm.at? s.dev.ict.recording = some x →
        (s.dev.ict.windowExpired = true → refused .windowClosed)
        ∧ (s.dev.ict.windowExpired = false → 12 ≤ x.streams.length → refused .streamLimit)
        ∧ (s.dev.ict.windowExpired = false → x.streams.length < 12 → (∀ i, s.dev.body i ≠ none) → refused .noSlot)) := by
  intro d r power refused
  refine ⟨fun h => ?_, fun h off => ?_, fun x h hx => ?_⟩
  · exact serveOpenStream_refused s rest (Dev.openStreamTest_power h)
  · exact serveOpenStream_refused s rest (Dev.openStreamTest_noIncident (not_not.1 h) off)
  · have test := Dev.openStreamTest_recording (d := s.dev) (not_not.1 h) hx
    refine ⟨fun hw => ?_, fun hw hn => ?_, fun hw hn all => ?_⟩
    · exact serveOpenStream_refused s rest (test.trans (by simp [hw]))
    · exact serveOpenStream_refused s rest (test.trans (by simp [hw, hn]))
    · refine serveOpenStream_refused s rest (test.trans ?_)
      rw [if_neg (by simp [hw]), if_neg (by omega), if_pos (Dev.all_taken_iff.2 all)]

/-- A waiting OPEN_STREAM that takes a slot (R25). -/
theorem serveOpenStream_takes {i : StreamIdx} {k : DirSlot} {x : Incident} {cls : Nat} (power : s.dev.mayOpen cls)
    (recording : s.dev.ict.recording = some k) (hx : s.dev.drm.dir[k] = some x) (hk : s.dev.drm.slotOf x.number = some k)
    (hw : s.dev.ict.windowExpired = false) (hn : x.streams.length < 12) (free : s.dev.freeStreamSlot = some i)
    (rest : List CapWaiter) (p : Port) (label : BitVec 64) (declared : Option Nat) :
    (s.unwaited rest).serveWaiter (.openStream p cls label declared) = ({ s.unwaited rest with
      pif := ((s.unwaited rest).reply p .ok 0
        (.opened i ((s.dev.cpm.slots[i]).gen + 1) x.number x.streams.length)).pif
      cpm := { s.dev.cpm with slots := put s.dev.cpm.slots i ⟨(s.dev.cpm.slots[i]).gen + 1,
        some (newBody x.number x.streams.length p cls declared)⟩ }
      ict := s.dev.ict.attnClear p
      drm := { (s.unwaited rest).drm with
        queue := s.dev.drm.queue ++ [JEntry.streamOpen x.number x.streams.length (.port p) cls label declared]
        dir := put s.dev.drm.dir k (some { x with
          streams := x.streams ++ [newStream x.streams.length p cls label declared] }) } } : Dev).settle := by
  have at_k : s.dev.drm.at? s.dev.ict.recording = some x := by rw [recording]; exact hx
  have unused : s.dev.body i = none := by simpa using firstFin_some free
  have passes := Dev.openStreamTest_none power at_k hw hn ⟨i, unused⟩
  exact Dev.openStreamNow_takes (d := s.unwaited rest) passes free recording hx hk p label declared

/-- The pending opening, refused (R10, R11). -/
theorem serveOpening_refused_spec {o : Opening} (opening : s.dev.ict.opening = some o)
    (h : s.dev.arc.storeFailed = true ∨ s.dev.openingWay = .refused) (rest : List CapWaiter) :
    (s.unwaited rest).serveWaiter .opening = o.joined.foldl (fun e x => e.takeTrigger x.trigger x.port)
      ((s.unwaited rest).judged.refuseTrigger o.trigger o.port) := by
  have refused : (s.unwaited rest).serveOpening o = _ := Dev.serveOpening_refused h
  refine Eq.trans ?_ refused
  show (match s.dev.ict.opening with | some o => _ | none => _) = _
  rw [opening]

/-- The maintenance waiter at the front (R67, R85, R86, R94). -/
theorem maintenanceWaiter_spec (hpower : s.powered = true) {e : JEntry} {rest : List JEntry}
    (front : s.dev.drm.maintWaiters = e :: rest) :
    (16 ≤ s.dev.drm.queue.length → exec .maintenanceWaiterAccepted s = .next s)
    ∧ (s.dev.drm.queue.length < 16 → exec .maintenanceWaiterAccepted s
        = .next { s with dev := ((s.dev.setDrm fun m => { m with maintWaiters := rest }).acceptMaint e).settle }) := by
  rw [exec_maintenanceWaiterAccepted hpower, Dev.acceptFront_eq front]
  refine ⟨fun full => ?_, fun room => ?_⟩
  · rw [if_neg (by omega)]
  · rw [if_pos room]

end

/-- Settles O57: each waiter by the rule of its own kind. -/
theorem waitersAreServedInOrder : Obligations.WaitersAreServedInOrder := by
  intro s hpower
  refine ⟨fun w rest front => ?_, fun e rest front => ?_⟩
  · have served := exec_captureWaiterServed hpower
    rw [Dev.serveFront_eq front] at served
    refine ⟨fun room => ?_, fun full => ?_, s.dev.waiterNeeds_eq w, ?_, ?_, ?_, ?_, ?_, ?_⟩
    · rw [served, if_pos room]
      rfl
    · rw [served, if_neg (by omega)]
    · rintro n c t i x rfl hk hx
      exact serveTriggerAdd_spec hk hx rest c t
    · rintro e rfl
      rfl
    · rintro p cls label declared rfl power refused
      obtain ⟨off, noIncident, tests⟩ := serveOpenStream_spec s rest p cls label declared
      refine ⟨off, noIncident, tests, fun i k x supplied recording hx hk hw hn free => ?_⟩
      exact serveOpenStream_takes (not_not.1 supplied) recording hx hk hw hn free rest p label declared
    · rintro i rfl
      exact serveStreamEnd_spec s rest i
    · rintro rfl i x closing stands notRecording
      exact serveIncidentClose_spec closing stands notRecording rest
    · rintro o rfl opening judged n
      refine ⟨fun refused => serveOpening_refused_spec opening refused rest, fun i base running way new => ?_⟩
      exact serveOpening_spec opening running way new
  · obtain ⟨full, accepts⟩ := maintenanceWaiter_spec hpower front
    refine ⟨full, fun room => ⟨?_, ?_, ?_⟩⟩ <;> rintro z rfl <;> exact accepts room

end Sys2Proof.Machine
end


section
/-! PROOFS. O56: what the scan's searches find (R144, R145, R149): lists in order, the greatest of numbers. -/

namespace Sys2Proof.Machine

/-! ### Lists in order -/

section
variable {α β : Type} {r : α → α → Prop} {l : List α}

/-- In an ordered list a search finds the first that the order places. -/
theorem find?_eq_some_of_pairwise (sorted : l.Pairwise r) (asymm : ∀ a b, r a b → ¬r b a) {p : α → Bool} {a : α} :
    l.find? p = some a ↔ a ∈ l ∧ p a = true ∧ ∀ x ∈ l, r x a → p x = false := by
  induction l with
  | nil => simp
  | cons y l ih =>
    obtain ⟨before, sorted⟩ := List.pairwise_cons.1 sorted
    rw [List.find?_cons]
    cases hy : p y with
    | true =>
      simp only [Option.some.injEq]
      refine ⟨fun same => ?_, fun ⟨mem, _, first⟩ => ?_⟩
      · subst same
        refine ⟨List.mem_cons_self, hy, fun x mem lt => ?_⟩
        rcases List.mem_cons.1 mem with rfl | mem
        · exact absurd lt (asymm _ _ lt)
        · exact absurd lt (asymm _ _ (before x mem))
      · rcases List.mem_cons.1 mem with rfl | mem
        · rfl
        · exact absurd (first y List.mem_cons_self (before a mem)) (by simp [hy])
    | false =>
      simp only [ih sorted, List.mem_cons, forall_eq_or_imp]
      refine ⟨fun ⟨mem, ha, first⟩ => ⟨.inr mem, ha, fun _ => hy, first⟩, fun ⟨mem, ha, _, first⟩ => ⟨?_, ha, first⟩⟩
      rcases mem with rfl | mem
      · exact absurd ha (by simp [hy])
      · exact mem

/-- The same of a search for a value. -/
theorem findSome?_eq_some_of_pairwise (sorted : l.Pairwise r) (asymm : ∀ a b, r a b → ¬r b a) {f : α → Option β} {b : β} :
    l.findSome? f = some b ↔ ∃ a ∈ l, f a = some b ∧ ∀ x ∈ l, r x a → f x = none := by
  induction l with
  | nil => simp
  | cons y l ih =>
    obtain ⟨before, sorted⟩ := List.pairwise_cons.1 sorted
    rw [List.findSome?_cons]
    cases hy : f y with
    | some c =>
      refine ⟨fun same => ⟨y, List.mem_cons_self, hy.trans same, fun x mem lt => ?_⟩, fun ⟨a, mem, ha, first⟩ => ?_⟩
      · rcases List.mem_cons.1 mem with rfl | mem
        · exact absurd lt (asymm _ _ lt)
        · exact absurd lt (asymm _ _ (before x mem))
      · rcases List.mem_cons.1 mem with rfl | mem
        · exact hy.symm.trans ha
        · exact absurd ((first y List.mem_cons_self (before a mem)).symm.trans hy) nofun
    | none =>
      simp only [ih sorted, List.mem_cons]
      refine ⟨fun ⟨a, mem, ha, first⟩ => ⟨a, .inr mem, ha, fun x hx lt => ?_⟩, fun ⟨a, mem, ha, first⟩ => ?_⟩
      · rcases hx with rfl | hx
        · exact hy
        · exact first x hx lt
      · rcases mem with rfl | mem
        · exact absurd (hy.symm.trans ha) nofun
        · exact ⟨a, mem, ha, fun x hx => first x (.inr hx)⟩

end

/-! ### The greatest number -/

theorem listMax_eq (l : List Nat) : listMax l = l.max? := by
  have step (l : List Nat) (a : Nat) :
      l.foldl (fun (b : Option Nat) n => some (max n (b.getD 0))) (some a) = some (l.foldl max a) := by
    induction l generalizing a with
    | nil => rfl
    | cons n l ih =>
      rw [List.foldl_cons, List.foldl_cons, Option.getD_some, max_comm, ih]
  cases l with
  | nil => rfl
  | cons n l => rw [List.max?_cons', listMax, List.foldl_cons, Option.getD_none, Nat.max_zero, step]

theorem listMax_eq_some {l : List Nat} {n : Nat} : listMax l = some n ↔ n ∈ l ∧ ∀ k ∈ l, k ≤ n := by
  rw [listMax_eq, List.max?_eq_some_iff]

theorem listMax_eq_none {l : List Nat} : listMax l = none ↔ l = [] := by
  rw [listMax_eq, List.max?_eq_none_iff]

theorem mem_zonePages {z : Zone} {p : PageAddr} : p ∈ zonePages z ↔ p.zone = z := by
  simp only [zonePages, List.mem_map, List.mem_finRange, true_and]
  refine ⟨fun ⟨k, same⟩ => by rw [← same], fun h => ⟨p.page, by rw [← h]⟩⟩

theorem zonePages_pairwise (z : Zone) : (zonePages z).Pairwise fun a b => a.page < b.page :=
  List.pairwise_map.2 (List.pairwise_lt_finRange 32)

/-! ### Bytes -/

theorem SMap.get_mem {α : Type} (d : α) (m : SMap α) (i : Nat) : SMap.get d m i = d ∨ (i, SMap.get d m i) ∈ m := by
  induction m with
  | nil => exact .inl rfl
  | cons e m ih =>
    rw [SMap.get]
    split
    next same => exact .inr (same ▸ List.mem_cons_self)
    next => exact ih.imp id (List.mem_cons_of_mem _)

theorem SMap.get_of_mem {α : Type} [DecidableEq α] {d : α} {m : SMap α} (h : SMap.wf d m) {e : Nat × α} (he : e ∈ m) :
    SMap.get d m e.1 = e.2 := by
  induction m with
  | nil => exact absurd he List.not_mem_nil
  | cons x m ih =>
    obtain ⟨rising, others⟩ := h
    obtain ⟨before, rising⟩ := List.pairwise_cons.1 rising
    rcases List.mem_cons.1 he with rfl | he
    · exact if_pos rfl
    · have below := before e.1 (List.mem_map_of_mem he)
      exact (if_neg (Nat.ne_of_lt below)).trans (ih ⟨rising, fun y hy => others y (List.mem_cons_of_mem _ hy)⟩ he)

/-- A range reads FFH. -/
theorem Memory.blank_iff {m : Memory} (h : m.wf) (a n : Nat) :
    m.blank a n = true ↔ ∀ x, a ≤ x → x < a + n → m.read x = 0xFF := by
  simp only [Memory.blank, List.all_eq_true, Bool.or_eq_true, decide_eq_true_eq, beq_iff_eq]
  refine ⟨fun all x low high => ?_, fun reads e mem => ?_⟩
  · rcases SMap.get_mem erasedByte m x with same | mem
    · exact same
    · exact (all _ mem).resolve_left (by rintro (below | above) <;> simp_all <;> omega)
  · by_cases inside : a ≤ e.1 ∧ e.1 < a + n
    · exact .inr ((SMap.get_of_mem h mem).symm.trans (reads e.1 inside.1 inside.2))
    · exact .inl (by omega)

/-! ### The settings found -/

/-- The valid record of the highest-numbered page that holds one (R145). -/
theorem settingsFound_eq_some (m : Memory) (r : Settings) : settingsFound m = some r ↔
    ∃ p : PageNo, settingsAt m ⟨0, p⟩ = some r ∧ ∀ q : PageNo, p < q → settingsAt m ⟨0, q⟩ = none := by
  have falling : (zonePages 0).reverse.Pairwise fun a b => b.page < a.page :=
    List.pairwise_reverse.2 (zonePages_pairwise 0)
  rw [settingsFound, findSome?_eq_some_of_pairwise falling fun a b lt gt => lt_asymm lt gt]
  simp only [List.mem_reverse, mem_zonePages]
  refine ⟨fun ⟨a, zone, found, above⟩ => ?_, fun ⟨p, found, above⟩ => ⟨⟨0, p⟩, rfl, found, fun x zone lt => ?_⟩⟩
  · obtain ⟨z, p⟩ := a
    subst zone
    exact ⟨p, found, fun q lt => above ⟨0, q⟩ rfl lt⟩
  · obtain ⟨z, q⟩ := x
    subst zone
    exact above q lt

/-! ### The epochs of headers -/

theorem headerEpoch_eq_some {m : Memory} {p : PageAddr} {n : Nat} :
    headerEpoch m p = some n ↔ ∃ h, headerOutcome (m.header p) = .good h ∧ h.epoch = n := by
  unfold headerEpoch
  split
  next h good => simp [good]
  next bad => simpa using fun h good _ => bad h good

theorem topHeaderEpoch_eq_some (m : Memory) (l : List PageAddr) (n : Nat) : topHeaderEpoch m l = some n ↔
    (∃ p ∈ l, ∃ h, headerOutcome (m.header p) = .good h ∧ h.epoch = n)
      ∧ ∀ p ∈ l, ∀ h, headerOutcome (m.header p) = .good h → h.epoch ≤ n := by
  simp only [topHeaderEpoch, listMax_eq_some, List.mem_filterMap, headerEpoch_eq_some]
  refine and_congr_right fun _ => ⟨fun top p mem h good => top _ ⟨p, mem, h, good, rfl⟩, ?_⟩
  rintro top _ ⟨p, mem, h, good, rfl⟩
  exact top p mem h good

end Sys2Proof.Machine
end


section
/-! PROOFS. O56: the pins of the KEPT incidents (R155) and the classes of ring pages and zones (R154). -/

namespace Sys2Proof.Machine

/-! ### The pins of a KEPT incident -/

theorem pinKept_eq (h : Hiu) (r : Incident) :
    pinKept h r = (Hiu.pinAll r.number h ((h.holding r.windowFirst r.windowLast).map .ring) 0).1 := rfl

theorem pinKept_spec (h : Hiu) (r : Incident) :
    let e := pinKept h r
    let back (k : RingIdx) : Nat := (h.newest.val + 16 - k.val) % 16
    e = { h with ring := e.ring }
    ∧ ∃ done left : List RingIdx, (done ++ left).Pairwise (fun x y => back x < back y)
      ∧ (∀ k : RingIdx, k ∈ done ++ left ↔
          ∃ x, (h.ring[k]).range = some x ∧ r.windowFirst ≤ x.2 ∧ x.1 ≤ r.windowLast)
      ∧ (∀ k : RingIdx, (e.ring[k]).state = (h.ring[k]).state ∧ (e.ring[k]).range = (h.ring[k]).range
          ∧ (k ∈ done → ∀ n, n ∈ (e.ring[k]).pins ↔ n = r.number ∨ n ∈ (h.ring[k]).pins)
          ∧ (k ∉ done → (e.ring[k]).pins = (h.ring[k]).pins))
      ∧ (∀ k l, left = k :: l → 12 ≤ e.pinCount ∧ (h.ring[k]).pins = []) := by
  intro e back
  obtain ⟨zones, others, split, all, -⟩ :=
    Hiu.pinAll_spec r.number ((h.holding r.windowFirst r.windowLast).map .ring) h 0
  obtain ⟨done, left, parts, rfl, rfl⟩ := List.map_eq_append_iff.1 split
  rw [← pinKept_eq] at all
  change h.pinsAll e r.number _ _ at all
  have unlisted : WindowZone.deferred ∉ done.map WindowZone.ring := by simp
  have deferred : e.deferred = h.deferred := all.other .deferred unlisted
  have written (k : RingIdx) := all.ring k
  simp only [WindowZone.mem_map_ring] at written
  refine ⟨all.rest.trans (by rw [deferred]), done, left, ?_, fun k => ?_, written, fun k l same => ?_⟩
  · rw [← parts]
    exact h.holding_pairwise r.windowFirst r.windowLast
  · rw [← parts]
    exact h.mem_holding r.windowFirst r.windowLast k
  · subst same
    obtain ⟨full, empty⟩ := all.stopped (.ring k) (l.map .ring) rfl
    have outside : k ∉ done := by
      have sorted := h.holding_pairwise r.windowFirst r.windowLast
      rw [parts, List.pairwise_append] at sorted
      exact fun mem => Nat.lt_irrefl _ (sorted.2.2 k mem k List.mem_cons_self)
    exact ⟨full, ((written k).2.2.2 outside).symm.trans empty⟩

/-! ### Ring pages -/

theorem ringPage_spec (m : Memory) (p : PageAddr) :
    (ringPage m p = .erased ↔ m.blankPage p = true)
    ∧ (m.blankPage p = false → ∀ h, headerOutcome (m.header p) = .good h → h.kind = kindHistory →
        ringPage m p = .good (goodEntries 64 (m.readRange p.base 1024)))
    ∧ (m.blankPage p = false → (∀ h, headerOutcome (m.header p) = .good h → h.kind ≠ kindHistory) →
        ringPage m p = .irregular) := by
  have written (h : m.blankPage p = false) : ringPage m p = match headerOutcome (m.header p) with
      | .good h => if h.kind = kindHistory then .good (goodEntries 64 (m.pageData p 0 Config.pageData)) else .irregular
      | _ => .irregular := if_neg (by simp [h])
  refine ⟨⟨fun erased => ?_, fun blank => if_pos blank⟩, fun dirty h good kind => ?_, fun dirty others => ?_⟩
  · by_contra dirty
    rw [written (Bool.eq_false_iff.2 dirty)] at erased
    split at erased
    next => split at erased <;> cases erased
    next => cases erased
  · rw [written dirty, good]
    simp only [if_pos kind, Memory.pageData, Nat.add_zero]
  · rw [written dirty]
    split
    next h good => exact if_neg (others h good)
    next => rfl

end Sys2Proof.Machine
end


section
/-! PROOFS. O56: the class of a ring zone by its pages (R154). -/

namespace Sys2Proof.Machine

/-- The least of some numbers, one of them at hand. -/
theorem foldl_min_spec {l : List Nat} {a : Nat} (ha : a ∈ l) : l.foldl min a ∈ l ∧ ∀ n ∈ l, l.foldl min a ≤ n := by
  have least := List.min?_eq_some_iff.1 (List.min?_cons' (x := a) (xs := l))
  generalize l.foldl min a = low at least
  refine ⟨(List.mem_cons.1 least.1).elim (fun same => same ▸ ha) id, fun n hn => least.2 n (List.mem_cons_of_mem _ hn)⟩

/-- A run of pages: good ones, at most one irregular behind them, the rest erased (R154). -/
def ringShape (l : List RingPage) (g : List (List Nat)) (irregular : Bool) (blank : Nat) : Prop :=
  g.flatten ≠ [] ∧ l = g.map .good ++ (if irregular then [RingPage.irregular] else []) ++ List.replicate blank .erased

section
variable {l : List RingPage} {g : List (List Nat)} {irregular : Bool} {blank : Nat}

/-- The class of a zone with a page in use, by the numbers of its good pages and the pages behind them. -/
def ringTail (seqs : List Nat) (irregular : Bool) (tail : List RingPage) (used : Nat) : RingClass :=
  match listMax seqs with
  | some high =>
    if tail.all (· == .erased) then
      .run (seqs.foldl min high) high irregular (if used < 32 then some (Fin.ofNat 32 used) else none)
    else .other
  | none => .other

theorem ringTail_cases (seqs : List Nat) (irregular : Bool) (tail : List RingPage) (used : Nat) :
    ringTail seqs irregular tail used = .other
    ∨ ∃ high, listMax seqs = some high ∧ (∀ p ∈ tail, p = .erased)
      ∧ ringTail seqs irregular tail used
        = .run (seqs.foldl min high) high irregular (if used < 32 then some (Fin.ofNat 32 used) else none) := by
  unfold ringTail
  split
  next high top =>
    split
    next erased => exact .inr ⟨high, top, by simpa using erased, rfl⟩
    next => exact .inl rfl
  next => exact .inl rfl

theorem ringTail_run {seqs : List Nat} {tail : List RingPage} {high : Nat} (top : listMax seqs = some high)
    (erased : ∀ p ∈ tail, p = .erased) (irregular : Bool) (used : Nat) : ringTail seqs irregular tail used
      = .run (seqs.foldl min high) high irregular (if used < 32 then some (Fin.ofNat 32 used) else none) := by
  unfold ringTail
  rw [top]
  exact if_pos (by simpa using erased)

/-- Whether the page behind the good ones is irregular. -/
def ringIrregular (rest : List RingPage) : Bool := rest.head? == some .irregular

/-- The pages that must be erased. -/
def ringErased (rest : List RingPage) : List RingPage := if ringIrregular rest then rest.drop 1 else rest

theorem drop_takeWhile (l : List RingPage) :
    l.drop (l.takeWhile RingPage.isGood).length = l.dropWhile RingPage.isGood := by
  have split := congrArg (List.drop (l.takeWhile RingPage.isGood).length)
    (List.takeWhile_append_dropWhile (p := RingPage.isGood) (l := l))
  rw [List.drop_left] at split
  exact split.symm

theorem ringClass_eq (dirty : ¬∀ p ∈ l, p = .erased) : ringClass l =
    ringTail ((l.takeWhile RingPage.isGood).flatMap RingPage.seqs) (ringIrregular (l.dropWhile RingPage.isGood))
      (ringErased (l.dropWhile RingPage.isGood))
      ((l.takeWhile RingPage.isGood).length + if ringIrregular (l.dropWhile RingPage.isGood) then 1 else 0) := by
  rw [← drop_takeWhile]
  unfold ringClass
  rw [if_neg (by simpa using dirty)]
  rfl

theorem ringClass_erased_iff : ringClass l = .erased ↔ ∀ p ∈ l, p = .erased := by
  refine ⟨fun same => ?_, fun all => if_pos (by simpa using all)⟩
  by_contra dirty
  rw [ringClass_eq dirty] at same
  rcases ringTail_cases _ _ _ _ with other | ⟨_, _, _, run⟩
  · exact absurd (same.symm.trans other) nofun
  · exact absurd (same.symm.trans run) nofun

theorem takeWhile_good (l : List RingPage) :
    ((l.takeWhile RingPage.isGood).map RingPage.seqs).map RingPage.good = l.takeWhile RingPage.isGood := by
  rw [List.map_map]
  refine (List.map_congr_left fun p hp => ?_).trans (List.map_id _)
  have good := List.mem_takeWhile_imp hp
  cases p with
  | good s => rfl
  | _ => exact absurd good (by simp [RingPage.isGood])

theorem ringIrregular_split {rest : List RingPage} {irregular : Bool} (h : ringIrregular rest = irregular) :
    rest = (if irregular then [RingPage.irregular] else []) ++ ringErased rest := by
  subst h
  unfold ringErased
  cases irr : ringIrregular rest with
  | false => rfl
  | true =>
    cases rest with
    | nil => cases irr
    | cons p rest =>
      have first : p = .irregular := by simpa [ringIrregular] using irr
      rw [first]
      rfl

theorem ringShape_of_run {low high : Nat} {first : Option PageNo} (h : ringClass l = .run low high irregular first) :
    ∃ g blank, ringShape l g irregular blank := by
  have dirty : ¬∀ p ∈ l, p = .erased := fun all => absurd (h.symm.trans (ringClass_erased_iff.2 all)) nofun
  rw [ringClass_eq dirty] at h
  rcases ringTail_cases _ _ _ _ with other | ⟨top, found, erased, run⟩
  · exact absurd (h.symm.trans other) nofun
  · rw [run] at h
    injection h with _ _ irr _
    refine ⟨(l.takeWhile RingPage.isGood).map RingPage.seqs, (ringErased (l.dropWhile RingPage.isGood)).length,
      fun empty => ?_, ?_⟩
    · rw [List.flatMap_def, empty] at found
      cases found
    · rw [takeWhile_good, List.append_assoc, ← List.eq_replicate_of_mem erased, ← ringIrregular_split irr]
      exact List.takeWhile_append_dropWhile.symm

/-- What stands behind the good pages of a run. -/
def ringRest (irregular : Bool) (blank : Nat) : List RingPage :=
  (if irregular then [RingPage.irregular] else []) ++ List.replicate blank .erased

theorem ringRest_spec (irregular : Bool) (blank : Nat) :
    (ringRest irregular blank).takeWhile RingPage.isGood = []
    ∧ (ringRest irregular blank).dropWhile RingPage.isGood = ringRest irregular blank
    ∧ ringIrregular (ringRest irregular blank) = irregular
    ∧ ringErased (ringRest irregular blank) = List.replicate blank .erased := by
  cases irregular <;> cases blank <;> exact ⟨rfl, rfl, rfl, rfl⟩

theorem ringClass_of_shape (shape : ringShape l g irregular blank) : ∃ high, listMax g.flatten = some high
    ∧ ringClass l = .run (g.flatten.foldl min high) high irregular
      (if g.length + (if irregular then 1 else 0) < 32
        then some (Fin.ofNat 32 (g.length + (if irregular then 1 else 0))) else none) := by
  obtain ⟨nonempty, same⟩ := shape
  rw [List.append_assoc] at same
  obtain ⟨high, top⟩ := Option.ne_none_iff_exists'.1 (mt listMax_eq_none.1 nonempty)
  obtain ⟨none, all, irr, erased⟩ := ringRest_spec irregular blank
  have goods : ∀ p ∈ g.map RingPage.good, p.isGood = true := by simp [RingPage.isGood]
  have good : l.takeWhile RingPage.isGood = g.map .good := by
    rw [same, List.takeWhile_append_of_pos goods]
    exact (congrArg _ none).trans (List.append_nil _)
  have rest : l.dropWhile RingPage.isGood = ringRest irregular blank := by
    rw [same, List.dropWhile_append_of_pos goods]
    exact all
  have seqs : (g.map RingPage.good).flatMap RingPage.seqs = g.flatten := by
    rw [List.flatMap_def, List.map_map]
    exact congrArg _ (List.map_id _)
  have dirty : ¬∀ p ∈ l, p = .erased := fun blank => by
    cases g with
    | nil => exact nonempty rfl
    | cons s g => exact absurd (blank (.good s) (by simp [same])) nofun
  refine ⟨high, top, ?_⟩
  rw [ringClass_eq dirty, good, rest, seqs, irr, erased, List.length_map]
  exact ringTail_run top (fun p hp => List.eq_of_mem_replicate hp) _ _

theorem ringClass_spec (l : List RingPage) (len : l.length = 32) :
    (ringClass l = .erased ↔ ∀ p ∈ l, p = .erased)
    ∧ (∀ low high irregular first, ringClass l = .run low high irregular first → ∃ g blank,
        ringShape l g irregular blank
        ∧ low ∈ g.flatten ∧ high ∈ g.flatten ∧ (∀ n ∈ g.flatten, low ≤ n ∧ n ≤ high)
        ∧ first = if blank = 0 then none else some (Fin.ofNat 32 (32 - blank)))
    ∧ (∀ g irregular blank, ringShape l g irregular blank → ∃ low high first,
        ringClass l = .run low high irregular first) := by
  refine ⟨ringClass_erased_iff, fun low high irregular first run => ?_, fun g irregular blank shape => ?_⟩
  · obtain ⟨g, blank, shape⟩ := ringShape_of_run run
    obtain ⟨top, greatest, cls⟩ := ringClass_of_shape shape
    rw [run] at cls
    injection cls with lowIs highIs _ firstIs
    subst highIs
    obtain ⟨mem, above⟩ := listMax_eq_some.1 greatest
    obtain ⟨least, below⟩ := foldl_min_spec mem
    rw [← lowIs] at least below
    refine ⟨g, blank, shape, least, mem, fun n hn => ⟨below n hn, above n hn⟩, firstIs.trans ?_⟩
    have used : g.length + (if irregular then 1 else 0) + blank = 32 := by
      rw [← len, shape.2, List.length_append, List.length_append, List.length_map, List.length_replicate]
      cases irregular <;> rfl
    by_cases full : blank = 0
    · rw [if_pos full, if_neg (by omega)]
    · rw [if_neg full, if_pos (by omega), show g.length + (if irregular then 1 else 0) = 32 - blank by omega]
  · obtain ⟨high, -, cls⟩ := ringClass_of_shape shape
    exact ⟨_, _, _, cls⟩

end

end Sys2Proof.Machine
end


section
/-! PROOFS. O56: the ring as the scan finds it (R154). -/

namespace Sys2Proof.Machine

section
variable (m : Memory) (defects : List Zone)

/-- The class of a ring zone by its own pages. -/
def ringCls (k : RingIdx) : RingClass := ringClass ((zonePages (ringZone k)).map (ringPage m))

/-- A zone that is read holds a run with a highest number. -/
def ringRun (k : RingIdx) (irregular : Bool) (high : Nat) : Prop :=
  ringZone k ∉ defects ∧ ∃ low first, ringCls m k = .run low high irregular first

/-- A run that counts as in order (R154). -/
def ringOrdered (k : RingIdx) (high : Nat) : Prop := ringRun m defects k false high
  ∨ (ringRun m defects k true high ∧ (∀ j n, ringRun m defects j false n → n < high)
    ∧ ∀ j n, ringRun m defects j true n → n ≤ high)

/-- A run: its zone, lowest and highest number and first erased page. -/
abbrev FoundRun := RingIdx × Nat × Nat × Option PageNo

/-- The run of a zone, where it counts as in order. -/
def foundRun (k : RingIdx) : Option FoundRun := match (ringClasses m defects)[k] with
  | some (.run low high irr first) =>
    if inOrder (ringClasses m defects) high irr then some (k, low, high, first) else none
  | _ => none

/-- The runs in order, by zone. -/
def ringRuns : List FoundRun := (List.finRange 16).filterMap (foundRun m defects)

/-- The run that stands, of one so far and one behind it. -/
def newerRun (a : Option FoundRun) (e : FoundRun) : Option FoundRun := match a with
  | some x => if x.2.2.1 < e.2.2.1 then some e else some x
  | none => some e

/-- The newest run. -/
def ringNewest : Option FoundRun := (ringRuns m defects).foldl newerRun none

/-- The ACTIVE zone and its first erased page. -/
def ringActive : Option (RingIdx × PageNo) := (ringNewest m defects).bind fun e => e.2.2.2.map fun p => (e.1, p)

/-- The numbers of the zones that are read. -/
def ringSeqs : List Nat := (List.finRange 16).flatMap fun k => if ringZone k ∈ defects then []
  else (zonePages (ringZone k)).flatMap fun p => (ringPage m p).seqs

variable {m defects}

theorem ringClasses_of_good {k : RingIdx} (h : ringZone k ∉ defects) :
    (ringClasses m defects)[k] = some (ringCls m k) := by
  simp [ringClasses, h, ringCls]

theorem ringClasses_of_defective {k : RingIdx} (h : ringZone k ∈ defects) : (ringClasses m defects)[k] = none := by
  simp [ringClasses, h]

theorem ringClasses_eq_some {k : RingIdx} {c : RingClass} :
    (ringClasses m defects)[k] = some c ↔ ringZone k ∉ defects ∧ ringCls m k = c := by
  by_cases h : ringZone k ∈ defects
  · simp [ringClasses_of_defective h, h]
  · simp [ringClasses_of_good h, h]

theorem ringRun_unique {k : RingIdx} {low high n : Nat} {irr irr' : Bool} {first : Option PageNo}
    (cls : ringCls m k = .run low high irr first) (run : ringRun m defects k irr' n) : irr' = irr ∧ n = high := by
  obtain ⟨-, low', first', same⟩ := run
  have fields := cls.symm.trans same
  injection fields with _ h i _
  exact ⟨i.symm, h.symm⟩

theorem mem_highs {irr : Bool} {n : Nat} : n ∈ highs (ringClasses m defects) irr ↔ ∃ k, ringRun m defects k irr n := by
  have mem (x : Option RingClass) : x ∈ (ringClasses m defects).toList ↔ ∃ k : RingIdx, (ringClasses m defects)[k] = x := by
    rw [Vector.mem_toList_iff, Vector.mem_iff_getElem]
    exact ⟨fun ⟨i, h, same⟩ => ⟨⟨i, h⟩, same⟩, fun ⟨k, same⟩ => ⟨k.val, k.isLt, same⟩⟩
  simp only [highs, List.mem_filterMap, mem]
  constructor
  · rintro ⟨x, ⟨k, at_k⟩, found⟩
    split at found
    next low high irr' first =>
      split at found
      next same =>
        cases found
        subst same
        obtain ⟨good, cls⟩ := ringClasses_eq_some.1 at_k
        exact ⟨k, good, low, first, cls⟩
      next => cases found
    next => cases found
  · rintro ⟨k, good, low, first, cls⟩
    exact ⟨some (.run low n irr first), ⟨k, ringClasses_eq_some.2 ⟨good, cls⟩⟩, by simp⟩

theorem inOrder_iff {k : RingIdx} {low high : Nat} {irr : Bool} {first : Option PageNo} (good : ringZone k ∉ defects)
    (cls : ringCls m k = .run low high irr first) :
    inOrder (ringClasses m defects) high irr = true ↔ ringOrdered m defects k high := by
  have run : ringRun m defects k irr high := ⟨good, low, first, cls⟩
  cases irr with
  | false => exact ⟨fun _ => .inl run, fun _ => rfl⟩
  | true =>
    have regular : ¬ringRun m defects k false high := fun other => absurd (ringRun_unique cls other).1 nofun
    simp only [inOrder, Bool.not_true, Bool.false_or, Bool.and_eq_true, List.all_eq_true, decide_eq_true_eq, beq_iff_eq,
      listMax_eq_some, mem_highs, ringOrdered, regular, false_or]
    exact ⟨fun ⟨above, top, all⟩ => ⟨run, fun j n hj => above n ⟨j, hj⟩, fun j n hj => all n ⟨j, hj⟩⟩,
      fun ⟨_, above, all⟩ => ⟨fun n ⟨j, hj⟩ => above j n hj, ⟨k, run⟩, fun n ⟨j, hj⟩ => all j n hj⟩⟩

theorem ringOrdered_run {k : RingIdx} {n : Nat} (h : ringOrdered m defects k n) : ∃ irr, ringRun m defects k irr n :=
  h.elim (fun run => ⟨false, run⟩) fun h => ⟨true, h.1⟩

theorem foundRun_eq_some {k : RingIdx} {e : FoundRun} : foundRun m defects k = some e ↔
    e.1 = k ∧ ringOrdered m defects k e.2.2.1 ∧ ∃ irr, ringCls m k = .run e.2.1 e.2.2.1 irr e.2.2.2 := by
  constructor
  · intro found
    unfold foundRun at found
    split at found
    next low high irr first at_k =>
      obtain ⟨good, cls⟩ := ringClasses_eq_some.1 at_k
      split at found
      next order =>
        cases found
        exact ⟨rfl, (inOrder_iff good cls).1 order, irr, cls⟩
      next => cases found
    next => cases found
  · rintro ⟨rfl, order, irr, cls⟩
    obtain ⟨_, good, -⟩ := ringOrdered_run order
    unfold foundRun
    rw [ringClasses_of_good good, cls]
    exact if_pos ((inOrder_iff good cls).2 order)

theorem mem_ringRuns {e : FoundRun} : e ∈ ringRuns m defects ↔ ringOrdered m defects e.1 e.2.2.1
    ∧ ∃ irr, ringCls m e.1 = .run e.2.1 e.2.2.1 irr e.2.2.2 := by
  simp only [ringRuns, List.mem_filterMap, List.mem_finRange, true_and, foundRun_eq_some]
  exact ⟨fun ⟨k, same, h⟩ => same ▸ h, fun h => ⟨e.1, rfl, h⟩⟩

theorem ringRuns_first {k : RingIdx} {e : FoundRun} {low high : Nat} {irr : Bool} {first : Option PageNo}
    (mem : e ∈ ringRuns m defects) (at_k : e.1 = k) (cls : ringCls m k = .run low high irr first) :
    e.2.2.2 = first := by
  obtain ⟨-, _, cls'⟩ := mem_ringRuns.1 mem
  rw [at_k] at cls'
  have fields := cls'.symm.trans cls
  rw [RingClass.run.injEq] at fields
  exact fields.2.2.2

theorem ringRuns_rise : (ringRuns m defects).Pairwise fun a b => a.1 < b.1 := by
  refine List.pairwise_filterMap.2 ((List.pairwise_lt_finRange 16).imp fun {j k} lt a ha b hb => ?_)
  rw [(foundRun_eq_some.1 ha).1, (foundRun_eq_some.1 hb).1]
  exact lt

end

/-! ### The newest run -/

/-- A run that no other has behind it: of equal highest numbers the lowest zone. -/
def FoundRun.tops (e : FoundRun) (l : List FoundRun) : Prop :=
  ∀ x ∈ l, x.2.2.1 < e.2.2.1 ∨ (x.2.2.1 = e.2.2.1 ∧ e.1 ≤ x.1)

theorem newerRun_foldl (l : List FoundRun) (a : FoundRun) (rise : (a :: l).Pairwise fun a b => a.1 < b.1) :
    ∃ e ∈ a :: l, l.foldl newerRun (some a) = some e ∧ FoundRun.tops e (a :: l) := by
  induction l generalizing a with
  | nil => exact ⟨a, List.mem_cons_self, rfl, fun x hx => by simp [List.mem_singleton.1 hx]⟩
  | cons b l ih =>
    obtain ⟨below, rise⟩ := List.pairwise_cons.1 rise
    have lt := below b List.mem_cons_self
    by_cases newer : a.2.2.1 < b.2.2.1
    · obtain ⟨e, mem, found, tops⟩ := ih b rise
      refine ⟨e, List.mem_cons_of_mem _ mem, ?_, fun x hx => ?_⟩
      · rw [List.foldl_cons, newerRun, if_pos newer, found]
      · rcases List.mem_cons.1 hx with rfl | hx
        · have := tops b List.mem_cons_self
          omega
        · exact tops x hx
    · have rise' : (a :: l).Pairwise fun a b => a.1 < b.1 :=
        List.pairwise_cons.2 ⟨fun x hx => below x (List.mem_cons_of_mem _ hx), (List.pairwise_cons.1 rise).2⟩
      obtain ⟨e, mem, found, tops⟩ := ih a rise'
      refine ⟨e, ?_, ?_, fun x hx => ?_⟩
      · rcases List.mem_cons.1 mem with rfl | mem
        · exact List.mem_cons_self
        · exact List.mem_cons_of_mem _ (List.mem_cons_of_mem _ mem)
      · rw [List.foldl_cons, newerRun, if_neg newer, found]
      · rcases List.mem_cons.1 hx with rfl | hx
        · exact tops x List.mem_cons_self
        · rcases List.mem_cons.1 hx with rfl | hx
          · rcases tops a List.mem_cons_self with less | ⟨equal, le⟩
            · exact .inl (by omega)
            · rcases Nat.lt_or_ge x.2.2.1 e.2.2.1 with less | ge
              · exact .inl less
              · exact .inr ⟨by omega, le.trans lt.le⟩
          · exact tops x (List.mem_cons_of_mem _ hx)

section
variable {m : Memory} {defects : List Zone}

theorem ringNewest_some {k : RingIdx} {high : Nat} (order : ringOrdered m defects k high) :
    ∃ e ∈ ringRuns m defects, ringNewest m defects = some e ∧ FoundRun.tops e (ringRuns m defects) := by
  obtain ⟨irr, good, low, first, cls⟩ := ringOrdered_run order
  have mem : ((k, low, high, first) : FoundRun) ∈ ringRuns m defects := mem_ringRuns.2 ⟨order, irr, cls⟩
  have rise := ringRuns_rise (m := m) (defects := defects)
  unfold ringNewest
  generalize ringRuns m defects = l at mem rise
  cases l with
  | nil => exact absurd mem List.not_mem_nil
  | cons a l => exact newerRun_foldl l a rise

theorem ringNewest_none (none : ∀ k n, ¬ringOrdered m defects k n) : ringNewest m defects = Option.none := by
  have empty : ringRuns m defects = [] :=
    List.eq_nil_iff_forall_not_mem.2 fun e he => none _ _ (mem_ringRuns.1 he).1
  rw [ringNewest, empty]
  rfl

/-! ### The scan's result -/

theorem ringPhase_newest : (ringPhase m defects).newest = ((ringNewest m defects).map (·.1)).getD 15 := by
  unfold ringPhase ringNewest ringRuns foundRun
  generalize ringClasses m defects = c
  generalize List.finRange 16 = l
  rfl

theorem ringPhase_target : (ringPhase m defects).target = (ringActive m defects).map fun e => ⟨e.1, e.2, 0⟩ := by
  unfold ringPhase ringActive ringNewest ringRuns foundRun
  generalize ringClasses m defects = c
  generalize List.finRange 16 = l
  rfl

theorem ringPhase_ring (k : RingIdx) : (ringPhase m defects).ring[k] = match (ringClasses m defects)[k] with
    | none => ⟨.defective, none, []⟩
    | some .erased => ⟨.erased, none, []⟩
    | some .other => ⟨.erasing, none, []⟩
    | some (.run low high irr _) =>
      if inOrder (ringClasses m defects) high irr then
        ⟨if (ringActive m defects).any (·.1 == k) then .active else .filled, some (low, high), []⟩
      else ⟨.erasing, none, []⟩ := by
  unfold ringPhase ringActive ringNewest ringRuns foundRun
  generalize ringClasses m defects = c
  generalize List.finRange 16 = l
  rw [Fin.getElem_fin, Vector.getElem_ofFn]
  rfl

theorem ringPhase_nextSeq : (ringPhase m defects).nextSeq = ((listMax (ringSeqs m defects)).getD 0) + 1 := by
  have same : (((List.finRange 16).filter fun k => !defects.contains (ringZone k)).flatMap fun k =>
      zonePages (ringZone k)).flatMap (fun p => (ringPage m p).seqs) = ringSeqs m defects := by
    rw [List.flatMap_assoc, ringSeqs]
    generalize List.finRange 16 = l
    induction l with
    | nil => rfl
    | cons k l ih =>
      by_cases bad : ringZone k ∈ defects
      · simpa [bad] using ih
      · simpa [bad] using ih
  rw [← same]
  unfold ringPhase
  generalize ringClasses m defects = c
  generalize List.finRange 16 = l
  rfl

theorem ringActive_any {k : RingIdx} {low high : Nat} {irr : Bool} {first : Option PageNo}
    (cls : ringCls m k = .run low high irr first) (order : ringOrdered m defects k high) :
    (ringActive m defects).any (·.1 == k) = true ↔ (ringPhase m defects).newest = k ∧ first ≠ none := by
  obtain ⟨e, mem, newest, -⟩ := ringNewest_some order
  rw [ringPhase_newest, ringActive, newest]
  simp only [Option.bind_some, Option.map_some, Option.getD_some]
  constructor
  · cases hf : e.2.2.2 with
    | none => simp
    | some p =>
      intro same
      have at_k : e.1 = k := by simpa using same
      exact ⟨at_k, by rw [← ringRuns_first mem at_k cls, hf]; nofun⟩
  · rintro ⟨at_k, some⟩
    obtain ⟨p, hp⟩ := Option.ne_none_iff_exists'.1 some
    rw [ringRuns_first mem at_k cls, hp]
    simp [at_k]

theorem ringPhase_top {k : RingIdx} {low high : Nat} {irr : Bool} {first : Option PageNo}
    (cls : ringCls m k = .run low high irr first) (order : ringOrdered m defects k high)
    (top : ∀ j n, ringOrdered m defects j n → n < high ∨ (n = high ∧ k ≤ j)) :
    (ringPhase m defects).newest = k ∧ (ringPhase m defects).target = first.map fun p => ⟨k, p, 0⟩ := by
  obtain ⟨e, mem, newest, tops⟩ := ringNewest_some order
  have order' := (mem_ringRuns.1 mem).1
  have at_k : e.1 = k := by
    have above := top _ _ order'
    have below := tops (k, low, high, first) (mem_ringRuns.2 ⟨order, irr, cls⟩)
    dsimp only at below
    rcases above with less | ⟨equal, le⟩
    · omega
    · rcases below with less | ⟨-, ge⟩
      · omega
      · exact le_antisymm ge le
  rw [ringPhase_newest, ringPhase_target, ringActive, newest]
  refine ⟨at_k, ?_⟩
  rw [Option.bind_some, ringRuns_first mem at_k cls, at_k, Option.map_map]
  rfl

theorem ringPhase_seqs : (∀ n ∈ ringSeqs m defects, n < (ringPhase m defects).nextSeq)
    ∧ ((ringSeqs m defects = [] ∧ (ringPhase m defects).nextSeq = 1)
      ∨ (ringPhase m defects).nextSeq - 1 ∈ ringSeqs m defects) := by
  rw [ringPhase_nextSeq]
  cases top : listMax (ringSeqs m defects) with
  | none =>
    have empty := listMax_eq_none.1 top
    exact ⟨by simp [empty], .inl ⟨empty, rfl⟩⟩
  | some n =>
    obtain ⟨mem, above⟩ := listMax_eq_some.1 top
    exact ⟨fun k hk => Nat.lt_succ_of_le (above k hk), .inr mem⟩

theorem ringPhase_spec (m : Memory) (defects : List Zone) :
    let z := ringPhase m defects
    let good (k : RingIdx) : Prop := ringZone k ∉ defects
    (∀ k, ¬good k → z.ring[k] = ⟨.defective, none, []⟩)
    ∧ (∀ k, good k → ringCls m k = .erased → z.ring[k] = ⟨.erased, none, []⟩)
    ∧ (∀ k, good k → ringCls m k = .other → z.ring[k] = ⟨.erasing, none, []⟩)
    ∧ (∀ k low high irregular first, good k → ringCls m k = .run low high irregular first →
        (¬ringOrdered m defects k high → z.ring[k] = ⟨.erasing, none, []⟩)
        ∧ (ringOrdered m defects k high → (z.ring[k]).range = some (low, high) ∧ (z.ring[k]).pins = []
            ∧ ((z.ring[k]).state = .active ↔ z.newest = k ∧ first ≠ none)
            ∧ ((z.ring[k]).state = .filled ↔ ¬(z.newest = k ∧ first ≠ none))
            ∧ ((∀ j n, ringOrdered m defects j n → n < high ∨ (n = high ∧ k ≤ j)) →
                z.newest = k ∧ z.target = first.map fun p => ⟨k, p, 0⟩)))
    ∧ ((∀ k n, ¬ringOrdered m defects k n) → z.newest = 15 ∧ z.target = none)
    ∧ ((∀ n ∈ ringSeqs m defects, n < z.nextSeq)
      ∧ ((ringSeqs m defects = [] ∧ z.nextSeq = 1) ∨ z.nextSeq - 1 ∈ ringSeqs m defects)) := by
  intro z good
  refine ⟨fun k bad => ?_, fun k sound cls => ?_, fun k sound cls => ?_, fun k low high irr first sound cls => ?_,
    fun none => ?_, ringPhase_seqs⟩
  · rw [ringPhase_ring, ringClasses_of_defective (not_not.1 bad)]
  · rw [ringPhase_ring, ringClasses_of_good sound, cls]
  · rw [ringPhase_ring, ringClasses_of_good sound, cls]
  · have ring := ringPhase_ring (m := m) (defects := defects) k
    rw [ringClasses_of_good sound, cls] at ring
    dsimp only at ring
    have order := inOrder_iff sound cls
    refine ⟨fun off => ring.trans (if_neg (mt order.1 off)), fun on => ?_⟩
    rw [if_pos (order.2 on)] at ring
    have active := ringActive_any cls on
    rw [ring]
    refine ⟨rfl, rfl, ?_, ?_, ringPhase_top cls on⟩
    · rw [← active]
      dsimp only
      split
      next h => simp [h]
      next h => simp [h]
    · rw [← active]
      dsimp only
      split
      next h => simp [h]
      next h => simp [h]
  · have off := ringNewest_none none
    refine ⟨?_, ?_⟩
    · rw [ringPhase_newest, off]
      rfl
    · rw [ringPhase_target, ringActive, off]
      rfl

end

end Sys2Proof.Machine
end


section
/-! PROOFS. O56: the replay of an entry (R148, R149, Table 8.3). -/

namespace Sys2Proof.Machine

/-- A good entry's effect, and its numbers that count all the same (R149). -/
theorem Replay.apply_spec (r : Replay) (b : List Byte) :
    (∀ e, JEntry.decode b = some e → r.apply b = { r.effect e with
      topEpoch := optMax r.topEpoch (epochIn b), topIncident := optMax r.topIncident (incidentIn b) })
    ∧ (JEntry.decode b = none → r.apply b = { r with
      topEpoch := optMax r.topEpoch (epochIn b), topIncident := optMax r.topIncident (incidentIn b) }) := by
  refine ⟨fun e decoded => ?_, fun unknown => ?_⟩
  · rw [Replay.apply, decoded]
  · rw [Replay.apply, unknown]

section
variable (r : Replay)

/-- An entry that rewrites the record of an incident. -/
def Replay.rewrites (e : JEntry) (n : Nat) (f : Incident → Incident) : Prop := r.effect e = { r with
  dir := r.dir.map fun x => x.map fun y => if y.number = n then f y else y }

/-- An entry that places a record in a FREE slot. -/
def Replay.places (e : JEntry) (slot : Nat) (x : Incident) : Prop :=
  (∀ i : DirSlot, i.val = slot → r.dir[i] = none → r.effect e = { r with dir := put r.dir i (some x) })
  ∧ ((∀ i : DirSlot, i.val = slot → r.dir[i] ≠ none) → r.effect e = r)

variable {r}

theorem Replay.places_of {e : JEntry} {slot : Nat} {x : Incident} (h : r.effect e = r.placeRecord slot x) :
    r.places e slot x := by
  refine ⟨fun i at_i free => ?_, fun taken => ?_⟩ <;> rw [h, Replay.placeRecord]
  · subst at_i
    rw [dif_pos i.isLt, if_pos (by rw [show r.dir[i.val] = none from free]; rfl)]
    rfl
  · split
    next lt =>
      have some := taken ⟨slot, lt⟩ rfl
      refine if_neg fun free => some ?_
      exact Option.isNone_iff_eq_none.1 free
    next => rfl

theorem mem_cons_filter {α : Type} [DecidableEq α] (l : List α) (z w : α) : w ∈ z :: l.filter (· != z) ↔ w = z ∨ w ∈ l := by
  by_cases same : w = z <;> simp [same]

theorem Incident.addStream_eq (x : Incident) (v : StreamRec) :
    x.addStream v = if x.streams.length < 12 then { x with streams := x.streams ++ [v] } else x := rfl

/-- Table 8.3. -/
theorem Replay.effect_spec (r : Replay) :
    (∀ g n next, r.effect (.compactHead g n next) = { r with headNext := some next })
    ∧ (∀ g n, r.effect (.compactTail g n) = r) ∧ (∀ n, r.effect (.epoch n) = r)
    ∧ (∀ slot x n, r.places (.incidentSummary slot x n) slot x)
    ∧ (∀ slot n epoch t first last shortened, r.places (.incidentOpen slot n epoch t first last shortened) slot
        { state := .recording, number := n, epoch := epoch, primary := t, secondary := [], overflow := 0
          streams := [], windowFirst := first, windowLast := last, shortened := shortened, completeness := none
          held := false, retrieved := false })
    ∧ (∀ n v, r.rewrites (.streamSummary n v) n fun y =>
        if y.streams.length < 12 then { y with streams := y.streams ++ [v] } else y)
    ∧ (∀ n c t, r.rewrites (.triggerAdd n c t) n fun y =>
        if y.secondary.length < 4 then { y with secondary := y.secondary ++ [(c, t)] } else y)
    ∧ (∀ n stream source cls label declared, r.rewrites (.streamOpen n stream source cls label declared) n fun y =>
        if y.streams.length < 12 then { y with streams := y.streams
          ++ [StreamRec.mk stream source cls label declared 0 0 0 .open none false] } else y)
    ∧ (∀ n stream kind reason short accepted committed pages,
        r.rewrites (.streamEnd n stream kind reason short accepted committed pages) n fun y => { y with
          streams := y.streams.map fun v => if v.number = stream then { v with
            endKind := kind, reason := reason, short := short, accepted := accepted, committed := committed
            pages := pages } else v })
    ∧ (∀ n c overflow, r.rewrites (.incidentClose n c overflow) n fun y =>
        { y with state := .kept, completeness := c, overflow := overflow })
    ∧ (∀ n, r.rewrites (.holdSet n) n fun y => { y with held := true })
    ∧ (∀ n, r.rewrites (.holdClear n) n fun y => { y with held := false })
    ∧ (∀ n, r.rewrites (.retrieved n) n fun y => { y with retrieved := true })
    ∧ (∀ n, r.effect (.release n) = { r with dir := r.dir.map fun x => x.filter (·.number != n) })
    ∧ (∀ z w, w ∈ (r.effect (.reclaimStart z)).unfinished ↔ w = z ∨ w ∈ r.unfinished)
    ∧ (∀ z w, w ∈ (r.effect (.reclaimDone z)).unfinished ↔ w ≠ z ∧ w ∈ r.unfinished)
    ∧ (∀ z w, w ∈ (r.effect (.zoneDefect z)).defects ↔ w = z ∨ w ∈ r.defects) := by
  refine ⟨fun _ _ _ => rfl, fun _ _ => rfl, fun _ => rfl, fun _ _ _ => Replay.places_of rfl,
    fun _ _ _ _ _ _ _ => Replay.places_of rfl, fun _ _ => rfl, fun _ _ _ => rfl, fun _ _ _ _ _ _ => rfl,
    fun _ _ _ _ _ _ _ _ => rfl, fun _ _ _ => rfl, fun _ => rfl, fun _ => rfl, fun _ => rfl, fun _ => rfl, ?_, ?_, ?_⟩
  · exact fun z w => mem_cons_filter r.unfinished z w
  · intro z w
    rw [show (r.effect (.reclaimDone z)).unfinished = r.unfinished.filter (· != z) from rfl, List.mem_filter, and_comm]
    simp
  · exact fun z w => mem_cons_filter r.defects z w

end

/-! ### The numbers of an entry -/

/-- The incident number of an entry (Table 13.8). -/
def JEntry.namedIncident : JEntry → Option Nat
  | .incidentOpen _ n _ _ _ _ _ | .triggerAdd n _ _ | .streamOpen n _ _ _ _ _ | .streamEnd n _ _ _ _ _ _ _
  | .incidentClose n _ _ | .retrieved n | .holdSet n | .holdClear n | .release n | .streamSummary n _ => some n
  | .incidentSummary _ x _ => some x.number
  | _ => none

/-- The epoch of an entry (Table 13.8). -/
def JEntry.namedEpoch : JEntry → Option Nat
  | .incidentOpen _ _ n _ _ _ _ | .epoch n | .compactHead _ n _ => some n
  | .incidentSummary _ x _ => some x.epoch
  | _ => none

/-- The layouts by which an entry is decoded give its numbers their places. -/
theorem JEntry.numbers_of_decode {b : List Byte} {e : JEntry} (h : JEntry.decode b = some e) :
    incidentIn b = e.namedIncident ∧ epochIn b = e.namedEpoch := by
  unfold JEntry.decode at h
  unfold incidentIn epochIn
  split at h
  case h_18 => cases h
  all_goals
    rename_i kind
    rw [kind]
    simp only [summaryAt, streamAt, Option.bind_eq_bind, Option.bind_eq_some_iff, Option.pure_def, Option.some.injEq] at h
  case h_4 =>
    obtain ⟨_, _, _, _, rfl⟩ := h
    exact ⟨rfl, rfl⟩
  case h_15 =>
    obtain ⟨_, _, _, _, _, _, _, _, rfl⟩ := h
    exact ⟨rfl, rfl⟩
  case h_16 =>
    obtain ⟨_, _, _, _, _, _, rfl⟩ := h
    exact ⟨rfl, rfl⟩
  case h_1 | h_2 | h_3 | h_5 =>
    obtain ⟨_, _, rfl⟩ := h
    exact ⟨rfl, rfl⟩
  all_goals
    subst h
    exact ⟨rfl, rfl⟩

theorem JEntry.numbers_of_bytes (e : JEntry) (h : e.storable) :
    incidentIn e.bytes = e.namedIncident ∧ epochIn e.bytes = e.namedEpoch :=
  JEntry.numbers_of_decode (journalEntriesRoundTrip e h).2.2

end Sys2Proof.Machine
end


section
/-! PROOFS. O56: the journal as the scan finds it (R146 to R149, Table 8.2). -/

namespace Sys2Proof.Machine

section
variable {m : Memory} {z : Zone} {g : Nat}

/-- A complete image (R146). -/
theorem completeImage_eq_some : completeImage m z = some g ↔
    (∃ epoch next, goodEntry m z 0 = some (.compactHead g epoch next))
      ∧ ∃ n, 2 ≤ n ∧ n ≤ 451 ∧ goodEntry m z (n - 1) = some (.compactTail g n) := by
  have tail (g : Nat) : (List.range' 2 450).any (fun n => goodEntry m z (n - 1) == some (.compactTail g n)) = true
      ↔ ∃ n, 2 ≤ n ∧ n ≤ 451 ∧ goodEntry m z (n - 1) = some (.compactTail g n) := by
    simp only [List.any_eq_true, List.mem_range'_1, beq_iff_eq]
    exact exists_congr fun n => ⟨fun ⟨⟨low, high⟩, h⟩ => ⟨low, by omega, h⟩, fun ⟨low, high, h⟩ => ⟨⟨low, by omega⟩, h⟩⟩
  unfold completeImage
  split
  next g' epoch next head =>
    constructor
    · intro h
      split at h
      next found =>
        cases h
        exact ⟨⟨epoch, next, head⟩, (tail g).1 found⟩
      next => cases h
    · rintro ⟨⟨_, _, same⟩, found⟩
      cases head.symm.trans same
      exact if_pos ((tail g).2 found)
  next other => exact ⟨nofun, fun ⟨⟨epoch, next, head⟩, _⟩ => absurd head (other g epoch next)⟩

/-! ### A replay -/

/-- What replay gathers from the slots of a zone. -/
def replayed (m : Memory) (z : Zone) : Replay :=
  ((List.range (firstNotGood m z)).map (slotBytes m z)).foldl Replay.apply Replay.blank

theorem replayZone_eq (m : Memory) (z : Zone) (g : Nat) (spare : SpareState) (epochs : Option Nat) :
    replayZone m z g spare epochs =
      { dir := (replayed m z).dir, active := some z, spare := some spare
        pos := (journalEnd m z (firstNotGood m z)).1, journalOpen := (journalEnd m z (firstNotGood m z)).2
        generation := g, defects := (replayed m z).defects, unfinished := (replayed m z).unfinished
        topEpoch := optMax (replayed m z).topEpoch epochs, headNext := (replayed m z).headNext
        topIncident := (replayed m z).topIncident, storeFailed := defectDetail (replayed m z).defects } := by
  unfold replayZone replayed
  dsimp only

/-! ### The cases of Table 8.2 -/

/-- The epochs of the headers of the directory zones. -/
def directoryEpochs (m : Memory) : Option Nat := topHeaderEpoch m (zonePages 1 ++ zonePages 2)

/-- The state of the spare zone where the other alone is active. -/
def spareFound (m : Memory) (z : Zone) : SpareState := if m.blankZone z then .erased else .dirty

theorem journalPhase_both {a b : Nat} (ha : completeImage m 1 = some a) (hb : completeImage m 2 = some b) :
    journalPhase m = if b ≤ a then replayZone m 1 a .dirty (directoryEpochs m)
      else replayZone m 2 b .dirty (directoryEpochs m) := by
  simp only [journalPhase, ha, hb, directoryEpochs]

theorem journalPhase_first (ha : completeImage m 1 = some g) (hb : completeImage m 2 = none) :
    journalPhase m = replayZone m 1 g (spareFound m 2) (directoryEpochs m) := by
  simp only [journalPhase, ha, hb, directoryEpochs, spareFound]

theorem journalPhase_second (ha : completeImage m 1 = none) (hb : completeImage m 2 = some g) :
    journalPhase m = replayZone m 2 g (spareFound m 1) (directoryEpochs m) := by
  simp only [journalPhase, ha, hb, directoryEpochs, spareFound]

theorem journalPhase_neither (ha : completeImage m 1 = none) (hb : completeImage m 2 = none) :
    journalPhase m = if m.blankZone 1 = true ∧ m.blankZone 2 = true
      then noJournal (some 2) (some .erased) none (directoryEpochs m)
      else noJournal none none (some 0xFFFFFFFF) (directoryEpochs m) := by
  simp only [journalPhase, ha, hb, directoryEpochs]

theorem replayZone_active {w : Zone} {spare : SpareState} {epochs : Option Nat}
    (h : (replayZone m w g spare epochs).active = some z) : w = z := by
  rw [replayZone_eq] at h
  exact Option.some.inj h

/-- An active zone with a complete image is replayed. -/
theorem journalPhase_replays (active : (journalPhase m).active = some z) (image : completeImage m z = some g) :
    ∃ spare, journalPhase m = replayZone m z g spare (directoryEpochs m) := by
  cases ha : completeImage m 1 with
  | some a =>
    cases hb : completeImage m 2 with
    | some b =>
      rw [journalPhase_both ha hb] at active ⊢
      split at active
      next le =>
        obtain rfl := replayZone_active active
        obtain rfl := Option.some.inj (ha.symm.trans image)
        exact ⟨.dirty, if_pos le⟩
      next lt =>
        obtain rfl := replayZone_active active
        obtain rfl := Option.some.inj (hb.symm.trans image)
        exact ⟨.dirty, if_neg lt⟩
    | none =>
      rw [journalPhase_first ha hb] at active ⊢
      obtain rfl := replayZone_active active
      obtain rfl := Option.some.inj (ha.symm.trans image)
      exact ⟨_, rfl⟩
  | none =>
    cases hb : completeImage m 2 with
    | some b =>
      rw [journalPhase_second ha hb] at active ⊢
      obtain rfl := replayZone_active active
      obtain rfl := Option.some.inj (hb.symm.trans image)
      exact ⟨_, rfl⟩
    | none =>
      rw [journalPhase_neither ha hb] at active
      split at active
      · cases active
        exact absurd (hb.symm.trans image) nofun
      · cases active

/-! ### The end of the replay -/

theorem firstNotGood_spec (m : Memory) (z : Zone) : firstNotGood m z ≤ 512
    ∧ (∀ i, i < firstNotGood m z → jGood (slotBytes m z i) = true)
    ∧ (firstNotGood m z < 512 → jGood (slotBytes m z (firstNotGood m z)) = false) := by
  unfold firstNotGood
  cases found : (List.range Config.journalSlots).find? fun k => !jGood (slotBytes m z k) with
  | none =>
    refine ⟨le_rfl, fun i lt => ?_, fun lt => absurd lt (Nat.lt_irrefl _)⟩
    simpa using List.find?_eq_none.1 found i (List.mem_range.2 lt)
  | some k =>
    obtain ⟨mem, bad, first⟩ := (find?_eq_some_of_pairwise List.pairwise_lt_range fun a b lt gt => lt_asymm lt gt).1 found
    have lt : k < 512 := List.mem_range.1 mem
    refine ⟨lt.le, fun i less => ?_, fun _ => ?_⟩
    · simpa using first i (List.mem_range.2 (less.trans lt)) less
    · simpa using bad

theorem journalEnd_full (m : Memory) (z : Zone) : journalEnd m z 512 = (512, true) := rfl

theorem journalEnd_blank {k : Nat} (lt : k < 512) (blank : ∀ b ∈ slotBytes m z k, b = 0xFF) :
    (journalEnd m z k).1 = k ∧ ((journalEnd m z k).2 = true ↔
      m.blank ((slotPage z k).base + 64 * (k % 16)) (1024 - 64 * (k % 16)) = true
        ∧ (k % 16 = 0 → headerOutcome (m.header (slotPage z k)) = .erased)) := by
  have all : (slotBytes m z k).all (· == erasedByte) = true := by simpa using blank
  have ne : k ≠ Config.journalSlots := Nat.ne_of_lt lt
  unfold journalEnd
  rw [if_neg ne, if_pos all]
  refine ⟨rfl, ?_⟩
  show (_ && (decide (k % 16 ≠ 0) || _)) = true ↔ _
  rw [Bool.and_eq_true, Bool.or_eq_true, decide_eq_true_eq, beq_iff_eq, ← imp_iff_not_or]

theorem journalEnd_spoilt {k : Nat} (lt : k < 512) (spoilt : ∃ b ∈ slotBytes m z k, b ≠ 0xFF) :
    journalEnd m z k = ((k / 16 + 1) * 16, false) := by
  have some : ¬(slotBytes m z k).all (· == erasedByte) = true := by simpa using spoilt
  have ne : k ≠ Config.journalSlots := Nat.ne_of_lt lt
  unfold journalEnd
  rw [if_neg ne, if_neg some]

/-! ### The detail of STORE_FAILED -/

theorem mem_lowZones {w : Zone} : w ∈ ([0, 1, 2] : List Zone) ↔ w.val < 3 := by
  simp only [List.mem_cons, List.not_mem_nil, or_false, Fin.ext_iff]
  have values : ((0 : Zone).val = 0 ∧ (1 : Zone).val = 1) ∧ (2 : Zone).val = 2 := ⟨⟨rfl, rfl⟩, rfl⟩
  omega

theorem defectDetail_low {l : List Zone} {w : Zone} (mem : w ∈ l) (low : w.val < 3) (least : ∀ v ∈ l, w ≤ v) :
    defectDetail l = some (BitVec.ofNat 32 w.val) := by
  have found : ([0, 1, 2] : List Zone).find? (l.contains ·) = some w := by
    have sorted : ([0, 1, 2] : List Zone).Pairwise (· < ·) := by decide
    refine (find?_eq_some_of_pairwise sorted fun a b lt gt => lt_asymm lt gt).2
      ⟨mem_lowZones.2 low, by simpa using mem, fun x _ lt => ?_⟩
    simpa using fun hx => absurd (least x hx) (not_le.2 lt)
  rw [defectDetail, found]

theorem defectDetail_high {l : List Zone} (high : ∀ w ∈ l, 3 ≤ w.val) : defectDetail l =
    if 32 < l.length then (listMax (l.map (·.val))).map (BitVec.ofNat 32 ·) else none := by
  have off : ([0, 1, 2] : List Zone).find? (l.contains ·) = none := by
    refine List.find?_eq_none.2 fun v hv mem => ?_
    have lt := mem_lowZones.1 hv
    have ge := high v (by simpa using mem)
    omega
  rw [defectDetail, off]

theorem defectDetail_spec (l : List Zone) :
    (∀ w ∈ l, w.val < 3 → (∀ v ∈ l, w ≤ v) → defectDetail l = some (BitVec.ofNat 32 w.val))
    ∧ ((∀ w ∈ l, 3 ≤ w.val) → (l.length ≤ 32 → defectDetail l = none)
      ∧ (∀ w ∈ l, 32 < l.length → (∀ v ∈ l, v ≤ w) → defectDetail l = some (BitVec.ofNat 32 w.val))) := by
  refine ⟨fun w mem low least => defectDetail_low mem low least, fun high => ⟨fun few => ?_, fun w mem many top => ?_⟩⟩
  · rw [defectDetail_high high, if_neg (by omega)]
  · have greatest : listMax (l.map (·.val)) = some w.val :=
      listMax_eq_some.2 ⟨List.mem_map_of_mem mem, by simpa using top⟩
    rw [defectDetail_high high, if_pos many, greatest]
    rfl

/-! ### The phase -/

/-- The directory, the defects and the zones left for re-erase are empty. -/
def JournalScan.clear (x : JournalScan) : Prop := (∀ i : DirSlot, x.dir[i] = none) ∧ x.defects = [] ∧ x.unfinished = []

theorem noJournal_clear (active : Option Zone) (spare : Option SpareState) (failed : Option (BitVec 32))
    (epochs : Option Nat) : (noJournal active spare failed epochs).clear :=
  ⟨fun i => by simp [noJournal], rfl, rfl⟩

/-- The result of a replay (R147 to R149). -/
theorem replayZone_spec (m : Memory) (z : Zone) (g : Nat) (spare : SpareState) (epochs : Option Nat) :
    let x := replayZone m z g spare epochs
    ∃ k, k ≤ 512 ∧ (∀ i, i < k → jGood (slotBytes m z i) = true) ∧ (k < 512 → jGood (slotBytes m z k) = false)
      ∧ (let r := ((List.range k).map (slotBytes m z)).foldl Replay.apply Replay.blank
         x.dir = r.dir ∧ x.defects = r.defects ∧ x.unfinished = r.unfinished ∧ x.headNext = r.headNext
         ∧ x.topIncident = r.topIncident ∧ x.topEpoch = optMax r.topEpoch epochs)
      ∧ (k = 512 → x.pos = 512 ∧ x.journalOpen = true)
      ∧ (k < 512 → (∀ b ∈ slotBytes m z k, b = 0xFF) → x.pos = k
          ∧ (x.journalOpen = true ↔ m.blank ((slotPage z k).base + 64 * (k % 16)) (1024 - 64 * (k % 16)) = true
              ∧ (k % 16 = 0 → headerOutcome (m.header (slotPage z k)) = .erased)))
      ∧ (k < 512 → (∃ b ∈ slotBytes m z k, b ≠ 0xFF) → x.pos = (k / 16 + 1) * 16 ∧ x.journalOpen = false)
      ∧ (∀ w ∈ x.defects, w.val < 3 → (∀ v ∈ x.defects, w ≤ v) → x.storeFailed = some (BitVec.ofNat 32 w.val))
      ∧ ((∀ w ∈ x.defects, 3 ≤ w.val) →
          (x.defects.length ≤ 32 → x.storeFailed = none)
          ∧ (∀ w ∈ x.defects, 32 < x.defects.length → (∀ v ∈ x.defects, v ≤ w) →
              x.storeFailed = some (BitVec.ofNat 32 w.val))) := by
  intro x
  obtain ⟨r, replayed⟩ : ∃ r, replayed m z = r := ⟨_, rfl⟩
  obtain ⟨k, stops⟩ : ∃ k, firstNotGood m z = k := ⟨_, rfl⟩
  have found : x = _ := replayZone_eq m z g spare epochs
  rw [replayed, stops] at found
  unfold Machine.replayed at replayed
  rw [stops] at replayed
  obtain ⟨le, good, bad⟩ := stops ▸ firstNotGood_spec m z
  obtain ⟨low, high⟩ := defectDetail_spec r.defects
  clear_value x
  subst found
  refine ⟨k, le, good, bad, ?_, fun full => ?_, fun lt blank => ?_, fun lt spoilt => ?_, low, high⟩
  · rw [replayed]
    exact ⟨rfl, rfl, rfl, rfl, rfl, rfl⟩
  · rw [full, journalEnd_full]
    exact ⟨rfl, rfl⟩
  · exact journalEnd_blank lt blank
  · rw [journalEnd_spoilt lt spoilt]
    exact ⟨rfl, rfl⟩

/-- Table 8.2. -/
theorem journalPhase_table (m : Memory) :
    let x := journalPhase m
    (∀ a b, completeImage m 1 = some a → completeImage m 2 = some b →
        x.active = some (if a < b then 2 else 1) ∧ x.generation = max a b ∧ x.spare = some .dirty)
    ∧ (∀ (z other : Zone) (g : Nat), ((z = 1 ∧ other = 2) ∨ (z = 2 ∧ other = 1)) → completeImage m z = some g →
        completeImage m other = none →
        x.active = some z ∧ x.generation = g
          ∧ x.spare = some (if m.blankZone other = true then .erased else .dirty))
    ∧ (completeImage m 1 = none → completeImage m 2 = none →
        (m.blankZone 1 = true ∧ m.blankZone 2 = true → x.clear ∧ x.active = some 2 ∧ x.spare = some .erased
          ∧ x.generation = 0 ∧ x.pos = 512 ∧ x.journalOpen = false ∧ x.storeFailed = none)
        ∧ (¬(m.blankZone 1 = true ∧ m.blankZone 2 = true) → x.clear ∧ x.active = none ∧ x.spare = none
          ∧ x.storeFailed = some 0xFFFFFFFF)) := by
  intro x
  refine ⟨fun a b ha hb => ?_, fun z other g zones hz ho => ?_, fun ha hb => ⟨fun blank => ?_, fun spoilt => ?_⟩⟩
  · have found : x = _ := journalPhase_both ha hb
    rw [found, replayZone_eq, replayZone_eq]
    by_cases lt : a < b
    · rw [if_neg (by omega), if_pos lt, max_eq_right lt.le]
      exact ⟨rfl, rfl, rfl⟩
    · rw [if_pos (by omega), if_neg lt, max_eq_left (by omega)]
      exact ⟨rfl, rfl, rfl⟩
  · rcases zones with ⟨rfl, rfl⟩ | ⟨rfl, rfl⟩
    · have found : x = _ := journalPhase_first hz ho
      rw [found, replayZone_eq]
      exact ⟨rfl, rfl, rfl⟩
    · have found : x = _ := journalPhase_second ho hz
      rw [found, replayZone_eq]
      exact ⟨rfl, rfl, rfl⟩
  · have found : x = _ := (journalPhase_neither ha hb).trans (if_pos blank)
    rw [found]
    exact ⟨noJournal_clear .., rfl, rfl, rfl, rfl, rfl, rfl⟩
  · have found : x = _ := (journalPhase_neither ha hb).trans (if_neg spoilt)
    rw [found]
    exact ⟨noJournal_clear .., rfl, rfl, rfl⟩

end

end Sys2Proof.Machine
end


section
/-! PROOFS. O56: the pool's zones and pages as the scan finds them (R150, R152, Table 8.4). -/

namespace Sys2Proof.Machine

/-- The pool's zones. -/
def poolZonesAll : List Zone := poolZoneList.map (Fin.ofNat 256)

theorem mem_poolZonesAll {z : Zone} : z ∈ poolZonesAll ↔ 19 ≤ z.val := by
  simp only [poolZonesAll, poolZoneList, List.mem_map, List.mem_range'_1]
  constructor
  · rintro ⟨n, ⟨low, high⟩, rfl⟩
    have small : n < 256 := high
    rw [Fin.val_ofNat, Nat.mod_eq_of_lt small]
    exact low
  · exact fun low => ⟨z.val, ⟨low, z.isLt⟩, Fin.ext (by rw [Fin.val_ofNat, Nat.mod_eq_of_lt z.isLt])⟩

theorem poolZonesAll_pairwise : poolZonesAll.Pairwise (· < ·) := by
  refine List.pairwise_map.2 ((List.pairwise_lt_range' (s := 19) (n := 237)).imp_of_mem fun {a b} ha hb lt => ?_)
  have small {n : Nat} (h : n ∈ List.range' 19 237) : n < 256 := (List.mem_range'_1.1 h).2
  rw [Fin.lt_def, Fin.val_ofNat, Fin.val_ofNat, Nat.mod_eq_of_lt (small ha), Nat.mod_eq_of_lt (small hb)]
  exact lt

/-- A zone that phase 3 reads (Table 8.4). -/
def JournalScan.reads (x : JournalScan) (z : Zone) : Prop := 19 ≤ z.val ∧ z ∉ x.defects ∧ z ∉ x.unfinished

/-- The zones that phase 3 does not read. -/
def poolSkipped (x : JournalScan) : List Zone :=
  poolZonesAll.filter fun z => x.defects.contains z || x.unfinished.contains z

section
variable {x : JournalScan} {z : Zone}

theorem mem_poolToRead : z ∈ poolToRead x ↔ x.reads z := by
  show z ∈ poolZonesAll.filter _ ↔ _
  rw [List.mem_filter, mem_poolZonesAll]
  simp [JournalScan.reads]

theorem mem_poolSkipped : z ∈ poolSkipped x ↔ 19 ≤ z.val ∧ (z ∈ x.defects ∨ z ∈ x.unfinished) := by
  rw [poolSkipped, List.mem_filter, mem_poolZonesAll]
  simp

theorem poolToRead_pairwise (x : JournalScan) : (poolToRead x).Pairwise (· < ·) := poolZonesAll_pairwise.filter _

end

/-! ### Tables filled page by page and zone by zone -/

theorem Plm.page_foldl_setPage {p : PageAddr} (hp : 19 ≤ p.zone.val) (f : PageAddr → PageEntry) (l : List PageAddr)
    (pool : ∀ q ∈ l, 19 ≤ q.zone.val) (m : Plm) :
    (l.foldl (fun a q => a.setPage q (f q)) m).page p = if p ∈ l then f p else m.page p := by
  induction l generalizing m with
  | nil => rfl
  | cons q l ih =>
    obtain ⟨first, pool⟩ := List.forall_mem_cons.1 pool
    rw [List.foldl_cons, ih pool, Plm.page_setPage _ first hp]
    by_cases later : p ∈ l
    · rw [if_pos later, if_pos (List.mem_cons_of_mem _ later)]
    · by_cases same : p = q
      · rw [if_neg later, if_pos same, same, if_pos List.mem_cons_self]
      · rw [if_neg later, if_neg same, if_neg (fun h => (List.mem_cons.1 h).elim same later)]

theorem Plm.zone_foldl_setPage (f : PageAddr → PageEntry) (l : List PageAddr) (m : Plm) (n : Nat) :
    (l.foldl (fun a q => a.setPage q (f q)) m).zone n = m.zone n := by
  induction l generalizing m with
  | nil => rfl
  | cons q l ih => exact (ih _).trans rfl

theorem Plm.page_setZonePages_if {p : PageAddr} (hp : 19 ≤ p.zone.val) {z : Zone} (hz : 19 ≤ z.val) (m : Plm) (e : PageEntry) :
    (m.setZonePages z e).page p = if p.zone = z then e else m.page p := by
  rw [Plm.setZonePages, Plm.page_foldl_setPage hp (fun _ => e) _ (fun q hq => by rw [mem_zonePages.1 hq]; exact hz)]
  simp only [mem_zonePages]

theorem Plm.zone_setZonePages (m : Plm) (z : Zone) (e : PageEntry) (n : Nat) : (m.setZonePages z e).zone n = m.zone n :=
  Plm.zone_foldl_setPage (fun _ => e) _ m n

theorem Plm.zone_foldl_setZone (f : Zone → ZoneEntry) (l : List Zone) (m : Plm) (w : Zone) :
    (l.foldl (fun a z => a.setZone z (f z)) m).zone w.val = if w ∈ l then f w else m.zone w.val := by
  induction l generalizing m with
  | nil => rfl
  | cons z l ih =>
    rw [List.foldl_cons, ih, Plm.zone_setZone]
    by_cases later : w ∈ l
    · rw [if_pos later, if_pos (List.mem_cons_of_mem _ later)]
    · by_cases same : w = z
      · rw [if_neg later, if_pos same, same, if_pos List.mem_cons_self]
      · rw [if_neg later, if_neg same, if_neg (fun h => (List.mem_cons.1 h).elim same later)]

theorem Plm.page_foldl_setZone (f : Zone → ZoneEntry) (l : List Zone) (m : Plm) (p : PageAddr) :
    (l.foldl (fun a z => a.setZone z (f z)) m).page p = m.page p := by
  induction l generalizing m with
  | nil => rfl
  | cons q l ih => exact (ih _).trans rfl

/-- Every page of some zones takes one state, and each zone its entry. -/
def Plm.mark (m : Plm) (e : PageEntry) (f : Zone → ZoneEntry) (l : List Zone) : Plm :=
  l.foldl (fun a z => (a.setZonePages z e).setZone z (f z)) m

theorem Plm.page_mark {p : PageAddr} (hp : 19 ≤ p.zone.val) (e : PageEntry) (f : Zone → ZoneEntry) (l : List Zone)
    (pool : ∀ z ∈ l, 19 ≤ z.val) (m : Plm) : (m.mark e f l).page p = if p.zone ∈ l then e else m.page p := by
  induction l generalizing m with
  | nil => rfl
  | cons z l ih =>
    obtain ⟨first, pool⟩ := List.forall_mem_cons.1 pool
    refine (ih pool _).trans ?_
    rw [show ((m.setZonePages z e).setZone z (f z)).page p = (m.setZonePages z e).page p from rfl,
      Plm.page_setZonePages_if hp first]
    by_cases later : p.zone ∈ l
    · rw [if_pos later, if_pos (List.mem_cons_of_mem _ later)]
    · by_cases same : p.zone = z
      · rw [if_neg later, if_pos same, same, if_pos List.mem_cons_self]
      · rw [if_neg later, if_neg same, if_neg (fun h => (List.mem_cons.1 h).elim same later)]

theorem Plm.zone_mark (e : PageEntry) (f : Zone → ZoneEntry) (l : List Zone) (m : Plm) (w : Zone) :
    (m.mark e f l).zone w.val = if w ∈ l then f w else m.zone w.val := by
  induction l generalizing m with
  | nil => rfl
  | cons z l ih =>
    refine (ih _).trans ?_
    rw [Plm.zone_setZone, Plm.zone_setZonePages]
    by_cases later : w ∈ l
    · rw [if_pos later, if_pos (List.mem_cons_of_mem _ later)]
    · by_cases same : w = z
      · rw [if_neg later, if_pos same, same, if_pos List.mem_cons_self]
      · rw [if_neg later, if_neg same, if_neg (fun h => (List.mem_cons.1 h).elim same later)]

end Sys2Proof.Machine
end


section
/-! PROOFS. O56: the parts of phase 3's result (R150 to R152). -/

namespace Sys2Proof.Machine

section
variable (m : Memory) (x : JournalScan)

/-- The candidates of streams in the directory, one of each page sequence. -/
def poolKnown : List Candidate := (poolPages m x).known

/-- What R151 decides for each stream. -/
def poolResults : List StreamResult := (allStreams x.dir).map (streamResult m (poolKnown m x))

/-- The Page Map entry of a page that is read. -/
def poolEntry (p : PageAddr) : PageEntry := pageResult (poolKnown m x) x.dir (poolResults m x) p (classify m p)

/-- The entries of the pages that are read. -/
def poolRead : ZonePages := ((poolToRead x).flatMap zonePages).map fun p => (p, poolEntry m x p)

/-- The entries of a zone's pages. -/
def zoneEntries (z : Zone) : ZonePages := (poolRead m x).filter (·.1.zone == z)

/-- The highest epoch of a zone's headers. -/
def zoneEpoch (z : Zone) : Nat := (topHeaderEpoch m (zonePages z)).getD 0

/-- The candidates for the fill zone, with their epochs. -/
def poolFills : List (Zone × Nat) :=
  (poolToRead x).filterMap fun z => (fillCandidate (zoneEntries m x z)).map fun _ => (z, zoneEpoch m z)

/-- The fill zone. -/
def poolFill : Option Zone := highestZone (poolFills m x)

/-- The Zone Table entry of a zone that is read. -/
def poolZone (z : Zone) : ZoneEntry :=
  if poolFill m x = some z then
    { zoneResult (zoneEntries m x z) with
      state := .filling, nextPage := ((fillCandidate (zoneEntries m x z)).getD 0) + 1 }
  else zoneResult (zoneEntries m x z)

/-- The Zone Table entry of a zone that is not read. -/
def skippedZone (z : Zone) : ZoneEntry :=
  if x.defects.contains z then ⟨.defective, Config.pagesPerZone, []⟩ else ⟨.erasing, Config.pagesPerZone, []⟩

/-- The tables before the scan fills them. -/
def emptyTables : Plm :=
  { zones := [], pages := [], fillZone := none, cursor := 255, reclaim := .idle, reclaimAsked := none, reErase := [] }

/-- The tables that phase 3 leaves. -/
def poolTables : Plm :=
  (poolToRead x).foldl (fun a z => a.setZone z (poolZone m x z))
    (((poolRead m x).foldl (fun a e => a.setPage e.1 e.2) emptyTables).mark .torn (skippedZone x) (poolSkipped x))

theorem poolPages_classes :
    (poolPages m x).classes = ((poolToRead x).flatMap zonePages).map fun p => (p, classify m p) := rfl

theorem poolRead_eq : (poolPages m x).classes.map (fun e => (e.1, pageResult (poolPages m x).known x.dir
    ((allStreams x.dir).map (streamResult m (poolPages m x).known)) e.1 e.2)) = poolRead m x := by
  rw [poolPages_classes, List.map_map]
  rfl

theorem poolPhase_spec : (poolPhase m x).dir = x.dir.map (fun y => y.map (·.recount (poolResults m x)))
    ∧ (poolPhase m x).zones = (poolTables m x).zones ∧ (poolPhase m x).pages = (poolTables m x).pages
    ∧ (poolPhase m x).fillZone = poolFill m x
    ∧ (∀ z, poolFill m x = some z → (poolPhase m x).cursor = z)
    ∧ (poolPhase m x).reErase = (poolSkipped x).filter (fun z => !x.defects.contains z)
    ∧ (poolPhase m x).shortened = ((poolResults m x).filter (·.shortened)).map (·.incident) := by
  have read := poolRead_eq m x
  have results : (allStreams x.dir).map (streamResult m (poolPages m x).known) = poolResults m x := rfl
  unfold poolPhase
  dsimp only
  rw [read, results]
  unfold poolTables poolZone poolFill poolFills zoneEntries zoneEpoch skippedZone poolSkipped poolZonesAll emptyTables
    Plm.mark
  generalize poolRead m x = read
  generalize poolResults m x = results
  generalize poolToRead x = zones
  generalize poolZoneList = all
  refine ⟨rfl, rfl, rfl, rfl, fun z found => ?_, rfl, rfl⟩
  rw [found]

end

end Sys2Proof.Machine
end


section
/-! PROOFS. O56: a pool zone by its pages, and the fill zone (R152). -/

namespace Sys2Proof.Machine

/-! ### The tables' entries -/

section
variable {m : Memory} {x : JournalScan}

theorem filter_zonePages {z : Zone} {l : List Zone} (nodup : l.Nodup) (mem : z ∈ l) :
    (l.flatMap zonePages).filter (·.zone == z) = zonePages z := by
  have own (w : Zone) : (zonePages w).filter (·.zone == z) = if w = z then zonePages z else [] := by
    split
    next same =>
      subst same
      refine List.filter_eq_self.2 fun p hp => ?_
      rw [mem_zonePages.1 hp, beq_self_eq_true]
    next other =>
      refine List.filter_eq_nil_iff.2 fun p hp => ?_
      rw [mem_zonePages.1 hp, beq_iff_eq]
      exact other
  have none {l : List Zone} (absent : z ∉ l) : (l.flatMap zonePages).filter (·.zone == z) = [] :=
    List.filter_eq_nil_iff.2 fun p hp => by
      obtain ⟨w, hw, hpw⟩ := List.mem_flatMap.1 hp
      rw [mem_zonePages.1 hpw, beq_iff_eq]
      exact fun same => absent (same ▸ hw)
  induction l with
  | nil => exact absurd mem List.not_mem_nil
  | cons w l ih =>
    obtain ⟨once, nodup⟩ := List.nodup_cons.1 nodup
    rw [List.flatMap_cons, List.filter_append, own]
    by_cases same : w = z
    · rw [if_pos same, none (same ▸ once), List.append_nil]
    · rw [if_neg same, List.nil_append, ih nodup ((List.mem_cons.1 mem).resolve_left (Ne.symm same))]

theorem zoneEntries_eq {z : Zone} (read : x.reads z) :
    zoneEntries m x z = (zonePages z).map fun p => (p, poolEntry m x p) := by
  have nodup : (poolToRead x).Nodup := (poolToRead_pairwise x).imp fun lt => ne_of_lt lt
  rw [zoneEntries, poolRead, List.filter_map, ← filter_zonePages nodup (mem_poolToRead.2 read)]
  rfl

theorem poolTables_page {p : PageAddr} (pool : 19 ≤ p.zone.val) : (poolTables m x).page p =
    if p.zone ∈ poolSkipped x then .torn else if p.zone ∈ poolToRead x then poolEntry m x p else .erased := by
  have inPool : ∀ q ∈ (poolToRead x).flatMap zonePages, 19 ≤ q.zone.val := fun q hq => by
    obtain ⟨w, hw, hqw⟩ := List.mem_flatMap.1 hq
    rw [mem_zonePages.1 hqw]
    exact (mem_poolToRead.1 hw).1
  have listed : p ∈ (poolToRead x).flatMap zonePages ↔ p.zone ∈ poolToRead x := by
    simp only [List.mem_flatMap, mem_zonePages]
    exact ⟨fun ⟨w, hw, same⟩ => same ▸ hw, fun h => ⟨_, h, rfl⟩⟩
  rw [poolTables, Plm.page_foldl_setZone, Plm.page_mark pool _ _ _ fun z hz => (mem_poolSkipped.1 hz).1, poolRead,
    List.foldl_map, Plm.page_foldl_setPage pool (poolEntry m x) _ inPool]
  simp only [listed]
  rfl

theorem poolTables_read {p : PageAddr} (read : x.reads p.zone) : (poolTables m x).page p = poolEntry m x p := by
  obtain ⟨pool, sound, done⟩ := read
  rw [poolTables_page pool, if_neg fun h => (mem_poolSkipped.1 h).2.elim sound done,
    if_pos (mem_poolToRead.2 ⟨pool, sound, done⟩)]

theorem poolTables_skipped {p : PageAddr} (pool : 19 ≤ p.zone.val) (skipped : p.zone ∈ x.defects ∨ p.zone ∈ x.unfinished) :
    (poolTables m x).page p = .torn := by
  rw [poolTables_page pool, if_pos (mem_poolSkipped.2 ⟨pool, skipped⟩)]

theorem poolTables_zone (z : Zone) : (poolTables m x).zone z.val =
    if z ∈ poolToRead x then poolZone m x z else if z ∈ poolSkipped x then skippedZone x z else ZoneEntry.fresh := by
  have before : ((poolRead m x).foldl (fun a e => a.setPage e.1 e.2) emptyTables).zone z.val = ZoneEntry.fresh := by
    rw [poolRead, List.foldl_map]
    exact Plm.zone_foldl_setPage (poolEntry m x) _ _ _
  rw [poolTables, Plm.zone_foldl_setZone, Plm.zone_mark, before]

theorem poolTables_zone_read {z : Zone} (read : x.reads z) : (poolTables m x).zone z.val = poolZone m x z := by
  rw [poolTables_zone, if_pos (mem_poolToRead.2 read)]

theorem poolTables_zone_skipped {z : Zone} (pool : 19 ≤ z.val) (skipped : z ∈ x.defects ∨ z ∈ x.unfinished) :
    (poolTables m x).zone z.val = skippedZone x z := by
  have unread : z ∉ poolToRead x := fun h => skipped.elim (mem_poolToRead.1 h).2.1 (mem_poolToRead.1 h).2.2
  rw [poolTables_zone, if_neg unread, if_pos (mem_poolSkipped.2 ⟨pool, skipped⟩)]

end

/-! ### The pages of a zone -/

section
variable {l : ZonePages}

/-- A fill candidate: its pages in use, then its erased ones (R152). -/
theorem fillCandidate_eq_some (len : l.length = 32) (k : Nat) : fillCandidate l = some k ↔
    k + 1 ≤ 31 ∧ (∀ (i : Nat) (h : i < l.length), (l[i]).2 = .erased ↔ k + 1 ≤ i) ∧ ∀ e ∈ l, e.2 ≠ .torn := by
  have used : fillCandidate l = if l.takeWhile (·.2 != .erased) ≠ [] ∧ (l.takeWhile (·.2 != .erased)).length < 32
      ∧ (l.drop (l.takeWhile (·.2 != .erased)).length).all (·.2 == .erased) ∧ l.all (·.2 != .torn)
      then some ((l.takeWhile (·.2 != .erased)).length - 1) else none := rfl
  rw [used]
  have front := List.takeWhile_prefix (l := l) (fun e => e.2 != .erased)
  constructor
  · intro h
    split at h
    next conds =>
      obtain ⟨nonempty, short, erased, sound⟩ := conds
      have pos := List.length_pos_iff.2 nonempty
      cases h
      refine ⟨by omega, fun i h => ?_, by simpa using sound⟩
      rw [Nat.sub_add_cancel pos]
      constructor
      · intro at_i
        by_contra below
        have lt : i < (l.takeWhile (·.2 != .erased)).length := by omega
        have inUse := List.mem_takeWhile_imp (List.getElem_mem lt)
        rw [front.getElem lt, at_i] at inUse
        exact absurd inUse (by simp)
      · intro above
        generalize (l.takeWhile (·.2 != .erased)).length = j at above erased
        have same : i - j + j = i := by omega
        have all := List.all_eq_true.1 erased (l[i]) (List.mem_drop_iff_getElem.2 ⟨i - j, by omega, by
          congr 1
          omega⟩)
        simpa using all
    next => cases h
  · rintro ⟨short, erased, sound⟩
    have split : l.takeWhile (·.2 != .erased) = l.take (k + 1) := by
      conv_lhs => rw [← List.take_append_drop (k + 1) l]
      rw [List.takeWhile_append_of_pos]
      · have next : l.drop (k + 1) = l[k + 1] :: l.drop (k + 1 + 1) := List.drop_eq_getElem_cons (by omega)
        rw [next, List.takeWhile_cons, (erased (k + 1) (by omega)).2 le_rfl]
        exact List.append_nil _
      · intro e he
        obtain ⟨i, lt, rfl⟩ := List.mem_take_iff_getElem.1 he
        have off := (erased i (by omega)).not.2 (by omega)
        simpa using off
    have count : (l.takeWhile (·.2 != .erased)).length = k + 1 := by rw [split, List.length_take]; omega
    rw [count, if_pos]
    · rfl
    · refine ⟨fun empty => ?_, by omega, ?_, by simpa using sound⟩
      · rw [empty] at count
        cases count
      · refine List.all_eq_true.2 fun e he => ?_
        obtain ⟨i, lt, rfl⟩ := List.mem_drop_iff_getElem.1 he
        simpa using (erased (k + 1 + i) (by omega)).2 (by omega)

theorem zoneResult_erased (all : ∀ e ∈ l, e.2 = .erased) : zoneResult l = ⟨.free, 0, []⟩ :=
  if_pos (by simpa using all)

theorem zoneResult_used (inUse : ∃ e ∈ l, e.2 ≠ .erased) : (zoneResult l).nextPage = 32
    ∧ (zoneResult l).state = (if (zoneResult l).holders = [] then .retired else .full)
    ∧ ∀ n, n ∈ (zoneResult l).holders ↔ ∃ e ∈ l, e.2.holder = some n := by
  have off : ¬(l.all (·.2 == .erased)) = true := by simpa using inUse
  have result : zoneResult l = ⟨if (l.filterMap fun e => e.2.holder).eraseDups.isEmpty then .retired else .full, 32,
    (l.filterMap fun e => e.2.holder).eraseDups⟩ := if_neg off
  rw [result]
  refine ⟨rfl, ?_, fun n => ?_⟩
  · simp only [List.isEmpty_iff]
  · simp only [List.mem_eraseDups, List.mem_filterMap]

end

theorem PageEntry.holder_eq_some {e : PageEntry} {n : Nat} :
    e.holder = some n ↔ ∃ stream seq fill, e = .live n stream seq fill := by
  cases e with
  | live i s q f => exact ⟨fun h => by cases h; exact ⟨s, q, f, rfl⟩, fun ⟨_, _, _, h⟩ => by cases h; rfl⟩
  | _ => exact ⟨nofun, fun ⟨_, _, _, h⟩ => nomatch h⟩

/-! ### The zone of the highest epoch -/

/-- No candidate has a higher epoch, or the same one and a higher number. -/
def topsZones (e : Zone × Nat) (l : List (Zone × Nat)) : Prop := ∀ x ∈ l, x.2 < e.2 ∨ (x.2 = e.2 ∧ x.1 ≤ e.1)

/-- The candidate that stands, of one so far and the next. -/
def higherZone (a : Option (Zone × Nat)) (e : Zone × Nat) : Option (Zone × Nat) := match a with
  | some (z, n) => if n < e.2 ∨ (n = e.2 ∧ z.val < e.1.val) then some e else some (z, n)
  | none => some e

theorem higherZone_foldl (l : List (Zone × Nat)) (a : Zone × Nat) :
    ∃ e ∈ a :: l, l.foldl higherZone (some a) = some e ∧ topsZones e (a :: l) := by
  induction l generalizing a with
  | nil => exact ⟨a, List.mem_cons_self, rfl, fun x hx => by simp [List.mem_singleton.1 hx]⟩
  | cons b l ih =>
    by_cases higher : a.2 < b.2 ∨ (a.2 = b.2 ∧ a.1.val < b.1.val)
    · obtain ⟨e, mem, found, tops⟩ := ih b
      refine ⟨e, List.mem_cons_of_mem _ mem, ?_, fun x hx => ?_⟩
      · rw [List.foldl_cons, higherZone, if_pos higher, found]
      · rcases List.mem_cons.1 hx with rfl | hx
        · have := tops b List.mem_cons_self
          rw [Fin.le_def] at this ⊢
          omega
        · exact tops x hx
    · obtain ⟨e, mem, found, tops⟩ := ih a
      refine ⟨e, ?_, ?_, fun x hx => ?_⟩
      · rcases List.mem_cons.1 mem with rfl | mem
        · exact List.mem_cons_self
        · exact List.mem_cons_of_mem _ (List.mem_cons_of_mem _ mem)
      · rw [List.foldl_cons, higherZone, if_neg higher, found]
      · rcases List.mem_cons.1 hx with rfl | hx
        · exact tops x List.mem_cons_self
        · rcases List.mem_cons.1 hx with rfl | hx
          · have := tops a List.mem_cons_self
            rw [Fin.le_def] at this ⊢
            omega
          · exact tops x (List.mem_cons_of_mem _ hx)

theorem highestZone_eq (l : List (Zone × Nat)) : highestZone l = (l.foldl higherZone none).map (·.1) := rfl

theorem highestZone_some {l : List (Zone × Nat)} {z : Zone} (h : highestZone l = some z) :
    ∃ n, (z, n) ∈ l ∧ topsZones (z, n) l := by
  rw [highestZone_eq] at h
  cases l with
  | nil => cases h
  | cons a l =>
    obtain ⟨e, mem, found, tops⟩ := higherZone_foldl l a
    rw [show (a :: l).foldl higherZone none = l.foldl higherZone (some a) from rfl, found] at h
    cases h
    exact ⟨e.2, mem, tops⟩

theorem highestZone_none {l : List (Zone × Nat)} (h : highestZone l = none) : l = [] := by
  rw [highestZone_eq] at h
  cases l with
  | nil => rfl
  | cons a l =>
    obtain ⟨e, mem, found, tops⟩ := higherZone_foldl l a
    rw [show (a :: l).foldl higherZone none = l.foldl higherZone (some a) from rfl, found] at h
    cases h

end Sys2Proof.Machine
end


section
/-! PROOFS. O56: the pool behind phase 3 (R150, R152, Table 8.4). -/

namespace Sys2Proof.Machine

section
variable (m : Memory) (x : JournalScan) (q : Plm)

/-- The pool's tables as phase 3 leaves them. -/
abbrev poolTable : Plm := { q with zones := (poolPhase m x).zones, pages := (poolPhase m x).pages }

variable {m x q}

theorem poolTable_page (p : PageAddr) : (poolTable m x q).page p = (poolTables m x).page p := by
  obtain ⟨-, -, pages, -⟩ := poolPhase_spec m x
  unfold Plm.page
  rw [show (poolTable m x q).pages = (poolTables m x).pages from pages]

theorem poolTable_zone (z : Zone) : (poolTable m x q).zone z.val = (poolTables m x).zone z.val := by
  obtain ⟨-, zones, -⟩ := poolPhase_spec m x
  unfold Plm.zone
  rw [show (poolTable m x q).zones = (poolTables m x).zones from zones]

theorem poolTable_read {p : PageAddr} (read : x.reads p.zone) : (poolTable m x q).page p = poolEntry m x p :=
  (poolTable_page p).trans (poolTables_read read)

/-! ### Zones that are not read -/

theorem poolTable_defective {z : Zone} (pool : 19 ≤ z.val) (bad : z ∈ x.defects) :
    (poolTable m x q).zone z.val = ⟨.defective, 32, []⟩ ∧ ∀ p : PageNo, (poolTable m x q).page ⟨z, p⟩ = .torn := by
  refine ⟨?_, fun p => (poolTable_page _).trans (poolTables_skipped pool (.inl bad))⟩
  rw [poolTable_zone, poolTables_zone_skipped pool (.inl bad), skippedZone, if_pos (by simpa using bad)]

theorem poolTable_unfinished {z : Zone} (pool : 19 ≤ z.val) (sound : z ∉ x.defects) (left : z ∈ x.unfinished) :
    (poolTable m x q).zone z.val = ⟨.erasing, 32, []⟩ ∧ ∀ p : PageNo, (poolTable m x q).page ⟨z, p⟩ = .torn := by
  refine ⟨?_, fun p => (poolTable_page _).trans (poolTables_skipped pool (.inr left))⟩
  rw [poolTable_zone, poolTables_zone_skipped pool (.inr left), skippedZone, if_neg (by simpa using sound)]

theorem mem_reErase {z : Zone} : z ∈ (poolPhase m x).reErase ↔ 19 ≤ z.val ∧ z ∈ x.unfinished ∧ z ∉ x.defects := by
  obtain ⟨-, -, -, -, -, reErase, -⟩ := poolPhase_spec m x
  rw [reErase, List.mem_filter, mem_poolSkipped]
  simp only [Bool.not_eq_true', List.contains_eq_mem, decide_eq_false_iff_not]
  tauto

/-! ### Pages -/

/-- A header that names no page of a stream. -/
def Header.spoilt (h : Header) : Prop := h.kind ≠ kindDump ∨ 11 < h.stream ∨ h.fill = 0 ∨ 1024 < h.fill

theorem classify_good {p : PageAddr} {h : Header} (good : headerOutcome (m.header p) = .good h) :
    (h.spoilt → classify m p = .torn) ∧ (¬h.spoilt → classify m p = .candidate h) := by
  unfold classify
  rw [good]
  exact ⟨fun bad => if_pos bad, fun sound => if_neg sound⟩

theorem classify_eq_candidate {p : PageAddr} {h : Header} :
    classify m p = .candidate h ↔ headerOutcome (m.header p) = .good h ∧ ¬h.spoilt := by
  refine ⟨fun same => ?_, fun ⟨good, sound⟩ => (classify_good good).2 sound⟩
  unfold classify at same
  split at same
  · split at same <;> cases same
  · cases same
  · cases same
  next h' good =>
    split at same
    next => cases same
    next sound =>
      cases same
      exact ⟨good, sound⟩

theorem streamOf_eq_none {dir : Vector (Option Incident) 32} {c : Candidate}
    (absent : ∀ (i : DirSlot) (r : Incident), dir[i] = some r → r.number = c.h.incident →
      ∀ v ∈ r.streams, v.number ≠ c.h.stream) : streamOf dir c = none := by
  unfold streamOf
  refine Option.bind_eq_none_iff.2 fun r found => List.find?_eq_none.2 fun v hv => ?_
  obtain ⟨slot, mem, holds⟩ := List.exists_of_findSome?_eq_some found
  obtain ⟨at_slot, number⟩ := Option.filter_eq_some_iff.1 holds
  obtain ⟨i, lt, at_i⟩ := Vector.mem_iff_getElem.1 (Vector.mem_toList_iff.1 mem)
  simpa using absent ⟨i, lt⟩ r (at_i.trans at_slot) (by simpa using number) v hv

theorem pageResult_eq (known : List Candidate) (dir : Vector (Option Incident) 32) (res : List StreamResult)
    (p : PageAddr) (h : Header) : pageResult known dir res p (.candidate h) =
      if (streamOf dir ⟨p, h⟩).isNone then .dead
      else if !known.any (·.page == p) then .torn
      else if res.any (·.torn == some p) then .torn
      else if res.any (·.live.any (·.page == p)) then .live h.incident h.stream h.seq h.fill
      else .dead := rfl

theorem pageResult_candidate (known : List Candidate) (dir : Vector (Option Incident) 32) (res : List StreamResult)
    (p : PageAddr) (h : Header) : (pageResult known dir res p (.candidate h) = .dead
      ∨ pageResult known dir res p (.candidate h) = .torn
      ∨ pageResult known dir res p (.candidate h) = .live h.incident h.stream h.seq h.fill)
    ∧ (streamOf dir ⟨p, h⟩ = none → pageResult known dir res p (.candidate h) = .dead) := by
  refine ⟨?_, fun none => if_pos (by rw [none]; rfl)⟩
  rw [pageResult_eq]
  split
  · exact .inl rfl
  · split
    · exact .inr (.inl rfl)
    · split
      · exact .inr (.inl rfl)
      · split
        · exact .inr (.inr rfl)
        · exact .inl rfl

/-- A page that is read, by its header (Table 8.4). -/
theorem poolTable_byHeader {p : PageAddr} (read : x.reads p.zone) :
    (headerOutcome (m.header p) = .erased →
      (poolTable m x q).page p = if m.blankPage p = true then .erased else .torn)
    ∧ (headerOutcome (m.header p) = .void → (poolTable m x q).page p = .void)
    ∧ (headerOutcome (m.header p) = .bad → (poolTable m x q).page p = .torn)
    ∧ (∀ h, headerOutcome (m.header p) = .good h →
        (h.spoilt → (poolTable m x q).page p = .torn)
        ∧ (¬h.spoilt →
            ((poolTable m x q).page p = .dead ∨ (poolTable m x q).page p = .torn
              ∨ (poolTable m x q).page p = .live h.incident h.stream h.seq h.fill)
            ∧ ((∀ (i : DirSlot) (r : Incident), x.dir[i] = some r → r.number = h.incident →
                ∀ v ∈ r.streams, v.number ≠ h.stream) → (poolTable m x q).page p = .dead))) := by
  rw [poolTable_read read]
  unfold poolEntry
  refine ⟨fun erased => ?_, fun void => ?_, fun bad => ?_, fun h good => ⟨fun spoilt => ?_, fun sound => ?_⟩⟩
  · unfold classify
    rw [erased]
    dsimp only
    split <;> rfl
  · unfold classify
    rw [void]
    rfl
  · unfold classify
    rw [bad]
    rfl
  · rw [(classify_good good).1 spoilt]
    rfl
  · rw [(classify_good good).2 sound]
    obtain ⟨cases, dead⟩ := pageResult_candidate (poolKnown m x) x.dir (poolResults m x) p h
    exact ⟨cases, fun absent => dead (streamOf_eq_none absent)⟩

/-! ### Zones that are read -/

/-- A candidate for the fill zone, with its next erased page (R152). -/
def poolCandidate (m : Memory) (x : JournalScan) (q : Plm) (w : Zone) (n : Nat) : Prop := x.reads w ∧ 1 ≤ n ∧ n ≤ 31
  ∧ (∀ p : PageNo, (poolTable m x q).page ⟨w, p⟩ = .erased ↔ n ≤ p.val)
  ∧ ∀ p : PageNo, (poolTable m x q).page ⟨w, p⟩ ≠ .torn

theorem zoneEntries_length {z : Zone} (read : x.reads z) : (zoneEntries m x z).length = 32 := by
  rw [zoneEntries_eq read, List.length_map, zonePages, List.length_map, List.length_finRange]

theorem zoneEntries_getElem {z : Zone} (read : x.reads z) (i : Nat) (h : i < (zoneEntries m x z).length) :
    ((zoneEntries m x z)[i]).2 = (poolTable m x q).page ⟨z, ⟨i, zoneEntries_length read ▸ h⟩⟩ := by
  rw [poolTable_read (p := ⟨z, ⟨i, _⟩⟩) read]
  simp only [zoneEntries_eq read, zonePages, List.getElem_map, List.getElem_finRange]
  rfl

theorem mem_zoneEntries {z : Zone} (read : x.reads z) {e : PageAddr × PageEntry} :
    e ∈ zoneEntries m x z ↔ ∃ p : PageNo, e = (⟨z, p⟩, (poolTable m x q).page ⟨z, p⟩) := by
  rw [zoneEntries_eq read, zonePages, List.map_map, List.mem_map]
  simp only [List.mem_finRange, true_and, Function.comp_apply]
  refine exists_congr fun p => ?_
  rw [poolTable_read (p := ⟨z, p⟩) read]
  exact eq_comm

theorem fillCandidate_iff {z : Zone} (read : x.reads z) (n : Nat) :
    poolCandidate m x q z n ↔ 1 ≤ n ∧ fillCandidate (zoneEntries m x z) = some (n - 1) := by
  have len := zoneEntries_length (m := m) read
  rw [fillCandidate_eq_some len]
  constructor
  · rintro ⟨-, low, high, erased, sound⟩
    rw [Nat.sub_add_cancel low]
    refine ⟨low, high, fun i h => ?_, fun e he => ?_⟩
    · rw [zoneEntries_getElem (q := q) read i h]
      exact erased ⟨i, lt_of_lt_of_eq h len⟩
    · obtain ⟨p, rfl⟩ := (mem_zoneEntries (q := q) read).1 he
      exact sound p
  · rintro ⟨low, high, erased, sound⟩
    rw [Nat.sub_add_cancel low] at high erased
    refine ⟨read, low, high, fun p => ?_, fun p => ?_⟩
    · have at_p := erased p.val (lt_of_lt_of_eq p.isLt len.symm)
      rwa [zoneEntries_getElem (q := q) read] at at_p
    · exact sound _ ((mem_zoneEntries read).2 ⟨p, rfl⟩)

theorem mem_poolFills {z : Zone} {e : Nat} : (z, e) ∈ poolFills m x ↔ e = zoneEpoch m z ∧ ∃ n, poolCandidate m x q z n := by
  simp only [poolFills, List.mem_filterMap, Option.map_eq_some_iff, Prod.mk.injEq, mem_poolToRead]
  constructor
  · rintro ⟨w, read, k, found, rfl, rfl⟩
    exact ⟨rfl, k + 1, (fillCandidate_iff read _).2 ⟨Nat.le_add_left .., found⟩⟩
  · rintro ⟨rfl, n, candidate⟩
    have read := candidate.1
    exact ⟨z, read, n - 1, ((fillCandidate_iff read n).1 candidate).2, rfl, rfl⟩

/-- A zone that is read (R152). -/
theorem poolTable_byPages {z : Zone} (read : x.reads z) :
    ((∀ p : PageNo, (poolTable m x q).page ⟨z, p⟩ = .erased) →
      (poolTable m x q).zone z.val = ⟨.free, 0, []⟩ ∧ (poolPhase m x).fillZone ≠ some z)
    ∧ ((∃ p : PageNo, (poolTable m x q).page ⟨z, p⟩ ≠ .erased) →
        (∀ n, n ∈ ((poolTable m x q).zone z.val).holders ↔ ∃ (p : PageNo) (stream seq fill : Nat),
          (poolTable m x q).page ⟨z, p⟩ = .live n stream seq fill)
        ∧ ((poolPhase m x).fillZone = some z → ((poolTable m x q).zone z.val).state = .filling
            ∧ poolCandidate m x q z ((poolTable m x q).zone z.val).nextPage
            ∧ (poolPhase m x).cursor = z
            ∧ ∀ w n, poolCandidate m x q w n →
              zoneEpoch m w < zoneEpoch m z ∨ (zoneEpoch m w = zoneEpoch m z ∧ w ≤ z))
        ∧ ((poolPhase m x).fillZone ≠ some z → ((poolTable m x q).zone z.val).nextPage = 32
            ∧ ((poolTable m x q).zone z.val).state
              = if ((poolTable m x q).zone z.val).holders = [] then .retired else .full))
    ∧ ((poolPhase m x).fillZone = none → ∀ n, ¬poolCandidate m x q z n) := by
  obtain ⟨-, -, -, fillZone, cursor, -, -⟩ := poolPhase_spec m x
  have zone : (poolTable m x q).zone z.val = poolZone m x z := (poolTable_zone z).trans (poolTables_zone_read read)
  have candidate (filling : poolFill m x = some z) : ∃ n, poolCandidate m x q z n := by
    obtain ⟨e, mem, -⟩ := highestZone_some filling
    exact (mem_poolFills.1 mem).2
  rw [fillZone]
  refine ⟨fun all => ?_, fun ⟨p, inUse⟩ => ?_, fun none n found => ?_⟩
  · have off : poolFill m x ≠ some z := fun filling => by
      obtain ⟨n, -, low, -, erased, -⟩ := candidate filling
      have first := (erased ⟨0, by decide⟩).1 (all _)
      exact absurd first (Nat.not_le_of_lt low)
    refine ⟨?_, off⟩
    rw [zone, poolZone, if_neg off]
    refine zoneResult_erased fun e he => ?_
    obtain ⟨p, rfl⟩ := (mem_zoneEntries (q := q) read).1 he
    exact all p
  · obtain ⟨next, state, holders⟩ := zoneResult_used (l := zoneEntries m x z)
      ⟨_, (mem_zoneEntries (q := q) read).2 ⟨p, rfl⟩, inUse⟩
    have holds (n : Nat) : n ∈ (zoneResult (zoneEntries m x z)).holders ↔ ∃ (p : PageNo) (stream seq fill : Nat),
        (poolTable m x q).page ⟨z, p⟩ = .live n stream seq fill := by
      rw [holders]
      constructor
      · rintro ⟨e, he, held⟩
        obtain ⟨p, rfl⟩ := (mem_zoneEntries (q := q) read).1 he
        exact ⟨p, PageEntry.holder_eq_some.1 held⟩
      · rintro ⟨p, live⟩
        exact ⟨_, (mem_zoneEntries (q := q) read).2 ⟨p, rfl⟩, PageEntry.holder_eq_some.2 live⟩
    have same : ((poolTable m x q).zone z.val).holders = (zoneResult (zoneEntries m x z)).holders := by
      rw [zone, poolZone]
      split <;> rfl
    refine ⟨fun n => by rw [same]; exact holds n, fun filling => ?_, fun other => ?_⟩
    · obtain ⟨n, found⟩ := candidate filling
      obtain ⟨low, fill⟩ := (fillCandidate_iff read n).1 found
      have entry := zone
      rw [poolZone, if_pos filling, fill] at entry
      obtain ⟨e, mem, tops⟩ := highestZone_some filling
      obtain ⟨epoch, -⟩ := (mem_poolFills (q := q)).1 mem
      refine ⟨by rw [entry], ?_, cursor z filling, fun w k other => ?_⟩
      · rw [entry]
        show poolCandidate m x q z (n - 1 + 1)
        rwa [Nat.sub_add_cancel low]
      · have below := tops _ (mem_poolFills.2 ⟨rfl, k, other⟩)
        rwa [epoch] at below
    · rw [zone, poolZone, if_neg other]
      exact ⟨next, state⟩
  · have empty := highestZone_none none
    have mem : (z, zoneEpoch m z) ∈ poolFills m x := mem_poolFills.2 ⟨rfl, n, found⟩
    rw [empty] at mem
    exact absurd mem List.not_mem_nil

end

end Sys2Proof.Machine
end


section
/-! PROOFS. O56: the streams as the scan finds them (R150, R151). -/

namespace Sys2Proof.Machine

/-! ### Candidates -/

section
variable {m : Memory} {x : JournalScan} {c c' : Candidate}

theorem poolKnown_spec (h : c ∈ poolKnown m x) : x.reads c.page.zone ∧ classify m c.page = .candidate c.h
    ∧ (streamOf x.dir c).isSome = true
    ∧ ∀ c' ∈ poolKnown m x, c'.same c = true → pageEntry c'.page ≤ pageEntry c.page := by
  obtain ⟨mem, top⟩ := List.mem_filter.1 h
  obtain ⟨found, stream⟩ := List.mem_filter.1 mem
  obtain ⟨e, he, cand⟩ := List.mem_filterMap.1 found
  obtain ⟨p, hp, rfl⟩ := List.mem_map.1 he
  obtain ⟨z, hz, hpz⟩ := List.mem_flatMap.1 hp
  dsimp only at cand
  split at cand
  next h' cls =>
    cases cand
    refine ⟨?_, cls, stream, fun c' h' same => ?_⟩
    · rw [mem_zonePages.1 hpz]
      exact mem_poolToRead.1 hz
    · have above := List.all_eq_true.1 top c' (List.mem_filter.1 h').1
      simpa [same] using above
  next => cases cand

/-- A page has one header. -/
theorem poolKnown_page (h : c ∈ poolKnown m x) (h' : c' ∈ poolKnown m x) (same : c.page = c'.page) : c = c' := by
  obtain ⟨-, cls, -⟩ := poolKnown_spec h
  obtain ⟨-, cls', -⟩ := poolKnown_spec h'
  rw [same, cls'] at cls
  obtain ⟨p, head⟩ := c
  obtain ⟨p', head'⟩ := c'
  cases cls
  dsimp only at same
  rw [same]

/-- Of each page sequence one page counts. -/
theorem poolKnown_sequence (h : c ∈ poolKnown m x) (h' : c' ∈ poolKnown m x) (incident : c.h.incident = c'.h.incident)
    (stream : c.h.stream = c'.h.stream) (seq : c.h.seq = c'.h.seq) : c = c' := by
  obtain ⟨read, -, -, top⟩ := poolKnown_spec h
  obtain ⟨read', -, -, top'⟩ := poolKnown_spec h'
  have above := top c' h' (by simp [Candidate.same, incident, stream, seq])
  have below := top' c h (by simp [Candidate.same, incident, stream, seq])
  exact poolKnown_page h h' (pageEntry_inj read.1 read'.1 (le_antisymm below above))

end

/-! ### Runs -/

/-- Pages of a stream in the order of their sequence numbers, each but the last full. -/
def inSequence (known : List Candidate) (incident stream seq : Nat) (l : List Candidate) : Prop :=
  ∀ (i : Nat) (h : i < l.length), l[i] ∈ known ∧ l[i].h.incident = incident ∧ l[i].h.stream = stream
    ∧ l[i].h.seq = seq + i ∧ (i + 1 < l.length → 1024 ≤ l[i].h.fill)

theorem inSequence.of_prefix {known : List Candidate} {incident stream seq : Nat} {l k : List Candidate}
    (h : inSequence known incident stream seq l) (front : k <+: l) : inSequence known incident stream seq k := by
  intro i lt
  have le := front.length_le
  rw [front.getElem lt]
  obtain ⟨mem, inc, str, num, full⟩ := h i (by omega)
  exact ⟨mem, inc, str, num, fun more => full (by omega)⟩

theorem streamRun_spec (known : List Candidate) (incident stream fuel seq : Nat) :
    (streamRun known incident stream fuel seq).length ≤ fuel
    ∧ inSequence known incident stream seq (streamRun known incident stream fuel seq) := by
  induction fuel generalizing seq with
  | zero => exact ⟨le_rfl, fun i h => absurd h (Nat.not_lt_zero i)⟩
  | succ fuel ih =>
    rw [streamRun]
    split
    next c found =>
      have mem := List.mem_of_find?_eq_some found
      obtain ⟨⟨inc, str⟩, num⟩ : (c.h.incident = incident ∧ c.h.stream = stream) ∧ c.h.seq = seq := by
        simpa using List.find?_some found
      obtain ⟨short, rest⟩ := ih (seq + 1)
      split
      next part =>
        refine ⟨Nat.le_add_left .., fun i h => ?_⟩
        obtain rfl : i = 0 := by simpa using h
        exact ⟨mem, inc, str, num, fun more => absurd more (Nat.lt_irrefl 1)⟩
      next full =>
        refine ⟨Nat.succ_le_succ short, fun i h => ?_⟩
        cases i with
        | zero => exact ⟨mem, inc, str, num, fun _ => Nat.not_lt.1 full⟩
        | succ i =>
          obtain ⟨mem, inc, str, num, full⟩ := rest i (Nat.lt_of_succ_lt_succ h)
          exact ⟨mem, inc, str, num.trans (by omega), fun more => full (Nat.lt_of_succ_lt_succ more)⟩
    next => exact ⟨Nat.zero_le _, fun i h => absurd h (Nat.not_lt_zero i)⟩

/-! ### The streams of the directory -/

section
variable {dir : Vector (Option Incident) 32}

theorem mem_allStreams {e : Nat × StreamRec} :
    e ∈ allStreams dir ↔ ∃ (i : DirSlot) (r : Incident), dir[i] = some r ∧ r.number = e.1 ∧ e.2 ∈ r.streams := by
  simp only [allStreams, List.mem_flatMap, Vector.mem_toList_iff]
  constructor
  · rintro ⟨slot, mem, listed⟩
    obtain ⟨i, lt, at_i⟩ := Vector.mem_iff_getElem.1 mem
    split at listed
    next r =>
      obtain ⟨v, hv, rfl⟩ := List.mem_map.1 listed
      exact ⟨⟨i, lt⟩, r, at_i, rfl, hv⟩
    next => exact absurd listed List.not_mem_nil
  · rintro ⟨i, r, at_i, number, hv⟩
    refine ⟨some r, Vector.mem_iff_getElem.2 ⟨i, i.isLt, at_i⟩, List.mem_map.2 ⟨e.2, hv, ?_⟩⟩
    rw [number]

/-- No number stands twice. -/
structure distinctNumbers (dir : Vector (Option Incident) 32) : Prop where
  incidents : ∀ (i k : DirSlot) (r r' : Incident), dir[i] = some r → dir[k] = some r' → r.number = r'.number → i = k
  streams : ∀ (i : DirSlot) (r : Incident), dir[i] = some r → (r.streams.map (·.number)).Nodup

theorem distinctNumbers.stream (distinct : distinctNumbers dir) {e e' : Nat × StreamRec} (he : e ∈ allStreams dir)
    (he' : e' ∈ allStreams dir) (incident : e.1 = e'.1) (stream : e.2.number = e'.2.number) : e = e' := by
  obtain ⟨i, r, at_i, number, hv⟩ := mem_allStreams.1 he
  obtain ⟨k, r', at_k, number', hv'⟩ := mem_allStreams.1 he'
  obtain rfl := distinct.incidents i k r r' at_i at_k (number.trans (incident.trans number'.symm))
  obtain rfl := Option.some.inj (at_i.symm.trans at_k)
  exact Prod.ext incident (List.inj_on_of_nodup_map (distinct.streams i r at_i) hv hv' stream)

end

/-! ### What R151 decides -/

section
variable (m : Memory) (x : JournalScan) (e : Nat × StreamRec)

/-- The LIVE pages of a stream, in order. -/
def livePages : List Candidate := (streamResult m (poolKnown m x) e).live

/-- The last page of a run that decodes as torn. -/
def tornPage : Option Candidate :=
  if e.2.endKind = .open then (runOf (poolKnown m x) e.1 e.2).getLast?.filter (decodesTorn m) else none

theorem livePages_eq : livePages m x e = if (tornPage m x e).isSome then (runOf (poolKnown m x) e.1 e.2).dropLast
    else runOf (poolKnown m x) e.1 e.2 := rfl

theorem streamResult_torn : (streamResult m (poolKnown m x) e).torn = (tornPage m x e).map (·.page) := rfl

variable {m x e} in
theorem tornPage_eq_some {c : Candidate} (h : tornPage m x e = some c) :
    (runOf (poolKnown m x) e.1 e.2).getLast? = some c := by
  unfold tornPage at h
  split at h
  · exact (Option.filter_eq_some_iff.1 h).1
  · cases h

theorem livePages_prefix : livePages m x e <+: runOf (poolKnown m x) e.1 e.2 := by
  rw [livePages_eq]
  split
  · exact List.dropLast_prefix _
  · exact List.prefix_rfl

theorem runOf_inSequence : inSequence (poolKnown m x) e.1 e.2.number 0 (runOf (poolKnown m x) e.1 e.2) :=
  (streamRun_spec ..).2

theorem livePages_inSequence : inSequence (poolKnown m x) e.1 e.2.number 0 (livePages m x e) :=
  (runOf_inSequence m x e).of_prefix (livePages_prefix m x e)

variable {m x e}

theorem livePages_closed (closed : e.2.endKind ≠ .open) : (livePages m x e).length ≤ e.2.pages
    ∧ ((livePages m x e).length < e.2.pages → (streamResult m (poolKnown m x) e).shortened = true) := by
  have same : livePages m x e = runOf (poolKnown m x) e.1 e.2 := by
    rw [livePages_eq, tornPage, if_neg closed]
    rfl
  rw [same]
  refine ⟨?_, fun short => ?_⟩
  · unfold runOf
    rw [if_neg closed]
    exact (streamRun_spec ..).1
  · simpa [streamResult, closed] using short

/-- The page that a stream's run lost as torn is none of its LIVE pages. -/
theorem torn_not_live {p : PageAddr} (torn : (streamResult m (poolKnown m x) e).torn = some p) {c : Candidate}
    (live : c ∈ livePages m x e) : c.page ≠ p := by
  have order := runOf_inSequence m x e
  rw [streamResult_torn] at torn
  obtain ⟨d, hd, at_p⟩ := Option.map_eq_some_iff.1 torn
  have last := tornPage_eq_some hd
  have lives : livePages m x e = (runOf (poolKnown m x) e.1 e.2).dropLast := by
    rw [livePages_eq, hd]
    rfl
  rw [lives] at live
  generalize runOf (poolKnown m x) e.1 e.2 = run at last live order
  obtain ⟨i, lt, rfl⟩ := List.mem_iff_getElem.1 live
  obtain ⟨front, rfl⟩ := List.getLast?_eq_some_iff.1 last
  simp only [List.dropLast_concat] at lt live ⊢
  intro same
  obtain ⟨mem, -, -, num, -⟩ := order i (by simp; omega)
  obtain ⟨mem', -, -, num', -⟩ := order front.length (by simp)
  rw [List.getElem_append_left lt] at mem num
  simp only [List.getElem_append_right le_rfl, Nat.sub_self, List.getElem_singleton] at mem' num'
  rw [poolKnown_page mem mem' (same.trans at_p.symm), num'] at num
  omega

theorem mem_poolResults {r : StreamResult} :
    r ∈ poolResults m x ↔ ∃ e ∈ allStreams x.dir, streamResult m (poolKnown m x) e = r := List.mem_map

/-- A stream's own LIVE page. -/
theorem mem_livePages {c : Candidate} (mem : c ∈ livePages m x e) :
    c ∈ poolKnown m x ∧ c.h.incident = e.1 ∧ c.h.stream = e.2.number := by
  obtain ⟨i, lt, rfl⟩ := List.mem_iff_getElem.1 mem
  obtain ⟨known, incident, stream, -⟩ := livePages_inSequence m x e i lt
  exact ⟨known, incident, stream⟩

section
variable (distinct : distinctNumbers x.dir) (he : e ∈ allStreams x.dir)
include distinct he

/-- The LIVE pages of a stream are LIVE in the Page Map. -/
theorem livePages_entry {c : Candidate} (mem : c ∈ livePages m x e) :
    poolEntry m x c.page = .live e.1 e.2.number c.h.seq c.h.fill := by
  obtain ⟨known, incident, stream⟩ := mem_livePages mem
  obtain ⟨-, cls, found, -⟩ := poolKnown_spec known
  have page : (poolKnown m x).any (·.page == c.page) = true := List.any_eq_true.2 ⟨c, known, beq_self_eq_true _⟩
  have sound : ¬(poolResults m x).any (·.torn == some c.page) = true := by
    rw [List.any_eq_true]
    rintro ⟨r, hr, torn⟩
    obtain ⟨e', he', rfl⟩ := mem_poolResults.1 hr
    have torn' : (streamResult m (poolKnown m x) e').torn = some c.page := by simpa using torn
    have own : e' = e := by
      obtain ⟨d, hd, at_c⟩ := Option.map_eq_some_iff.1 torn'
      have last : d ∈ runOf (poolKnown m x) e'.1 e'.2 := List.mem_of_getLast? (tornPage_eq_some hd)
      obtain ⟨i, lt, rfl⟩ := List.mem_iff_getElem.1 last
      obtain ⟨knownD, incidentD, streamD, -⟩ := runOf_inSequence m x e' i lt
      have same := poolKnown_page knownD known at_c
      rw [same] at incidentD streamD
      exact distinct.stream he' he (incidentD.symm.trans incident) (streamD.symm.trans stream)
    subst own
    exact torn_not_live torn' mem rfl
  have lives : (poolResults m x).any (·.live.any (·.page == c.page)) = true :=
    List.any_eq_true.2 ⟨_, mem_poolResults.2 ⟨e, he, rfl⟩, List.any_eq_true.2 ⟨c, mem, beq_self_eq_true _⟩⟩
  have held : ¬(streamOf x.dir ⟨c.page, c.h⟩).isNone = true := by
    rw [Option.isNone_iff_eq_none, ← ne_eq, ← Option.isSome_iff_ne_none]
    exact found
  rw [poolEntry, cls, pageResult_eq, if_neg held, if_neg (by rw [page]; decide), if_neg sound, if_pos lives, incident,
    stream]

/-- A LIVE page of a stream is one of its run. -/
theorem livePages_of_entry {p : PageAddr} {n fill : Nat} (live : poolEntry m x p = .live e.1 e.2.number n fill) :
    ∃ h : n < (livePages m x e).length, ((livePages m x e)[n]).h.fill = fill := by
  unfold poolEntry at live
  cases cls : classify m p with
  | erased => rw [cls] at live; cases live
  | torn => rw [cls] at live; cases live
  | void => rw [cls] at live; cases live
  | candidate head =>
    rw [cls, pageResult_eq] at live
    split at live
    · cases live
    split at live
    · cases live
    split at live
    · cases live
    split at live
    next lives =>
      injection live with incident stream seq fills
      obtain ⟨r, hr, any⟩ := List.any_eq_true.1 lives
      obtain ⟨e', he', rfl⟩ := mem_poolResults.1 hr
      obtain ⟨c, mem, at_p⟩ := List.any_eq_true.1 any
      have page : c.page = p := by simpa using at_p
      obtain ⟨known, incident', stream'⟩ := mem_livePages (m := m) (x := x) (e := e') mem
      obtain ⟨-, cls', -⟩ := poolKnown_spec known
      rw [page, cls] at cls'
      injection cls' with same
      rw [← same] at incident' stream'
      obtain rfl := distinct.stream he' he (incident'.symm.trans incident) (stream'.symm.trans stream)
      obtain ⟨i, lt, rfl⟩ := List.mem_iff_getElem.1 mem
      obtain ⟨-, -, -, num, -⟩ := livePages_inSequence m x e' i lt
      have at_n : i = n := by
        rw [← seq, same]
        refine Eq.trans ?_ num.symm
        exact (Nat.zero_add i).symm
      subst at_n
      exact ⟨lt, by rw [← fills, same]; rfl⟩
    · cases live

end

end

end Sys2Proof.Machine
end


section
/-! PROOFS. O56: the directory behind phase 3 (R151), and phase 3 as a whole. -/

namespace Sys2Proof.Machine

/-- The record of a stream behind R151. -/
def recountStream (res : List StreamResult) (number : Nat) (v : StreamRec) : StreamRec :=
  match res.find? (fun y => y.incident == number && y.stream == v.number) with
  | some y => { v with pages := y.live.length, committed := (y.live.map (·.h.fill)).sum }
  | none => v

theorem Incident.recount_eq (r : Incident) (res : List StreamResult) :
    r.recount res = { r with streams := r.streams.map (recountStream res r.number) } := rfl

section
variable {m : Memory} {x : JournalScan} {q : Plm}

theorem recountStream_eq (distinct : distinctNumbers x.dir) {number : Nat} {v : StreamRec}
    (he : (number, v) ∈ allStreams x.dir) : recountStream (poolResults m x) number v = { v with
      pages := (livePages m x (number, v)).length
      committed := ((livePages m x (number, v)).map (·.h.fill)).sum } := by
  have found : (poolResults m x).find? (fun y => y.incident == number && y.stream == v.number)
      = some (streamResult m (poolKnown m x) (number, v)) := by
    cases hit : (poolResults m x).find? fun y => y.incident == number && y.stream == v.number with
    | none =>
      have off := List.find?_eq_none.1 hit _ (mem_poolResults.2 ⟨_, he, rfl⟩)
      exact absurd (by simp [streamResult]) off
    | some y =>
      obtain ⟨e, he', rfl⟩ := mem_poolResults.1 (List.mem_of_find?_eq_some hit)
      obtain ⟨incident, stream⟩ : e.1 = number ∧ e.2.number = v.number := by
        simpa [streamResult] using List.find?_some hit
      rw [distinct.stream he' he incident stream]
  rw [recountStream, found]
  rfl

theorem poolPhase_dir (i : DirSlot) : (poolPhase m x).dir[i] = (x.dir[i]).map (·.recount (poolResults m x)) := by
  obtain ⟨dir, -⟩ := poolPhase_spec m x
  rw [dir]
  simp

theorem mem_shortened {e : Nat × StreamRec} (he : e ∈ allStreams x.dir)
    (short : (streamResult m (poolKnown m x) e).shortened = true) : e.1 ∈ (poolPhase m x).shortened := by
  obtain ⟨-, -, -, -, -, -, shortened⟩ := poolPhase_spec m x
  rw [shortened]
  exact List.mem_map.2 ⟨_, List.mem_filter.2 ⟨mem_poolResults.2 ⟨e, he, rfl⟩, short⟩, rfl⟩

/-- A stream's LIVE pages, by their fill counts. -/
theorem livePages_fills (distinct : distinctNumbers x.dir) {e : Nat × StreamRec} (he : e ∈ allStreams x.dir) :
    let fills := (livePages m x e).map (·.h.fill)
    (∀ n, n + 1 < fills.length → fills.getD n 0 = 1024)
    ∧ (∀ n, n < fills.length → ∃ p : PageAddr, x.reads p.zone
        ∧ (poolTable m x q).page p = .live e.1 e.2.number n (fills.getD n 0))
    ∧ (∀ (p : PageAddr) (n fill : Nat), x.reads p.zone → (poolTable m x q).page p = .live e.1 e.2.number n fill →
        n < fills.length ∧ fill = fills.getD n 0) := by
  intro fills
  have order := livePages_inSequence m x e
  have len : fills.length = (livePages m x e).length := List.length_map ..
  have at_n {n : Nat} (lt : n < (livePages m x e).length) : fills.getD n 0 = ((livePages m x e)[n]).h.fill := by
    rw [List.getD_eq_getElem _ _ (len ▸ lt), List.getElem_map]
  rw [len]
  refine ⟨fun n more => ?_, fun n lt => ?_, fun p n fill read live => ?_⟩
  · rw [at_n (by omega)]
    obtain ⟨known, -, -, -, full⟩ := order n (by omega)
    obtain ⟨-, cls, -⟩ := poolKnown_spec known
    obtain ⟨-, sound⟩ := classify_eq_candidate.1 cls
    have top : ¬1024 < ((livePages m x e)[n]).h.fill := fun above => sound (.inr (.inr (.inr above)))
    exact le_antisymm (Nat.not_lt.1 top) (full more)
  · obtain ⟨known, -, -, num, -⟩ := order n lt
    obtain ⟨read, -⟩ := poolKnown_spec known
    refine ⟨((livePages m x e)[n]).page, read, ?_⟩
    rw [poolTable_read read, livePages_entry distinct he (List.getElem_mem lt), at_n lt, num, Nat.zero_add]
  · rw [poolTable_read read] at live
    obtain ⟨lt, same⟩ := livePages_of_entry distinct he live
    exact ⟨lt, by rw [at_n lt, same]⟩

/-- The directory behind phase 3. -/
theorem poolPhase_streams (distinct : distinctNumbers x.dir) :
    (∀ i : DirSlot, x.dir[i] = none → (poolPhase m x).dir[i] = none)
    ∧ (∀ (i : DirSlot) (r : Incident), x.dir[i] = some r → ∃ f : StreamRec → StreamRec,
        (poolPhase m x).dir[i] = some { r with streams := r.streams.map f }
        ∧ ∀ v ∈ r.streams, f v = { v with pages := (f v).pages, committed := (f v).committed }
          ∧ (v.endKind ≠ .open → (f v).pages ≤ v.pages
            ∧ ((f v).pages < v.pages → r.number ∈ (poolPhase m x).shortened))
          ∧ ∃ fills : List Nat, fills.length = (f v).pages ∧ fills.sum = (f v).committed
            ∧ (∀ n, n + 1 < fills.length → fills.getD n 0 = 1024)
            ∧ (∀ n, n < fills.length → ∃ p : PageAddr, x.reads p.zone
                ∧ (poolTable m x q).page p = .live r.number v.number n (fills.getD n 0))
            ∧ (∀ (p : PageAddr) (n fill : Nat), x.reads p.zone →
                (poolTable m x q).page p = .live r.number v.number n fill →
                n < fills.length ∧ fill = fills.getD n 0)) := by
  refine ⟨fun i free => by rw [poolPhase_dir, free]; rfl, fun i r at_i => ?_⟩
  refine ⟨recountStream (poolResults m x) r.number, by rw [poolPhase_dir, at_i]; rfl, fun v hv => ?_⟩
  have he : (r.number, v) ∈ allStreams x.dir := mem_allStreams.2 ⟨i, r, at_i, rfl, hv⟩
  rw [recountStream_eq distinct he]
  refine ⟨rfl, fun closed => ?_, _, List.length_map .., rfl, livePages_fills distinct he⟩
  obtain ⟨le, short⟩ := livePages_closed (m := m) (x := x) (e := (r.number, v)) closed
  exact ⟨le, fun less => mem_shortened he (short less)⟩

end

end Sys2Proof.Machine
end


section
/-! PROOFS. O56: the scan's way from page to page (R144). -/

namespace Sys2Proof.Machine

/-- The scanner at a position, with the read it asks for. -/
abbrev Dev.asks (d : Dev) (pos : ScanPos) (job : Job) : Dev := { d with
  rcs := { d.rcs with pos := pos }
  arc := { d.arc with waiting := d.arc.waiting ++ [ArrReq.mk .scanner job] } }

/-- The scanner at a page that is read in full. -/
abbrev Dev.asksPage (d : Dev) (pos : ScanPos) (page : PageAddr) : Dev := d.asks pos (.read page 0 1024 0 64)

/-- The scanner at a page whose header is read. -/
abbrev Dev.asksHeader (d : Dev) (page : PageAddr) : Dev := d.asks (.poolHeader page) (.read page 0 0 0 32)

/-- The pool's result stands. -/
abbrev Dev.withPool (d : Dev) (y : PoolScan) : Dev := { d with rcs := { d.rcs with pool := some y } }

section
variable {d : Dev} {m : Memory} {x : JournalScan}

theorem Dev.startDecode_cons (p : PageAddr) (l : List PageAddr) :
    d.startDecode m x (p :: l) = d.asksPage (.poolDecode p l) p := rfl

theorem Dev.startDecode_ring {z : Zone} {l : List Zone} (ring : ringToRead x = z :: l) :
    d.startDecode m x [] = (d.withPool (poolPhase m x)).asksPage (.ring ⟨z, 0⟩) ⟨z, 0⟩ := by
  show (d.withPool (poolPhase m x)).startRing m x (poolPhase m x) = _
  simp only [Dev.startRing, firstPage, ring]
  rfl

theorem Dev.startDecode_ends (ring : ringToRead x = []) : d.startDecode m x []
    = (d.withPool (poolPhase m x)).enterNormal x (poolPhase m x) (ringPhase m x.defects) := by
  show (d.withPool (poolPhase m x)).startRing m x (poolPhase m x) = _
  simp only [Dev.startRing, firstPage, ring]
  rfl

theorem Dev.poolNext_header {page next : PageAddr} (h : nextPage (poolToRead x) page = some next) :
    d.poolNext m x page = d.asksHeader next := by
  simp only [Dev.poolNext, h]
  rfl

theorem Dev.poolNext_decode {page : PageAddr} (h : nextPage (poolToRead x) page = none) :
    d.poolNext m x page = d.startDecode m x (pagesToDecode m x) := by
  simp only [Dev.poolNext, h]

theorem nextPage_within (zones : List Zone) (z : Zone) {p : PageNo} (h : p.val < 31) :
    nextPage zones ⟨z, p⟩ = some ⟨z, p + 1⟩ := if_pos h

end

section
variable {d : Dev} {m : Memory}

/-- The journal's result stands; a defective zone 0 takes the settings away (R145). -/
def Dev.journalStands (d : Dev) (x : JournalScan) : Dev :=
  let known : Dev := { d with rcs := { d.rcs with journal := some x } }
  if x.defects.contains 0 then { known with
      sst := { d.sst with working := Settings.defaults, pending := Settings.defaults, savePos := 32 }
      rqd := ⟨Settings.defaults.rights⟩
      rcs := { known.rcs with settingsDefaulted := true } }
    else known

theorem Dev.journalDone_eq (d : Dev) (m : Memory) : d.journalDone m = d.journalStands (journalPhase m) := by
  unfold Dev.journalDone Dev.journalStands
  generalize journalPhase m = x
  rfl

/-- The pool's first header is read, or the pages to be decoded. -/
def Dev.poolFirst (d : Dev) (m : Memory) (j : JournalScan) : Dev :=
  match firstPage (poolToRead j) with
  | some a => d.scanAt (.poolHeader a)
  | none => d.startDecode m j (pagesToDecode m j)

theorem Dev.startPool_eq (d : Dev) (m : Memory) :
    d.startPool m = (d.journalStands (journalPhase m)).poolFirst m (journalPhase m) := by
  rw [← Dev.journalDone_eq]
  rfl

theorem Dev.poolFirst_header {j : JournalScan} {z : Zone} {l : List Zone} (zones : poolToRead j = z :: l) :
    d.poolFirst m j = d.asksHeader ⟨z, 0⟩ := by
  simp only [Dev.poolFirst, firstPage, zones]
  rfl

theorem Dev.poolFirst_decode {j : JournalScan} (zones : poolToRead j = []) :
    d.poolFirst m j = d.startDecode m j (pagesToDecode m j) := by
  simp only [Dev.poolFirst, firstPage, zones]
  rfl

end

/-! ### The command -/


section
variable {s : State}

/-- The part behind the completion of a read. -/
abbrev State.scanIdle (s : State) : Dev := { s.dev with arc := { s.dev.arc with op := none } }

/-- What the completion of a read of the scanner leads to. -/
def State.scanBecomes (s : State) (d : Dev) : Prop := exec .recoveryReadDone s = .next { s with dev := d.settle }

theorem exec_recoveryReadDone (hpower : s.powered = true) {j : Job} (scan : s.dev.arc.op = some ⟨.scanner, j⟩) :
    s.scanBecomes (s.scanIdle.scanNext s.flash) := by
  have scans : s.dev.arc.scans = true := by rw [Arc.scans, scan]; rfl
  refine (State.act_of_powered hpower _).trans ?_
  rw [if_pos scans]
  rfl

/-- The ring is read, or recovery ends (R144). -/
def State.toRing (s : State) (d : Dev) (x : JournalScan) : Prop :=
  (∀ z l, ringToRead x = z :: l →
    s.scanBecomes ((d.withPool (poolPhase s.flash x)).asksPage (.ring ⟨z, 0⟩) ⟨z, 0⟩))
  ∧ (ringToRead x = [] → s.scanBecomes
    ((d.withPool (poolPhase s.flash x)).enterNormal x (poolPhase s.flash x) (ringPhase s.flash x.defects)))

/-- The pages to be decoded are read, or the ring. -/
def State.toDecode (s : State) (d : Dev) (x : JournalScan) (pages : List PageAddr) : Prop :=
  (∀ page l, pages = page :: l → s.scanBecomes (d.asksPage (.poolDecode page l) page)) ∧ (pages = [] → s.toRing d x)

/-- The next header is read, or the pages to be decoded. -/
def State.toNextHeader (s : State) (d : Dev) (x : JournalScan) (page : PageAddr) : Prop :=
  (∀ next, nextPage (poolToRead x) page = some next → s.scanBecomes (d.asksHeader next))
  ∧ (nextPage (poolToRead x) page = none → s.toDecode d x (pagesToDecode s.flash x))

variable {d : Dev} {x : JournalScan}

theorem State.toDecode_of {pages : List PageAddr} (h : s.scanBecomes (d.startDecode s.flash x pages)) :
    s.toDecode d x pages := by
  refine ⟨fun page l same => ?_, fun same => ⟨fun z l ring => ?_, fun ring => ?_⟩⟩ <;> subst same
  · exact h
  · rw [Dev.startDecode_ring ring] at h
    exact h
  · rw [Dev.startDecode_ends ring] at h
    exact h

theorem State.toNextHeader_of {page : PageAddr} (h : s.scanBecomes (d.poolNext s.flash x page)) :
    s.toNextHeader d x page := by
  refine ⟨fun next found => ?_, fun last => ?_⟩
  · rw [Dev.poolNext_header found] at h
    exact h
  · rw [Dev.poolNext_decode last] at h
    exact State.toDecode_of h

section
variable {j : Job} (hpower : s.powered = true) (scan : s.dev.arc.op = some ⟨.scanner, j⟩)
include hpower scan

/-- One step of the scan. -/
theorem State.scanStep {f : Dev → Dev}
    (step : ∀ e : Dev, e.rcs = s.dev.rcs → e.scanNext s.flash = f e) : s.scanBecomes (f s.scanIdle) :=
  step s.scanIdle rfl ▸ exec_recoveryReadDone hpower scan

theorem scan_settings {p : PageNo} (pos : s.dev.rcs.pos = .settings p) (h : p.val < 31) :
    s.scanBecomes (s.scanIdle.asksPage (.settings (p + 1)) ⟨0, p + 1⟩) := by
  refine State.scanStep hpower scan (f := fun e => e.asksPage (.settings (p + 1)) ⟨0, p + 1⟩) fun e same => ?_
  simp only [Dev.scanNext, same, pos, h, if_true]
  rfl

theorem scan_settingsEnd (pos : s.dev.rcs.pos = .settings 31) :
    s.scanBecomes ((s.scanIdle.settingsPhase s.flash).asksPage (.directory ⟨1, 0⟩) ⟨1, 0⟩) := by
  refine State.scanStep hpower scan
    (f := fun e => (e.settingsPhase s.flash).asksPage (.directory ⟨1, 0⟩) ⟨1, 0⟩) fun e same => ?_
  simp only [Dev.scanNext, same, pos]
  rfl

theorem scan_directory {z : Zone} {p : PageNo} (pos : s.dev.rcs.pos = .directory ⟨z, p⟩) (h : p.val < 31) :
    s.scanBecomes (s.scanIdle.asksPage (.directory ⟨z, p + 1⟩) ⟨z, p + 1⟩) := by
  refine State.scanStep hpower scan
    (f := fun e => e.asksPage (.directory ⟨z, p + 1⟩) ⟨z, p + 1⟩) fun e same => ?_
  simp only [Dev.scanNext, same, pos, nextPage_within _ z h]
  rfl

theorem scan_directoryZone (pos : s.dev.rcs.pos = .directory ⟨1, 31⟩) :
    s.scanBecomes (s.scanIdle.asksPage (.directory ⟨2, 0⟩) ⟨2, 0⟩) := by
  have next : nextPage [1, 2] ⟨1, 31⟩ = some ⟨2, 0⟩ := by decide
  refine State.scanStep hpower scan (f := fun e => e.asksPage (.directory ⟨2, 0⟩) ⟨2, 0⟩) fun e same => ?_
  simp only [Dev.scanNext, same, pos, next]
  rfl

theorem scan_directoryEnd (pos : s.dev.rcs.pos = .directory ⟨2, 31⟩) :
    (∀ z l, poolToRead (journalPhase s.flash) = z :: l →
      s.scanBecomes ((s.scanIdle.journalStands (journalPhase s.flash)).asksHeader ⟨z, 0⟩))
    ∧ (poolToRead (journalPhase s.flash) = [] →
      s.toDecode (s.scanIdle.journalStands (journalPhase s.flash)) (journalPhase s.flash)
        (pagesToDecode s.flash (journalPhase s.flash))) := by
  have next : nextPage [1, 2] ⟨2, 31⟩ = none := by decide
  have start (e : Dev) (same : e.rcs = s.dev.rcs) : e.scanNext s.flash = e.startPool s.flash := by
    simp only [Dev.scanNext, same, pos, next]
  have step := State.scanStep hpower scan (f := fun e => e.startPool s.flash) start
  rw [Dev.startPool_eq] at step
  refine ⟨fun z l zones => ?_, fun zones => State.toDecode_of ?_⟩
  · rw [Dev.poolFirst_header zones] at step
    exact step
  · rw [Dev.poolFirst_decode zones] at step
    exact step

theorem scan_header {p : PageAddr} (pos : s.dev.rcs.pos = .poolHeader p) (journal : s.dev.rcs.journal = some x) :
    (headerOutcome (s.flash.header p) = .erased → s.scanBecomes (s.scanIdle.asksPage (.poolFull p) p))
    ∧ (headerOutcome (s.flash.header p) ≠ .erased → s.toNextHeader s.scanIdle x p) := by
  refine ⟨fun erased => ?_, fun written => State.toNextHeader_of ?_⟩
  · refine State.scanStep hpower scan (f := fun e => e.asksPage (.poolFull p) p) fun e same => ?_
    simp only [Dev.scanNext, same, pos, journal, erased, if_true]
    rfl
  · refine State.scanStep hpower scan (f := fun e => e.poolNext s.flash x p) fun e same => ?_
    simp only [Dev.scanNext, same, pos, journal, written, if_false]

theorem scan_full {p : PageAddr} (pos : s.dev.rcs.pos = .poolFull p) (journal : s.dev.rcs.journal = some x) :
    s.toNextHeader s.scanIdle x p := by
  refine State.toNextHeader_of (State.scanStep hpower scan (f := fun e => e.poolNext s.flash x p) fun e same => ?_)
  simp only [Dev.scanNext, same, pos, journal]

theorem scan_decode {p : PageAddr} {l : List PageAddr} (pos : s.dev.rcs.pos = .poolDecode p l)
    (journal : s.dev.rcs.journal = some x) : s.toDecode s.scanIdle x l := by
  refine State.toDecode_of (State.scanStep hpower scan (f := fun e => e.startDecode s.flash x l) fun e same => ?_)
  simp only [Dev.scanNext, same, pos, journal]

theorem scan_ring {p next : PageAddr} {y : PoolScan} (pos : s.dev.rcs.pos = .ring p) (journal : s.dev.rcs.journal = some x)
    (pool : s.dev.rcs.pool = some y) (h : nextPage (ringToRead x) p = some next) :
    s.scanBecomes (s.scanIdle.asksPage (.ring next) next) := by
  refine State.scanStep hpower scan (f := fun e => e.asksPage (.ring next) next) fun e same => ?_
  simp only [Dev.scanNext, same, pos, journal, pool, h]
  rfl

theorem scan_ringEnd {p : PageAddr} {y : PoolScan} (pos : s.dev.rcs.pos = .ring p) (journal : s.dev.rcs.journal = some x)
    (pool : s.dev.rcs.pool = some y) (h : nextPage (ringToRead x) p = none) :
    s.scanBecomes (s.scanIdle.enterNormal x y (ringPhase s.flash x.defects)) := by
  refine State.scanStep hpower scan (f := fun e => e.enterNormal x y (ringPhase s.flash x.defects)) fun e same => ?_
  simp only [Dev.scanNext, same, pos, journal, pool, h]
  rfl

end

end

end Sys2Proof.Machine
end


section
/-! PROOFS. O56: the end of phase 1 (R145). -/

namespace Sys2Proof.Machine

theorem Dev.settingsPhase_eq (d : Dev) (m : Memory) : d.settingsPhase m =
    d.adoptSettings ((settingsFound m).getD Settings.defaults) (savePosition m) (settingsFound m).isNone := by
  unfold Dev.settingsPhase
  cases settingsFound m <;> rfl

/-- The save position stands behind the last page of zone 0 that is not wholly erased (R145). -/
theorem savePosition_spec (m : Memory) : (∀ p : PageNo, savePosition m ≤ p.val → m.blankPage ⟨0, p⟩ = true)
    ∧ (savePosition m = 0 ∨ ∃ p : PageNo, savePosition m = p.val + 1 ∧ m.blankPage ⟨0, p⟩ = false) := by
  have listed (n : Nat) : n ∈ ((zonePages 0).filter (!m.blankPage ·)).map (·.page.val + 1) ↔
      ∃ p : PageNo, m.blankPage ⟨0, p⟩ = false ∧ p.val + 1 = n := by
    simp only [List.mem_map, List.mem_filter, mem_zonePages, Bool.not_eq_true']
    constructor
    · rintro ⟨⟨z, p⟩, ⟨zone, written⟩, rfl⟩
      subst zone
      exact ⟨p, written, rfl⟩
    · rintro ⟨p, written, rfl⟩
      exact ⟨⟨0, p⟩, ⟨rfl, written⟩, rfl⟩
  unfold savePosition
  cases top : listMax (((zonePages 0).filter (!m.blankPage ·)).map (·.page.val + 1)) with
  | none =>
    have empty := listMax_eq_none.1 top
    refine ⟨fun p _ => ?_, .inl rfl⟩
    by_contra written
    have mem := (listed (p.val + 1)).2 ⟨p, Bool.eq_false_iff.2 written, rfl⟩
    rw [empty] at mem
    exact absurd mem List.not_mem_nil
  | some n =>
    obtain ⟨mem, greatest⟩ := listMax_eq_some.1 top
    obtain ⟨p, written, same⟩ := (listed n).1 mem
    refine ⟨fun k le => ?_, .inr ⟨p, same.symm, written⟩⟩
    by_contra spoilt
    have below := greatest _ ((listed (k.val + 1)).2 ⟨k, Bool.eq_false_iff.2 spoilt, rfl⟩)
    rw [Option.getD_some] at le
    omega

/-- The settings found, or the defaults, are working (R145). -/
theorem scan_settingsAdopted {s : State} {j : Job} (hpower : s.powered = true)
    (scan : s.dev.arc.op = some ⟨.scanner, j⟩) (pos : s.dev.rcs.pos = .settings 31) :
    ∃ e : Dev, exec .recoveryReadDone s = .next { s with dev := e } ∧ e.rcs.pos = .directory ⟨1, 0⟩
      ∧ e.sst.working = (settingsFound s.flash).getD Settings.defaults
      ∧ e.sst.pending = e.sst.working ∧ e.rqd.rights = e.sst.working.rights
      ∧ e.rcs.settingsDefaulted = (settingsFound s.flash).isNone
      ∧ (∀ p : PageNo, e.sst.savePos ≤ p.val → s.flash.blankPage ⟨0, p⟩ = true)
      ∧ (e.sst.savePos = 0 ∨ ∃ p : PageNo, e.sst.savePos = p.val + 1 ∧ s.flash.blankPage ⟨0, p⟩ = false)
      ∧ s.dev.keepsAllBut [.rqd, .arc, .drm, .hiu, .ntu, .sst, .rcs] e := by
  obtain ⟨d, hd⟩ : ∃ d, (s.scanIdle.settingsPhase s.flash).asksPage (.directory ⟨1, 0⟩) ⟨1, 0⟩ = d := ⟨_, rfl⟩
  have step := scan_settingsEnd hpower scan pos
  rw [hd] at step
  rw [Dev.settingsPhase_eq] at hd
  have settled := d.settle_keepsAllBut
  have rcs : d.settle.rcs = d.rcs := settled .rcs (by decide)
  have sst : d.settle.sst = d.sst := settled .sst (by decide)
  have rqd : d.settle.rqd = d.rqd := settled .rqd (by decide)
  obtain ⟨behind, last⟩ := savePosition_spec s.flash
  have found : s.dev.keepsAllBut [.rqd, .arc, .sst, .rcs] d := by
    rw [← hd]
    exact fun b hb => by cases b <;> simp [Part.agrees, Dev.adoptSettings] at hb ⊢
  refine ⟨d.settle, step, ?_⟩
  rw [rcs, sst, rqd]
  refine ⟨?_, ?_, ?_, ?_, ?_, ?_, ?_, (found.mono (by decide)).trans (settled.mono (by decide))⟩ <;> rw [← hd]
  · rfl
  · rfl
  · rfl
  · rfl
  · exact behind
  · exact last

end Sys2Proof.Machine
end


section
/-! PROOFS. O56: what the triggers and a warning leave of the journal's position and of INTEGRITY (R156, R162). -/

namespace Sys2Proof.Machine

/-- The journal's position, the epoch, and whether recovery's entries wait for a compaction. -/
def Drm.head (m : Drm) : Option Zone × Nat × Bool × Nat × Nat × Bool :=
  (m.active, m.pos, m.journalOpen, m.generation, m.epoch, m.recoveryHeld)

/-- The journal's position and the notices of INTEGRITY stand. -/
structure Dev.lastsTo (d e : Dev) : Prop where
  head : e.drm.head = d.drm.head
  told : Dev.noticeStays .integrity d e

section
variable {d e f : Dev}

theorem Dev.lastsTo.trans (h : d.lastsTo e) (g : e.lastsTo f) : d.lastsTo f :=
  ⟨g.head.trans h.head, h.told.trans g.told⟩

theorem Dev.lastsTo_of_same (drm : e.drm.head = d.drm.head) (management : e.ntu.management = d.ntu.management)
    (service : e.ntu.service = d.ntu.service) : d.lastsTo e := ⟨drm, Dev.noticeStays_of_same management service⟩

/-- What leaves the directory and the notices. -/
theorem Dev.lastsTo_of_keeps {bs : List Part} (h : d.keepsAllBut bs e) (drm : Part.drm ∉ bs) (ntu : Part.ntu ∉ bs) :
    d.lastsTo e := by
  have sameDrm : e.drm = d.drm := h .drm drm
  have sameNtu : e.ntu = d.ntu := h .ntu ntu
  exact Dev.lastsTo_of_same (by rw [sameDrm]) (by rw [sameNtu]) (by rw [sameNtu])

theorem Dev.lastsTo_of_logsTo (h : d.logsTo e) (told : Dev.noticeStays .integrity d e) : d.lastsTo e :=
  ⟨by rw [h]; rfl, told⟩

theorem Dev.lastsTo_rfl (d : Dev) : d.lastsTo d := Dev.lastsTo_of_same rfl rfl rfl

theorem Dev.foldl_lastsTo {α : Type} {g : Dev → α → Dev} (step : ∀ (d : Dev) a, d.lastsTo (g d a)) :
    ∀ (l : List α) (d : Dev), d.lastsTo (l.foldl g d)
  | [], d => d.lastsTo_rfl
  | a :: l, d => (step d a).trans (Dev.foldl_lastsTo step l _)

end

/-! ### The history's notices -/

section
variable {c : NoticeCause} (halted : c ≠ .historyHalted) (d : Dev)
include halted

theorem Dev.hiuMove_stays : Dev.noticeStays c d d.hiuMove := Dev.moveLoop_stays halted 256 d

theorem Dev.awaitTest_stays : Dev.noticeStays c d d.awaitTest := by
  unfold Dev.awaitTest
  split
  · exact Dev.noticeStays_rfl d
  split
  next k _ =>
    split
    · have active : Dev.noticeStays c d (d.activate k) := (Dev.haltTest_noticeStays halted _).after rfl rfl
      exact active.trans ((Dev.prepTest_noticeStays _).trans (Dev.hiuMove_stays halted _))
    · exact Dev.noticeStays_rfl d
  · exact Dev.noticeStays_rfl d

theorem Dev.resumeTest_noticeStays : Dev.noticeStays c d d.resumeTest := by
  unfold Dev.resumeTest
  split
  · have gap (e : Dev) : Dev.noticeStays c e e.gapTest := Dev.noticeStays_of_same (by simp) (by simp)
    exact ((gap _).trans ((Dev.hiuMove_stays halted _).trans (Dev.awaitTest_stays halted _))).after rfl rfl
  · exact Dev.noticeStays_rfl d

theorem Dev.unpin_stays (n : Nat) : Dev.noticeStays c d (d.unpin n) :=
  ((Dev.awaitTest_stays halted _).trans ((Dev.prepTest_noticeStays _).trans (Dev.resumeTest_noticeStays halted _))).after rfl rfl

theorem Dev.pinWindow_stays (n : Nat) (t : Option Nat) : Dev.noticeStays c d (d.pinWindow n t).1 := by
  unfold Dev.pinWindow
  dsimp only
  split
  · exact Dev.noticeStays_rfl d
  · exact (Dev.haltTest_noticeStays halted _).after rfl rfl

theorem Dev.markedEvent_stays (lost : c ≠ .historyLost) (code severity : Nat) (body : HBody) :
    Dev.noticeStays c d (d.markedEvent code severity body).dev :=
  (Dev.offerSeq_stays halted lost d body severity .internal code).trans (Dev.noticeStays_of_same rfl rfl)

end

/-! ### The operations -/

section
variable (d : Dev)

theorem Dev.raise_lastsTo {c : NoticeCause} (other : NoticeCause.integrity ≠ c) (n : Nat) : d.lastsTo (d.raise c n) :=
  ⟨rfl, Dev.raise_stays other d n⟩

theorem Dev.event_lastsTo (code severity : Nat) (body : HBody) : d.lastsTo (d.event code severity body) :=
  Dev.lastsTo_of_logsTo (d.event_logsTo ..) (Dev.offerSeq_stays (by decide) (by decide) ..)

theorem Dev.markedEvent_lastsTo (code severity : Nat) (body : HBody) :
    d.lastsTo (d.markedEvent code severity body).dev :=
  Dev.lastsTo_of_logsTo (d.markedEvent_logsTo ..) (d.markedEvent_stays (by decide) (by decide) ..)

theorem Dev.showInd_lastsTo : d.lastsTo d.showInd :=
  Dev.lastsTo_of_same (by simp) (Dev.showInd_sets d).1 (Dev.showInd_sets d).2

theorem Dev.settle_lastsTo : d.lastsTo d.settle := Dev.lastsTo_of_logsTo d.settle_logsTo (Dev.settle_stays d)

theorem Dev.poolLowTest_lastsTo : d.lastsTo d.poolLowTest := by
  unfold Dev.poolLowTest
  split
  · exact d.raise_lastsTo (by decide) _
  · exact d.lastsTo_rfl

theorem Dev.modIncident_lastsTo (n : Nat) (g : Incident → Incident) : d.lastsTo (d.modIncident n g) := by
  unfold Dev.modIncident
  split
  · exact Dev.lastsTo_of_same rfl rfl rfl
  · exact d.lastsTo_rfl

theorem Dev.waitCapture_lastsTo (w : CapWaiter) : d.lastsTo (d.waitCapture w) := by
  unfold Dev.waitCapture
  split
  · exact d.lastsTo_rfl
  · exact Dev.lastsTo_of_same rfl rfl rfl

theorem Dev.tryPass_lastsTo : d.lastsTo d.tryPass := by
  rcases d.tryPass_cases with stays | ⟨k, r, -, passes⟩
  · rw [stays]
    exact d.lastsTo_rfl
  · rw [passes]
    exact ⟨by rw [Dev.passed_drm]; rfl, d.passed_stays k⟩

theorem Dev.tryKeep_lastsTo : d.lastsTo d.tryKeep := by
  rcases d.tryKeep_cases with stays | waits | ⟨k, r, -, keeps⟩
  · rw [stays]
    exact d.lastsTo_rfl
  · rw [waits]
    exact d.waitCapture_lastsTo _
  · rw [keeps]
    refine ⟨by rw [Dev.keep_drm]; rfl, Dev.noticeStays.after ((Dev.event_lastsTo _ _ _ _).told.trans
      (Dev.raise_stays (by decide) _ _)) (Dev.showInd_sets _).1 (Dev.showInd_sets _).2⟩

theorem Dev.closeRun_lastsTo : d.lastsTo d.closeRun :=
  d.tryPass_lastsTo.trans ((Dev.tryKeep_lastsTo _).trans ((Dev.tryPass_lastsTo _).trans (Dev.tryKeep_lastsTo _)))

theorem Dev.releaseSlot_lastsTo (i : StreamIdx) (x : StreamBody) (k : PendingEnd) : d.lastsTo (d.releaseSlot i x k) := by
  have queues : d.lastsTo (d.queueEntry (.streamEnd x.incident x.stream k.kind k.reason x.short x.accepted
    x.committed x.pages)) := Dev.lastsTo_of_same rfl rfl rfl
  exact (queues.trans (Dev.modIncident_lastsTo _ x.incident _)).trans (Dev.lastsTo_of_same rfl rfl rfl)

theorem Dev.releaseKeeping_lastsTo (i : StreamIdx) : d.lastsTo (d.releaseKeeping i) := by
  rcases d.releaseKeeping_cases i with stays | waits | ⟨x, k, -, -, releases⟩
  · rw [stays]
    exact d.lastsTo_rfl
  · rw [waits]
    exact d.waitCapture_lastsTo _
  · rw [releases]
    exact (d.releaseSlot_lastsTo i x k).trans (Dev.tryKeep_lastsTo _)

theorem Dev.tryRelease_lastsTo (i : StreamIdx) : d.lastsTo (d.tryRelease i) :=
  (d.releaseKeeping_lastsTo i).trans (Dev.closeRun_lastsTo _)

theorem Dev.reportCut_lastsTo (x : StreamBody) (r : Reason) : d.lastsTo (d.reportCut x r) :=
  (d.event_lastsTo _ _ _).trans (Dev.raise_lastsTo _ (by decide) _)

theorem Dev.reportEnd_lastsTo (x : StreamBody) (k : PendingEnd) : d.lastsTo (d.reportEnd x k) := by
  unfold Dev.reportEnd
  split
  · exact d.reportCut_lastsTo x _
  · exact d.lastsTo_rfl

theorem Dev.discardBlocks_lastsTo (i : StreamIdx) : d.lastsTo (d.discardBlocks i) :=
  Dev.lastsTo_of_same (by simp) (by simp) (by simp)

theorem Dev.cutDiscard_lastsTo (i : StreamIdx) (r : Reason) : d.lastsTo (d.cutDiscard i r) := by
  cases taken : d.body i with
  | none =>
    simp only [Dev.cutDiscard, taken]
    exact d.lastsTo_rfl
  | some x =>
    have cut : d.lastsTo (d.modBody i fun b => { b with ending := some (cutEnding r b.ending) }) :=
      Dev.lastsTo_of_same (by simp) (by simp) (by simp)
    simp only [Dev.cutDiscard, taken]
    exact cut.trans ((Dev.discardBlocks_lastsTo _ i).trans ((Dev.reportCut_lastsTo _ x r).trans
      ((Dev.closeRun_lastsTo _).trans (Dev.tryRelease_lastsTo _ i))))

variable {d} in
theorem Dev.givePage_lastsTo {e : Dev} {p : PageAddr} (h : d.givePage = some (p, e)) : d.lastsTo e := by
  obtain ⟨-, -, -, -, -, -, -, -, drm, -⟩ := Dev.givePage_frame h
  refine ⟨by rw [drm], ?_⟩
  unfold Dev.givePage at h
  split at h
  · cases h
    exact Dev.noticeStays_of_same rfl rfl
  · split at h
    next d' given =>
      obtain ⟨z, -, hz⟩ := Option.map_eq_some_iff.1 h
      cases hz
      refine Dev.noticeStays.trans ?_ (Dev.noticeStays_of_same (d := d') rfl rfl)
      obtain ⟨z', -, rfl⟩ := Option.map_eq_some_iff.1 given
      exact (Dev.poolLowTest_lastsTo _).told.after rfl rfl
    · cases h

theorem Dev.cmeOnce_lastsTo : d.lastsTo d.cmeOnce := by
  unfold Dev.cmeOnce
  split
  · exact d.lastsTo_rfl
  · split
    next given =>
      exact (Dev.givePage_lastsTo given).trans (Dev.lastsTo_of_same (by simp [Dev.setStb]) (by simp [Dev.setStb])
        (by simp [Dev.setStb]))
    · exact d.cutDiscard_lastsTo ..

theorem Dev.cmeLoop_lastsTo : ∀ (n : Nat) (d : Dev), d.lastsTo (Dev.cmeLoop n d)
  | 0, d => d.lastsTo_rfl
  | n + 1, d => by
    unfold Dev.cmeLoop
    split
    · exact d.cmeOnce_lastsTo.trans (Dev.cmeLoop_lastsTo n _)
    · exact d.lastsTo_rfl

theorem Dev.endStream_lastsTo (i : StreamIdx) (k : PendingEnd) : d.lastsTo (d.endStream i k) := by
  by_cases isOpen : ∃ x, d.body i = some x ∧ x.ending = none
  · obtain ⟨x, taken, isOpen⟩ := isOpen
    have left : d.lastsTo (d.leaveOpen i k) := Dev.lastsTo_of_same (by simp) (by simp) (by simp)
    rw [Dev.endStream_open taken isOpen]
    exact left.trans ((Dev.reportEnd_lastsTo _ x k).trans ((Dev.closeRun_lastsTo _).trans
      ((Dev.cmeLoop_lastsTo _ _).trans (Dev.tryRelease_lastsTo _ i))))
  · rw [Dev.endStream_not_open fun x taken ends => isOpen ⟨x, taken, ends⟩]
    exact d.lastsTo_rfl

theorem Dev.endAll_lastsTo (slots : List StreamIdx) (k : PendingEnd) : d.lastsTo (d.endAll slots k) :=
  Dev.foldl_lastsTo (fun e i => e.endStream_lastsTo i k) slots d

/-! ### The closing phase -/

theorem Dev.cutClosing_lastsTo (i : StreamIdx) : d.lastsTo (d.cutClosing i) := by
  unfold Dev.cutClosing
  split
  next x taken =>
    have cut : d.lastsTo (d.modBody i fun b => { b with ending := some (.truncated .power) }) :=
      Dev.lastsTo_of_same (by simp) (by simp) (by simp)
    exact cut.trans (Dev.reportCut_lastsTo _ x .power)
  · exact d.lastsTo_rfl

theorem Dev.closingStart_lastsTo (c : ClosingCause) : d.lastsTo (d.closingStart c) :=
  Dev.lastsTo_of_same (by rw [(d.closingStart_frame c).2.2.2.1]) (by simp [Dev.closingStart]) (by simp [Dev.closingStart])

theorem Dev.beginClosing_lastsTo (c : ClosingCause) : d.lastsTo (d.beginClosing c) := by
  rw [Dev.beginClosing_eq]
  exact (d.closingStart_lastsTo c).trans ((Dev.foldl_lastsTo Dev.cutClosing_lastsTo _ _).trans
    ((Dev.foldl_lastsTo Dev.discardBlocks_lastsTo _ _).trans
      ((Dev.foldl_lastsTo Dev.releaseKeeping_lastsTo _ _).trans
        ((Dev.closeRun_lastsTo _).trans (Dev.markedEvent_lastsTo _ _ _ _)))))

/-! ### A trigger that no port waits for -/

theorem Dev.goneAll_lastsTo (n : Nat) : d.lastsTo (d.goneAll n) :=
  Dev.foldl_lastsTo (fun e p => Dev.lastsTo_of_keeps (e.goneFor_keepsAllBut n p) (by decide) (by decide)) _ d

theorem Dev.struck_lastsTo (i : DirSlot) (n : Nat) : d.lastsTo (d.struck i n) :=
  Dev.lastsTo_of_same (by rw [Dev.struck_drm]; rfl) (by simp [Dev.struck, Dev.setPlm, Dev.setDrm, Dev.queueEntry])
    (by simp [Dev.struck, Dev.setPlm, Dev.setDrm, Dev.queueEntry])

theorem Dev.releaseIncident_lastsTo (i : DirSlot) (n : Nat) (source : Source) :
    d.lastsTo (d.releaseIncident i n source) := by
  rw [Dev.releaseIncident_eq]
  exact (d.struck_lastsTo i n).trans ((Dev.lastsTo_of_logsTo (Dev.unpin_logsTo _ n)
    (Dev.unpin_stays (by decide) _ n)).trans ((Dev.goneAll_lastsTo _ n).trans (Dev.event_lastsTo ..)))

theorem Dev.triggerEvent_lastsTo (t : TriggerRecord) (n : Nat) (x : Disposition) :
    d.lastsTo (d.triggerEvent t n x).dev := d.markedEvent_lastsTo ..

theorem Dev.opening_lastsTo (i : DirSlot) (t : TriggerRecord) : d.lastsTo (d.opening i t) := by
  have pinned : d.lastsTo (d.openingPinned t) := (d.triggerEvent_lastsTo ..).trans
    (Dev.lastsTo_of_logsTo (Dev.pinWindow_logsTo ..) (Dev.pinWindow_stays (by decide) ..))
  have filed : (d.openingPinned t).lastsTo (d.openingFiled i t) :=
    Dev.lastsTo_of_same (by rw [Dev.openingFiled_drm, d.openingPinned_drm]; rfl)
      (by simp [Dev.openingFiled, Dev.setDrm, Dev.queueEntry]) (by simp [Dev.openingFiled, Dev.setDrm, Dev.queueEntry])
  have begins (e : Dev) : e.lastsTo (e.beginRecording i) :=
    Dev.lastsTo_of_keeps (e.beginRecording_keepsAllBut i) (by decide) (by decide)
  exact pinned.trans (filed.trans ((begins _).trans (Dev.raise_lastsTo _ (by decide) _)))

theorem Dev.openIncident_lastsTo (i : DirSlot) (t : TriggerRecord) : d.lastsTo (d.openIncident i t none) := by
  rw [Dev.openIncident_eq]
  exact d.opening_lastsTo i t

theorem Dev.refuseTrigger_lastsTo (t : TriggerRecord) : d.lastsTo (d.refuseTrigger t none) := by
  refine (d.triggerEvent_lastsTo t 0 .refused).trans ?_
  unfold Dev.refuseTrigger
  dsimp only [Dev.answer, Dev.replyTo]
  split
  · exact Dev.lastsTo_rfl _
  · exact Dev.raise_lastsTo _ (by decide) _

theorem Dev.openBy_lastsTo (w : OpeningWay) (t : TriggerRecord) : d.lastsTo (d.openBy w t none) := by
  cases w with
  | slot s => exact d.openIncident_lastsTo s t
  | roll s number => exact (d.releaseIncident_lastsTo s number .internal).trans (Dev.openIncident_lastsTo _ s t)
  | refused => exact d.refuseTrigger_lastsTo t

theorem Dev.addWaiter_lastsTo (w : CapWaiter) : d.lastsTo (d.addWaiter w) := Dev.lastsTo_of_same rfl rfl rfl

theorem Dev.countSecondary_lastsTo (number n : Nat) (t : TriggerRecord) : d.lastsTo (d.countSecondary number n t) := by
  have queues : d.lastsTo (d.queueEntry (.triggerAdd number t.cause t.tick)) := Dev.lastsTo_of_same rfl rfl rfl
  unfold Dev.countSecondary
  split
  · split
    · exact queues.trans (Dev.modIncident_lastsTo _ _ _)
    · exact d.addWaiter_lastsTo _
  · exact d.modIncident_lastsTo _ _

theorem Dev.takeTrigger_lastsTo (t : TriggerRecord) : d.lastsTo (d.takeTrigger t none) := by
  have setsIct (g : Ict → Ict) : d.lastsTo (d.setIct g) := Dev.lastsTo_of_same rfl rfl rfl
  unfold Dev.takeTrigger
  split
  · exact d.refuseTrigger_lastsTo t
  split
  next r _ _ =>
    unfold Dev.secondaryTrigger
    rw [Dev.secondaryOf_eq]
    exact (d.triggerEvent_lastsTo ..).trans (Dev.countSecondary_lastsTo _ _ _ t)
  · exact setsIct _
  · dsimp only
    split
    · exact d.openBy_lastsTo _ t
    · exact (setsIct _).trans (Dev.addWaiter_lastsTo _ _)

theorem Dev.emptyLatches_lastsTo : ∀ (n : Nat) (d : Dev), d.lastsTo (Dev.emptyLatches n d)
  | 0, d => d.lastsTo_rfl
  | n + 1, d => by
    unfold Dev.emptyLatches
    split
    next i t _ =>
      have cleared : d.lastsTo (d.unlatched i) := Dev.lastsTo_of_same rfl rfl rfl
      exact cleared.trans ((Dev.takeTrigger_lastsTo _ t).trans (Dev.emptyLatches_lastsTo n _))
    · exact d.lastsTo_rfl

/-! ### The warning -/

theorem Dev.warned_lastsTo : d.lastsTo d.warned := by
  have start : d.lastsTo d.warnStart := Dev.lastsTo_of_keeps d.warnStart_keeps (by decide) (by decide)
  have cut : d.warnStart.lastsTo d.warnCut := Dev.endAll_lastsTo ..
  have read : d.warnCut.lastsTo d.warnRead :=
    Dev.lastsTo_of_keeps (Dev.withdrawReads_keeps allPorts d.warnCut).1 (by decide) (by decide)
  exact start.trans (cut.trans (read.trans ((Dev.markedEvent_lastsTo ..).trans (Dev.raise_lastsTo _ (by decide) _))))

theorem Dev.enterHoldup_lastsTo : d.lastsTo d.enterHoldup := by
  have taken : d.warned.lastsTo d.warnTaken := by
    unfold Dev.warnTaken
    split
    · exact Dev.takeTrigger_lastsTo _ _
    · exact Dev.lastsTo_rfl _
  have tested : d.warnTaken.lastsTo d.warnTested := by
    unfold Dev.warnTested Dev.reserveTest
    split
    · exact Dev.beginClosing_lastsTo _ _
    · exact Dev.lastsTo_rfl _
  exact d.warned_lastsTo.trans (taken.trans (tested.trans
    (Dev.lastsTo_of_keeps d.enterHoldup_keeps (by decide) (by decide))))

/-! ### The pool and the spare -/

theorem Dev.eraseSpare_lastsTo : d.lastsTo d.eraseSpare := Dev.lastsTo_of_same (by simp) (by simp) (by simp)

theorem Dev.startReclaim_lastsTo : d.lastsTo d.startReclaim := by
  have accepts (e : Dev) (x : JEntry) : e.lastsTo (e.maintEntry x) := by
    unfold Dev.maintEntry
    split
    · unfold Dev.acceptMaint
      dsimp only
      split <;> exact Dev.lastsTo_of_same rfl rfl rfl
    · exact Dev.lastsTo_of_same rfl rfl rfl
  unfold Dev.startReclaim
  split
  · exact Dev.lastsTo_of_same rfl rfl rfl
  · split
    next z _ =>
      have asks (g : Plm → Plm) : d.lastsTo (d.setPlm g) := Dev.lastsTo_of_same rfl rfl rfl
      exact (asks _).trans (accepts _ _)
    · exact d.lastsTo_rfl

end

end Sys2Proof.Machine
end


section
/-! PROOFS. O56: the pin sets through recovery (R120, R124, R155). -/

namespace Sys2Proof.Machine

/-! ### Without deferred pins the history's tests leave the pin sets -/

/-- Without deferred pins every pin set stands. -/
structure Hiu.pinsStand (a b : Hiu) : Prop where
  stand : a.deferred = [] → b.deferred = [] ∧ ∀ k : RingIdx, (b.ring[k]).pins = (a.ring[k]).pins

theorem Hiu.pinsStand_of_same {a b : Hiu} (pins : ∀ k : RingIdx, (b.ring[k]).pins = (a.ring[k]).pins)
    (deferred : b.deferred = a.deferred) : a.pinsStand b := ⟨fun empty => ⟨deferred.trans empty, pins⟩⟩

theorem Hiu.pinsStand_rfl (h : Hiu) : h.pinsStand h := Hiu.pinsStand_of_same (fun _ => rfl) rfl

theorem Hiu.pinsStand.trans {a b c : Hiu} (h : a.pinsStand b) (g : b.pinsStand c) : a.pinsStand c := ⟨fun empty =>
  have ⟨still, first⟩ := h.stand empty
  have ⟨last, rest⟩ := g.stand still
  ⟨last, fun k => (rest k).trans (first k)⟩⟩

theorem Hiu.sameRing.pinsStand {a b : Hiu} (h : a.sameRing b) : a.pinsStand b :=
  Hiu.pinsStand_of_same (fun k => by rw [h.ring]) h.deferred

section
variable {d e : Dev}

theorem Dev.prepare_pinsStand (d : Dev) (k : RingIdx) : d.hiu.pinsStand (d.prepare k).hiu :=
  Hiu.pinsStand_of_same (fun _ => modify_pins fun _ => rfl) rfl

theorem Dev.prepTest_pinsStand (d : Dev) : d.hiu.pinsStand d.prepTest.hiu := by
  unfold Dev.prepTest
  split
  · exact d.hiu.pinsStand_rfl
  split
  · exact d.prepare_pinsStand _
  split
  · split
    · exact d.prepare_pinsStand _
    · exact d.hiu.pinsStand_rfl
  · exact d.hiu.pinsStand_rfl

theorem Dev.haltTest_pinsStand (d : Dev) : d.hiu.pinsStand d.haltTest.hiu := by
  unfold Dev.haltTest
  dsimp only
  split
  · exact Hiu.pinsStand_of_same (fun _ => rfl) rfl
  · exact d.hiu.pinsStand_rfl

theorem Dev.activate_pinsStand (d : Dev) (k : RingIdx) : d.hiu.pinsStand (d.activate k).hiu := by
  refine ⟨fun empty => ⟨(d.activate_target k).2.2.1, fun j => ?_⟩⟩
  rw [d.activate_ring]
  split
  next same =>
    subst same
    simp [empty]
  · rfl

theorem Dev.ringAdvance_pinsStand (d : Dev) (z : RingIdx) : d.hiu.pinsStand (d.ringAdvance z).hiu := by
  have full : d.hiu.pinsStand (d.zoneFull z).hiu := Hiu.pinsStand_of_same (fun _ => modify_pins fun _ => rfl) rfl
  have next : (d.zoneFull z).hiu.pinsStand ((d.zoneFull z).succeed z).hiu := by
    unfold Dev.succeed
    split
    · split
      · exact Dev.activate_pinsStand _ _
      · exact Hiu.pinsStand_rfl _
    · exact Hiu.pinsStand_rfl _
  exact full.trans (next.trans (Dev.prepTest_pinsStand _))

theorem Dev.pageAdvance_pinsStand (d : Dev) : d.hiu.pinsStand d.pageAdvance.hiu := by
  unfold Dev.pageAdvance
  split
  · exact d.hiu.pinsStand_rfl
  · split
    · exact d.ringAdvance_pinsStand _
    · exact Hiu.pinsStand_of_same (fun _ => rfl) rfl

theorem Dev.moveOnce_pinsStand (h : d.moveOnce = some e) : d.hiu.pinsStand e.hiu := by
  unfold Dev.moveOnce at h
  split at h
  next => cases h
  next x rest _ =>
    split at h
    · split at h
      · cases h
        exact (d.stageHead_sameRing x rest).pinsStand
      · cases h
    next t _ =>
      split at h
      · cases h
      split at h
      · cases h
        exact (d.stageHead_sameRing x rest).pinsStand
      · cases h
        have closed : d.hiu.pinsStand { d.hiu.markTo (d.hiu.lastInPage t.zone) with closed := true } :=
          (Hiu.sameRing_markTo _ _).pinsStand.trans (Hiu.pinsStand_of_same (fun _ => rfl) rfl)
        refine closed.trans ?_
        split
        · exact Dev.pageAdvance_pinsStand (d.setHiu fun h => { h.markTo (h.lastInPage t.zone) with closed := true })
        · exact Hiu.pinsStand_rfl _

theorem Dev.moveLoop_pinsStand (n : Nat) (d : Dev) : d.hiu.pinsStand (d.moveLoop n).hiu := by
  induction n generalizing d with
  | zero => exact d.hiu.pinsStand_rfl
  | succ n ih =>
    unfold Dev.moveLoop
    split
    next moved => exact (Dev.moveOnce_pinsStand moved).trans (ih _)
    · exact d.hiu.pinsStand_rfl

theorem Dev.awaitTest_pinsStand (d : Dev) : d.hiu.pinsStand d.awaitTest.hiu := by
  unfold Dev.awaitTest
  split
  · exact d.hiu.pinsStand_rfl
  split
  · split
    · exact (d.activate_pinsStand _).trans ((Dev.prepTest_pinsStand _).trans (Dev.moveLoop_pinsStand 256 _))
    · exact d.hiu.pinsStand_rfl
  · exact d.hiu.pinsStand_rfl

theorem Dev.event_pinsStand (d : Dev) (code severity : Nat) (body : HBody) :
    d.hiu.pinsStand (d.event code severity body).hiu := by
  unfold Dev.event Dev.offerSeq
  split
  · exact (d.takeEntry_sameRing ..).pinsStand.trans (Dev.moveLoop_pinsStand 256 _)
  · exact Hiu.pinsStand_of_same (fun _ => rfl) rfl

theorem Dev.settle_pinsStand (d : Dev) : d.hiu.pinsStand d.settle.hiu :=
  Hiu.pinsStand_of_same (fun k => by rw [d.settle_ring]) (by simp)

end

/-! ### The write target and the numbers do not count for the pins -/

/-- The history with its write target, its next number and its halted flag. -/
def Hiu.aimed (h : Hiu) (target : Option WritePage) (nextSeq : Nat) (halted : Bool) : Hiu :=
  { h with target, nextSeq, halted }

section
variable (target : Option WritePage) (nextSeq : Nat) (halted : Bool)

theorem Hiu.pinZone_aimed (h : Hiu) (n : Nat) (z : WindowZone) : (h.aimed target nextSeq halted).pinZone n z
    = (h.pinZone n z).map (·.aimed target nextSeq halted) := by
  have count : (h.aimed target nextSeq halted).pinCount = h.pinCount := rfl
  have ring : (h.aimed target nextSeq halted).ring = h.ring := rfl
  have deferred : (h.aimed target nextSeq halted).deferred = h.deferred := rfl
  cases z with
  | ring k =>
    simp only [Hiu.pinZone, count, ring]
    split <;> rfl
  | deferred =>
    simp only [Hiu.pinZone, count, deferred]
    split <;> rfl

theorem Hiu.pinAll_aimed (n : Nat) (zones : List WindowZone) (h : Hiu) (reached : Nat) :
    (Hiu.pinAll n (h.aimed target nextSeq halted) zones reached).1
      = (Hiu.pinAll n h zones reached).1.aimed target nextSeq halted := by
  induction zones generalizing h reached with
  | nil => rfl
  | cons z zones ih =>
    simp only [Hiu.pinAll, Hiu.pinZone_aimed]
    cases h.pinZone n z with
    | none => rfl
    | some h' => exact ih h' _

theorem pinKept_aimed (h : Hiu) (r : Incident) :
    pinKept (h.aimed target nextSeq halted) r = (pinKept h r).aimed target nextSeq halted := Hiu.pinAll_aimed ..

theorem foldl_pinKept_aimed (l : List Incident) (h : Hiu) : l.foldl pinKept (h.aimed target nextSeq halted)
    = (l.foldl pinKept h).aimed target nextSeq halted := by
  induction l generalizing h with
  | nil => rfl
  | cons r l ih =>
    rw [List.foldl_cons, pinKept_aimed, ih]
    rfl

end

theorem foldl_pinKept_same (l : List Incident) (h : Hiu) : l.foldl pinKept h = { h with ring := (l.foldl pinKept h).ring } := by
  induction l generalizing h with
  | nil => rfl
  | cons r l ih =>
    have first : pinKept h r = { h with ring := (pinKept h r).ring } := (pinKept_spec h r).1
    rw [List.foldl_cons]
    refine (ih (pinKept h r)).trans ?_
    generalize (List.foldl pinKept (pinKept h r) l).ring = ring
    rw [first]

end Sys2Proof.Machine
end


section
/-! PROOFS. O56: the entry to NORMAL, part by part (R144, R149, R156). -/

namespace Sys2Proof.Machine

theorem Dev.dropSaves_working (d : Dev) : d.dropSaves.sst.working = d.sst.working := by
  unfold Dev.dropSaves
  generalize d.sst.saves = saves
  have answered (e : Dev) : (saves.foldl (fun d s => d.replyTo s.port .storeFailed 0 .empty) e).sst = e.sst := by
    simp
  rw [answered]
  rfl

theorem Dev.enterStoreFailed_working (d : Dev) (n : Nat) : (d.enterStoreFailed n).sst.working = d.sst.working := by
  unfold Dev.enterStoreFailed
  split
  · rfl
  · dsimp only
    split
    · rw [Dev.dropSaves_working]
      simp [Dev.withdraw]
    · simp

theorem Dev.enterStoreFailed_storeFailed (d : Dev) (n : Nat) : (d.enterStoreFailed n).arc.storeFailed = true := by
  unfold Dev.enterStoreFailed
  split
  next failed => exact failed
  · dsimp only
    split <;> simp [Dev.withdraw]

theorem Dev.enterStoreFailed_keepsAllBut (d : Dev) (n : Nat) :
    d.keepsAllBut [.pif, .arc, .ntu, .sst] (d.enterStoreFailed n) := fun b hb => by
  cases b <;> simp [Part.agrees] at hb ⊢

section
variable (d : Dev)

/-- STORE_FAILED is entered where the journal asks for it (R144). -/
def Dev.failsStore : Option (BitVec 32) → Dev
  | some detail => d.enterStoreFailed detail.toNat
  | none => d

theorem Dev.failsStore_spec (x : Option (BitVec 32)) : (d.failsStore x).sst.working = d.sst.working
    ∧ (x ≠ none → (d.failsStore x).arc.storeFailed = true) ∧ (d.failsStore x).arc.defects = d.arc.defects
    ∧ d.keepsAllBut [.pif, .arc, .ntu, .sst] (d.failsStore x) := by
  cases x with
  | none => exact ⟨rfl, fun some => absurd rfl some, rfl, Dev.keepsAllBut_rfl _ d⟩
  | some detail => exact ⟨d.enterStoreFailed_working _, fun _ => d.enterStoreFailed_storeFailed _,
      by simp [Dev.failsStore], d.enterStoreFailed_keepsAllBut _⟩

/-- NORMAL, with the credits of the settings (R156). -/
def Dev.entersNormal : Dev :=
  (d.setHum fun h => { h with mode := .normal, credits := d.sst.working.credits }).deadlines fun t =>
    { t with recharge := none }

/-- The epoch's entry and those held for the unclosed incidents. -/
def recoveryEntries (epoch : Nat) (held : List Incident) : List JEntry :=
  .epoch epoch :: held.flatMap Incident.closingEntries

/-- Recovery's entries are queued or wait (R156). -/
def Dev.queuesEntries (l : List JEntry) : Dev := l.foldl Dev.recoveryEntry d

/-- The event START (R156). -/
def Dev.recordsStart (interrupted torn : Nat) : Dev := d.event evStart 5 (.start d.drm.epoch interrupted torn)

/-- The end of recovery is told (R156). -/
def Dev.tellsRecovery (interrupted : Nat) : Dev :=
  let e := (d.onlyIf d.rcs.settingsDefaulted fun d => d.event evSettingsDefaulted 4 .plain).raise .recoveryDone interrupted
  e.onlyIf e.rcs.settingsDefaulted fun d => d.raise .settingsDefaulted 0

/-- The shortened streams are told (R162). -/
def Dev.tellsShortened (l : List Nat) : Dev := l.foldl (fun d n => d.raise .integrity n) d

/-- The tests of the pool and of the ring. -/
def Dev.testsStore : Dev := d.poolLowTest.haltTest.showInd.awaitTest.prepTest

/-- A reclaim starts where one can. -/
def Dev.reclaims : Dev := d.onlyIf d.reclaimReady Dev.startReclaim

/-- The erases that recovery asks for, and its two counts. -/
def Dev.asksErases (interrupted torn : Nat) : Dev :=
  let e := (d.onlyIf (d.drm.spare == some .dirty) Dev.eraseSpare).reclaims
  { e with rcs := { e.rcs with interrupted, torn } }

/-- The latched triggers are taken, then a warning that stands (R156). -/
def Dev.takesUp : Dev :=
  let e := (Dev.emptyLatches 5 d).reclaims
  e.onlyIf e.tru.qualified[Line.idx .pwrwarn] Dev.enterHoldup

variable (j : JournalScan) (p : PoolScan) (r : RingScan)

/-- The tables stand, in NORMAL. -/
def Dev.recovered : Dev := (d.handOver j p r).entersNormal.failsStore j.storeFailed

/-- Recovery's entries and its event. -/
def Dev.restarted : Dev :=
  ((d.recovered j p r).queuesEntries (recoveryEntries (d.recovered j p r).drm.epoch (unclosed p.dir))).recordsStart
    (min 255 (unclosed p.dir).length) p.torn

/-- The part in NORMAL, before it takes the latched triggers. -/
def Dev.resumed : Dev :=
  (((d.restarted j p r).tellsRecovery (min 255 (unclosed p.dir).length)).tellsShortened p.shortened).testsStore.asksErases
    (min 255 (unclosed p.dir).length) p.torn

theorem Dev.enterNormal_eq : d.enterNormal j p r = (d.resumed j p r).takesUp := by
  unfold Dev.enterNormal Dev.takesUp Dev.resumed Dev.asksErases Dev.reclaims Dev.testsStore Dev.tellsShortened
    Dev.tellsRecovery Dev.restarted Dev.recordsStart Dev.queuesEntries recoveryEntries Dev.recovered Dev.entersNormal Dev.failsStore
  cases j.storeFailed <;> with_reducible rfl

end

end Sys2Proof.Machine
end


section
/-! PROOFS. O56: what recovery's steps behind its entries leave (R156). -/

namespace Sys2Proof.Machine

/-- Behind its entries recovery adds to the history, the notices and the queue, and asks for erases. -/
structure Dev.recoversTo (d e : Dev) : Prop where
  keeps : d.keepsAllBut [.plm, .arc, .drm, .hiu, .tmb, .ntu, .rcs] e
  pos : e.rcs.pos = d.rcs.pos
  defects : e.arc.defects = d.arc.defects
  storeFailed : e.arc.storeFailed = d.arc.storeFailed
  head : e.drm.head = d.drm.head
  dir : e.drm.dir = d.drm.dir
  nextIncident : e.drm.nextIncident = d.drm.nextIncident
  queue : d.drm.queue <+: e.drm.queue
  waiters : e.drm.captureWaiters = d.drm.captureWaiters
  pages : e.plm.pages = d.plm.pages ∧ e.plm.fillZone = d.plm.fillZone ∧ e.plm.cursor = d.plm.cursor
  pins : d.hiu.pinsStand e.hiu
  flows : d.flowsTo e

section
variable {d e f : Dev}

theorem Dev.recoversTo.trans (h : d.recoversTo e) (g : e.recoversTo f) : d.recoversTo f where
  keeps := h.keeps.trans g.keeps
  pos := g.pos.trans h.pos
  defects := g.defects.trans h.defects
  storeFailed := g.storeFailed.trans h.storeFailed
  head := g.head.trans h.head
  dir := g.dir.trans h.dir
  nextIncident := g.nextIncident.trans h.nextIncident
  queue := h.queue.trans g.queue
  waiters := g.waiters.trans h.waiters
  pages := ⟨g.pages.1.trans h.pages.1, g.pages.2.1.trans h.pages.2.1, g.pages.2.2.trans h.pages.2.2⟩
  pins := h.pins.trans g.pins
  flows := h.flows.trans g.flows

theorem Dev.recoversTo_of_logsTo (h : d.logsTo e) (pins : d.hiu.pinsStand e.hiu) (flows : d.flowsTo e) :
    d.recoversTo e where
  keeps := h.keepsAllBut.mono (by decide)
  pos := by rw [h]
  defects := by rw [h]
  storeFailed := by rw [h]
  head := by rw [h]; rfl
  dir := by rw [h]
  nextIncident := by rw [h]
  queue := by rw [h]
  waiters := by rw [h]
  pages := by rw [h]; exact ⟨rfl, rfl, rfl⟩
  pins := pins
  flows := flows

/-- What leaves the history and the directory. -/
theorem Dev.recoversTo_of_keeps (h : d.keepsAllBut [.arc, .ntu, .rcs] e) (pos : e.rcs.pos = d.rcs.pos)
    (defects : e.arc.defects = d.arc.defects) (storeFailed : e.arc.storeFailed = d.arc.storeFailed)
    (flows : d.flowsTo e) : d.recoversTo e := by
  have drm : e.drm = d.drm := h .drm (by decide)
  have plm : e.plm = d.plm := h .plm (by decide)
  have hiu : e.hiu = d.hiu := h .hiu (by decide)
  exact ⟨h.mono (by decide), pos, defects, storeFailed, by rw [drm], by rw [drm], by rw [drm], by rw [drm],
    by rw [drm], by rw [plm]; exact ⟨rfl, rfl, rfl⟩, hiu ▸ d.hiu.pinsStand_rfl, flows⟩

theorem Dev.recoversTo_rfl (d : Dev) : d.recoversTo d :=
  Dev.recoversTo_of_keeps (Dev.keepsAllBut_rfl _ d) rfl rfl rfl d.flowsTo_rfl

theorem Dev.onlyIf_recoversTo (d : Dev) (b : Bool) {f : Dev → Dev} (h : d.recoversTo (f d)) : d.recoversTo (d.onlyIf b f) := by
  cases b
  · exact d.recoversTo_rfl
  · exact h

end

section
variable (d : Dev)

theorem Dev.raise_recoversTo (c : NoticeCause) (n : Nat) : d.recoversTo (d.raise c n) :=
  Dev.recoversTo_of_logsTo (d.raise_logsTo c n) d.hiu.pinsStand_rfl (d.raise_flowsTo c n)

theorem Dev.event_recoversTo (code severity : Nat) (body : HBody) : d.recoversTo (d.event code severity body) :=
  Dev.recoversTo_of_logsTo (d.event_logsTo ..) (d.event_pinsStand ..) (d.event_flowsTo ..)

theorem Dev.settle_recoversTo : d.recoversTo d.settle :=
  Dev.recoversTo_of_logsTo d.settle_logsTo d.settle_pinsStand d.settle_flowsTo

theorem Dev.recordsStart_recoversTo (interrupted torn : Nat) : d.recoversTo (d.recordsStart interrupted torn) :=
  d.event_recoversTo ..

theorem Dev.tellsRecovery_recoversTo (interrupted : Nat) : d.recoversTo (d.tellsRecovery interrupted) := by
  have defaulted : d.recoversTo (d.onlyIf d.rcs.settingsDefaulted fun d => d.event evSettingsDefaulted 4 .plain) :=
    d.onlyIf_recoversTo _ (d.event_recoversTo ..)
  unfold Dev.tellsRecovery
  dsimp only
  exact defaulted.trans ((Dev.raise_recoversTo _ .recoveryDone interrupted).trans
    (Dev.onlyIf_recoversTo _ _ (Dev.raise_recoversTo ..)))

theorem Dev.tellsShortened_recoversTo (l : List Nat) (d : Dev) : d.recoversTo (d.tellsShortened l) := by
  induction l generalizing d with
  | nil => exact d.recoversTo_rfl
  | cons n l ih => exact (d.raise_recoversTo .integrity n).trans (ih _)

theorem Dev.testsStore_recoversTo : d.recoversTo d.testsStore := by
  have low (e : Dev) : e.recoversTo e.poolLowTest := by
    unfold Dev.poolLowTest
    split
    · exact e.raise_recoversTo ..
    · exact e.recoversTo_rfl
  have halt (e : Dev) : e.recoversTo e.haltTest :=
    Dev.recoversTo_of_logsTo e.haltTest_logsTo e.haltTest_pinsStand e.haltTest_flowsTo
  have ind (e : Dev) : e.recoversTo e.showInd := Dev.recoversTo_of_keeps
    (fun b hb => by cases b <;> simp [Part.agrees] at hb ⊢) (by simp) (by simp) (by simp) (Dev.showInd_flowsTo e)
  have await (e : Dev) : e.recoversTo e.awaitTest :=
    Dev.recoversTo_of_logsTo e.awaitTest_logsTo e.awaitTest_pinsStand e.awaitTest_flowsTo
  have prep (e : Dev) : e.recoversTo e.prepTest :=
    Dev.recoversTo_of_logsTo e.prepTest_logsTo e.prepTest_pinsStand (Dev.prepTest_flowsTo e)
  exact (low d).trans ((halt _).trans ((ind _).trans ((await _).trans (prep _))))

theorem Dev.startReclaim_recoversTo : d.recoversTo d.startReclaim := by
  have maint (e : Dev) (x : JEntry) : (e.maintEntry x).drm.dir = e.drm.dir
      ∧ (e.maintEntry x).drm.nextIncident = e.drm.nextIncident ∧ e.drm.queue <+: (e.maintEntry x).drm.queue
      ∧ (e.maintEntry x).drm.captureWaiters = e.drm.captureWaiters ∧ (e.maintEntry x).plm.pages = e.plm.pages
      ∧ (e.maintEntry x).plm.fillZone = e.plm.fillZone ∧ (e.maintEntry x).plm.cursor = e.plm.cursor := by
    unfold Dev.maintEntry
    split
    · unfold Dev.acceptMaint
      dsimp only
      split <;> exact ⟨rfl, rfl, List.prefix_append .., rfl, rfl, rfl, rfl⟩
    · exact ⟨rfl, rfl, List.prefix_rfl, rfl, rfl, rfl, rfl⟩
  have rest : d.startReclaim.drm.dir = d.drm.dir ∧ d.startReclaim.drm.nextIncident = d.drm.nextIncident
      ∧ d.drm.queue <+: d.startReclaim.drm.queue ∧ d.startReclaim.drm.captureWaiters = d.drm.captureWaiters
      ∧ d.startReclaim.plm.pages = d.plm.pages ∧ d.startReclaim.plm.fillZone = d.plm.fillZone
      ∧ d.startReclaim.plm.cursor = d.plm.cursor := by
    unfold Dev.startReclaim
    split
    · exact ⟨rfl, rfl, List.prefix_rfl, rfl, rfl, rfl, rfl⟩
    · split
      · exact maint _ _
      · exact ⟨rfl, rfl, List.prefix_rfl, rfl, rfl, rfl, rfl⟩
  obtain ⟨dir, nextIncident, queue, waiters, pages⟩ := rest
  have hiu : d.startReclaim.hiu = d.hiu := d.startReclaim_keepsAllBut .hiu (by decide)
  exact ⟨d.startReclaim_keepsAllBut.mono (by decide), by simp, by simp, by simp, d.startReclaim_lastsTo.head, dir,
    nextIncident, queue, waiters, pages, hiu ▸ d.hiu.pinsStand_rfl, d.startReclaim_flowsTo⟩

theorem Dev.reclaims_recoversTo : d.recoversTo d.reclaims := d.onlyIf_recoversTo _ d.startReclaim_recoversTo

theorem Dev.asksErases_recoversTo (interrupted torn : Nat) : d.recoversTo (d.asksErases interrupted torn) := by
  have spare (e : Dev) : e.recoversTo e.eraseSpare := Dev.recoversTo_of_keeps
    (fun b hb => by cases b <;> simp [Part.agrees] at hb ⊢) (by simp) (by simp) (by simp) e.eraseSpare_flowsTo
  have counts (e : Dev) : e.recoversTo { e with rcs := { e.rcs with interrupted, torn } } := Dev.recoversTo_of_keeps
    (fun b hb => by cases b <;> simp at hb <;> rfl) rfl rfl rfl (e.rcs_flowsTo _)
  exact (d.onlyIf_recoversTo _ (spare d)).trans ((Dev.reclaims_recoversTo _).trans (counts _))

end

/-! ### The entries -/

section
variable (l : List JEntry) (d : Dev)

theorem Dev.queuesEntries_same : d.queuesEntries l = { d with drm := { d.drm with
    queue := (d.queuesEntries l).drm.queue, captureWaiters := (d.queuesEntries l).drm.captureWaiters } } := by
  induction l generalizing d with
  | nil => rfl
  | cons x l ih =>
    have step : d.recoveryEntry x = { d with drm := { d.drm with
        queue := (d.recoveryEntry x).drm.queue, captureWaiters := (d.recoveryEntry x).drm.captureWaiters } } := by
      unfold Dev.recoveryEntry
      split <;> rfl
    refine (ih (d.recoveryEntry x)).trans ?_
    have both : d.queuesEntries (x :: l) = (d.recoveryEntry x).queuesEntries l := rfl
    rw [both]
    generalize ((d.recoveryEntry x).queuesEntries l).drm = m
    rw [step]

theorem Dev.queuesEntries_flowsTo : d.flowsTo (d.queuesEntries l) := Dev.flowsTo_foldl _ Dev.recoveryEntry_flowsTo _ d

/-- Behind a waiter every entry waits. -/
theorem Dev.queuesEntries_waits (waiting : d.drm.captureWaiters ≠ []) :
    (d.queuesEntries l).drm.queue = d.drm.queue
      ∧ (d.queuesEntries l).drm.captureWaiters = d.drm.captureWaiters ++ l.map .recovery := by
  induction l generalizing d with
  | nil => exact ⟨rfl, (List.append_nil _).symm⟩
  | cons x l ih =>
    have room : d.drm.capRoom 1 = false := by simp [Drm.capRoom, waiting]
    have step : d.recoveryEntry x = d.addWaiter (.recovery x) := by simp [Dev.recoveryEntry, room]
    have both : d.queuesEntries (x :: l) = (d.addWaiter (.recovery x)).queuesEntries l := by
      rw [← step]
      rfl
    obtain ⟨queue, waiters⟩ := ih (d.addWaiter (.recovery x)) (List.append_ne_nil_of_right_ne_nil _ (List.cons_ne_nil _ _))
    rw [both, queue, waiters]
    exact ⟨rfl, List.append_assoc ..⟩

/-- Without waiters the entries fill the queue, and the others wait. -/
theorem Dev.queuesEntries_fills (none : d.drm.captureWaiters = []) (fits : d.drm.queue.length ≤ 80) :
    (d.queuesEntries l).drm.queue = d.drm.queue ++ l.take (80 - d.drm.queue.length)
      ∧ (d.queuesEntries l).drm.captureWaiters = (l.drop (80 - d.drm.queue.length)).map .recovery := by
  induction l generalizing d with
  | nil => simp [Dev.queuesEntries, none]
  | cons x l ih =>
    by_cases full : d.drm.queue.length = 80
    · have room : d.drm.capRoom 1 = false := by simp [Drm.capRoom, full, Config.queueDepth]
      have step : d.recoveryEntry x = d.addWaiter (.recovery x) := by simp [Dev.recoveryEntry, room]
      have both : d.queuesEntries (x :: l) = (d.addWaiter (.recovery x)).queuesEntries l := by
        rw [← step]
        rfl
      obtain ⟨queue, waiters⟩ := Dev.queuesEntries_waits l (d.addWaiter (.recovery x))
        (List.append_ne_nil_of_right_ne_nil _ (List.cons_ne_nil _ _))
      rw [both, queue, waiters, full]
      simp [Dev.addWaiter, Dev.setDrm, none]
    · have room : d.drm.capRoom 1 = true := by
        simp only [Drm.capRoom, none, Config.queueDepth, List.isEmpty_nil, Bool.true_and, decide_eq_true_eq]
        omega
      have step : d.recoveryEntry x = d.queueEntry x := by simp [Dev.recoveryEntry, room]
      have both : d.queuesEntries (x :: l) = (d.queueEntry x).queuesEntries l := by
        rw [← step]
        rfl
      have longer : (d.queueEntry x).drm.queue.length = d.drm.queue.length + 1 := by simp [Dev.queueEntry, Dev.setDrm]
      obtain ⟨queue, waiters⟩ := ih (d.queueEntry x) none (by omega)
      obtain ⟨k, hk⟩ : ∃ k, 80 - d.drm.queue.length = k + 1 := ⟨79 - d.drm.queue.length, by omega⟩
      have rest : 80 - (d.queueEntry x).drm.queue.length = k := by omega
      rw [both, queue, waiters, rest, hk, List.take_succ_cons, List.drop_succ_cons]
      exact ⟨List.append_assoc .., rfl⟩

end

end Sys2Proof.Machine
end


section
/-! PROOFS. O56: the part in NORMAL before it takes the latched triggers (R144, R149, R155, R156). -/

namespace Sys2Proof.Machine

section
variable (d : Dev) (j : JournalScan) (p : PoolScan) (r : RingScan)

/-! ### The tables -/

theorem Dev.handOver_keepsAllBut : d.keepsAllBut [.plm, .arc, .drm, .hiu, .rcs] (d.handOver j p r) := fun b hb => by
  cases b <;> simp at hb <;> rfl

theorem Dev.handOver_hiu : (d.handOver j p r).hiu
    = ((descending (d.handOver j p r).drm.records).foldl pinKept { d.hiu with ring := r.ring, newest := r.newest }).aimed
        r.target r.nextSeq (Config.max32 < r.nextSeq) :=
  foldl_pinKept_aimed r.target r.nextSeq (Config.max32 < r.nextSeq) (descending (d.handOver j p r).drm.records)
    { d.hiu with ring := r.ring, newest := r.newest }

theorem Dev.entersNormal_keepsAllBut : d.keepsAllBut [.hum, .tmb] d.entersNormal := fun b hb => by
  cases b <;> simp at hb <;> rfl

theorem Dev.recovered_of : (d.handOver j p r).entersNormal.keepsAllBut [.pif, .arc, .ntu, .sst] (d.recovered j p r) :=
  (Dev.failsStore_spec _ j.storeFailed).2.2.2

theorem Dev.recovered_of_tables :
    (d.handOver j p r).keepsAllBut [.pif, .arc, .hum, .tmb, .ntu, .sst] (d.recovered j p r) :=
  ((d.handOver j p r).entersNormal_keepsAllBut.mono (by decide)).trans ((d.recovered_of j p r).mono (by decide))

theorem Dev.recovered_keepsAllBut :
    d.keepsAllBut [.pif, .plm, .arc, .drm, .hiu, .hum, .tmb, .ntu, .sst, .rcs] (d.recovered j p r) :=
  ((d.handOver_keepsAllBut j p r).mono (by decide)).trans ((d.recovered_of_tables j p r).mono (by decide))

theorem Dev.recovered_working : (d.recovered j p r).sst.working = d.sst.working :=
  (Dev.failsStore_spec _ j.storeFailed).1

theorem Dev.recovered_hum : (d.recovered j p r).hum = ⟨.normal, d.sst.working.credits, d.hum.closing⟩ :=
  d.recovered_of j p r .hum (by decide)

theorem Dev.recovered_tick : (d.recovered j p r).tmb.tick = d.tmb.tick := by
  have tmb : (d.recovered j p r).tmb = (d.handOver j p r).entersNormal.tmb := d.recovered_of j p r .tmb (by decide)
  rw [tmb]
  rfl

theorem Dev.recovered_pos : (d.recovered j p r).rcs.pos = .idle := by
  have rcs : (d.recovered j p r).rcs = (d.handOver j p r).rcs := d.recovered_of_tables j p r .rcs (by decide)
  rw [rcs]
  rfl

theorem Dev.recovered_defects : (d.recovered j p r).arc.defects = j.defects :=
  (Dev.failsStore_spec _ j.storeFailed).2.2.1

theorem Dev.recovered_storeFailed (failed : j.storeFailed ≠ none) : (d.recovered j p r).arc.storeFailed = true :=
  (Dev.failsStore_spec _ j.storeFailed).2.1 failed

theorem Dev.recovered_drm : (d.recovered j p r).drm = (d.handOver j p r).drm := d.recovered_of_tables j p r .drm (by decide)

theorem Dev.recovered_plm : (d.recovered j p r).plm = (d.handOver j p r).plm := d.recovered_of_tables j p r .plm (by decide)

theorem Dev.recovered_hiu : (d.recovered j p r).hiu = (d.handOver j p r).hiu := d.recovered_of_tables j p r .hiu (by decide)

/-! ### The entries -/

/-- The tables stand and the entries are queued or wait. -/
def Dev.requeued : Dev :=
  (d.recovered j p r).queuesEntries (recoveryEntries (d.recovered j p r).drm.epoch (unclosed p.dir))

theorem Dev.requeued_same : d.requeued j p r = { d.recovered j p r with drm := { (d.recovered j p r).drm with
    queue := (d.requeued j p r).drm.queue, captureWaiters := (d.requeued j p r).drm.captureWaiters } } :=
  Dev.queuesEntries_same _ _

theorem Dev.requeued_keepsAllBut : (d.recovered j p r).keepsAllBut [.drm] (d.requeued j p r) := fun b hb => by
  rw [d.requeued_same j p r]
  cases b <;> simp at hb <;> rfl

theorem Dev.requeued_drm : (d.requeued j p r).drm.head = (d.handOver j p r).drm.head
    ∧ (d.requeued j p r).drm.dir = closeAll p.dir
    ∧ (d.requeued j p r).drm.nextIncident = (d.handOver j p r).drm.nextIncident
    ∧ (d.requeued j p r).drm.epoch = (d.handOver j p r).drm.epoch := by
  rw [d.requeued_same j p r, d.recovered_drm]
  exact ⟨rfl, rfl, rfl, rfl⟩

theorem Dev.requeued_fills (queue : d.drm.queue = []) (none : d.drm.captureWaiters = []) :
    (d.requeued j p r).drm.queue = (recoveryEntries (d.handOver j p r).drm.epoch (unclosed p.dir)).take 80
      ∧ (d.requeued j p r).drm.captureWaiters
        = ((recoveryEntries (d.handOver j p r).drm.epoch (unclosed p.dir)).drop 80).map .recovery := by
  have empty : (d.recovered j p r).drm.queue = [] := by
    rw [d.recovered_drm]
    exact queue
  have first : (d.recovered j p r).drm.captureWaiters = [] := by
    rw [d.recovered_drm]
    exact none
  have fills := Dev.queuesEntries_fills (recoveryEntries (d.recovered j p r).drm.epoch (unclosed p.dir)) _ first
    (by simp [empty])
  rw [empty, d.recovered_drm] at fills
  have same : d.requeued j p r
      = (d.recovered j p r).queuesEntries (recoveryEntries (d.handOver j p r).drm.epoch (unclosed p.dir)) := by
    rw [Dev.requeued, d.recovered_drm]
  rw [same]
  exact fills

/-! ### Up to the latched triggers -/

theorem Dev.restarted_eq : d.restarted j p r
    = (d.requeued j p r).recordsStart (min 255 (unclosed p.dir).length) p.torn := rfl

theorem Dev.restarted_recoversTo : (d.requeued j p r).recoversTo (d.restarted j p r) := Dev.recordsStart_recoversTo _ _ _

/-- The end of recovery and the shortened streams are told. -/
def Dev.retold : Dev :=
  ((d.restarted j p r).tellsRecovery (min 255 (unclosed p.dir).length)).tellsShortened p.shortened

theorem Dev.retold_recoversTo : (d.restarted j p r).recoversTo (d.retold j p r) :=
  (Dev.tellsRecovery_recoversTo _ _).trans (Dev.tellsShortened_recoversTo _ _)

theorem Dev.resumed_recoversTo_of_told : (d.retold j p r).recoversTo (d.resumed j p r) :=
  (Dev.testsStore_recoversTo _).trans (Dev.asksErases_recoversTo _ _ _)

theorem Dev.resumed_recoversTo : (d.requeued j p r).recoversTo (d.resumed j p r) :=
  (d.restarted_recoversTo j p r).trans ((d.retold_recoversTo j p r).trans (d.resumed_recoversTo_of_told j p r))

theorem Dev.resumed_keepsAllBut :
    d.keepsAllBut [.pif, .plm, .arc, .drm, .hiu, .hum, .tmb, .ntu, .sst, .rcs] (d.resumed j p r) :=
  (d.recovered_keepsAllBut j p r).trans (((d.requeued_keepsAllBut j p r).mono (by decide)).trans
    ((d.resumed_recoversTo j p r).keeps.mono (by decide)))

theorem Dev.resumed_of_recovered :
    (d.recovered j p r).keepsAllBut [.plm, .arc, .drm, .hiu, .tmb, .ntu, .rcs] (d.resumed j p r) :=
  ((d.requeued_keepsAllBut j p r).mono (by decide)).trans (d.resumed_recoversTo j p r).keeps

theorem Dev.resumed_hum : (d.resumed j p r).hum = ⟨.normal, d.sst.working.credits, d.hum.closing⟩ :=
  (d.resumed_of_recovered j p r .hum (by decide)).trans (d.recovered_hum j p r)

theorem Dev.resumed_working : (d.resumed j p r).sst.working = d.sst.working := by
  have sst : (d.resumed j p r).sst = (d.recovered j p r).sst := d.resumed_of_recovered j p r .sst (by decide)
  rw [sst, d.recovered_working]

theorem Dev.resumed_pos : (d.resumed j p r).rcs.pos = .idle := by
  have rcs : (d.requeued j p r).rcs = (d.recovered j p r).rcs := d.requeued_keepsAllBut j p r .rcs (by decide)
  rw [(d.resumed_recoversTo j p r).pos, rcs, d.recovered_pos]

theorem Dev.resumed_defects : (d.resumed j p r).arc.defects = j.defects := by
  have arc : (d.requeued j p r).arc = (d.recovered j p r).arc := d.requeued_keepsAllBut j p r .arc (by decide)
  rw [(d.resumed_recoversTo j p r).defects, arc, d.recovered_defects]

theorem Dev.resumed_storeFailed (failed : j.storeFailed ≠ none) : (d.resumed j p r).arc.storeFailed = true := by
  have arc : (d.requeued j p r).arc = (d.recovered j p r).arc := d.requeued_keepsAllBut j p r .arc (by decide)
  rw [(d.resumed_recoversTo j p r).storeFailed, arc, d.recovered_storeFailed j p r failed]

theorem Dev.resumed_head : (d.resumed j p r).drm.head = (d.handOver j p r).drm.head :=
  (d.resumed_recoversTo j p r).head.trans (d.requeued_drm j p r).1

theorem Dev.resumed_dir : (d.resumed j p r).drm.dir = closeAll p.dir :=
  (d.resumed_recoversTo j p r).dir.trans (d.requeued_drm j p r).2.1

theorem Dev.resumed_pages : (d.resumed j p r).plm.pages = p.pages ∧ (d.resumed j p r).plm.fillZone = p.fillZone
    ∧ (d.resumed j p r).plm.cursor = p.cursor := by
  have plm : (d.requeued j p r).plm = (d.recovered j p r).plm := d.requeued_keepsAllBut j p r .plm (by decide)
  have pages := (d.resumed_recoversTo j p r).pages
  rw [plm, d.recovered_plm] at pages
  exact pages

/-- Without deferred pins the zones hold the pins of the KEPT incidents (R155). -/
theorem Dev.resumed_pins (empty : d.hiu.deferred = []) (k : RingIdx) : ((d.resumed j p r).hiu.ring[k]).pins
    = (((descending (d.resumed j p r).drm.records).foldl pinKept
        { d.hiu with ring := r.ring, newest := r.newest }).ring[k]).pins := by
  have hiu : (d.requeued j p r).hiu = (d.recovered j p r).hiu := d.requeued_keepsAllBut j p r .hiu (by decide)
  have stands := (d.resumed_recoversTo j p r).pins
  have records : (d.resumed j p r).drm.records = (d.handOver j p r).drm.records := by
    rw [Drm.records, d.resumed_dir]
    rfl
  rw [hiu, d.recovered_hiu, d.handOver_hiu] at stands
  rw [records]
  refine (stands.stand ?_).2 k
  rw [foldl_pinKept_same]
  exact empty

/-! ### What is told -/

theorem Dev.resumed_records (first : d.hiu.intake = []) (left : r.nextSeq ≤ 4294967295) :
    (⟨.start (d.handOver j p r).drm.epoch (min 255 (unclosed p.dir).length) p.torn, 5, .internal, 0x000B, r.nextSeq,
      d.tmb.tick⟩ : HEntry) ∈ (d.resumed j p r).hiu.unflushed := by
  have kept := d.requeued_keepsAllBut j p r
  have hiu : (d.requeued j p r).hiu = (d.recovered j p r).hiu := kept .hiu (by decide)
  have tmb : (d.requeued j p r).tmb = (d.recovered j p r).tmb := kept .tmb (by decide)
  have epoch := (d.requeued_drm j p r).2.2.2
  have seq : (d.requeued j p r).hiu.nextSeq = r.nextSeq := by
    rw [hiu, d.recovered_hiu, d.handOver_hiu]
    rfl
  have intake : (d.requeued j p r).hiu.intake = [] := by
    rw [hiu, d.recovered_hiu, d.handOver_hiu, foldl_pinKept_same]
    exact first
  have halted : (d.requeued j p r).hiu.halted = false := by
    rw [hiu, d.recovered_hiu, d.handOver_hiu]
    exact decide_eq_false (Nat.not_lt.2 left)
  have room : (d.requeued j p r).hiu.canTake = true := by
    simp [Hiu.canTake, seq, intake, halted, left, Config.intakeDepth, Config.max32]
  have taken := (Dev.event_records (d.requeued j p r) evStart 5
    (.start (d.requeued j p r).drm.epoch (min 255 (unclosed p.dir).length) p.torn)).1 room
  rw [seq, tmb, d.recovered_tick, epoch] at taken
  refine ((d.retold_recoversTo j p r).trans (d.resumed_recoversTo_of_told j p r)).flows.entries.subset ?_
  rw [d.restarted_eq, Dev.recordsStart, epoch]
  exact taken

theorem Dev.tellsShortened_noticed (e : Dev) {l : List Nat} {n : Nat} (last : l.getLast? = some n) :
    (e.tellsShortened l).noticed .integrity n := by
  obtain ⟨front, rfl⟩ := List.getLast?_eq_some_iff.1 last
  have split : e.tellsShortened (front ++ [n]) = (e.tellsShortened front).raise .integrity n := List.foldl_append ..
  rw [split]
  exact Dev.raise_noticed _ _ _

theorem Dev.resumed_shortened {n : Nat} (last : p.shortened.getLast? = some n) :
    (d.resumed j p r).noticed .integrity n := by
  have tests (e : Dev) : e.lastsTo e.testsStore := by
    have halt (e : Dev) : e.lastsTo e.haltTest :=
      Dev.lastsTo_of_logsTo e.haltTest_logsTo (Dev.haltTest_noticeStays (by decide) e)
    have await (e : Dev) : e.lastsTo e.awaitTest :=
      Dev.lastsTo_of_logsTo e.awaitTest_logsTo (Dev.awaitTest_stays (by decide) e)
    exact e.poolLowTest_lastsTo.trans ((halt _).trans ((Dev.showInd_lastsTo _).trans ((await _).trans
      (Dev.lastsTo_of_logsTo (Dev.prepTest_logsTo _) (Dev.prepTest_noticeStays _)))))
  have erases (e : Dev) (i t : Nat) : e.lastsTo (e.asksErases i t) := by
    have spare : e.lastsTo (e.onlyIf (e.drm.spare == some .dirty) Dev.eraseSpare) := by
      unfold Dev.onlyIf
      split
      · exact e.eraseSpare_lastsTo
      · exact e.lastsTo_rfl
    have reclaims (e : Dev) : e.lastsTo e.reclaims := by
      unfold Dev.reclaims Dev.onlyIf
      split
      · exact e.startReclaim_lastsTo
      · exact e.lastsTo_rfl
    exact spare.trans ((reclaims _).trans (Dev.lastsTo_of_same rfl rfl rfl))
  exact ((tests _).trans (erases _ _ _)).told.told n (Dev.tellsShortened_noticed _ last)

theorem Dev.resumed_told : (d.resumed j p r).notifies .recoveryDone := by
  refine (d.resumed_recoversTo_of_told j p r).flows.notices.notifies
    ((Dev.tellsShortened_recoversTo _ _).flows.notices.notifies ?_)
  unfold Dev.tellsRecovery
  dsimp only
  exact (Dev.onlyIf_recoversTo _ _ (Dev.raise_recoversTo ..)).flows.notices.notifies (Dev.raise_notifies _ _ _)

end

end Sys2Proof.Machine
end


section
/-! PROOFS. O56: the entry to NORMAL as a whole (R21, R129, R130, R144, R149, R155, R156, R162). -/

namespace Sys2Proof.Machine

/-! ### The latched triggers and a warning that stands -/

theorem Dev.emptyLatches_qualified : ∀ (n : Nat) (d : Dev), (Dev.emptyLatches n d).tru.qualified = d.tru.qualified
  | 0, _ => rfl
  | n + 1, d => by
    unfold Dev.emptyLatches
    split
    next i t _ =>
      have taken : ((d.unlatched i).takeTrigger t none).tru = (d.unlatched i).tru :=
        Dev.takeTrigger_keepsAllBut _ t .tru (by decide)
      refine (Dev.emptyLatches_qualified n _).trans ?_
      rw [taken]
    · rfl

section
variable (d : Dev)

theorem Dev.reclaims_keepsAllBut : d.keepsAllBut [.plm, .arc, .drm] d.reclaims := by
  unfold Dev.reclaims Dev.onlyIf
  split
  · exact d.startReclaim_keepsAllBut
  · exact Dev.keepsAllBut_rfl _ d

theorem Dev.reclaims_lastsTo : d.lastsTo d.reclaims := by
  unfold Dev.reclaims Dev.onlyIf
  split
  · exact d.startReclaim_lastsTo
  · exact d.lastsTo_rfl

/-- The latched triggers are taken (R21). -/
def Dev.caughtUp : Dev := (Dev.emptyLatches 5 d).reclaims

theorem Dev.caughtUp_rests (h : ∀ k : Fin 5, d.tru.latches[k] = none) : d.caughtUp = d.reclaims := by
  rw [Dev.caughtUp, Dev.emptyLatches_none h]

theorem Dev.caughtUp_tru : d.caughtUp.tru = (Dev.emptyLatches 5 d).tru := Dev.reclaims_keepsAllBut _ .tru (by decide)

theorem Dev.caughtUp_same : d.caughtUp.hum = d.hum ∧ d.caughtUp.sst = d.sst ∧ d.caughtUp.rcs = d.rcs
    ∧ d.caughtUp.arc.defects = d.arc.defects ∧ d.caughtUp.arc.storeFailed = d.arc.storeFailed := by
  have keeps := Dev.reclaims_keepsAllBut (Dev.emptyLatches 5 d)
  have reclaims := Dev.reclaims_recoversTo (Dev.emptyLatches 5 d)
  exact ⟨(keeps .hum (by decide)).trans (by simp), (keeps .sst (by decide)).trans (by simp),
    (keeps .rcs (by decide)).trans (by simp), reclaims.defects.trans (by simp), reclaims.storeFailed.trans (by simp)⟩

theorem Dev.caughtUp_flowsTo : d.flowsTo d.caughtUp :=
  (d.emptyLatches_flowsTo 5).trans (Dev.reclaims_recoversTo _).flows

theorem Dev.caughtUp_lastsTo : d.lastsTo d.caughtUp := (d.emptyLatches_lastsTo 5).trans (Dev.reclaims_lastsTo _)

theorem Dev.takesUp_eq : d.takesUp = d.caughtUp.onlyIf d.tru.qualified[Line.idx .pwrwarn] Dev.enterHoldup := by
  have qualified : d.caughtUp.tru.qualified = d.tru.qualified := by
    rw [d.caughtUp_tru, Dev.emptyLatches_qualified]
  have same : d.takesUp = d.caughtUp.onlyIf d.caughtUp.tru.qualified[Line.idx .pwrwarn] Dev.enterHoldup := by
    unfold Dev.takesUp Dev.caughtUp
    with_reducible rfl
  rw [same, qualified]

theorem Dev.takesUp_rests (h : d.tru.qualified[Line.idx .pwrwarn] = false) : d.takesUp = d.caughtUp := by
  rw [d.takesUp_eq, Dev.onlyIf, h, if_neg Bool.false_ne_true]

theorem Dev.takesUp_warned (h : d.tru.qualified[Line.idx .pwrwarn] = true) : d.takesUp = d.caughtUp.enterHoldup := by
  rw [d.takesUp_eq, Dev.onlyIf, h, if_pos rfl]

theorem Dev.takesUp_cases : d.takesUp = d.caughtUp ∨ d.takesUp = d.caughtUp.enterHoldup := by
  cases h : d.tru.qualified[Line.idx .pwrwarn]
  · exact .inl (d.takesUp_rests h)
  · exact .inr (d.takesUp_warned h)

theorem Dev.takesUp_latches (k : Fin 5) : d.takesUp.tru.latches[k] = none := by
  have tru : d.takesUp.tru = (Dev.emptyLatches 5 d).tru := by
    rw [← d.caughtUp_tru]
    rcases d.takesUp_cases with same | same <;> simp [same]
  rw [tru]
  exact Dev.emptyLatches_all d k

theorem Dev.takesUp_same : d.takesUp.rcs = d.rcs ∧ d.takesUp.arc.defects = d.arc.defects
    ∧ d.takesUp.arc.storeFailed = d.arc.storeFailed := by
  obtain ⟨-, -, rcs, defects, failed⟩ := d.caughtUp_same
  rcases d.takesUp_cases with same | same <;> simp [same, rcs, defects, failed]

theorem Dev.takesUp_flowsTo : d.flowsTo d.takesUp := by
  rcases d.takesUp_cases with same | same <;> rw [same]
  · exact d.caughtUp_flowsTo
  · exact d.caughtUp_flowsTo.trans (Dev.enterHoldup_flowsTo _)

theorem Dev.takesUp_lastsTo : d.lastsTo d.takesUp := by
  rcases d.takesUp_cases with same | same <;> rw [same]
  · exact d.caughtUp_lastsTo
  · exact d.caughtUp_lastsTo.trans (Dev.enterHoldup_lastsTo _)

end

/-! ### What the tables hold -/

theorem newEpoch_eq (top : Option Nat) : newEpoch top = min 4294967295 ((top.map (· + 1)).getD 1) := by
  cases top <;> rfl

theorem Drm.holdsRecovery_iff (m : Drm) : m.holdsRecovery = true ↔ m.spare = some .dirty ∧ m.active ≠ none
    ∧ (512 - m.pos < 32 ∨ m.journalOpen = false) ∧ m.generation < 4294967295 := by
  simp only [Drm.holdsRecovery, Drm.compactionDue, Bool.and_eq_true, Bool.or_eq_true, Bool.not_eq_true', beq_iff_eq,
    decide_eq_true_eq, Option.isSome_iff_ne_none, Config.journalSlots, Config.compactionMargin, Config.max32]
  tauto

theorem unclosed_eq (dir : Vector (Option Incident) 32) :
    unclosed dir = (List.finRange 32).filterMap fun i : DirSlot => dir[i].filter (·.state != .kept) := by
  have listed : dir.toList = (List.finRange 32).map fun i : DirSlot => dir[i] := by
    apply List.ext_getElem <;> simp
  rw [unclosed, listed, List.filterMap_map, List.filter_filterMap]
  rfl

theorem closeAll_get (dir : Vector (Option Incident) 32) (i : DirSlot) :
    (closeAll dir)[i] = dir[i].map fun r => if r.state = .kept then r else r.interrupt := by
  simp [closeAll]

theorem closeAll_kept {dir : Vector (Option Incident) 32} {i : DirSlot} {r : Incident}
    (stands : (closeAll dir)[i] = some r) : r.state = .kept := by
  rw [closeAll_get] at stands
  obtain ⟨x, -, rfl⟩ := Option.map_eq_some_iff.1 stands
  split
  next kept => exact kept
  · rfl

/-! ### The entry to NORMAL -/

section
variable (d : Dev) (j : JournalScan) (p : PoolScan) (r : RingScan)

/-- The part after the scan (R156). -/
def Dev.scanned : Dev := (d.enterNormal j p r).settle

theorem Dev.scanned_eq : d.scanned j p r = (d.resumed j p r).takesUp.settle := by
  rw [Dev.scanned, Dev.enterNormal_eq]

theorem Dev.scanned_of_taken :
    (d.resumed j p r).takesUp.keepsAllBut [.arc, .drm, .hiu, .ntu] (d.scanned j p r) := by
  rw [Dev.scanned_eq]
  exact Dev.settle_keepsAllBut _

theorem Dev.scanned_lastsTo : (d.resumed j p r).lastsTo (d.scanned j p r) := by
  rw [Dev.scanned_eq]
  exact (Dev.takesUp_lastsTo _).trans (Dev.settle_lastsTo _)

theorem Dev.scanned_flowsTo : (d.resumed j p r).flowsTo (d.scanned j p r) := by
  rw [Dev.scanned_eq]
  exact (Dev.takesUp_flowsTo _).trans (Dev.settle_flowsTo _)

theorem Dev.resumed_tru : (d.resumed j p r).tru = d.tru := d.resumed_keepsAllBut j p r .tru (by decide)

theorem Dev.scanned_pos : (d.scanned j p r).rcs.pos = .idle := by
  have rcs : (d.scanned j p r).rcs = (d.resumed j p r).takesUp.rcs := d.scanned_of_taken j p r .rcs (by decide)
  rw [rcs, (Dev.takesUp_same _).1, d.resumed_pos]

theorem Dev.scanned_latches (k : Fin 5) : (d.scanned j p r).tru.latches[k] = none := by
  have tru : (d.scanned j p r).tru = (d.resumed j p r).takesUp.tru := d.scanned_of_taken j p r .tru (by decide)
  rw [tru]
  exact Dev.takesUp_latches _ k

theorem Dev.scanned_hum_of_taken : (d.scanned j p r).hum = (d.resumed j p r).takesUp.hum :=
  d.scanned_of_taken j p r .hum (by decide)

theorem Dev.scanned_normal (calm : d.tru.qualified[Line.idx .pwrwarn] = false) :
    (d.scanned j p r).hum = ⟨.normal, d.sst.working.credits, d.hum.closing⟩ := by
  rw [d.scanned_hum_of_taken, Dev.takesUp_rests _ (by rw [d.resumed_tru]; exact calm), (Dev.caughtUp_same _).1,
    d.resumed_hum]

theorem Dev.scanned_warned (warning : d.tru.qualified[Line.idx .pwrwarn] = true) :
    (d.scanned j p r).hum = ⟨if d.sst.working.credits = 0 then .exhausted else .holdup, d.sst.working.credits,
      if d.sst.working.credits ≤ d.sst.working.reserve then some .reserve else none⟩
    ∧ (d.scanned j p r).notifies .powerWarn := by
  have warned := Dev.takesUp_warned (d.resumed j p r) (by rw [d.resumed_tru]; exact warning)
  obtain ⟨hum, sst, -⟩ := Dev.caughtUp_same (d.resumed j p r)
  refine ⟨?_, ?_⟩
  · rw [d.scanned_hum_of_taken, warned, Dev.enterHoldup_hum, hum, sst, d.resumed_hum, d.resumed_working]
  · rw [d.scanned_eq, warned]
    exact ((Dev.enterHoldup_of_warned _).trans (Dev.settle_flowsTo _)).notices.notifies (Dev.warned_told _)

theorem Dev.scanned_head : (d.scanned j p r).drm.head = (d.handOver j p r).drm.head :=
  (d.scanned_lastsTo j p r).head.trans (d.resumed_head j p r)

/-- The tables that stand after the scan. -/
theorem Dev.scanned_tables : (d.scanned j p r).drm.epoch = newEpoch (optMax j.topEpoch (optMax p.topEpoch r.topEpoch))
    ∧ (d.scanned j p r).arc.defects = j.defects ∧ (d.scanned j p r).drm.active = j.active
    ∧ (d.scanned j p r).drm.pos = j.pos ∧ (d.scanned j p r).drm.journalOpen = j.journalOpen
    ∧ (d.scanned j p r).drm.generation = j.generation
    ∧ (j.storeFailed ≠ none → (d.scanned j p r).arc.storeFailed = true)
    ∧ ((d.scanned j p r).drm.recoveryHeld = true ↔ j.spare = some .dirty ∧ j.active ≠ none
        ∧ (512 - j.pos < 32 ∨ j.journalOpen = false) ∧ j.generation < 4294967295) := by
  have head := d.scanned_head j p r
  simp only [Drm.head, Prod.mk.injEq] at head
  obtain ⟨active, pos, isOpen, generation, epoch, held⟩ := head
  obtain ⟨-, defects, failed⟩ := Dev.takesUp_same (d.resumed j p r)
  have settled : (d.scanned j p r).arc.defects = (d.resumed j p r).takesUp.arc.defects
      ∧ (d.scanned j p r).arc.storeFailed = (d.resumed j p r).takesUp.arc.storeFailed := by
    rw [d.scanned_eq]
    simp
  refine ⟨epoch, ?_, active, pos, isOpen, generation, fun asked => ?_, ?_⟩
  · rw [settled.1, defects, d.resumed_defects]
  · rw [settled.2, failed, d.resumed_storeFailed j p r asked]
  · rw [held]
    exact Drm.holdsRecovery_iff _

theorem Dev.scanned_records (first : d.hiu.intake = []) (left : r.nextSeq ≤ 4294967295) :
    (⟨.start (newEpoch (optMax j.topEpoch (optMax p.topEpoch r.topEpoch))) (min 255 (unclosed p.dir).length) p.torn, 5,
      .internal, 0x000B, r.nextSeq, d.tmb.tick⟩ : HEntry) ∈ (d.scanned j p r).hiu.unflushed :=
  (d.scanned_flowsTo j p r).entries.subset (d.resumed_records j p r first left)

theorem Dev.scanned_shortened {n : Nat} (last : p.shortened.getLast? = some n) :
    (d.scanned j p r).noticed .integrity n := (d.scanned_lastsTo j p r).told.told n (d.resumed_shortened j p r last)

theorem Dev.scanned_told : (d.scanned j p r).notifies .recoveryDone :=
  (d.scanned_flowsTo j p r).notices.notifies (d.resumed_told j p r)

/-! ### Without a latched trigger and a warning -/

section
variable {d} (calm : ∀ k : Fin 5, d.tru.latches[k] = none) (dark : d.tru.qualified[Line.idx .pwrwarn] = false)
include calm dark

theorem Dev.scanned_recoversTo : (d.resumed j p r).recoversTo (d.scanned j p r) := by
  rw [d.scanned_eq, Dev.takesUp_rests _ (by rw [d.resumed_tru]; exact dark),
    Dev.caughtUp_rests _ fun k => by rw [d.resumed_tru]; exact calm k]
  exact (Dev.reclaims_recoversTo _).trans (Dev.settle_recoversTo _)

theorem Dev.scanned_keepsAllBut :
    d.keepsAllBut [.pif, .plm, .arc, .drm, .hiu, .hum, .tmb, .ntu, .sst, .rcs] (d.scanned j p r) :=
  (d.resumed_keepsAllBut j p r).trans ((Dev.scanned_recoversTo j p r calm dark).keeps.mono (by decide))

theorem Dev.scanned_dir : (d.scanned j p r).drm.dir = closeAll p.dir :=
  (Dev.scanned_recoversTo j p r calm dark).dir.trans (d.resumed_dir j p r)

theorem Dev.scanned_nextIncident : (d.scanned j p r).drm.nextIncident = newIncident j.headNext (optMax j.topIncident p.topIncident) :=
  (Dev.scanned_recoversTo j p r calm dark).nextIncident.trans
    ((d.resumed_recoversTo j p r).nextIncident.trans (d.requeued_drm j p r).2.2.1)

theorem Dev.scanned_queue (queue : d.drm.queue = []) (none : d.drm.captureWaiters = []) :
    let entries := recoveryEntries (newEpoch (optMax j.topEpoch (optMax p.topEpoch r.topEpoch))) (unclosed p.dir)
    (∃ l, (d.scanned j p r).drm.queue = entries.take 80 ++ l)
      ∧ (d.scanned j p r).drm.captureWaiters = (entries.drop 80).map .recovery := by
  obtain ⟨fills, waits⟩ := d.requeued_fills j p r queue none
  have recovers := (d.resumed_recoversTo j p r).trans (Dev.scanned_recoversTo j p r calm dark)
  obtain ⟨l, rest⟩ := recovers.queue
  exact ⟨⟨l, by rw [← rest, fills]; rfl⟩, recovers.waiters.trans waits⟩

theorem Dev.scanned_pages : (d.scanned j p r).plm.pages = p.pages ∧ (d.scanned j p r).plm.fillZone = p.fillZone
    ∧ (d.scanned j p r).plm.cursor = p.cursor := by
  obtain ⟨pages, fillZone, cursor⟩ := (Dev.scanned_recoversTo j p r calm dark).pages
  obtain ⟨pages', fillZone', cursor'⟩ := d.resumed_pages j p r
  exact ⟨pages.trans pages', fillZone.trans fillZone', cursor.trans cursor'⟩

theorem Dev.scanned_kept {x : Incident} (mem : x ∈ (d.scanned j p r).drm.records) : x.state = .kept := by
  obtain ⟨i, stands⟩ := (Drm.mem_records _ _).1 mem
  rw [Dev.scanned_dir j p r calm dark] at stands
  exact closeAll_kept stands

theorem Dev.scanned_pins (empty : d.hiu.deferred = []) (k : RingIdx) : ((d.scanned j p r).hiu.ring[k]).pins
    = (((descending (d.scanned j p r).drm.records).foldl pinKept
        { d.hiu with ring := r.ring, newest := r.newest }).ring[k]).pins := by
  have recovers := Dev.scanned_recoversTo j p r calm dark
  have records : (d.scanned j p r).drm.records = (d.resumed j p r).drm.records := by
    rw [Drm.records, recovers.dir]
    rfl
  have before : (d.resumed j p r).hiu.deferred = [] := by
    have hiu : (d.requeued j p r).hiu = (d.recovered j p r).hiu := d.requeued_keepsAllBut j p r .hiu (by decide)
    refine ((d.resumed_recoversTo j p r).pins.stand ?_).1
    rw [hiu, d.recovered_hiu, d.handOver_hiu, foldl_pinKept_same]
    exact empty
  rw [records, (recovers.pins.stand before).2 k, d.resumed_pins j p r empty]

end

end

end Sys2Proof.Machine
end


section
/-! PROOFS. O56: recovery's end (R144, R149, R153, R155, R156). -/

namespace Sys2Proof.Machine

section
variable (d : Dev) (j : JournalScan) (p : PoolScan) (r : RingScan)

/-- The epoch of the new power-on period (R149). -/
def recoveredEpoch : Nat := min 4294967295 (((optMax j.topEpoch (optMax p.topEpoch r.topEpoch)).map (· + 1)).getD 1)

/-- The incidents that recovery finds unclosed, in slot order (R153). -/
def openRecords (dir : Vector (Option Incident) 32) : List Incident :=
  (List.finRange 32).filterMap fun i : DirSlot => dir[i].filter (·.state != .kept)

theorem Dev.scanned_epoch : (d.scanned j p r).drm.epoch = recoveredEpoch j p r := by
  rw [(d.scanned_tables j p r).1, newEpoch_eq, recoveredEpoch]

theorem Dev.scanned_start (first : d.hiu.intake = []) (left : r.nextSeq ≤ 4294967295) :
    (⟨.start (recoveredEpoch j p r) (min 255 (openRecords p.dir).length) p.torn, 5, .internal, 0x000B, r.nextSeq,
      d.tmb.tick⟩ : HEntry) ∈ (d.scanned j p r).hiu.unflushed := by
  have records := d.scanned_records j p r first left
  rwa [newEpoch_eq, unclosed_eq] at records

variable {d} (calm : ∀ k : Fin 5, d.tru.latches[k] = none) (dark : d.tru.qualified[Line.idx .pwrwarn] = false)
include calm dark

theorem Dev.scanned_record (i : DirSlot) : (d.scanned j p r).drm.dir[i]
    = (p.dir[i]).map fun r => if r.state = .kept then r else r.interrupt := by
  rw [Dev.scanned_dir j p r calm dark, closeAll_get]

theorem Dev.scanned_entries (queue : d.drm.queue = []) (none : d.drm.captureWaiters = []) :
    (∃ l, (d.scanned j p r).drm.queue = (recoveryEntries (recoveredEpoch j p r) (openRecords p.dir)).take 80 ++ l)
      ∧ (d.scanned j p r).drm.captureWaiters
        = ((recoveryEntries (recoveredEpoch j p r) (openRecords p.dir)).drop 80).map .recovery := by
  have entries := Dev.scanned_queue j p r calm dark queue none
  rwa [newEpoch_eq, unclosed_eq] at entries

end

/-- The last page of the ring is read: recovery ends, and the part is behind it (R156). -/
theorem scan_ends {s : State} {j : Job} (hpower : s.powered = true) (scan : s.dev.arc.op = some ⟨.scanner, j⟩)
    {p : PageAddr} {x : JournalScan} {y : PoolScan} (pos : s.dev.rcs.pos = .ring p) (journal : s.dev.rcs.journal = some x)
    (pool : s.dev.rcs.pool = some y) (h : nextPage (ringToRead x) p = none) :
    exec .recoveryReadDone s = .next { s with dev := s.scanIdle.scanned x y (ringPhase s.flash x.defects) } :=
  scan_ringEnd hpower scan pos journal pool h

end Sys2Proof.Machine
end


section
/-! PROOFS. O56: the scan and what it finds (R144 to R156, R162). -/

namespace Sys2Proof.Machine

/-- Settles O56: the scan's steps by the position (`scan_settings` to `scan_ringEnd`), the part behind it as
`Dev.scanned`, and what each phase finds by the specifications of its searches. -/
theorem theScanGoesOn : Obligations.TheScanGoesOn := by
  refine ⟨fun s j hpower scan => ⟨fun p pos h => scan_settings hpower scan pos h,
      fun pos => scan_settingsAdopted hpower scan pos, fun z p pos h => scan_directory hpower scan pos h,
      fun pos => scan_directoryZone hpower scan pos, fun pos => scan_directoryEnd hpower scan pos,
      fun p x pos journal => scan_header hpower scan pos journal,
      fun p x pos journal => scan_full hpower scan pos journal,
      fun p l x pos journal => scan_decode hpower scan pos journal,
      fun p x y next pos journal pool h => scan_ring hpower scan pos journal pool h,
      fun p x y pos journal pool h => ?_⟩,
    fun m => ⟨fun a n wf => Memory.blank_iff wf a n, settingsFound_eq_some m, topHeaderEpoch_eq_some m⟩,
    fun m => ?_, Replay.apply_spec, fun e storable => ?_, fun r => Replay.effect_spec r, fun m x q => ?_,
    fun l len => ringClass_spec l len, fun m defects => ringPhase_spec m defects, ringPage_spec,
    fun l => ⟨descending_perm l, descending_sorted l⟩, pinKept_spec⟩
  · have step := scan_ends hpower scan pos journal pool h
    generalize ringPhase s.flash x.defects = z at step ⊢
    have tables := (s.scanIdle.scanned_tables x y z).2
    refine ⟨s.scanIdle.scanned x y z, step, rfl, s.scanIdle.scanned_pos x y z, s.scanIdle.scanned_latches x y z, fun dark => ?_,
      fun warning => ?_, ⟨fun first left => s.scanIdle.scanned_start x y z first left,
        fun n last => s.scanIdle.scanned_shortened x y z last, ⟨s.scanIdle.scanned_epoch x y z, tables⟩, fun calm dark =>
        ⟨Dev.scanned_nextIncident (d := s.scanIdle) x y z calm dark, fun i => Dev.scanned_record (d := s.scanIdle) x y z calm dark i,
          fun queue none => Dev.scanned_entries (d := s.scanIdle) x y z calm dark queue none, ?_⟩⟩,
      fun calm dark => ⟨fun r mem => Dev.scanned_kept (d := s.scanIdle) x y z calm dark mem, s.scanIdle.scanned_told x y z, ?_⟩⟩
    · have hum := s.scanIdle.scanned_normal x y z dark
      rw [hum]
      exact ⟨rfl, rfl, rfl⟩
    · obtain ⟨hum, told⟩ := s.scanIdle.scanned_warned x y z warning
      rw [hum]
      exact ⟨rfl, rfl, rfl, told⟩
    · obtain ⟨pages, fillZone, cursor⟩ := Dev.scanned_pages (d := s.scanIdle) x y z calm dark
      exact ⟨pages, fillZone, cursor, fun empty k => Dev.scanned_pins (d := s.scanIdle) x y z calm dark empty k⟩
    · have idle : s.dev.keepsAllBut [.arc] s.scanIdle := fun b hb => by cases b <;> simp at hb <;> rfl
      exact (idle.mono (by decide)).trans (Dev.scanned_keepsAllBut (d := s.scanIdle) x y z calm dark)
  · obtain ⟨both, one, neither⟩ := journalPhase_table m
    refine ⟨fun z g => completeImage_eq_some, both, one, neither, fun z g active image => ?_⟩
    obtain ⟨spare, replays⟩ := journalPhase_replays active image
    rw [replays]
    exact replayZone_spec m z g spare (directoryEpochs m)
  · obtain ⟨incident, epoch⟩ := JEntry.numbers_of_bytes e storable
    rw [incident, epoch]
    cases e <;> exact ⟨rfl, rfl⟩
  · exact ⟨fun z pool bad => poolTable_defective pool bad,
      fun z pool sound left => poolTable_unfinished pool sound left, fun z => mem_reErase,
      fun p read => poolTable_byHeader read, fun z read => poolTable_byPages read,
      fun incidents streams => poolPhase_streams ⟨incidents, streams⟩⟩

end Sys2Proof.Machine
end
